-- ==== Sys2Proof/Word.lean ====
section
/-! DEFINITION. Words of the machine and sparse tables kept as sorted lists. -/
set_option linter.unusedVariables false
namespace Sys2Proof

/-- A 64-bit scalar (spec/04 R63). -/
abbrev Word := BitVec 64
/-- A 512-byte vector (spec/07 R125). -/
abbrev Vec := BitVec 4096
/-- A 128-bit mask (spec/04 R67). -/
abbrev Mask := BitVec 128
/-- A 6-bit register field (spec/02 R33). -/
abbrev Reg := BitVec 6

/-- A sparse table: key and value pairs, keys strictly rising. -/
abbrev Tab (α : Type) := List (Nat × α)

namespace Tab
variable {α : Type}

/-- The entry under a key, if the table lists one. -/
def find? : Tab α → Nat → Option α
  | [], _ => none
  | (j, v) :: t, k => if j = k then some v else find? t k

/-- The entry under a key, or the default. -/
def getD (t : Tab α) (k : Nat) (d : α) : α := (find? t k).getD d

/-- Put an entry under a key, keeping keys rising. -/
def put : Tab α → Nat → α → Tab α
  | [], k, v => [(k, v)]
  | (j, w) :: t, k, v =>
    if k < j then (k, v) :: (j, w) :: t
    else if k = j then (k, v) :: t
    else (j, w) :: put t k v

/-- Remove the entry under a key. -/
def del (t : Tab α) (k : Nat) : Tab α := t.filter (fun e => e.1 ≠ k)

end Tab

/-- `f n`, with `n` computed before `f` is applied: what keeps a long fold from growing inside the kernel. -/
def forced {α : Type} (n : Nat) (f : Nat → α) : α := match n with
  | 0 => f 0
  | k + 1 => f (k + 1)
theorem forced_eq {α : Type} (n : Nat) (f : Nat → α) : forced n f = f n := by cases n <;> rfl
/-- A fold over a list whose accumulator is computed at every item. -/
def foldNat {β : Type} (f : Nat → β → Nat) : List β → Nat → Nat
  | [], a => a
  | x :: l, a => forced (f a x) (foldNat f l)
theorem foldNat_eq {β : Type} (f : Nat → β → Nat) (l : List β) (a : Nat) : foldNat f l a = l.foldl f a := by
  induction l generalizing a with
  | nil => rfl
  | cons x l ih => simp [foldNat, forced_eq, ih]
end Sys2Proof
end

