-- ==== Sys2Proof/Config.lean ====
section
/-! DEFINITION. What an implementation fixes, and the free values: constants with no body, of which nothing can be proved. -/
namespace Sys2Proof.Config

/-- Free value (spec/07 R135, log 20): the result pattern of the one fixed method of vrcp (0), vrsq (1), vexp2 (2) and
vlog2 (3) (which instruction, format code, operand pattern). Meanings use it only where it lies within the stated bound. -/
opaque approx : Nat → Nat → Nat → Nat
/-- Free value (spec/17 R327, log 21): the byte that a sector written under one key reads as under another
(key written, key read, address, stored byte). -/
opaque wrongKeyByte : Nat → Nat → Nat → BitVec 8 → BitVec 8
/-- Free value (spec/09 R181, log 22): the position in the L1 of the line that a fill replaces when the L1 is full. -/
opaque l1Victim : Nat → Nat
/-- Free value (FIPS 204, spec/21 R410, spec/22 R423, log 23): the ML-DSA-65 signature, 3,309 bytes, of a digest
under the module's identity key. -/
opaque sign : BitVec 256 → Nat
/-- Free value (FIPS 204, spec/21 R410, log 23): does a signature verify over a digest under the identity key. -/
opaque verify : BitVec 256 → Nat → Bool
/-- Implementation value (spec/22 R423): boot ROM version, firmware digest and fuse digest in the report. -/
opaque bootRomVersion : BitVec 32
opaque firmwareDigest : Nat → BitVec 256
opaque fuseDigest : BitVec 256
/-- Free value (spec/22 R420, log 36): value and length in bytes of the body of a dump section, or of a whole-context drain
entry, that has no stated layout: the way its contents are arranged (section type, contents). -/
opaque dumpBody : Nat → List Nat → Nat × Nat
/-- Free value (spec/14 R285, spec/20 R391, log 61): the bytes of a part of the save area that the firmware arranges as it
likes (part, context, occasion). -/
opaque saveBody : Nat → Nat → Nat → Nat
/-- Free value (spec/22 R430, log 112): the energy in µJ that a cluster counts over a span of device time (cluster, start,
length in ns). -/
opaque clusterEnergy : Nat → Nat → Nat → Nat

end Sys2Proof.Config
end

