-- ==== Sys2Proof/Syntax.lean ====
section
/-! DEFINITION. Syntax: one constructor per row of the opcode table, slot instructions first by their own
fields, then the indivisible events, whose operands (which sequencer, ring, value) the environment gives in State.args. -/
set_option linter.unusedVariables false
namespace Sys2Proof

/-- Synchronisation scope (spec/02 R36). -/
inductive Scope where
  | core | cluster | die | module | fabric
deriving DecidableEq, Repr
/-- Condition of bc (spec/06 R99); code 7 traps at decode. -/
inductive Cond where
  | eq | ne | lt | ge | gt | le | b0
deriving DecidableEq, Repr
/-- Access paths (spec/10 R189); F is never named by an instruction. -/
inductive Path where
  | s | p | m | x | b | a | f
deriving DecidableEq, Repr
/-- Kind of fence (spec/11 R221). -/
inductive FenceKind where
  | rel | acq | full
deriving DecidableEq, Repr
/-- Level of dsync (spec/19 R365). -/
inductive Level where
  | cluster | die | module | fabric
deriving DecidableEq, Repr
/-- Operation of ulimask (spec/20 R382). -/
inductive UliOp where
  | wr | set | clr
deriving DecidableEq, Repr
/-- Element formats (spec/04 R71), in code order. -/
inductive Fmt where
  | f32 | f16 | bf16 | f64 | f8e4 | f8e5 | i8 | i16 | i32 | i64 | z8 | z16 | z32 | z64 | i4 | i4x
deriving DecidableEq, Repr
/-- Types of a bank atomic (spec/11 R217). -/
inductive BankTy where
  | i32 | i64 | z32 | f32
deriving DecidableEq, Repr
/-- Operation of vred, vscan, vbred (spec/07 R143, spec/11 R220). -/
inductive RedOp where
  | add | min | max
deriving DecidableEq, Repr

/-- One constructor per row of spec/opcode_table.json. Register, immediate and mask fields are the encoded
fields. -/
inductive Instr where
  | scope (l : Scope)
  | imx (cls : BitVec 3) (ext : BitVec 17)
  | nop
  | br (off : BitVec 20)
  | bc (cond : Cond) (a : Reg) (off : BitVec 11)
  | jmp (a : Reg)
  | call (off : BitVec 20)
  | callr (a : Reg)
  | ret
  | loop (c : Reg) (off : BitVec 14)
  | loopi (n off : BitVec 10)
  | lbrk (n : BitVec 3) (off : BitVec 17)
  | lidx (d : Reg) (j : BitVec 3)
  | wait (ld st xf mt cm : BitVec 4)
  | waitt (d a : Reg)
  | mwait (d a : Reg)
  | dsync (lvl : Level)
  | fmt (a : Reg)
  | fmti (imm : BitVec 20)
  | vset (w : BitVec 3) (a : Reg)
  | unhold (m : BitVec 6)
  | phase (imm : BitVec 14)
  | step
  | ctrap (a b : Reg)
  | trap (imm : BitVec 20)
  | uret
  | ulimask (op : UliOp) (bits : BitVec 2)
  | spawn (a : Reg)
  | retire
  | jinit (a b : Reg)
  | halt
  | crd (d : Reg) (n : BitVec 8)
  | cwr (n : BitVec 8) (a : Reg)
  | tbwait (d a b : Reg) (p : Bool)
  | add (d a b : Reg)
  | sub (d a b : Reg)
  | mul (d a b : Reg)
  | mulh (d a b : Reg)
  | mulhz (d a b : Reg)
  | div (d a b : Reg)
  | divz (d a b : Reg)
  | rem (d a b : Reg)
  | remz (d a b : Reg)
  | and (d a b : Reg)
  | or (d a b : Reg)
  | xor (d a b : Reg)
  | andn (d a b : Reg)
  | shl (d a b : Reg)
  | shr (d a b : Reg)
  | sra (d a b : Reg)
  | slt (d a b : Reg)
  | sltz (d a b : Reg)
  | seq (d a b : Reg)
  | min (d a b : Reg)
  | max (d a b : Reg)
  | minz (d a b : Reg)
  | maxz (d a b : Reg)
  | sel (d a b : Reg)
  | clz (d a : Reg)
  | ctz (d a : Reg)
  | popc (d a : Reg)
  | bfx (d a b : Reg) (x : Bool)
  | bfi (d a b : Reg)
  | lea (d a b : Reg) (m : BitVec 2)
  | addi (d a : Reg) (imm : BitVec 8)
  | andi (d a : Reg) (imm : BitVec 8)
  | ori (d a : Reg) (imm : BitVec 8)
  | xori (d a : Reg) (imm : BitVec 8)
  | shli (d a : Reg) (imm : BitVec 8)
  | shri (d a : Reg) (imm : BitVec 8)
  | srai (d a : Reg) (imm : BitVec 8)
  | slti (d a : Reg) (imm : BitVec 8)
  | li (d : Reg) (imm : BitVec 14)
  | lih (d : Reg) (imm : BitVec 14)
  | fadd (d a b : Reg) (dbl : Bool)
  | fsub (d a b : Reg) (dbl : Bool)
  | fmul (d a b : Reg) (dbl : Bool)
  | fma (d a b : Reg) (dbl : Bool)
  | fdiv (d a b : Reg) (dbl : Bool)
  | fsqrt (d a : Reg) (dbl : Bool)
  | fmin (d a b : Reg) (dbl : Bool)
  | fmax (d a b : Reg) (dbl : Bool)
  | fcmp (d a b : Reg) (dbl s : Bool)
  | fcvt (d a : Reg) (dst src : Fmt)
  | tnow (d : Reg)
  | cyc (d : Reg)
  | vadd (d a b : Reg) (m : BitVec 2)
  | vsub (d a b : Reg) (m : BitVec 2)
  | vmul (d a b : Reg) (m : BitVec 2)
  | vfma (d a b : Reg) (m : BitVec 2)
  | vfms (d a b : Reg) (m : BitVec 2)
  | vmin (d a b : Reg) (m : BitVec 2)
  | vmax (d a b : Reg) (m : BitVec 2)
  | vabs (d a : Reg) (m : BitVec 2)
  | vneg (d a : Reg) (m : BitVec 2)
  | vdiv (d a b : Reg) (m : BitVec 2)
  | vsqrt (d a : Reg) (m : BitVec 2)
  | vrcp (d a : Reg) (m : BitVec 2)
  | vrsq (d a : Reg) (m : BitVec 2)
  | vexp2 (d a : Reg) (m : BitVec 2)
  | vlog2 (d a : Reg) (m : BitVec 2)
  | vand (d a b : Reg) (m : BitVec 2)
  | vor (d a b : Reg) (m : BitVec 2)
  | vxor (d a b : Reg) (m : BitVec 2)
  | vshl (d a b : Reg) (m : BitVec 2)
  | vshr (d a b : Reg) (m : BitVec 2)
  | vsra (d a b : Reg) (m : BitVec 2)
  | vceq (k : BitVec 3) (a b : Reg) (m : BitVec 2)
  | vclt (k : BitVec 3) (a b : Reg) (m : BitVec 2)
  | vcle (k : BitVec 3) (a b : Reg) (m : BitVec 2)
  | vsel (d a : Reg) (k : BitVec 3) (m : BitVec 2)
  | vcvt (d a : Reg) (p : BitVec 2) (dst : Fmt) (m : BitVec 2)
  | vpack (d a b : Reg) (z : Bool)
  | vunpk (d a : Reg) (hi : Bool)
  | vdot4 (d a b : Reg) (m : BitVec 2)
  | vred (d a : Reg) (en : Bool) (k : BitVec 3) (op : RedOp) (m : BitVec 2)
  | vscan (d a : Reg) (en : Bool) (k : BitVec 3) (op : RedOp) (m : BitVec 2)
  | vperm (d a b : Reg) (m : BitVec 2)
  | vbcst (d a : Reg) (m : BitVec 2)
  | vslide (d a b : Reg) (m : BitVec 2)
  | vmov (d a : Reg) (kind m : BitVec 2)
  | vctrap (q : Bool) (k : BitVec 3) (a b : Reg) (m : BitVec 2)
  | vcmul (d a b : Reg) (m : BitVec 2)
  | vidx (d a : Reg) (m : BitVec 2)
  | vext (d a b : Reg) (m : BitVec 2)
  | vins (d a b : Reg) (m : BitVec 2)
  | mma (z neg : Bool) (t : BitVec 4) (h : BitVec 3) (a b : Reg)
  | mmaD (z neg : Bool) (t : BitVec 4) (h : BitVec 3) (b : Reg)
  | mzero (t : BitVec 4)
  | mcommit (t : BitVec 4)
  | mshape (h : BitVec 3) (a : Reg) (m : BitVec 2)
  | mstab (t : BitVec 8) (a b : Reg)
  | ld8 (f o : Bool) (d a : Reg) (imm : BitVec 8)
  | ld16 (f o : Bool) (d a : Reg) (imm : BitVec 8)
  | ld32 (f o : Bool) (d a : Reg) (imm : BitVec 8)
  | ld64 (f o : Bool) (d a : Reg) (imm : BitVec 8)
  | ldz8 (f o : Bool) (d a : Reg) (imm : BitVec 8)
  | ldz16 (f o : Bool) (d a : Reg) (imm : BitVec 8)
  | ldz32 (f o : Bool) (d a : Reg) (imm : BitVec 8)
  | st8 (o : Bool) (d a : Reg) (imm : BitVec 8)
  | st16 (o : Bool) (d a : Reg) (imm : BitVec 8)
  | st32 (o : Bool) (d a : Reg) (imm : BitVec 8)
  | st64 (o : Bool) (d a : Reg) (imm : BitVec 8)
  | vld (f o : Bool) (d a : Reg) (imm : BitVec 8)
  | vst (o : Bool) (d a : Reg) (imm : BitVec 8)
  | vgat (f o : Bool) (d a b : Reg) (m : BitVec 2)
  | vsct (o : Bool) (d a b : Reg) (m : BitVec 2)
  | badd (d a b : Reg) (ty : BankTy)
  | bmin (d a b : Reg) (ty : BankTy)
  | bmax (d a b : Reg) (ty : BankTy)
  | band (d a b : Reg) (ty : BankTy)
  | bor (d a b : Reg) (ty : BankTy)
  | bxor (d a b : Reg) (ty : BankTy)
  | bswp (d a b : Reg) (ty : BankTy)
  | bcas (d a b : Reg) (ty : BankTy)
  | vbred (a b : Reg) (op : RedOp)
  | fence (k : FenceKind)
  | xfence (p q : Path)
  | mon (a : Reg)
  | tbarv (a b : Reg)
  | tbexp (a b : Reg)
  | tbinit (a b : Reg)
  | fill (a b : Reg) (p : Bool)
  | pcfg (n : BitVec 3) (a : Reg) (m : BitVec 2)
  | pflush (n : BitVec 3)
  | pseal (d a : Reg)
  | lset (d a b : Reg)
  | agate (a b : Reg) (m : BitVec 2)
  | amap (a b : Reg)
  | ameas (a b : Reg)
  | acoll (a b : Reg)
  | anorm (a : Reg)
  | aswap (b : Reg)
  | send (c a : Reg) (m : BitVec 2)
  | recv (c d : Reg) (m : BitVec 2)
  | recvadd (c d b : Reg) (m : BitVec 2)
  | recvmax (c d b : Reg) (m : BitVec 2)
  | chdecl (c a : Reg)
  | chpoll (c d : Reg)
  | chclose (c : Reg)
  | coldReset
  | functionLevelReset
  | powerUp
  | illegalBundle
  | illegalInstruction
  | trapAtBoundary
  | contextStopped
  | uliEntry
  | strikeRollback
  | twinCompare
  | currentLimitFreezeCycle
  | droopCrossing
  | waitingWake
  | waittWake
  | mwaitTimeout
  | monitorTrigger
  | tbwaitReread
  | dsyncPhaseComplete
  | loadComplete
  | storeApplied
  | bauOperation
  | uncorrectableError
  | patrolScrub
  | calvedRetry
  | pageWalk
  | invalComplete
  | copyHead
  | copyPieceStart
  | copyPieceComplete
  | fillComplete
  | mmaExecute
  | mmaComplete
  | mcommitDrain
  | mzeroExecute
  | mstabApply
  | aeDigestExchange
  | amapRegister
  | aeExchangeChunk
  | aeGateChunk
  | aeCommandComplete
  | portGeneratorCycle
  | portInputArrival
  | pflushComplete
  | cqAgeing
  | cqPop
  | cqWorkTake
  | cqPushAccept
  | cqSpillRefill
  | retireJoinUpdate
  | haltRetire
  | channelVectorArrival
  | channelCreditReturn
  | channelDeclarationNotice
  | channelCloseNotice
  | driftRingReplay
  | flitReceive
  | replayRequest
  | ackTimeout
  | transactionArrival
  | laneFailure
  | linkRetrainComplete
  | rerouteTimeout
  | ptpSync
  | tailDoorbell
  | rbaseWrite
  | rctlWrite
  | rstatClear
  | ringFetch
  | gang
  | task
  | callPacket
  | retPacket
  | joinPacket
  | fencePacket
  | fenceReread
  | wakeAt
  | wakeAtRelease
  | inval
  | ckpt
  | ckptCopy
  | ckptComplete
  | launchGrant
  | prebudExpiry
  | preemptStopped
  | contextSaveComplete
  | preemptedResume
  | launchRelease
  | launchCompletion
  | leaseRenewal
  | leaseExpiry
  | ctxResume
  | ctxKill
  | ctxDump
  | mailboxAttest
  | attestReportDone
  | calvordWrite
  | replicaEntryWrite
  | replicaSeedingDone
  | asidTableWrite
  | msixUnmask
  | registerWrite
  | hostWindowAccess
  | hostRegspaceAccess
  | mctpSetEndpointId
  | mctpGetEndpointId
  | mctpGetVersionSupport
  | mctpGetMessageTypeSupport
  | mctpUnsupportedCommand
  | mgmtAttestationRequest
  | mgmtReportRefresh
  | vinSample
  | pfAssert
  | pfDeassert
  | calveNextDie
  | calvedSeqStop
  | dieRetention
  | uncalve
  | uncalveComplete
  | freezeEnginesStopped
  | freezeDrain
  | moraineWrite
  | moraineSeal
  | peerFreezeNotice
  | peerRejoin
  | thawCommand
  | thawDtimeLock
  | thawContextDecide
  | fabricRejoin
  | chargeMeasure
  | hibRecheck
  | thermalSample
  | powerTokenMarket
  | opPointApply
  | clusterGate
  | clusterUngate
  | descriptorUnitComplete
  | akvinLinkFirmwareReset
  | dtimeHoldover
  | powerLost
deriving DecidableEq, Repr

end Sys2Proof
end

