-- ==== Sys2Proof/WellFormed.lean ====
section
/-! DEFINITION. Which instructions are well formed: no reserved code in a field. -/
set_option linter.unusedVariables false
namespace Sys2Proof

/-- Mask fields of a vmov: the upper bits of a field that names a mask are reserved (spec/07 R128, R148). -/
def vmovOk (d a : Reg) (kind : BitVec 2) : Bool :=
  (!kind.getLsbD 0 || d.toNat < 8) && (!kind.getLsbD 1 || a.toNat < 8)

/-- Field checks of each instruction's own description; everything else is well formed by its types. -/
def Instr.wf : Instr → Bool
  | .lbrk n _ => 1 ≤ n.toNat && n.toNat ≤ 6                        -- spec/06 R102
  | .crd _ n | .cwr n _ => n.toNat ≤ 0x1A || (0x20 ≤ n.toNat && n.toNat ≤ 0x27)   -- spec/04 R74, R75
  | .lidx _ j => j.toNat ≤ 5                                       -- spec/06 R102
  | .spawn a => a.toNat ≤ 60                                       -- spec/13 R265
  | .shli _ _ i | .shri _ _ i | .srai _ _ i => i.toNat < 64        -- spec/06 R119
  | .fmti v => v.toNat % 8 = 0                                     -- spec/06 R108
  | .fcvt _ _ t f => t ≠ .i4x && f ≠ .i4x                          -- spec/06 R124
  | .vcvt _ _ _ t _ => t ≠ .i4x                                    -- spec/07 R139
  | .vmov d a k _ => vmovOk d a k                                  -- spec/07 R128
  | .band _ _ _ t | .bor _ _ _ t | .bxor _ _ _ t | .bswp _ _ _ t | .bcas _ _ _ t => t ≠ .f32   -- spec/11 R217
  | .xfence p q => p ≠ .f && q ≠ .f                                -- spec/11 R222
  | _ => true

end Sys2Proof
end

