-- ==== Sys2Proof/Decode.lean ====
section
/-! DEFINITION. The decoder of one slot (spec/02 R30-R47 and each instruction's own layout), total on any
word and rejecting by name, and the encoder written from the same tables. -/
set_option linter.unusedVariables false
namespace Sys2Proof

/-- Why a slot's word is not an instruction (spec/02 R42, R43). -/
inductive Reject where
  | illegal | reserved
deriving DecidableEq, Repr

/-- Bits [hi:lo] of a word. -/
def bits (w hi lo : Nat) : Nat := w / 2 ^ lo % 2 ^ (hi + 1 - lo)

/-- The slot format of spec/02 R30. -/
def slotStop (w : Nat) : Bool := bits w 31 31 = 1
def slotClass (w : Nat) : Nat := bits w 30 28
def slotHold (w : Nat) : Bool := bits w 27 27 = 1
def slotOp (w : Nat) : Nat := bits w 26 20
def slotOperand (w : Nat) : Nat := bits w 19 0

/-- Fields of the RRR form (spec/02 R33). -/
def fD (o : Nat) : Reg := BitVec.ofNat 6 (bits o 19 14)
def fA (o : Nat) : Reg := BitVec.ofNat 6 (bits o 13 8)
def fB (o : Nat) : Reg := BitVec.ofNat 6 (bits o 7 2)
def fM (o : Nat) : BitVec 2 := BitVec.ofNat 2 (bits o 1 0)

/-- Accept an instruction when its reserved bits are zero (spec/02 R43). -/
def ifZero (x : Nat) (i : Instr) : Except Reject Instr := if x = 0 then .ok i else .error .reserved
/-- Accept when a field holds a defined code. -/
def ifSome (x : Option Instr) : Except Reject Instr := match x with
  | some i => .ok i
  | none => .error .reserved
/-- Accept a well-formed instruction whose reserved bits are zero. -/
def ifWf (x : Nat) (i : Instr) : Except Reject Instr := if x = 0 ∧ i.wf = true then .ok i else .error .reserved

/-- Codes of the sub-fields. -/
def scopeOf : Nat → Option Scope
  | 0 => some .core | 1 => some .cluster | 2 => some .die | 3 => some .module | 4 => some .fabric | _ => none
def scopeCode : Scope → Nat
  | .core => 0 | .cluster => 1 | .die => 2 | .module => 3 | .fabric => 4
def condOf : Nat → Option Cond
  | 0 => some .eq | 1 => some .ne | 2 => some .lt | 3 => some .ge | 4 => some .gt | 5 => some .le | 6 => some .b0
  | _ => none
def condCode : Cond → Nat
  | .eq => 0 | .ne => 1 | .lt => 2 | .ge => 3 | .gt => 4 | .le => 5 | .b0 => 6
def levelOf : Nat → Option Level
  | 0 => some .cluster | 1 => some .die | 2 => some .module | 3 => some .fabric | _ => none
def levelCode : Level → Nat
  | .cluster => 0 | .die => 1 | .module => 2 | .fabric => 3
def pathOf : Nat → Option Path
  | 0 => some .s | 1 => some .p | 2 => some .m | 3 => some .x | 4 => some .b | 5 => some .a | _ => none
def pathCode : Path → Nat
  | .s => 0 | .p => 1 | .m => 2 | .x => 3 | .b => 4 | .a => 5 | .f => 6
def fenceOf : Nat → Option FenceKind
  | 0 => some .rel | 1 => some .acq | 2 => some .full | _ => none
def fenceCode : FenceKind → Nat
  | .rel => 0 | .acq => 1 | .full => 2
def uliOf : Nat → Option UliOp
  | 0 => some .wr | 1 => some .set | 2 => some .clr | _ => none
def uliCode : UliOp → Nat
  | .wr => 0 | .set => 1 | .clr => 2
def redOf : Nat → Option RedOp
  | 0 => some .add | 1 => some .min | 2 => some .max | _ => none
def redCode : RedOp → Nat
  | .add => 0 | .min => 1 | .max => 2
def bankTyOf : Nat → BankTy
  | 0 => .i32 | 1 => .i64 | 2 => .z32 | _ => .f32
def bankTyCode : BankTy → Nat
  | .i32 => 0 | .i64 => 1 | .z32 => 2 | .f32 => 3
/-- Format codes (spec/04 R71). -/
def fmtOf : Nat → Fmt
  | 0 => .f32 | 1 => .f16 | 2 => .bf16 | 3 => .f64 | 4 => .f8e4 | 5 => .f8e5 | 6 => .i8 | 7 => .i16
  | 8 => .i32 | 9 => .i64 | 10 => .z8 | 11 => .z16 | 12 => .z32 | 13 => .z64 | 14 => .i4 | _ => .i4x
def fmtCode : Fmt → Nat
  | .f32 => 0 | .f16 => 1 | .bf16 => 2 | .f64 => 3 | .f8e4 => 4 | .f8e5 => 5 | .i8 => 6 | .i16 => 7
  | .i32 => 8 | .i64 => 9 | .z8 => 10 | .z16 => 11 | .z32 => 12 | .z64 => 13 | .i4 => 14 | .i4x => 15

/-- PFX (spec/02 R36). -/
def decodePfx (op o : Nat) : Except Reject Instr := match op with
  | 0x00 => if bits o 16 0 = 0 then ifSome ((scopeOf (bits o 19 17)).map .scope) else .error .reserved
  | 0x01 => .ok (.imx (BitVec.ofNat 3 (bits o 19 17)) (BitVec.ofNat 17 (bits o 16 0)))
  | _ => .error .illegal

/-- CTL (spec/02 R46; spec/06, 11, 13, 19, 20, 21, 22). -/
def decodeCtl (op o : Nat) : Except Reject Instr := match op with
  | 0x00 => ifZero o .nop
  | 0x01 => .ok (.br (BitVec.ofNat 20 o))
  | 0x02 => ifSome ((condOf (bits o 19 17)).map fun c => .bc c (BitVec.ofNat 6 (bits o 16 11)) (BitVec.ofNat 11 (bits o 10 0)))
  | 0x03 => ifZero (bits o 19 14 + bits o 7 0) (.jmp (fA o))
  | 0x04 => .ok (.call (BitVec.ofNat 20 o))
  | 0x05 => ifZero (bits o 19 14 + bits o 7 0) (.callr (fA o))
  | 0x06 => ifZero o .ret
  | 0x07 => .ok (.loop (fD o) (BitVec.ofNat 14 (bits o 13 0)))
  | 0x08 => .ok (.loopi (BitVec.ofNat 10 (bits o 19 10)) (BitVec.ofNat 10 (bits o 9 0)))
  | 0x09 => ifWf 0 (.lbrk (BitVec.ofNat 3 (bits o 19 17)) (BitVec.ofNat 17 (bits o 16 0)))
  | 0x0A => ifWf (bits o 10 0) (.lidx (fD o) (BitVec.ofNat 3 (bits o 13 11)))
  | 0x0B => .ok (.wait (BitVec.ofNat 4 (bits o 19 16)) (BitVec.ofNat 4 (bits o 15 12)) (BitVec.ofNat 4 (bits o 11 8))
      (BitVec.ofNat 4 (bits o 7 4)) (BitVec.ofNat 4 (bits o 3 0)))
  | 0x0C => ifZero (bits o 7 0) (.waitt (fD o) (fA o))
  | 0x0D => ifZero (bits o 7 0) (.mwait (fD o) (fA o))
  | 0x0E => if bits o 16 0 = 0 then ifSome ((levelOf (bits o 19 17)).map .dsync) else .error .reserved
  | 0x0F => ifZero (bits o 19 14 + bits o 7 0) (.fmt (fA o))
  | 0x10 => ifWf 0 (.fmti (BitVec.ofNat 20 o))
  | 0x11 => ifZero (bits o 10 0) (.vset (BitVec.ofNat 3 (bits o 19 17)) (BitVec.ofNat 6 (bits o 16 11)))
  | 0x12 => ifZero (bits o 13 0) (.unhold (fD o))
  | 0x13 => ifZero (bits o 19 14) (.phase (BitVec.ofNat 14 (bits o 13 0)))
  | 0x14 => ifZero o .step
  | 0x15 => ifZero (bits o 19 14 + bits o 1 0) (.ctrap (fA o) (fB o))
  | 0x16 => .ok (.trap (BitVec.ofNat 20 o))
  | 0x17 => ifZero o .uret
  | 0x18 => if bits o 17 2 = 0 then ifSome ((uliOf (bits o 19 18)).map fun q => .ulimask q (fM o)) else .error .reserved
  | 0x19 => ifWf (bits o 19 14 + bits o 7 0) (.spawn (fA o))
  | 0x1A => ifZero o .retire
  | 0x1B => ifZero (bits o 19 14 + bits o 1 0) (.jinit (fA o) (fB o))
  | 0x1C => ifZero o .halt
  | 0x1D => ifWf (bits o 5 0) (.crd (fD o) (BitVec.ofNat 8 (bits o 13 6)))
  | 0x1E => ifWf (bits o 19 14) (.cwr (BitVec.ofNat 8 (bits o 13 6)) (BitVec.ofNat 6 (bits o 5 0)))
  | 0x1F => ifZero (bits o 1 1) (.tbwait (fD o) (fA o) (fB o) (bits o 0 0 = 1))
  | _ => .error .illegal

/-- SCA (spec/06 R115-R124, spec/19 R369). -/
def decodeSca (op o : Nat) : Except Reject Instr :=
  let d := fD o; let a := fA o; let b := fB o
  let rrr := fun (i : Instr) => ifZero (bits o 1 0) i
  let rr := fun (i : Instr) => ifZero (bits o 7 0) i
  let imm := BitVec.ofNat 8 (bits o 7 0)
  let flt := fun (f : Bool → Instr) => ifZero (bits o 1 1) (f (bits o 0 0 = 1))
  match op with
  | 0x00 => rrr (.add d a b) | 0x01 => rrr (.sub d a b) | 0x02 => rrr (.mul d a b) | 0x03 => rrr (.mulh d a b)
  | 0x04 => rrr (.mulhz d a b) | 0x05 => rrr (.div d a b) | 0x06 => rrr (.divz d a b) | 0x07 => rrr (.rem d a b)
  | 0x08 => rrr (.remz d a b) | 0x09 => rrr (.and d a b) | 0x0A => rrr (.or d a b) | 0x0B => rrr (.xor d a b)
  | 0x0C => rrr (.andn d a b) | 0x0D => rrr (.shl d a b) | 0x0E => rrr (.shr d a b) | 0x0F => rrr (.sra d a b)
  | 0x10 => rrr (.slt d a b) | 0x11 => rrr (.sltz d a b) | 0x12 => rrr (.seq d a b) | 0x13 => rrr (.min d a b)
  | 0x14 => rrr (.max d a b) | 0x15 => rrr (.minz d a b) | 0x16 => rrr (.maxz d a b) | 0x17 => rrr (.sel d a b)
  | 0x18 => rr (.clz d a) | 0x19 => rr (.ctz d a) | 0x1A => rr (.popc d a)
  | 0x1B => ifZero (bits o 0 0) (.bfx d a b (bits o 1 1 = 1))
  | 0x1C => rrr (.bfi d a b)
  | 0x1D => .ok (.lea d a b (fM o))
  | 0x20 => .ok (.addi d a imm) | 0x21 => .ok (.andi d a imm) | 0x22 => .ok (.ori d a imm) | 0x23 => .ok (.xori d a imm)
  | 0x24 => ifWf 0 (.shli d a imm) | 0x25 => ifWf 0 (.shri d a imm) | 0x26 => ifWf 0 (.srai d a imm)
  | 0x27 => .ok (.slti d a imm)
  | 0x28 => .ok (.li d (BitVec.ofNat 14 (bits o 13 0))) | 0x29 => .ok (.lih d (BitVec.ofNat 14 (bits o 13 0)))
  | 0x30 => flt (.fadd d a b) | 0x31 => flt (.fsub d a b) | 0x32 => flt (.fmul d a b) | 0x33 => flt (.fma d a b)
  | 0x34 => flt (.fdiv d a b)
  | 0x35 => ifZero (bits o 7 1) (.fsqrt d a (bits o 0 0 = 1))
  | 0x36 => flt (.fmin d a b) | 0x37 => flt (.fmax d a b)
  | 0x38 => .ok (.fcmp d a b (bits o 1 1 = 1) (bits o 0 0 = 1))
  | 0x39 => ifWf 0 (.fcvt d a (fmtOf (bits o 7 4)) (fmtOf (bits o 3 0)))
  | 0x3A => ifZero (bits o 13 0) (.tnow d) | 0x3B => ifZero (bits o 13 0) (.cyc d)
  | _ => .error .illegal

/-- VEC (spec/07 R131). DESIGN CHOICE: `vred` and `vscan` without a mask accept any kM field, which R143 gives no reserved
mark (log 109). -/
def decodeVec (op o : Nat) : Except Reject Instr :=
  let d := fD o; let a := fA o; let b := fB o; let m := fM o
  let rr := fun (i : Instr) => ifZero (bits o 7 2) i
  let kd := BitVec.ofNat 3 (bits o 16 14)
  let cmp := fun (i : Instr) => ifZero (bits o 19 17) i
  let red := fun (f : Bool → BitVec 3 → RedOp → BitVec 2 → Instr) =>
    ifSome ((redOf (bits o 3 2)).map fun q => f (bits o 7 7 = 1) (BitVec.ofNat 3 (bits o 6 4)) q m)
  match op with
  | 0x00 => .ok (.vadd d a b m) | 0x01 => .ok (.vsub d a b m) | 0x02 => .ok (.vmul d a b m) | 0x03 => .ok (.vfma d a b m)
  | 0x04 => .ok (.vfms d a b m) | 0x05 => .ok (.vmin d a b m) | 0x06 => .ok (.vmax d a b m)
  | 0x07 => rr (.vabs d a m) | 0x08 => rr (.vneg d a m) | 0x09 => .ok (.vdiv d a b m) | 0x0A => rr (.vsqrt d a m)
  | 0x0B => rr (.vrcp d a m) | 0x0C => rr (.vrsq d a m) | 0x0D => rr (.vexp2 d a m) | 0x0E => rr (.vlog2 d a m)
  | 0x0F => .ok (.vand d a b m) | 0x10 => .ok (.vor d a b m) | 0x11 => .ok (.vxor d a b m) | 0x12 => .ok (.vshl d a b m)
  | 0x13 => .ok (.vshr d a b m) | 0x14 => .ok (.vsra d a b m)
  | 0x15 => cmp (.vceq kd a b m) | 0x16 => cmp (.vclt kd a b m) | 0x17 => cmp (.vcle kd a b m)
  | 0x18 => ifZero (bits o 7 5) (.vsel d a (BitVec.ofNat 3 (bits o 4 2)) m)
  | 0x19 => ifWf 0 (.vcvt d a (BitVec.ofNat 2 (bits o 7 6)) (fmtOf (bits o 5 2)) m)
  | 0x1A => ifZero (bits o 1 1) (.vpack d a b (bits o 0 0 = 1))
  | 0x1B => ifZero (bits o 7 1) (.vunpk d a (bits o 0 0 = 1))
  | 0x1C => .ok (.vdot4 d a b m)
  | 0x1D => red (.vred d a) | 0x1E => red (.vscan d a)
  | 0x1F => .ok (.vperm d a b m) | 0x20 => rr (.vbcst d a m) | 0x21 => .ok (.vslide d a b m)
  | 0x22 => ifWf (bits o 7 4) (.vmov d a (BitVec.ofNat 2 (bits o 3 2)) m)
  | 0x23 => ifZero (bits o 19 18) (.vctrap (bits o 17 17 = 1) kd a b m)
  | 0x24 => .ok (.vcmul d a b m) | 0x25 => rr (.vidx d a m) | 0x26 => .ok (.vext d a b m) | 0x27 => .ok (.vins d a b m)
  | _ => .error .illegal

/-- MTX (spec/08 R159-R168). -/
def decodeMtx (op o : Nat) : Except Reject Instr :=
  let t := BitVec.ofNat 4 (bits o 19 16); let h := BitVec.ofNat 3 (bits o 15 13)
  let a := BitVec.ofNat 6 (bits o 12 7); let b := BitVec.ofNat 6 (bits o 6 1)
  match op with
  | 0x00 => ifZero (bits o 0 0) (.mma false false t h a b) | 0x01 => ifZero (bits o 0 0) (.mma false true t h a b)
  | 0x02 => ifZero (bits o 0 0) (.mma true false t h a b) | 0x03 => ifZero (bits o 0 0) (.mma true true t h a b)
  | 0x04 => ifZero (bits o 12 7 + bits o 0 0) (.mmaD false false t h b)
  | 0x05 => ifZero (bits o 12 7 + bits o 0 0) (.mmaD false true t h b)
  | 0x06 => ifZero (bits o 12 7 + bits o 0 0) (.mmaD true false t h b)
  | 0x07 => ifZero (bits o 12 7 + bits o 0 0) (.mmaD true true t h b)
  | 0x08 => ifZero (bits o 15 0) (.mzero t) | 0x09 => ifZero (bits o 15 0) (.mcommit t)
  | 0x0A => ifZero (bits o 8 0) (.mshape (BitVec.ofNat 3 (bits o 19 17)) (BitVec.ofNat 6 (bits o 16 11)) (BitVec.ofNat 2 (bits o 10 9)))
  | 0x0B => .ok (.mstab (BitVec.ofNat 8 (bits o 19 12)) (BitVec.ofNat 6 (bits o 11 6)) (BitVec.ofNat 6 (bits o 5 0)))
  | _ => .error .illegal

/-- MEM (spec/02 R47, spec/11). Bit 6 of the opcode is F, bit 5 is O. -/
def decodeMem (op o : Nat) : Except Reject Instr :=
  let f : Bool := bits op 6 6 = 1; let r : Bool := bits op 5 5 = 1
  let d := fD o; let a := fA o; let b := fB o; let m := fM o
  let imm := BitVec.ofNat 8 (bits o 7 0)
  let store := fun (i : Instr) => if f then .error .illegal else .ok i
  let plain := fun (x : Except Reject Instr) => if f || r then .error .illegal else x
  match bits op 4 0 with
  | 0x00 => .ok (.ld8 f r d a imm) | 0x01 => .ok (.ld16 f r d a imm) | 0x02 => .ok (.ld32 f r d a imm)
  | 0x03 => .ok (.ld64 f r d a imm) | 0x04 => .ok (.ldz8 f r d a imm) | 0x05 => .ok (.ldz16 f r d a imm)
  | 0x06 => .ok (.ldz32 f r d a imm)
  | 0x08 => store (.st8 r d a imm) | 0x09 => store (.st16 r d a imm) | 0x0A => store (.st32 r d a imm)
  | 0x0B => store (.st64 r d a imm)
  | 0x0C => .ok (.vld f r d a imm) | 0x0D => store (.vst r d a imm)
  | 0x0E => .ok (.vgat f r d a b m) | 0x0F => store (.vsct r d a b m)
  | 0x10 => plain (.ok (.badd d a b (bankTyOf (bits o 1 0)))) | 0x11 => plain (.ok (.bmin d a b (bankTyOf (bits o 1 0))))
  | 0x12 => plain (.ok (.bmax d a b (bankTyOf (bits o 1 0)))) | 0x13 => plain (ifWf 0 (.band d a b (bankTyOf (bits o 1 0))))
  | 0x14 => plain (ifWf 0 (.bor d a b (bankTyOf (bits o 1 0)))) | 0x15 => plain (ifWf 0 (.bxor d a b (bankTyOf (bits o 1 0))))
  | 0x16 => plain (ifWf 0 (.bswp d a b (bankTyOf (bits o 1 0)))) | 0x17 => plain (ifWf 0 (.bcas d a b (bankTyOf (bits o 1 0))))
  | 0x18 => plain (if bits o 19 14 = 0 then ifSome ((redOf (bits o 1 0)).map (.vbred a b)) else .error .reserved)
  | 0x19 => plain (if bits o 17 0 = 0 then ifSome ((fenceOf (bits o 19 18)).map .fence) else .error .reserved)
  | 0x1A => plain (if bits o 13 0 = 0 then ifSome ((pathOf (bits o 19 17)).bind fun q => (pathOf (bits o 16 14)).map (.xfence q))
      else .error .reserved)
  | 0x1B => plain (ifZero (bits o 19 14 + bits o 7 0) (.mon a))
  | 0x1C => plain (ifZero (bits o 19 14 + bits o 1 0) (.tbarv a b))
  | 0x1D => plain (ifZero (bits o 19 14 + bits o 1 0) (.tbexp a b))
  | 0x1E => plain (ifZero (bits o 19 14 + bits o 1 0) (.tbinit a b))
  | _ => .error .illegal

/-- XFR (spec/11 R225, spec/12 R239, spec/13 R255, R256, spec/18 R341, R345). -/
def decodeXfr (op o : Nat) : Except Reject Instr :=
  let d := fD o; let a := fA o; let b := fB o
  match op with
  | 0x00 => ifZero (bits o 6 0) (.fill d a (bits o 7 7 = 1))
  | 0x01 => ifZero (bits o 8 0) (.pcfg (BitVec.ofNat 3 (bits o 19 17)) (BitVec.ofNat 6 (bits o 16 11)) (BitVec.ofNat 2 (bits o 10 9)))
  | 0x02 => ifZero (bits o 16 0) (.pflush (BitVec.ofNat 3 (bits o 19 17)))
  | 0x03 => ifZero (bits o 7 0) (.pseal d a)
  | 0x04 => ifZero (bits o 1 0) (.lset d a b)
  | 0x05 => ifZero (bits o 5 0) (.agate d a (BitVec.ofNat 2 (bits o 7 6)))
  | 0x06 => ifZero (bits o 7 0) (.amap d a) | 0x07 => ifZero (bits o 7 0) (.ameas d a) | 0x08 => ifZero (bits o 7 0) (.acoll d a)
  | 0x09 => ifZero (bits o 13 0) (.anorm d)
  | 0x0A => ifZero (bits o 19 14 + bits o 7 0) (.aswap a)
  | _ => .error .illegal

/-- COM (spec/16 R304, spec/18 R351). -/
def decodeCom (op o : Nat) : Except Reject Instr :=
  let c := fD o; let x := fA o; let y := fB o; let m := fM o
  match op with
  | 0x00 => ifZero (bits o 7 2) (.send c x m) | 0x01 => ifZero (bits o 7 2) (.recv c x m)
  | 0x02 => .ok (.recvadd c x y m) | 0x03 => .ok (.recvmax c x y m)
  | 0x04 => ifZero (bits o 7 0) (.chdecl c x) | 0x05 => ifZero (bits o 7 0) (.chpoll c x)
  | 0x06 => ifZero (bits o 13 0) (.chclose c)
  | _ => .error .illegal

/-- The instruction of a slot's word; S and H belong to the bundle (spec/02 R30, R31). -/
def decodeSlot (w : Nat) : Except Reject Instr :=
  let op := slotOp w; let o := slotOperand w
  match slotClass w with
  | 0 => decodePfx op o
  | 1 => decodeCtl op o
  | 2 => decodeSca op o
  | 3 => decodeVec op o
  | 4 => decodeMtx op o
  | 5 => decodeMem op o
  | 6 => decodeXfr op o
  | _ => decodeCom op o

/-- Is a code of spec/02 R46, R47 allocated: R42 is decided by class and opcode alone. -/
def allocated (w : Nat) : Bool := match decodeSlot w with
  | .error .illegal => false
  | _ => true

/-- Reserved bits that depend on an imx extension (spec/06 R97, R108, R119, spec/22 R425). -/
def extReserved (i : Instr) (ext : BitVec 17) : Bool := match i with
  | .fmti _ => ext.toNat % 16 ≠ 0 || ext.toNat / 4096 ≠ 0
  | .shli _ _ _ | .shri _ _ _ | .srai _ _ _ => ext ≠ 0
  | .phase _ => ext.toNat / 4 ≠ 0
  | _ => false

/-- Slots that have an immediate and so accept imx (spec/02 R35). -/
def hasImm : Instr → Bool
  | .br _ | .call _ | .bc _ _ _ | .loop _ _ | .loopi _ _ | .fmti _ | .trap _ | .phase _ => true
  | .addi _ _ _ | .andi _ _ _ | .ori _ _ _ | .xori _ _ _ | .shli _ _ _ | .shri _ _ _ | .srai _ _ _ | .slti _ _ _ => true
  | .li _ _ | .lih _ _ => true
  | .ld8 .. | .ld16 .. | .ld32 .. | .ld64 .. | .ldz8 .. | .ldz16 .. | .ldz32 .. | .st8 .. | .st16 .. | .st32 .. | .st64 ..
  | .vld .. | .vst .. => true
  | _ => false

/-- A word without S and H (spec/02 R30). -/
def word (cls op operand : Nat) : Nat := cls * 2 ^ 28 + op * 2 ^ 20 + operand
/-- Operands of the RRR form. -/
def rrr (d a b : Reg) (m : Nat) : Nat := d.toNat * 2 ^ 14 + a.toNat * 2 ^ 8 + b.toNat * 4 + m
/-- Operands of the RRI form. -/
def rri (d a : Reg) (i : BitVec 8) : Nat := d.toNat * 2 ^ 14 + a.toNat * 2 ^ 8 + i.toNat
/-- A 6-bit field in [13:8] alone. -/
def onlyA (a : Reg) : Nat := a.toNat * 2 ^ 8
/-- Opcode of a MEM slot (spec/02 R47). -/
def memOp (f o : Bool) (base : Nat) : Nat := f.toNat * 64 + o.toNat * 32 + base

/-- The word of an instruction with S = 0 and H = 0; events have no encoding. -/
def encode : Instr → Option Nat
  | .scope l => some (word 0 0x00 (scopeCode l * 2 ^ 17))
  | .imx c e => some (word 0 0x01 (c.toNat * 2 ^ 17 + e.toNat))
  | .nop => some (word 1 0x00 0)
  | .br i => some (word 1 0x01 i.toNat)
  | .bc c a o => some (word 1 0x02 (condCode c * 2 ^ 17 + a.toNat * 2 ^ 11 + o.toNat))
  | .jmp a => some (word 1 0x03 (onlyA a))
  | .call i => some (word 1 0x04 i.toNat)
  | .callr a => some (word 1 0x05 (onlyA a))
  | .ret => some (word 1 0x06 0)
  | .loop c o => some (word 1 0x07 (c.toNat * 2 ^ 14 + o.toNat))
  | .loopi n o => some (word 1 0x08 (n.toNat * 2 ^ 10 + o.toNat))
  | .lbrk n o => some (word 1 0x09 (n.toNat * 2 ^ 17 + o.toNat))
  | .lidx d j => some (word 1 0x0A (d.toNat * 2 ^ 14 + j.toNat * 2 ^ 11))
  | .wait l s x m c => some (word 1 0x0B (l.toNat * 2 ^ 16 + s.toNat * 2 ^ 12 + x.toNat * 2 ^ 8 + m.toNat * 16 + c.toNat))
  | .waitt d a => some (word 1 0x0C (rrr d a 0 0))
  | .mwait d a => some (word 1 0x0D (rrr d a 0 0))
  | .dsync l => some (word 1 0x0E (levelCode l * 2 ^ 17))
  | .fmt a => some (word 1 0x0F (onlyA a))
  | .fmti i => some (word 1 0x10 i.toNat)
  | .vset w a => some (word 1 0x11 (w.toNat * 2 ^ 17 + a.toNat * 2 ^ 11))
  | .unhold m => some (word 1 0x12 (m.toNat * 2 ^ 14))
  | .phase i => some (word 1 0x13 i.toNat)
  | .step => some (word 1 0x14 0)
  | .ctrap a b => some (word 1 0x15 (rrr 0 a b 0))
  | .trap i => some (word 1 0x16 i.toNat)
  | .uret => some (word 1 0x17 0)
  | .ulimask p b => some (word 1 0x18 (uliCode p * 2 ^ 18 + b.toNat))
  | .spawn a => some (word 1 0x19 (onlyA a))
  | .retire => some (word 1 0x1A 0)
  | .jinit a b => some (word 1 0x1B (rrr 0 a b 0))
  | .halt => some (word 1 0x1C 0)
  | .crd d n => some (word 1 0x1D (d.toNat * 2 ^ 14 + n.toNat * 2 ^ 6))
  | .cwr n a => some (word 1 0x1E (n.toNat * 2 ^ 6 + a.toNat))
  | .tbwait d a b p => some (word 1 0x1F (rrr d a b p.toNat))
  | .add d a b => some (word 2 0x00 (rrr d a b 0)) | .sub d a b => some (word 2 0x01 (rrr d a b 0))
  | .mul d a b => some (word 2 0x02 (rrr d a b 0)) | .mulh d a b => some (word 2 0x03 (rrr d a b 0))
  | .mulhz d a b => some (word 2 0x04 (rrr d a b 0)) | .div d a b => some (word 2 0x05 (rrr d a b 0))
  | .divz d a b => some (word 2 0x06 (rrr d a b 0)) | .rem d a b => some (word 2 0x07 (rrr d a b 0))
  | .remz d a b => some (word 2 0x08 (rrr d a b 0)) | .and d a b => some (word 2 0x09 (rrr d a b 0))
  | .or d a b => some (word 2 0x0A (rrr d a b 0)) | .xor d a b => some (word 2 0x0B (rrr d a b 0))
  | .andn d a b => some (word 2 0x0C (rrr d a b 0)) | .shl d a b => some (word 2 0x0D (rrr d a b 0))
  | .shr d a b => some (word 2 0x0E (rrr d a b 0)) | .sra d a b => some (word 2 0x0F (rrr d a b 0))
  | .slt d a b => some (word 2 0x10 (rrr d a b 0)) | .sltz d a b => some (word 2 0x11 (rrr d a b 0))
  | .seq d a b => some (word 2 0x12 (rrr d a b 0)) | .min d a b => some (word 2 0x13 (rrr d a b 0))
  | .max d a b => some (word 2 0x14 (rrr d a b 0)) | .minz d a b => some (word 2 0x15 (rrr d a b 0))
  | .maxz d a b => some (word 2 0x16 (rrr d a b 0)) | .sel d a b => some (word 2 0x17 (rrr d a b 0))
  | .clz d a => some (word 2 0x18 (rrr d a 0 0)) | .ctz d a => some (word 2 0x19 (rrr d a 0 0))
  | .popc d a => some (word 2 0x1A (rrr d a 0 0)) | .bfx d a b x => some (word 2 0x1B (rrr d a b (x.toNat * 2)))
  | .bfi d a b => some (word 2 0x1C (rrr d a b 0)) | .lea d a b m => some (word 2 0x1D (rrr d a b m.toNat))
  | .addi d a i => some (word 2 0x20 (rri d a i)) | .andi d a i => some (word 2 0x21 (rri d a i))
  | .ori d a i => some (word 2 0x22 (rri d a i)) | .xori d a i => some (word 2 0x23 (rri d a i))
  | .shli d a i => some (word 2 0x24 (rri d a i)) | .shri d a i => some (word 2 0x25 (rri d a i))
  | .srai d a i => some (word 2 0x26 (rri d a i)) | .slti d a i => some (word 2 0x27 (rri d a i))
  | .li d i => some (word 2 0x28 (d.toNat * 2 ^ 14 + i.toNat)) | .lih d i => some (word 2 0x29 (d.toNat * 2 ^ 14 + i.toNat))
  | .fadd d a b z => some (word 2 0x30 (rrr d a b z.toNat)) | .fsub d a b z => some (word 2 0x31 (rrr d a b z.toNat))
  | .fmul d a b z => some (word 2 0x32 (rrr d a b z.toNat)) | .fma d a b z => some (word 2 0x33 (rrr d a b z.toNat))
  | .fdiv d a b z => some (word 2 0x34 (rrr d a b z.toNat)) | .fsqrt d a z => some (word 2 0x35 (rrr d a 0 z.toNat))
  | .fmin d a b z => some (word 2 0x36 (rrr d a b z.toNat)) | .fmax d a b z => some (word 2 0x37 (rrr d a b z.toNat))
  | .fcmp d a b z s => some (word 2 0x38 (rrr d a b (z.toNat * 2 + s.toNat)))
  | .fcvt d a t f => some (word 2 0x39 (rrr d a 0 (fmtCode t * 16 + fmtCode f)))
  | .tnow d => some (word 2 0x3A (rrr d 0 0 0)) | .cyc d => some (word 2 0x3B (rrr d 0 0 0))
  | .vadd d a b m => some (word 3 0x00 (rrr d a b m.toNat)) | .vsub d a b m => some (word 3 0x01 (rrr d a b m.toNat))
  | .vmul d a b m => some (word 3 0x02 (rrr d a b m.toNat)) | .vfma d a b m => some (word 3 0x03 (rrr d a b m.toNat))
  | .vfms d a b m => some (word 3 0x04 (rrr d a b m.toNat)) | .vmin d a b m => some (word 3 0x05 (rrr d a b m.toNat))
  | .vmax d a b m => some (word 3 0x06 (rrr d a b m.toNat)) | .vabs d a m => some (word 3 0x07 (rrr d a 0 m.toNat))
  | .vneg d a m => some (word 3 0x08 (rrr d a 0 m.toNat)) | .vdiv d a b m => some (word 3 0x09 (rrr d a b m.toNat))
  | .vsqrt d a m => some (word 3 0x0A (rrr d a 0 m.toNat)) | .vrcp d a m => some (word 3 0x0B (rrr d a 0 m.toNat))
  | .vrsq d a m => some (word 3 0x0C (rrr d a 0 m.toNat)) | .vexp2 d a m => some (word 3 0x0D (rrr d a 0 m.toNat))
  | .vlog2 d a m => some (word 3 0x0E (rrr d a 0 m.toNat)) | .vand d a b m => some (word 3 0x0F (rrr d a b m.toNat))
  | .vor d a b m => some (word 3 0x10 (rrr d a b m.toNat)) | .vxor d a b m => some (word 3 0x11 (rrr d a b m.toNat))
  | .vshl d a b m => some (word 3 0x12 (rrr d a b m.toNat)) | .vshr d a b m => some (word 3 0x13 (rrr d a b m.toNat))
  | .vsra d a b m => some (word 3 0x14 (rrr d a b m.toNat))
  | .vceq k a b m => some (word 3 0x15 (k.toNat * 2 ^ 14 + rrr 0 a b m.toNat))
  | .vclt k a b m => some (word 3 0x16 (k.toNat * 2 ^ 14 + rrr 0 a b m.toNat))
  | .vcle k a b m => some (word 3 0x17 (k.toNat * 2 ^ 14 + rrr 0 a b m.toNat))
  | .vsel d a k m => some (word 3 0x18 (rrr d a 0 (k.toNat * 4 + m.toNat)))
  | .vcvt d a p t m => some (word 3 0x19 (rrr d a 0 (p.toNat * 64 + fmtCode t * 4 + m.toNat)))
  | .vpack d a b z => some (word 3 0x1A (rrr d a b z.toNat)) | .vunpk d a h => some (word 3 0x1B (rrr d a 0 h.toNat))
  | .vdot4 d a b m => some (word 3 0x1C (rrr d a b m.toNat))
  | .vred d a e k p m => some (word 3 0x1D (rrr d a 0 (e.toNat * 128 + k.toNat * 16 + redCode p * 4 + m.toNat)))
  | .vscan d a e k p m => some (word 3 0x1E (rrr d a 0 (e.toNat * 128 + k.toNat * 16 + redCode p * 4 + m.toNat)))
  | .vperm d a b m => some (word 3 0x1F (rrr d a b m.toNat)) | .vbcst d a m => some (word 3 0x20 (rrr d a 0 m.toNat))
  | .vslide d a b m => some (word 3 0x21 (rrr d a b m.toNat)) | .vmov d a k m => some (word 3 0x22 (rrr d a 0 (k.toNat * 4 + m.toNat)))
  | .vctrap q k a b m => some (word 3 0x23 (q.toNat * 2 ^ 17 + k.toNat * 2 ^ 14 + rrr 0 a b m.toNat))
  | .vcmul d a b m => some (word 3 0x24 (rrr d a b m.toNat)) | .vidx d a m => some (word 3 0x25 (rrr d a 0 m.toNat))
  | .vext d a b m => some (word 3 0x26 (rrr d a b m.toNat)) | .vins d a b m => some (word 3 0x27 (rrr d a b m.toNat))
  | .mma z n t h a b => some (word 4 (z.toNat * 2 + n.toNat) (t.toNat * 2 ^ 16 + h.toNat * 2 ^ 13 + a.toNat * 2 ^ 7 + b.toNat * 2))
  | .mmaD z n t h b => some (word 4 (4 + z.toNat * 2 + n.toNat) (t.toNat * 2 ^ 16 + h.toNat * 2 ^ 13 + b.toNat * 2))
  | .mzero t => some (word 4 0x08 (t.toNat * 2 ^ 16)) | .mcommit t => some (word 4 0x09 (t.toNat * 2 ^ 16))
  | .mshape h a m => some (word 4 0x0A (h.toNat * 2 ^ 17 + a.toNat * 2 ^ 11 + m.toNat * 2 ^ 9))
  | .mstab t a b => some (word 4 0x0B (t.toNat * 2 ^ 12 + a.toNat * 2 ^ 6 + b.toNat))
  | .ld8 f o d a i => some (word 5 (memOp f o 0x00) (rri d a i)) | .ld16 f o d a i => some (word 5 (memOp f o 0x01) (rri d a i))
  | .ld32 f o d a i => some (word 5 (memOp f o 0x02) (rri d a i)) | .ld64 f o d a i => some (word 5 (memOp f o 0x03) (rri d a i))
  | .ldz8 f o d a i => some (word 5 (memOp f o 0x04) (rri d a i)) | .ldz16 f o d a i => some (word 5 (memOp f o 0x05) (rri d a i))
  | .ldz32 f o d a i => some (word 5 (memOp f o 0x06) (rri d a i))
  | .st8 o d a i => some (word 5 (memOp false o 0x08) (rri d a i)) | .st16 o d a i => some (word 5 (memOp false o 0x09) (rri d a i))
  | .st32 o d a i => some (word 5 (memOp false o 0x0A) (rri d a i)) | .st64 o d a i => some (word 5 (memOp false o 0x0B) (rri d a i))
  | .vld f o d a i => some (word 5 (memOp f o 0x0C) (rri d a i)) | .vst o d a i => some (word 5 (memOp false o 0x0D) (rri d a i))
  | .vgat f o d a b m => some (word 5 (memOp f o 0x0E) (rrr d a b m.toNat))
  | .vsct o d a b m => some (word 5 (memOp false o 0x0F) (rrr d a b m.toNat))
  | .badd d a b t => some (word 5 0x10 (rrr d a b (bankTyCode t))) | .bmin d a b t => some (word 5 0x11 (rrr d a b (bankTyCode t)))
  | .bmax d a b t => some (word 5 0x12 (rrr d a b (bankTyCode t))) | .band d a b t => some (word 5 0x13 (rrr d a b (bankTyCode t)))
  | .bor d a b t => some (word 5 0x14 (rrr d a b (bankTyCode t))) | .bxor d a b t => some (word 5 0x15 (rrr d a b (bankTyCode t)))
  | .bswp d a b t => some (word 5 0x16 (rrr d a b (bankTyCode t))) | .bcas d a b t => some (word 5 0x17 (rrr d a b (bankTyCode t)))
  | .vbred a b p => some (word 5 0x18 (rrr 0 a b (redCode p))) | .fence k => some (word 5 0x19 (fenceCode k * 2 ^ 18))
  | .xfence p q => some (word 5 0x1A (pathCode p * 2 ^ 17 + pathCode q * 2 ^ 14)) | .mon a => some (word 5 0x1B (onlyA a))
  | .tbarv a b => some (word 5 0x1C (rrr 0 a b 0)) | .tbexp a b => some (word 5 0x1D (rrr 0 a b 0))
  | .tbinit a b => some (word 5 0x1E (rrr 0 a b 0))
  | .fill a b p => some (word 6 0x00 (a.toNat * 2 ^ 14 + b.toNat * 2 ^ 8 + p.toNat * 128))
  | .pcfg n a m => some (word 6 0x01 (n.toNat * 2 ^ 17 + a.toNat * 2 ^ 11 + m.toNat * 2 ^ 9))
  | .pflush n => some (word 6 0x02 (n.toNat * 2 ^ 17)) | .pseal d a => some (word 6 0x03 (rrr d a 0 0))
  | .lset d a b => some (word 6 0x04 (rrr d a b 0)) | .agate a b m => some (word 6 0x05 (rrr a b 0 (m.toNat * 64)))
  | .amap a b => some (word 6 0x06 (rrr a b 0 0)) | .ameas a b => some (word 6 0x07 (rrr a b 0 0))
  | .acoll a b => some (word 6 0x08 (rrr a b 0 0)) | .anorm a => some (word 6 0x09 (rrr a 0 0 0))
  | .aswap b => some (word 6 0x0A (onlyA b))
  | .send c a m => some (word 7 0x00 (rrr c a 0 m.toNat)) | .recv c d m => some (word 7 0x01 (rrr c d 0 m.toNat))
  | .recvadd c d b m => some (word 7 0x02 (rrr c d b m.toNat)) | .recvmax c d b m => some (word 7 0x03 (rrr c d b m.toNat))
  | .chdecl c a => some (word 7 0x04 (rrr c a 0 0)) | .chpoll c d => some (word 7 0x05 (rrr c d 0 0))
  | .chclose c => some (word 7 0x06 (rrr c 0 0 0))
  | _ => none

/-- The instruction read from a row's word: bit 0 of w is bit 0 of the slot (spec/02 R30); a slot has 32 bits. -/
def decodeTableWord (nbits w : Nat) : Option Instr :=
  match decodeSlot (w % 2 ^ 32) with
  | .ok i => some i
  | .error _ => none

end Sys2Proof
end

