-- ==== Sys2Proof/Machine/State.lean ====
section
/-! DEFINITION. The state of one module as plain data, the reasons a step can stop, and the state after reset.
Every field's docstring names the rule that gives it; spec/ files are named by number. -/
set_option linter.unusedVariables false
namespace Sys2Proof.Machine
open Sys2Proof

/-- Bytes by address, addresses rising, no zero byte listed: an unlisted byte reads zero (spec/09 R175, log 2). -/
abbrev Mem := List Host.Cell

/-- Sequencer states (spec/01 R16), in the order of the record's PREV (spec/20 R377). -/
inductive SqState where
  | idle | running | waiting | preempted | faulted | frozen | calved | retired
deriving DecidableEq, Repr

/-- Trap causes 0x01 to 0x14 (spec/20 R376). -/
inductive Cause where
  | illegalBundle | illegalInstr | reservedField | badTarget | viewOut | misaligned | translation | permission
  | dataAbort | sealMismatch | landingOverflow | compareMismatch | softTrap | loopOverflow | channelFault
  | scaleFault | ampMap | queueSpill | retentionLoss | twinMismatch
deriving DecidableEq, Repr

/-- What a trap reports beside place and time (spec/20 R377). -/
structure Trap where
  cause : Cause
  flags : Nat := 0          -- FLAGS bits 1..5; held and precise are set when the record is written
  slot : Nat := 0
  held : Bool := false
  pc : Option Nat := none   -- PC where the cause's rule names a bundle other than the saved PC
  xlat : Nat := 0
  addr : Nat := 0
  aux : Nat := 0
  info : Nat := 0
  code : Bool := false      -- a popped record with a bad CODE (spec/20 R376)
  join : Bool := false      -- the join update of a retire (spec/20 R376)
  stage2 : Bool := false    -- reported to the physical function (spec/17 R326)
  late : Bool := false      -- it stands for an abort at the boundary before its bundle, and is not precise (spec/09 R187)
deriving DecidableEq, Repr

/-- A view register (spec/04 R62). -/
structure View where
  base : Nat := 0
  size : Nat := 0
deriving DecidableEq, Repr

/-- One level of the loop stack (spec/04 R68). -/
structure Loop where
  count : Nat
  stop : Nat      -- END
  start : Nat     -- START
deriving DecidableEq, Repr

/-- A held-slot register (spec/04 R69). -/
structure Held where
  scope : Scope
  ext : Option (BitVec 17)
  word : BitVec 32
deriving DecidableEq, Repr

/-- An entry of the FMT shadow queue (spec/04 R72). -/
structure FmtWrite where
  value : BitVec 32
  count : Nat
deriving DecidableEq, Repr

/-- FMT, its shadow queue and the held-slot registers by class: one bank (spec/04 R60, spec/15 R292). -/
structure Bank where
  fmt : BitVec 32 := 0
  shadow : List FmtWrite := []
  held : Tab Held := []
deriving DecidableEq, Repr

/-- Where an asynchronous result goes. -/
inductive Dest where
  | discard
  | bytes (off len : Nat)         -- window-relative bytes captured at issue
  | parts (l : List (Nat × Nat × Nat)) -- window offset, place in the result, bytes: what a slot of higher class leaves (spec/02 R29)
  | shadow (r : Nat)              -- shadow scalar of a handler
  | port (p entry : Nat)          -- an output port's pushed entry
deriving DecidableEq, Repr

/-- Why a sequencer waits (spec/01 R16). -/
inductive Wait where
  | slot                        -- wait, tbwait or a COM slot: its bundle is tried again
  | tbwait (addr x key : Nat)   -- place, awaited phase and key of its barrier
  | mwait (d : Dest) (until_ : Option Nat)
  | dsync
  | waitt
  | step
deriving DecidableEq, Repr

/-- The interrupted state a user-level handler returns to (spec/04 R60, spec/20 R380). -/
structure Saved where
  pc : Nat
  loops : List Loop
  bank : Bank
  cons : Option Bank
  wait : Option Wait := none
  pendT : Option (Dest × Nat × Bool) := none   -- T of a `waitt` that it waits for, or whose late flag is not yet written
deriving DecidableEq, Repr

/-- One translated part of an access: `at_` is its offset in the access's data (spec/11 R209). -/
structure Seg where
  va : Nat
  pa : Nat
  fab : Bool := false
  len : Nat
  at_ : Nat
  key : Nat := 0
  frame : Nat := 0            -- physical frame of the page
  cache : Bool := false
  atomic : Bool := false
deriving DecidableEq, Repr

/-- Updates of a transaction barrier (spec/19 R362). -/
inductive TbUpdate where
  | init (c : Nat) | expect (n : Nat) | arrive (c : Nat) | countdown (n : Nat)
deriving DecidableEq, Repr

/-- The eight bank atomics (spec/11 R217). -/
inductive BankOp where
  | add | min | max | and | or | xor | swap | cas
deriving DecidableEq, Repr

/-- What an access in flight does when it is performed. -/
inductive AccKind where
  | load (dst : Dest) (width : Nat) (signed : Bool)
  | store
  | bank (op : BankOp) (ty : BankTy) (y cmp : Word) (dst : Dest)
  | vbred (op : RedOp) (fmt : Fmt)
  | tb (u : TbUpdate)
  | jinit (count : Word)
  | fill
  | seal (dst : Dest)
  | last (dst : Dest) (idx : Nat)
  | portOut (p entry : Nat)
  | flush (ids : List Nat)
deriving DecidableEq, Repr

/-- What an access or an order waits for: an access by id, performed at a scope (spec/10 R195). -/
structure Dep where
  id : Nat
  scope : Scope
deriving DecidableEq, Repr

/-- An access in flight (spec/10 R189, R192). -/
structure Access where
  id : Nat
  path : Path
  kind : AccKind
  segs : List Seg
  data : Nat := 0
  fresh : Bool := false
  acq : Bool := false
  rel : Bool := false
  scope : Scope := .core
  after : List Dep := []
  pc : Nat := 0
  slot : Nat := 0
  held : Bool := false
  wide : Bool := false           -- a write after a release or an acquire of its sequencer (spec/10 R198)
  home : Bool := false           -- applied at its home (spec/10 R199), or a load whose value is fixed
  calved : Bool := false         -- answered calved, being retried (spec/11 R212)
  stale : Bool := false          -- to be translated again at its next retry (spec/17 R336)
deriving DecidableEq, Repr

/-- A fence, xfence, release or acquire in force: later accesses on `paths` wait for `after` (spec/10 R196, R202). -/
structure Order where
  paths : List Path
  after : List Dep
  reads : Bool := true           -- do loads wait too (a release orders writes only)
  early : Bool := false          -- loads may be fixed before an acquire, and are read again where it reads a release (spec/10 R195)
  hold : Bool := false           -- bundles that start such an access are not ready meanwhile (spec/11 R221)
deriving DecidableEq, Repr

/-- What the memory keeps of the last write of bytes: the writer's clock, the writer and, of a release, its scope (spec/10
R195, R198). Writer 2048 stands for another module, 2049 for the host and firmware. -/
structure Mark where
  clock : List Nat := [0, 0, 0, 0]
  writer : Nat
  rel : Option Scope := none
deriving DecidableEq, Repr

/-- A write that its home has applied and a die's replica has not (spec/10 R199): it stays where its sequencer's
context is killed (spec/10 R207). -/
structure Update where
  id : Nat                       -- the access
  die : Nat
  pa : Nat                       -- place at the home
  len : Nat
  key : Nat
  data : Nat
  f : Nat                        -- function of the writer
  mark : Mark
  path : Option Path := none     -- path of the write, while its writer's later releases cover it
deriving DecidableEq, Repr

/-- An entry of a port buffer (spec/13 R249). -/
structure PortEntry where
  id : Nat
  vec : Option Vec := none       -- none: an input vector whose reads are outstanding, or a pushed vector still loading
  segs : List Seg := []          -- an output entry's elements, translated as it was pushed (spec/13 R253)
  fault : Option Trap := none    -- the fault its reads met (spec/13 R253)
  after : List Dep := []
  issued : Bool := false         -- an input entry whose reads have issued
  pc : Nat := 0
  slot : Nat := 0
  held : Bool := false
deriving DecidableEq, Repr

/-- A stream-port latch and buffer (spec/13 R249): `popped` and `asked` count vectors of the walk. -/
structure Port where
  v : Bool := false
  desc : BitVec 512 := 0
  moved : Nat := 0
  asked : Nat := 0
  exh : Bool := false
  buf : List PortEntry := []
deriving DecidableEq, Repr

/-- A channel end (spec/16 R300, R307, spec/18 R350). -/
structure Chan where
  entry : BitVec 40 := 0
  cred : Nat := 0
  buf : List Vec := []
  pv : Bool := false
  pm : Bool := false
  owncl : Bool := false
  peercl : Bool := false
  peer : BitVec 40 := 0          -- the peer's entry, from its notice
  gen : Nat := 0                 -- which declaration this is, and which the peer's notice was of (log 69)
  pgen : Nat := 0
deriving DecidableEq, Repr

/-- A declaration notice on its way or kept (spec/16 R302). -/
structure Notice where
  src : Nat
  chan : Nat
  entry : BitVec 40
  launch : Nat                   -- FLID, or the context id
  fabric : Bool
  gen : Nat := 0                 -- the declaration it tells of (log 69)
deriving DecidableEq, Repr

/-- Registration of a state vector (spec/12 R233, R234). -/
structure AeReg where
  desc : BitVec 512
  base : Nat
  share : Nat
deriving DecidableEq, Repr

/-- The AE commands (spec/12 R239). -/
inductive AeOp where
  | gate (m : Nat) | map | meas | coll (o : Nat) | norm | swap
deriving DecidableEq, Repr

/-- An AE command in progress (spec/12 R237, R242). -/
structure AeCmd where
  id : Nat
  op : AeOp
  addr : Nat                     -- matrix, descriptor or result address
  qubits : List Nat
  seg : List Seg
  matrix : Nat := 0
  fmtSnap : BitVec 32 := 0
  started : Bool := false
  exchange : Option (Nat × Nat × Nat) := none   -- gate qubit, L, P
  todo : List Nat := []          -- gate qubits still to be brought in
  done : Nat := 0                -- chunks of the current pass
  sent : Option Nat := none      -- the exchange buffer: the outgoing chunk, until its partner has written it
  posted : Bool := false         -- it is on its way to another module
  acked : Bool := false          -- the partner on another module has written the outgoing chunk
  got : Bool := false            -- the chunk of that partner is written here
  sum0 : Nat := 0                -- f64 patterns
  sum1 : Nat := 0
  ready : Bool := false          -- every chunk of the command done here
  pass : Nat := 0
  flags : Nat := 0
  after : List Dep := []
  pc : Nat := 0
  slot : Nat := 0
  held : Bool := false
  stale : Bool := false          -- to be translated again at the resume (spec/17 R336)
deriving DecidableEq, Repr

/-- The amplitude engine's items of one sequencer (spec/12 R233). -/
structure Ae where
  reg : Option AeReg := none
  pos : List Nat := (List.range 48)
  stamp : List Nat := List.replicate 48 0
  seqno : Nat := 0
  cmd : Option AeCmd := none
deriving DecidableEq, Repr

/-- A halt or retire whose counters drain (spec/06 R101, spec/13 R266). -/
inductive Halting where
  | halt | retire
deriving DecidableEq, Repr

/-- One sequencer (spec/04 R60 and the inventories of spec/08, 12, 13, 16, 19). -/
structure Seq where
  st : SqState := .idle
  prev : SqState := .idle
  below : Option SqState := none    -- the state a calving or a freeze found (spec/21 R401, R404)
  ctx : Option Nat := none
  rank : Nat := 0
  pc : Nat := 0
  winBase : Nat := 0
  winSize : Nat := 0
  views : List View := List.replicate 8 {}
  masks : List Mask := List.replicate 8 0
  loops : List Loop := []           -- innermost first
  bank : Bank := {}
  cons : Option Bank := none
  shadow : List Word := List.replicate 16 0
  saved : Option Saved := none
  pendDom : Option (Level × Nat) := none
  pendT : Option (Dest × Nat × Bool) := none   -- destination, T, T already passed at issue
  wait : Option Wait := none
  dmr : BitVec 4 := 0
  dmr0 : BitVec 4 := 0
  withdrawn : BitVec 4 := 0xF      -- domains of whose current phase it is no member (spec/04 R75, spec/19 R366)
  ulivec : Nat := 0
  ulimask : BitVec 2 := 0
  inHandler : Bool := false
  ulist : BitVec 2 := 0
  uliChan : Nat := 0
  stepno : Nat := 0
  phase : Nat := 0
  portst : BitVec 16 := 0
  rowprog : Nat := 0
  aeprog : Nat := 0
  ld : Nat := 0
  st_ : Nat := 0
  xf : Nat := 0
  mt : Nat := 0
  cm : Nat := 0
  watch : Option (Nat × Nat × Bool) := none  -- physical line, virtual line, triggered
  drain : Tab (BitVec 32) := []           -- drain latch, nonzero words by row*64+column
  drainInt : Bool := false
  ports : List Port := List.replicate 8 {}
  chans : Tab Chan := []
  kept : Tab Notice := []
  prebud : Nat := 20000                   -- PREBUD (spec/04 R74)
  ctxid : Nat := 0                        -- CTXID and ASID, and the kernel of the code last run (spec/04 R74)
  asidReg : Nat := 0
  kernid : Nat := 0
  lastFunc : Option Nat := none           -- function of the last context started here (the model's own; spec/20 R392, log 95)
  ae : Ae := {}
  fwd : List (Nat × Nat × List Vec) := [] -- output port, input port, buffer (spec/15 R294)
  seen : List (Nat × Nat × BitVec 512 × Nat × Vec) := []   -- vectors popped lately: entry, port, descriptor, number (spec/13 R257)
  again : List (Nat × BitVec 512 × Nat × Vec) := []        -- those that a strike rollback gives back
  acc : List Access := []
  order : List Order := []
  ordered : Bool := false                 -- a release or acquire has been issued: its writes follow all they may depend on (spec/10 R198)
  causes : List Trap := []
  halting : Option Halting := none
  joining : Bool := false                 -- a faulted join update to be tried again (spec/20 R376)
  stopReq : Bool := false
  epoch : Nat := 0                        -- changes of its state by something other than its own core (the model's own; spec/20 R384)
  issued : Nat := 0                       -- bundles it has issued (the model's own)
  redo : Option (Nat × SqState × SqState × Option SqState) := none  -- after a strike past its stop: where it stops again, and as what (spec/20 R385)
deriving DecidableEq, Repr

/-- A tensor-table entry (spec/18 R349). -/
structure Tensor where
  bpr : Nat
  dbase : Nat
  saddr : Nat
  core : Nat := 0               -- the core whose `mstab` wrote it, for a strike rollback (spec/08 R174)
deriving DecidableEq, Repr

/-- Operations of the matrix queue (spec/08 R153). -/
inductive MtxOp where
  | mma (z neg d : Bool) (shape : BitVec 512) (fa fb : Fmt) (sa sb : Option Tensor) (a b : Nat)
  | zero
  | commit (hit : Bool)
  | stab (t : Nat) (e : Tensor)
deriving DecidableEq, Repr

/-- An entry of the matrix queue (spec/08 R160). -/
structure MtxEntry where
  id : Nat
  seq : Nat
  op : MtxOp
  tile : Nat := 0
  ls : Option Nat := none       -- landing slot
  opens : Bool := false
  off : Nat := 0                -- window offset of the tile captured at issue
  fmt : BitVec 32 := 0          -- FMT of the issuing bundle
  after : List Dep := []
  pc : Nat := 0
  slot : Nat := 0
  held : Bool := false
  keep : List (Nat × Nat × Nat) := []  -- tile bytes its own bundle wrote, as they stood before it: offset, bytes, value (spec/02 R29)
  skip : List (Nat × Nat) := []        -- tile bytes that a slot of higher class of its bundle wrote or will write
  done : Bool := false          -- last panel in the slot
  resumed : Bool := false       -- it has run before: a fault or a calved die left it in mid-tile
  begun : Bool := false         -- an `mma` that reached the head while its context ran: a stop waits for it (spec/08 R174)
  exact : Tab Int := []         -- exact sums kept across panels (spec/08 R161)
  panel : Nat := 0              -- panels completed
  segsA : List Nat := []        -- loaded A segments of the panel in progress, as byte strings
  segsB : List Nat := []
  flags : Nat := 0
deriving DecidableEq, Repr

/-- A landing slot (spec/08 R153). -/
structure Landing where
  owner : Option Nat := none
  tile : Option Nat := none     -- open and accounted to this tile, in issue order
  int_ : Bool := false
  partial_ : Bool := false
  words : Tab (BitVec 32) := []
deriving DecidableEq, Repr

/-- A piece of a copy in flight: its number, its bytes, and the run it is, in the copy's units (spec/11 R228). -/
structure Piece where
  no : Nat
  src : List Seg
  dst : List Seg
  a : Nat
  b : Nat
  len : Nat
  stale : Bool := false          -- to be translated again at its next retry (spec/17 R336)
deriving DecidableEq, Repr

/-- A copy in a BTE channel (spec/11 R226, R228). -/
structure Copy where
  seq : Nat
  ctx : Nat
  word : Word
  pc : Nat
  slot : Nat
  held : Bool := false
  id : Nat
  after : List Dep := []
  rel : Bool := false                     -- its aperture store is a release (spec/11 R226)
  entry : Option (BitVec 512) := none     -- its last, as read at the head (spec/18 R347)
  read : Bool := false                    -- its last and records have been read
  bar : Nat := 0                          -- physical address of the barrier
  barKey : Nat := 0
  barVa : Nat := 0                        -- its virtual address
  nib : Bool := false                     -- it moves nibbles that no bytes hold together: its units are nibbles (spec/18 R339)
  runs : List (Nat × Nat × Nat) := []     -- pieces not yet started: source, destination, units
  flying : List Piece := []               -- pieces started
  sectors : Tab Nat := []                 -- destination sectors not counted down: units still to be applied
  done : Nat := 0                         -- pieces completed
  started : Nat := 0
  report : Option (Nat × Cause × Nat) := none  -- piece, cause, address of the first failure
  stopped : Option Trap := none           -- a piece fault: the rest does not start
  uli : Bool := false
  last : Nat := 0
deriving DecidableEq, Repr

/-- A line of the L1 (spec/09 R181). -/
structure Line where
  pa : Nat
  key : Nat
  va : Nat := 0                 -- virtual line that filled it
  data : BitVec 1024
deriving DecidableEq, Repr

/-- A cached translation (spec/17 R329): one page's effective leaf. -/
structure Tlb where
  asid : Nat
  va : Nat          -- page base
  ipa : Nat         -- intermediate address, for stage-2 invalidation
  s1 : Nat := 7     -- what stage 1 alone permits: R 1, W 2, X 4
  lvl1 : Nat := 1   -- level of the stage-1 leaf
  lvl2 : Nat := 0   -- level of the stage-2 leaf, 0 without stage 2
  size : Nat
  pa : Nat
  fab : Bool
  key : Nat
  r : Bool
  w : Bool
  x : Bool
  c : Bool
  a : Bool
deriving DecidableEq, Repr

/-- An effect of a twin core in its hold-back window (spec/20 R387). -/
structure TwinEffect where
  id : Nat
  addr : Nat
  data : Nat
  pc : Nat
  slot : Nat := 0
  held : Bool := false
  seq : Nat
  repeated : Bool := false
deriving DecidableEq, Repr

/-- Performance counters with no other home (spec/19 R375). -/
structure Perf where
  issue : Nat := 0
  drpev : Nat := 0
  drpcy : Nat := 0
  mtxcy : Nat := 0
  vecsl : Nat := 0
  l1hit : Nat := 0
  l1miss : Nat := 0
  tlbmiss : Nat := 0
  waitsq : Nat := 0
deriving DecidableEq, Repr

/-- One core (spec/01 R10, R12). -/
structure Core where
  last : Nat := 3
  regs : Mem := []
  imem : Tab (BitVec 32) := []               -- nonzero slots by address div 4
  img : Option (Nat × Nat) := none           -- ASID and IMAGE address of the code loaded
  mq : List MtxEntry := []
  ls : List Landing := List.replicate 4 {}
  scales : List (Nat × Nat × Nat × BitVec 16) := []   -- ASID, tensor, block, scale; most recent first
  bte : List (List Copy) := List.replicate 16 []
  l1 : List Line := []
  itlb : List Tlb := []
  dtlb : List Tlb := []
  etlb : List Tlb := []
  cwlim : Word := BitVec.allOnes 64
  weights : List Nat := []
  mtxDue : Nat := 0                          -- matrix compute cycles, AE chunk cycles and BTE beats not yet weighed (spec/19 R371)
  aeDue : Nat := 0
  beats : Nat := 0
  frzcnt : Word := 0
  strikes : Word := 0
  cycle : Word := 0
  perf : Perf := {}
  twin : List TwinEffect := []
  twinOf : Option Nat := none                -- on an odd core of a twin launch, its even core
  gen : List Nat := List.replicate 8 3
  droop : Nat := 0                           -- cycles left of stretch (above 64) and half rate (spec/19 R373)
  owner : Option Nat := none
deriving DecidableEq, Repr

/-- A record of a continuation queue (spec/13 R259). -/
structure CqRec where
  code : Nat
  frame : Nat
  join : Nat
  flags : Nat
  tenq : Nat
deriving DecidableEq, Repr

/-- A push on its way to a unit (spec/13 R261, R265). -/
structure CqPush where
  id : Nat
  r : CqRec
  seq : Nat                    -- the sequencer spawning or retiring
  bau : Bool
  after : List Dep := []
  pc : Nat := 0
  slot : Nat := 0
  held : Bool := false
deriving DecidableEq, Repr

/-- One cluster (spec/13 R249, spec/22 R428, R430). -/
structure Cluster where
  levels : List (List CqRec) := List.replicate 4 []
  spill : List (Nat × Nat) := List.replicate 4 (0, 0)   -- head slot and count of each spill ring
  overflow : Option CqRec := none
  pops : Nat := 0              -- pops of the unit's cycle (spec/13 R261, log 96)
  launch : Option Nat := none
  enrolled : List Nat := []
  pushes : List CqPush := []
  gated : Bool := false
  parked : List (Nat × Nat × Nat × Nat) := []   -- windows spilled on gating: core, place, size, address
  quiet : Nat := 0             -- ns without a running sequencer
  energy : Nat := 0
  sampled : Nat := 0
  bid : Nat := 0
deriving DecidableEq, Repr

/-- How far a die's calving or un-calving has come (spec/21 R399, R403). -/
inductive Calving where
  | live | stopping | retained | waking
deriving DecidableEq, Repr

/-- One die. -/
structure Die where
  tlb : List Tlb := []
  prog : List (Nat × Nat × Nat × List (BitVec 32)) := []  -- resident code: ASID, IMAGE, bytes of the image, words; most recent first
  point : Nat := 12
  before : Nat := 12                      -- point before calving
  level : Nat := 0
  levelAt : Option Nat := none
  temp : Nat := 0
  drpth : Word := BitVec.allOnes 64
  clock : List Nat := [0, 0, 0, 0]        -- vector clock (spec/10 R198)
  calv : Calving := .live
  gatecfg : Word := 0
deriving DecidableEq, Repr

/-- A packet of a ring, as read (spec/14 R273). -/
structure Packet where
  raw : BitVec 512
  at_ : Nat                               -- virtual address it was read at
  next : Nat × List (Nat × Nat)           -- fetch position after it: index or address, and CALL stack
deriving DecidableEq, Repr

/-- What an issue stage is held by (spec/14 R278). -/
inductive Hold where
  | fence (addr : Nat) (v : Nat) (nextAt : Nat)
  | wakeAt (t : Nat)
  | inval (asid va len : Nat) (s2 all : Bool) (upto : Nat)   -- accesses of smaller identity were translated before
  | ckpt (c : Nat)
deriving DecidableEq, Repr

/-- A command ring (spec/14 R271). -/
structure Ring where
  rbase : Nat := 0
  rctl : Nat := 0
  tail : Nat := 0
  head : Nat := 0
  rstat : Nat := 0
  rfaddr : Nat := 0
  issued : Nat := 0
  stack : List (Nat × Nat) := []          -- CALL stack of the fetch position: address of next packet, packets left
  ahead : List (Packet × Option Nat) := []  -- packets read, with the context a launch packet made
  hold : Option Hold := none
  welted : Bool := false                  -- the last launch read was spliced as a consumer (spec/15 R287)
deriving DecidableEq, Repr

/-- Per-function registers (spec/14 R271, spec/22 R420, R421). -/
structure Func where
  weight : Nat := 1
  lasid : Nat := 0
  mincov : Nat := 0
  ctxda : Nat := 0
  cstat : Nat := 0
  cmd : Option Nat := none                -- context of a command that waits: a resume for its cores, a dump for a calved die
  dumping : Bool := false                 -- it is a dump
  weltspl : Word := 0
  weltref : Word := 0
  msixMask : List Nat := []
  msixPba : List Nat := []
  msixTab : Mem := []                     -- address and data words of the MSI-X table
  lastRing : List Nat := List.replicate 4 63   -- by class, the ring granted last (spec/14 R281)
deriving DecidableEq, Repr

/-- A section of an image (spec/03 R57). -/
structure Section where
  kind : Nat
  off : Nat
  size : Nat
  load : Nat
  data : Nat := 0                         -- its bytes
deriving DecidableEq, Repr

/-- A program image as the front end reads it (spec/03 R56). -/
structure Image where
  va : Nat := 0
  kid : Nat := 0
  flags : Nat := 0
  cov : Nat := 0
  nseq : Nat := 1
  win : Nat := 4096
  entry : Nat := 0
  thaw : Option Nat := none
  fmt : BitVec 32 := 0
  views : List View := List.replicate 8 {}
  wstart : Nat := 0
  wend : Nat := 0
  wk : Nat := 0
  nout : Nat := 0
  nin : Nat := 0
  sections : List Section := []
  code : List (BitVec 32) := []
deriving DecidableEq, Repr

/-- State of a context (spec/14 R278-R285, spec/20 R377). -/
inductive CtxSt where
  | queued | granted | released | stopping | preempted | saving | saved | faulted | complete | killed | lost | split
deriving DecidableEq, Repr

/-- A splice (spec/15 R290, spec/18 R354). -/
structure Splice where
  pkid : Nat
  ckid : Nat
  bundles : List (Nat × Bool × Nat × Bool) := []   -- spliced start, consumer, original start, gap
  renames : List (Nat × Nat × Nat) := []           -- kind, original, new
  headPc : Nat := 0                                -- spliced loop head
  pairs : List (Nat × Nat × BitVec 1024 × Bool) := []  -- output port, input port, record, keep
  haltPc : Nat := 0                                -- the producer's halt bundle in item 6
  haltPos : Nat := 8                               -- where its halt slot stood, 8 where nothing else is left
  presets : List (Nat × Nat) := []                 -- renamed consumer scalars: new number, original number
  consFmt : BitVec 32 := 0
deriving DecidableEq, Repr

/-- A save of a context (spec/14 R285): what the firmware holds in the save area. -/
structure SaveImage where
  seqs : Tab Seq := []
  regs : Tab Mem := []          -- register windows by sequencer
  scratch : Mem := []
  ls : Tab (List Landing) := []
  mq : Tab (List MtxEntry) := []
  bte : Tab (List (List Copy)) := []
  clusters : Tab Cluster := []
  rings : Mem := []             -- the spill rings of a task launch, from their base: in the firn tier alone (spec/21 R405)
deriving DecidableEq, Repr

/-- Traffic of channels on its way inside the module (spec/16 R302, R309, R312). -/
inductive Msg where
  | vector (src chan dst dchan : Nat) (v : Vec)
  | credit (dst dchan src chan : Nat)
  | declare (dst dchan : Nat) (n : Notice)
  | close (dst dchan src chan : Nat) (send : Bool)  -- from a send end
deriving DecidableEq, Repr

/-- A channel message on its way, with the operation that sent it and its launch: an FLID, or a context of this module. -/
structure Flight where
  id : Nat
  launch : Nat
  fabric : Bool
  msg : Msg
  pc : Nat := 0                  -- its bundle and slot
  slot : Nat := 0
  held : Bool := false
  stays : Bool := false          -- it answers an arrival: no rollback takes it back (spec/16 R315)
  gen : Nat := 0                 -- the declaration of the end it is for, as its sender knew it; 0 if it did not (log 69)
deriving DecidableEq, Repr

/-- The drift ring of a context: 1,024 slots in the HBM of CD0 (spec/16 R300, R313). TAIL counts the records written, and
HEAD stands at the oldest one not yet replayed. -/
structure Drift where
  tail : Nat := 0
  recs : List (Nat × Flight) := []  -- by number: what a slot does not hold of the message; a vector stands in the slot (log 103)
  bytes : Mem := []                 -- the ring, while the module is without power
deriving DecidableEq, Repr
/-- HEAD. -/
def Drift.head (x : Drift) : Nat := match x.recs with
  | [] => x.tail
  | r :: _ => r.1

/-- A context: one launch, from its packet to its completion. -/
structure Ctx where
  st : CtxSt := .queued
  func : Nat := 0
  ring : Nat := 0
  asid : Nat := 0
  packet : BitVec 512 := 0
  second : Option (BitVec 512 × Nat × Image) := none   -- the consumer's packet, record and image (spec/15 R296)
  lrec : Nat := 0               -- the launch record, 256 bytes
  mask : List Nat := []         -- modules of the launch (spec/14 R275)
  image : Image := {}
  status : Nat := 0             -- of the completion record
  cls : Nat := 0                -- class of its ring
  issued : Bool := false        -- its packet has passed the issue stage
  again : Option Nat := none  -- a restart at its thaw entry, with this superstep (spec/21 R416)
  issueNo : Nat := 0          -- its place among the launches issued (spec/21 R418)
  late : Bool := false
  held : Bool := false          -- HIB launch held (spec/21 R412)
  order : Nat := 0              -- release order
  point : Option Nat := none    -- operating point fixed at release (spec/01 R21)
  seqs : List Nat := []
  cores : List Nat := []
  frec : BitVec 512 := 0        -- fault record (spec/20 R377)
  faulted : List Nat := []      -- sequencers that stopped by a trap
  fromPf : Bool := false        -- stage-2 fault
  lasts : Tab (BitVec 512) := []
  tensors : Tab Tensor := []
  drift : Drift := {}
  splice : Option Splice := none
  phases : Tab Nat := []        -- phase count by level*16 + unit (spec/01 R24)
  arrived : List (Nat × Nat) := []  -- (domain, sequencer) arrived at the current phase
  armed : Option (Nat × List (Nat × Nat × Nat) × Bool) := none  -- checkpoint: buddy, regions, copied (spec/21 R418)
  ckptStep : Nat := 0xFFFFFFFF
  regions : List (Nat × Nat × Nat) := []  -- those of the last completed checkpoint
  buddy : Nat := 0
  stepRec : Nat := 0
  peers : List (Nat × Nat × Nat) := []   -- rejoin announcements: module, STEPREC, CKPTSTEP
  unperf : Nat := 0
  energy : Nat := 0
  shared : Bool := false
  victims : List Nat := []      -- contexts it waits to see saved (spec/14 R284)
  stopAt : Option Nat := none   -- DTIME of the pre-emption request (spec/20 R390)
  saved : Option SaveImage := none
  rootDone : Bool := false      -- its root join object has reached zero (spec/13 R266)
  doneAt : Nat := 0             -- operations of smaller identity were begun before that
  intervals : List (Nat × Nat × Nat) := []  -- operating-point intervals: die, PHASE, energy counted before (spec/22 R426)
  twin : Bool := false
deriving DecidableEq, Repr

/-- Power states (spec/21 R396, R397), DORMANT having no code. -/
inductive Power where
  | run | warn | calved | freeze | thaw | dormant
deriving DecidableEq, Repr

/-- A replica-directory entry (spec/17 R328). -/
structure Replica where
  v : Bool := false
  err : Bool := false
  rdy : Bool := false
  size : Nat := 0
  home : Nat := 0
  dmask : Nat := 0
  frames : List Nat := [0, 0, 0, 0]
deriving DecidableEq, Repr

/-- An operating-point entry (spec/18 R355); `measured`, `settled` and `tried` are the leader's marks of spec/22 R426. -/
structure OpPoint where
  v : Bool := false
  func : Nat := 0
  kid : Nat := 0
  phase : Nat := 0
  points : List Nat := [12, 12, 12, 12]
  ej : Nat := 0
  measured : Bool := false
  settled : Bool := false
  tried : Option Nat := none
deriving DecidableEq, Repr

/-- A drain-list entry (spec/18 R356). -/
structure Drain where
  va : Nat := 0
  len : Nat := 0
  asid : Nat := 0
  pri : Nat := 0
  v : Bool := false
  wc : Bool := false
  func : Nat := 0
  ctx : Nat := 0
  rsv : Nat := 0                -- the reserved bits, in their places of the 32 bytes
deriving DecidableEq, Repr
/-- Is a reserved bit set, or a region not cut at 4 KiB; an entry for a whole context ignores VA and LEN (spec/18 R356,
R357). -/
def Drain.malformed (e : Drain) : Bool := e.rsv ≠ 0 || (!e.wc && (e.va % 4096 ≠ 0 || e.len % 4096 ≠ 0))

/-- Freeze in progress (spec/21 R404-R408). -/
structure Freeze where
  stage : Nat := 0              -- 0 halted, 1 engines stopped and peers told, 2 drained, 3 body written
  tfrz : Nat := 0
  calvd : Nat := 0
  e : Nat := 0
  gen : Nat := 0
  todo : List (Nat × Drain) := []
  regions : List (Nat × Drain × Nat × Nat × BitVec 256) := []  -- index, entry, STAT, FOFF, digest
  trunc : Nat := 0xFFFFFFFF
  placed : Nat := 0
  summed : Nat := 0
  slot : Nat := 0               -- moraine slot written
  seqno : Nat := 0
  quotas : Tab Nat := []        -- latched
  used : Tab Nat := []          -- bytes drained by function
  released : Bool := false      -- some context was released since power-up (spec/21 R415)
  ctxs : List Nat := []         -- contexts released and not complete at entry (spec/21 R409)
deriving DecidableEq, Repr

/-- Thaw in progress (spec/21 R415). -/
structure Thaw where
  slot : Nat := 0
  stage : Nat := 0              -- 0 awaiting the command, 1 DTIME, 2 restored, deciding
  failed : List Nat := []       -- region numbers that failed
  decided : List (Nat × Nat) := []  -- context, outcome: 0 exact, 1 restart, 2 lost, 3 awaiting peers, 4 killed, 5 STEPSPLIT
deriving DecidableEq, Repr

/-- An Akvin port (spec/16 R316-R318). -/
structure Link where
  up : Bool := true
  lanes : Nat := 0xFFFF         -- lanes in use
  degraded : Bool := false
  training : Bool := false
  asked : Bool := false         -- a replay request is out
  txSeq : Nat := 0
  rxSeq : Nat := 0              -- next expected
  replay : List (Nat × Nat) := []  -- unacknowledged data flits: SEQ and payload
  credit : Nat := 0             -- receive-buffer credits the peer has returned, in flits
  freed : Nat := 0              -- those to be returned to it
  again : Option Nat := none    -- the peer asks for a replay after this SEQ
  partial_ : List Nat := []     -- payloads of the flits accepted of a transaction that is not yet whole
  whole : List Nat := []        -- transactions received whole, oldest first
  peer : Option Nat := none     -- module at the other end
deriving DecidableEq, Repr

/-- A transaction between modules (spec/16 R316, R319): its type, fabric address, source, number at the source, length and
payload, and what the type needs beside them (log 81). -/
structure Tx where
  kind : Nat
  addr : Nat
  src : Nat                     -- fabric id of the sequencer
  num : Nat := 0
  len : Nat := 0
  data : Nat := 0
  op : Nat := 0
  ty : Nat := 0
  key : Nat := 0
  arg : Nat := 0
  launch : Nat := 0
  fabric : Bool := false
  chan : Nat := 0
  dchan : Nat := 0
  gen : Nat := 0
deriving DecidableEq, Repr

/-- A transaction this module has sent or is to send, kept until it is acknowledged (spec/16 R311, R318, R319). -/
structure Remote where
  id : Nat                       -- the access, copy or message it belongs to; 0 for an answer
  part : Nat := 0                -- of a copy: 1 and 2 its records, 16 + k piece k; 3 what `pseal` writes
  tx : Tx
  at_ : Nat := 0                 -- its place in the datum
  seq : Nat
  path : Path := .s              -- with its sequencer's die and its module: its flow (spec/10 R200)
  tries : Nat := 0               -- mismatches reported
  port : Option Nat := none      -- port it was sent on
  calved : Bool := false         -- answered calved, to be tried again (spec/11 R212)
  full : Bool := false           -- a message that a full drift ring did not take (spec/16 R314)
  answer : Option Nat := none    -- acknowledged, with the bytes that were read
deriving DecidableEq, Repr

/-- The bytes of a sector that one transaction of a copy piece has brought and the next completes (spec/10 R190, spec/23
R432): their module, the address that follows them, and how many they are. -/
structure Half where
  src : Nat
  next : Nat
  len : Nat
  data : Nat
deriving DecidableEq, Repr

/-- What leaves the module. -/
inductive Output where
  | msix (f vec : Nat)
  | memError (pa who : Nat)      -- to the firmware core of the die; the address names the memory
  | link (port kind data : Nat)
  | exchange (mo share seqno chunk data : Nat)  -- an exchange chunk to an amplitude engine of another module (spec/12 R242)
  | exchanged (mo share seqno chunk : Nat)      -- that engine's chunk is written here
  | reply (ok : Bool) (data : Nat)
  | management (kind data : Nat)
  | thawReport (locked : Bool) (regions ctxs : List (Nat × Nat))   -- to the physical function: number and outcome (spec/21 R415)
deriving DecidableEq, Repr

/-- Module-wide registers and tables. -/
structure Sys where
  modid : Nat := 0
  power : Power := .run
  vin : Nat := 48000
  charge : Nat := 0
  calvord : Nat := 0x1B
  calvd : Nat := 0
  calvedOrder : List Nat := []      -- dies calved, latest first
  pf : Bool := false
  below42 : Nat := 0                -- samples below 42 V in a row
  below40 : Nat := 0
  band : Nat := 0                   -- samples in [40, 44) V in a row
  above44 : Nat := 0
  above46 : Nat := 0
  dtime : Nat := 0
  dtlock : Bool := false
  asids : Tab (BitVec 128) := []
  funcs : Tab (BitVec 128) := []
  replicas : Tab Replica := []
  ops : List OpPoint := []
  drain : Tab Drain := []
  quotas : Tab Nat := []
  mboxNonce : BitVec 256 := 0
  mboxStat : Nat := 0
  mboxLen : Nat := 0
  mboxReport : Nat := 0
  mboxCmd : Nat := 0
  slots : List (Bool × Nat × Nat) := [(true, 0, 0), (false, 0, 0)]  -- boot slots: signature verifies, security version, image number
  fuse : Nat := 0
  bootSlot : Option Nat := some 0
  bootfail : Bool := false
  eid : Nat := 0
  mgmt : List Nat := []             -- the last refreshed report
  freeze : Option Freeze := none
  thaw : Option Thaw := none
  away : List Nat := []
  told : Bool := false              -- the FREEZE notice has gone out
  links : List Link := List.replicate 16 {}
  remote : List Remote := []
  leader : Nat := 0
  lease : Nat := 10000000
  issues : Nat := 0            -- launches issued (spec/21 R418)
  releases : Nat := 0               -- launches released so far
  seenRelease : Bool := false       -- a context was released since power-up
  series : Bool := false            -- the input has stayed below 44 V since the last calving (spec/21 R399)
  rejoins : List (Nat × Nat × Nat × Nat) := []  -- announced: FLID, module, STEPREC, CKPTSTEP (spec/21 R416)
  nextCtx : Nat := 0                -- context id tried first
  keyLoads : Nat := 0               -- loads of keys (the model's own; spec/17 R327, log 21)
  round : List (Nat × Nat) := List.replicate 4 (0, 0)  -- by class: function served, launches granted in its turn (spec/14 R281)
  calvedAt : Nat := 0               -- DTIME of the last calving
  firn : Tab (Ctx × Option SaveImage) := []  -- contexts of the moraines, by slot*65536 + context (log 38)
  acks : List (Nat × Nat × Nat) := []  -- table writes not yet acknowledged: table, index, and identities they wait for (spec/17 R335)
  inbound : List (Nat × Nat × Nat) := []  -- mismatches of arriving transactions: source module, number, count
  records : List (Nat × Nat × BitVec 512 × Nat × Bool) := []  -- completion records that a calved die keeps waiting (spec/21 R402): function, ring, packet, status, LATE
  loose : List (Nat × Nat × Nat) := []    -- demands and receipts that wait for a port: module, kind, number
  halves : List Half := []
deriving DecidableEq, Repr

/-- A trap raised while a bundle is being checked (spec/02 R442): phase, position, held repeat first. -/
structure Raised where
  phase : Nat
  pos : Nat
  trap : Trap
deriving DecidableEq, Repr

/-- Why a bundle does not issue now. -/
inductive Stall where
  | notReady
  | wait (w : Wait)
deriving DecidableEq, Repr

/-- What happens after every slot of a bundle has had its effect. -/
inductive After where
  | none
  | uret
  | trap (t : Trap)
  | halt
  | retire
  | waits (w : Wait)
deriving DecidableEq, Repr

/-- The bundle being issued: the sequencer's registers as they stood before it, and what its slots decided. -/
structure Issue where
  n : Nat                        -- global sequencer id
  pc : Nat
  next : Nat
  before : Seq
  regs : Mem                     -- the core's register space before the bundle
  mq : List MtxEntry := []       -- the core's matrix queue before the bundle
  consumer : Bool := false       -- the bundle is the consumer's code of a spliced sequencer
  pos : Nat := 0
  held : Bool := false
  cls : Nat := 0
  word : BitVec 32 := 0
  ext : Option (BitVec 17) := none
  scope : Scope := .core
  memScope : Scope := .core      -- what a scope prefix of this bundle set
  imx : Option (BitVec 3 × BitVec 17) := none
  raised : List Raised := []
  stall : Option Stall := none
  target : Option Nat := none
  exits : Bool := false          -- its `ret` to the exit link is a taken transfer (spec/06 R94)
  fmtWrite : Option (BitVec 32) := none
  flags : Nat := 0               -- FMT [31:24] raised so far
  after : After := .none
  weight : Nat := 0
  firstId : Nat := 0             -- operations of this bundle have this identity or a later one
  wrote : List (Nat × Dest) := []         -- register results of its slots so far: class and place (spec/02 R29)
  pcfgs : List (Nat × BitVec 512) := []   -- ports that take a new descriptor after the bundle (spec/13 R255)
  orders : List Order := []      -- what its fences put in force from the next bundle on
deriving DecidableEq, Repr

/-- A snapshot of one core and its sequencers for a strike rollback (spec/20 R384). -/
structure Snap where
  cycle : Word
  core : Core
  seqs : Tab Seq
  firstId : Nat                  -- accesses issued later have larger ids
  tensors : Tab (Tab Tensor) := []  -- tensor tables of its sequencers' contexts
deriving DecidableEq, Repr

/-- One move the environment has chosen. -/
inductive Move where
  | event (i : Instr) (args : List Nat)
  | issue (g : Nat)
  | tick (ns : Nat)
deriving DecidableEq, Repr

/-- The module. -/
structure State where
  mem : Mem := []
  keyOf : Tab Nat := []             -- key of each 32-byte sector written under a key, by address div 32; 64 and above: one replaced since (log 21)
  poison : List Nat := []           -- poisoned granules by address
  updates : List Update := []       -- replica updates outstanding, in coherence order
  marks : List (Nat × Nat × Mark) := []  -- by range: address, bytes; no two meet
  cores : Tab Core := []
  seqs : Tab Seq := []
  clusters : Tab Cluster := []
  dies : Tab Die := []
  ctxs : Tab Ctx := []
  rings : Tab Ring := []            -- by f*64 + r
  funcs : Tab Func := []
  sys : Sys := {}
  msgs : List Flight := []
  hist : Tab (List Snap) := []
  issue : Option Issue := none
  schedule : List Move := []
  turn : Nat := 0
  free : Nat := 0
  nextId : Nat := 1
  args : List Nat := []             -- operands of the event being taken
  outbox : List Output := []
deriving DecidableEq, Repr

/-- Why a step cannot be made. `noPower`: raised by step alone, when the module is DORMANT and the environment
offers no power-up; no rule gives an unpowered module a step (spec/21 R396). Safe. -/
inductive Fault where
  | noPower
deriving DecidableEq, Repr

/-- Refusals. `notModelled`: raised by exec for an instruction that has no meaning yet; safe. -/
inductive Refusal where
  | notModelled (mnemonic : String)
deriving DecidableEq, Repr

/-- The module right after cold reset: every table lists only what differs from its reset value. -/
def State.reset : State := {}

end Sys2Proof.Machine
end

