-- ==== Sys2Proof/Machine/Ops.lean ====
section
/-! DEFINITION. Named operations over memory, registers and units; raising, taking and returning from traps. -/
set_option linter.unusedVariables false
namespace Sys2Proof.Machine
open Sys2Proof

/-! ### Byte memory -/

namespace Mem

/-- The byte at an address; an unlisted byte reads zero. -/
def get : Mem → Nat → BitVec 8
  | [], _ => 0
  | (b, v) :: m, a => if b = a then v else get m a

/-- `n` bytes from `a` as one little-endian number (spec/00 R5). -/
def readNat : Mem → Nat → Nat → Nat
  | [], _, _ => 0
  | (b, v) :: m, a, n => (if a ≤ b ∧ b < a + n then v.toNat * 2 ^ (8 * (b - a)) else 0) + readNat m a n

/-- The nonzero bytes of a little-endian number of `n` bytes laid at `a`. -/
def cells (a : Nat) : Nat → Nat → Mem
  | 0, _ => []
  | n + 1, v => if v % 256 = 0 then cells (a + 1) n (v / 256) else (a, BitVec.ofNat 8 v) :: cells (a + 1) n (v / 256)

/-- Replace `n` bytes from `a` by a little-endian number. -/
def write (m : Mem) (a n v : Nat) : Mem :=
  m.filter (fun c => c.1 < a) ++ cells a n v ++ m.filter (fun c => a + n ≤ c.1)

/-- The canonical form: addresses rise and no listed byte is zero. -/
def wf : Mem → Bool
  | [] => true
  | [c] => c.2 ≠ 0
  | c :: d :: m => c.2 ≠ 0 && c.1 < d.1 && wf (d :: m)

/-- Zero every byte in [a, a + n). -/
def zero (m : Mem) (a n : Nat) : Mem := m.filter (fun c => c.1 < a || a + n ≤ c.1)

/-- The bytes of a range, moved so that the range starts at zero. -/
def slice (m : Mem) (a n : Nat) : Mem := (m.filter (fun c => a ≤ c.1 && c.1 < a + n)).map fun c => (c.1 - a, c.2)

/-- Put a slice back at `a`. -/
def unslice (m : Mem) (a n : Nat) (x : Mem) : Mem :=
  m.filter (fun c => c.1 < a) ++ x.map (fun c => (a + c.1, c.2)) ++ m.filter (fun c => a + n ≤ c.1)

/-- Lay bytes, listed in any order, over [a, a + n): what they do not list is zero there. -/
def fill (m : Mem) (a n : Nat) (x : Mem) : Mem :=
  x.foldl (fun m c => if c.1 < n then m.write (a + c.1) 1 c.2.toNat else m) (m.zero a n)

end Mem

/-! ### Numbers and lists -/

/-- Sign-extend the low `w` bits of a number to an integer. -/
def toInt (w x : Nat) : Int := if x % 2 ^ w < 2 ^ (w - 1) then (x % 2 ^ w : Nat) else (x % 2 ^ w : Nat) - (2 ^ w : Nat)
/-- An integer modulo 2^w. -/
def ofInt (w : Nat) (x : Int) : Nat := (x % (2 ^ w : Nat)).toNat
/-- Bits [hi:lo]. -/
def fld (x hi lo : Nat) : Nat := bits x hi lo
/-- Bit k. -/
def bit (x k : Nat) : Bool := x / 2 ^ k % 2 = 1
/-- Set the k-th item of a list. -/
def upd {α : Type} (l : List α) (k : Nat) (f : α → α) : List α := l.modify k f
/-- Insert by a key, stably: rising order. -/
def insertBy {α : Type} (key : α → Nat) (x : α) : List α → List α
  | [] => [x]
  | y :: ys => if key x < key y then x :: y :: ys else y :: insertBy key x ys
/-- Stable sort by a key, rising. -/
def sortBy {α : Type} (key : α → Nat) (l : List α) : List α := l.foldl (fun acc x => insertBy key x acc) []
/-- The first `some` of a list of checks. -/
def firstSome {α : Type} : List (Option α) → Option α
  | [] => none
  | some x :: _ => some x
  | none :: t => firstSome t

/-! ### Units (spec/00 R4) -/

def coreOf (n : Nat) : Nat := n / 4
def sqOf (n : Nat) : Nat := n % 4
def clusterOf (g : Nat) : Nat := g / 32
def dieOf (g : Nat) : Nat := g / 128

namespace State

def core (s : State) (g : Nat) : Core := s.cores.getD g {}
def setCore (s : State) (g : Nat) (c : Core) : State := { s with cores := s.cores.put g c }
def modCore (s : State) (g : Nat) (f : Core → Core) : State := s.setCore g (f (s.core g))
def seq (s : State) (n : Nat) : Seq := s.seqs.getD n {}
def setSeq (s : State) (n : Nat) (q : Seq) : State := { s with seqs := s.seqs.put n q }
def modSeq (s : State) (n : Nat) (f : Seq → Seq) : State := s.setSeq n (f (s.seq n))
def cluster (s : State) (c : Nat) : Cluster := s.clusters.getD c {}
def modCluster (s : State) (c : Nat) (f : Cluster → Cluster) : State := { s with clusters := s.clusters.put c (f (s.cluster c)) }
def die (s : State) (d : Nat) : Die := s.dies.getD d {}
def modDie (s : State) (d : Nat) (f : Die → Die) : State := { s with dies := s.dies.put d (f (s.die d)) }
def ctx (s : State) (c : Nat) : Ctx := s.ctxs.getD c {}
def modCtx (s : State) (c : Nat) (f : Ctx → Ctx) : State := { s with ctxs := s.ctxs.put c (f (s.ctx c)) }
def func (s : State) (f : Nat) : Func := s.funcs.getD f {}
def modFunc (s : State) (f : Nat) (h : Func → Func) : State := { s with funcs := s.funcs.put f (h (s.func f)) }
def ring (s : State) (f r : Nat) : Ring := s.rings.getD (64 * f + r) {}
def modRing (s : State) (f r : Nat) (h : Ring → Ring) : State := { s with rings := s.rings.put (64 * f + r) (h (s.ring f r)) }
def modSys (s : State) (f : Sys → Sys) : State := { s with sys := f s.sys }
/-- The k-th operand of the event being taken; an operand that is not given is 0. -/
def arg (s : State) (k : Nat) : Nat := s.args.getD k 0
def out (s : State) (o : Output) : State := { s with outbox := s.outbox ++ [o] }
/-- A fresh identity for an operation. -/
def bump (s : State) : State := { s with nextId := s.nextId + 1 }
/-- A context of the module that is live: it exists in the table. -/
def ctxOf (s : State) (n : Nat) : Ctx := s.ctx ((s.seq n).ctx.getD 0)
/-- Raise an MSI-X vector, or set its pending bit while it is masked (spec/22 R421). -/
def msix (s : State) (f v : Nat) : State :=
  if (s.func f).msixMask.contains v then s.modFunc f fun x => { x with msixPba := x.msixPba ++ (if x.msixPba.contains v then [] else [v]) }
  else s.out (.msix f v)

end State

/-- Is the die live, that is, neither calved nor on its way (spec/21 R399, R402). -/
def dieLive (s : State) (d : Nat) : Bool := (s.die d).calv = .live
/-- Does the die answer requests: it is not at retention (spec/21 R399, R402). -/
def dieAnswers (s : State) (d : Nat) : Bool := (s.die d).calv = .live || (s.die d).calv = .stopping

/-- Does the module expose its registers and memory to the host: not where no firmware slot was accepted (spec/22 R422). -/
def hostOpen (s : State) : Bool := !s.sys.bootfail && s.sys.power ≠ .dormant
/-- May engines start new work for a context on core `g`: it is released, no freeze is under way, and the die is live
(spec/11 R229, R232, spec/21 R399, R404). -/
def engineOn (s : State) (c g : Nat) : Bool := (s.ctx c).st = .released && s.sys.freeze.isNone && dieLive s (dieOf g)

/-- May the state be left by a stop of its context. -/
def SqState.live (x : SqState) : Bool := x = .running || x = .waiting
/-- What the releases and fences that a sequencer has issued still put before something: a stop counts only when they
have completed (spec/10 R206). -/
def awaited (s : State) (n : Nat) : List Nat :=
  let q := s.seq n
  ((q.acc.filter (·.rel)).flatMap (·.after) ++ q.order.flatMap (·.after) ++
    (((s.core (coreOf n)).bte.flatten).filter fun c => c.seq = n && c.rel && !c.read).flatMap (·.after)).map (·.id)
/-- May an engine finish operation `id` of a sequencer that has stopped, because a release or fence awaits it: no trap of
that sequencer stands in the way, and no freeze (spec/10 R206, spec/21 R404). -/
def owed (s : State) (n id : Nat) : Bool :=
  let q := s.seq n
  !q.st.live && q.st ≠ .faulted && q.causes = [] && s.sys.freeze.isNone && dieLive s (dieOf (coreOf n)) && (awaited s n).contains id
/-- May the BTE work for context `c` on a copy of channel `ch` of core `g` (spec/10 R206, spec/11 R229, R232). -/
def bteOn (s : State) (c g ch : Nat) : Bool := engineOn s c g || ((s.core g).bte.getD ch []).any fun x => owed s x.seq x.id
/-- May the matrix unit of core `g` begin work for context `c` (spec/08 R174, spec/10 R206). -/
def mtxOn (s : State) (c g : Nat) : Bool := engineOn s c g || (s.core g).mq.any fun e => (s.seq e.seq).ctx = some c && owed s e.seq e.id

/-- Does an entry of the matrix queue stand by: its context does not run, and the entry has not begun (spec/08 R172, R174). -/
def standsBy (s : State) (e : MtxEntry) : Bool :=
  let c := (s.seq e.seq).ctx.getD 0
  !e.begun && (s.ctx c).st ≠ .released && !mtxOn s c (coreOf e.seq)
/-- The entry at the head of a core's queue, those that stand by aside. -/
def mqHead (s : State) (g : Nat) : Option MtxEntry := (s.core g).mq.find? fun e => !standsBy s e
/-- Change one entry. -/
def modEntry (s : State) (g id : Nat) (f : MtxEntry → MtxEntry) : State :=
  s.modCore g fun c => { c with mq := c.mq.map fun e => if e.id = id then f e else e }
/-- The entry that has come to the head has begun, if its context runs; one that a fault has stopped begins again with its
context (spec/08 R172, R174). -/
def promote (s : State) (g : Nat) (again : Bool := false) : State := match mqHead s g with
  | some e => if mtxOn s ((s.seq e.seq).ctx.getD 0) g && (again || !e.resumed) then modEntry s g e.id fun e => { e with begun := true } else s
  | none => s

/-! ### Strike hold-back (spec/20 R384)

A snapshot stays usable until an effect issued after it has left the core. -/

/-- An effect issued under `id` leaves core `g`: snapshots taken before it was issued can no longer be returned to. -/
def leaves (s : State) (g id : Nat) : State :=
  { s with hist := s.hist.put g ((s.hist.getD g []).filter fun p => id < p.firstId) }

/-- Sequencer `n` cannot be rolled back past this point: something other than its core has changed it. The other sequencers
of its core can. -/
def settleSeq (s : State) (n : Nat) : State := s.modSeq n fun q => { q with epoch := q.epoch + 1, redo := none }

/-- Change a sequencer, and the same sequencer in every snapshot of its core: completions stand (spec/19 R359). -/
def modBoth (s : State) (n : Nat) (f : Seq → Seq) : State :=
  let s := s.modSeq n f
  { s with hist := s.hist.put (coreOf n) ((s.hist.getD (coreOf n) []).map fun p =>
      { p with seqs := p.seqs.put n (f (p.seqs.getD n {})) }) }

/-! ### Registers of a sequencer -/

/-- Window-relative byte range of element `k` of a view of elements of `size` bytes (spec/04 R63). -/
def elemOff (v : View) (k size : Nat) : Nat := v.base + k * size
/-- Is element `k` accessible (spec/04 R63). -/
def elemOk (v : View) (k count size : Nat) : Bool := k < count && (k + 1) * size ≤ v.size
def viewAt (q : Seq) (w : Nat) : View := q.views.getD w {}
/-- The view a code of m selects (spec/07 R128). -/
def viewOfM (m : BitVec 2) : Nat := match m.toNat with
  | 0 => 1 | 1 => 5 | 2 => 6 | _ => 7

/-- A register named by a field. -/
inductive Name where
  | scalar (r : Nat)
  | vec (w code : Nat)
  | tile (t : Nat)
  | shape (h : Nat)
  | portd (p : Nat)
deriving DecidableEq, Repr

/-- The window bytes a name covers: none for ports and for shadow scalars. -/
def Name.range (q : Seq) : Name → Option (Nat × Nat)
  | .scalar r => if q.inHandler && r < 16 then none else some (elemOff (viewAt q 0) r 8, 8)
  | .vec w c => if 56 ≤ c then none else some (elemOff (viewAt q w) c 512, 512)
  | .tile t => some (elemOff (viewAt q 2) t 16384, 16384)
  | .shape h => some (elemOff (viewAt q 3) h 64, 64)
  | .portd p => some (elemOff (viewAt q 4) p 64, 64)

/-- The check of spec/04 R64 for one name. Shadow scalars are not in the window (spec/20 R380). -/
def Name.ok (q : Seq) : Name → Bool
  | .scalar r => (q.inHandler && r < 16) || elemOk (viewAt q 0) r 64 8
  | .vec w c => 56 ≤ c || elemOk (viewAt q w) c 56 512
  | .tile t => elemOk (viewAt q 2) t 16 16384
  | .shape h => elemOk (viewAt q 3) h 8 64
  | .portd p => elemOk (viewAt q 4) p 8 64

/-- Do two byte ranges meet. -/
def meet (a m b n : Nat) : Bool := a < b + n && b < a + m

/-- The window bytes of a place. -/
def Dest.ranges : Dest → List (Nat × Nat)
  | .bytes o l => [(o, l)]
  | .parts l => l.map fun p => (p.1, p.2.2)
  | _ => []
/-- Where an access delivers a result. -/
def AccKind.dest : AccKind → Option Dest
  | .load d _ _ | .bank _ _ _ _ d | .seal d | .last d _ => some d
  | _ => none
/-- The same access, delivering elsewhere. -/
def AccKind.to (k : AccKind) (d : Dest) : AccKind := match k with
  | .load _ w sg => .load d w sg
  | .bank op ty y c _ => .bank op ty y c d
  | .seal _ => .seal d
  | .last _ i => .last d i
  | k => k
/-- A range, as window offset, place and bytes, less another one. -/
def cutPart (p : Nat × Nat × Nat) (r : Nat × Nat) : List (Nat × Nat × Nat) :=
  if !meet p.1 p.2.2 r.1 r.2 then [p]
  else (if p.1 < r.1 then [(p.1, p.2.1, r.1 - p.1)] else []) ++
    (if r.1 + r.2 < p.1 + p.2.2 then [(r.1 + r.2, p.2.1 + (r.1 + r.2 - p.1), p.1 + p.2.2 - (r.1 + r.2))] else [])
/-- What a slot of higher class of the same bundle leaves of a result (spec/02 R29). -/
def Dest.less (d x : Dest) : Dest :=
  if d = x then .discard
  else
    let cut := fun (l : List (Nat × Nat × Nat)) => x.ranges.foldl (fun l r => (l.map fun p => cutPart p r).flatten) l
    match d with
    | .bytes o l => if x.ranges.any fun r => meet o l r.1 r.2 then .parts (cut [(o, 0, l)]) else d
    | .parts l => .parts (cut l)
    | d => d

/-- Window bytes that an outstanding operation of the sequencer will write (spec/02 R13 readiness, spec/04 R66). -/
def pendingBytes (q : Seq) : List (Nat × Nat) := (q.acc.map fun a => (a.kind.dest.elim [] Dest.ranges)).flatten
/-- Shadow scalars that an outstanding operation will write. -/
def pendingShadow (q : Seq) : List Nat := q.acc.filterMap fun a => match a.kind.dest with
  | some (.shadow r) => some r
  | _ => none
/-- Window bytes that the matrix queue still reads or writes for the sequencer (spec/04 R66, spec/08 R161, R165). -/
def matrixBytes (mq : List MtxEntry) (n : Nat) : List (Nat × Nat) := mq.filterMap fun e =>
  if e.seq ≠ n then none else match e.op with
  | .zero | .commit _ => some (e.off, 16384)
  | .mma .. => if e.opens then some (e.off, 16384) else none
  | .stab .. => none

/-- May the bundle name this register (spec/01 R13): what earlier bundles left outstanding does not meet it, through the
views as they stood before the bundle (spec/02 R29, spec/04 R64). Tiles wait only for outstanding register writes: the
matrix queue keeps its own order. -/
def Name.ready (b : Issue) (x : Name) : Bool := match x with
  | .scalar r => (!(b.before.inHandler && r < 16) || !(pendingShadow b.before).contains r) && clear x true
  | .tile _ => clear x false
  | _ => clear x true
where
  clear (x : Name) (matrix : Bool) : Bool := match x.range b.before with
    | none => true
    | some (o, l) => !(pendingBytes b.before).any (fun p => meet o l p.1 p.2) &&
        !(matrix && (matrixBytes b.mq b.n).any (fun p => meet o l p.1 p.2))

/-- A scalar as it stood before the bundle (spec/02 R29, spec/04 R65, spec/20 R380). -/
def Issue.rs (b : Issue) (r : Reg) : Word :=
  if r = 0 then 0
  else if b.before.inHandler && r.toNat < 16 then b.before.shadow.getD r.toNat 0
  else BitVec.ofNat 64 (b.regs.readNat (b.before.winBase + elemOff (viewAt b.before 0) r.toNat 8) 8)

/-- A vector as it stood before the bundle, through view `w`. -/
def Issue.rv (b : Issue) (w : Nat) (r : Reg) : Vec :=
  BitVec.ofNat 4096 (b.regs.readNat (b.before.winBase + elemOff (viewAt b.before w) r.toNat 512) 512)

/-- A mask as it stood before the bundle. -/
def Issue.rk (b : Issue) (k : BitVec 3) : Mask := b.before.masks.getD k.toNat 0

namespace State

/-- Physical address of a register-space byte of a core (spec/09 R176, R177). -/
def regPa (g off : Nat) : Nat := 0x030000000000 + g * 0x100000 + off

/-- Write window bytes of a sequencer; whole granules written anew are no longer poisoned (spec/09 R188). -/
def writeWin (s : State) (n off len v : Nat) : State :=
  let a := (s.seq n).winBase + off
  let s := s.modCore (coreOf n) fun c => { c with regs := c.regs.write a len v }
  if s.poison = [] then s
  else { s with poison := s.poison.filter fun g => !(regPa (coreOf n) a ≤ g && g + 8 ≤ regPa (coreOf n) a + len) }

/-- Change the bundle being issued. -/
def modIssue (s : State) (f : Issue → Issue) : State := { s with issue := s.issue.map f }

/-- A slot of the bundle has this register result (spec/02 R29). -/
def note (s : State) (b : Issue) (d : Dest) : State := s.modIssue fun x => { x with wrote := x.wrote ++ [(b.cls, d)] }
/-- A slot writes window bytes. -/
def wb (s : State) (b : Issue) (off len v : Nat) : State := (s.writeWin b.n off len v).note b (.bytes off len)

/-- Write a scalar result: s0 discards it; a handler's s1 to s15 are shadow scalars. Register numbers and views
are those before the bundle (spec/04 R64, R65, spec/20 R380). -/
def ws (s : State) (b : Issue) (r : Reg) (v : Word) : State :=
  if r = 0 then s
  else if b.before.inHandler && r.toNat < 16 then (s.modSeq b.n fun q => { q with shadow := q.shadow.set r.toNat v }).note b (.shadow r.toNat)
  else s.wb b (elemOff (viewAt b.before 0) r.toNat 8) 8 v.toNat

/-- Write a vector result to a register of view `w`. -/
def wv (s : State) (b : Issue) (w : Nat) (r : Reg) (v : Vec) : State :=
  s.wb b (elemOff (viewAt b.before w) r.toNat 512) 512 v.toNat

/-- Write a mask. -/
def wk (s : State) (b : Issue) (k : BitVec 3) (v : Mask) : State :=
  s.modSeq b.n fun q => { q with masks := q.masks.set k.toNat v }

end State

/-- Where a scalar result that comes later goes. -/
def scalarDest (b : Issue) (r : Reg) : Dest :=
  if r = 0 then .discard
  else if b.before.inHandler && r.toNat < 16 then .shadow r.toNat
  else .bytes (elemOff (viewAt b.before 0) r.toNat 8) 8

/-! ### Port descriptors (spec/13 R250, R251) -/

def pdBase (d : BitVec 512) : Nat := fld d.toNat 47 0
def pdOut (d : BitVec 512) : Bool := bit d.toNat 64
def pdWidth (d : BitVec 512) : Nat := 2 ^ fld d.toNat 66 65
def pdCount (d : BitVec 512) (i : Nat) : Nat := fld d.toNat (128 + 64 * i + 31) (128 + 64 * i)
def pdStride (d : BitVec 512) (i : Nat) : Int := toInt 32 (fld d.toNat (160 + 64 * i + 31) (160 + 64 * i))
def pdPatrec (d : BitVec 512) : Nat := fld d.toNat 431 384
/-- Elements and vectors of the walk. -/
def pdTotal (d : BitVec 512) : Nat := pdCount d 0 * pdCount d 1 * pdCount d 2 * pdCount d 3
def pdPer (d : BitVec 512) : Nat := 512 / pdWidth d
def pdVectors (d : BitVec 512) : Nat := (pdTotal d + pdPer d - 1) / pdPer d
/-- What a walk takes of the vector of number `k`: bytes beyond its last element are zero (spec/13 R251, spec/15 R295). -/
def cutVec (d : BitVec 512) (k v : Nat) : Nat := v % 2 ^ (8 * (Nat.min (pdPer d) (pdTotal d - k * pdPer d) * pdWidth d))

/-- The vector of a port's entry has come: into the entry, or into its writes where they have issued, and into the
forwarding buffer, which nothing has joined since it was pushed (spec/15 R295). -/
def fillEntry (q : Seq) (p e v : Nat) : Seq :=
  let x := q.ports.getD p {}
  { q with fwd := q.fwd.map fun f => if f.1 = p then (f.1, f.2.1, f.2.2 ++ [BitVec.ofNat 4096 (cutVec x.desc (x.moved - 1) v)]) else f
           ports := upd q.ports p fun x => { x with buf := x.buf.map fun y => if y.id = e then { y with vec := some (BitVec.ofNat 4096 v) } else y }
           acc := q.acc.map fun a => if a.kind = .portOut p e then { a with data := v } else a }
/-- Deliver a result that comes after its bundle. -/
def deliver (s : State) (n : Nat) (d : Dest) (v : Nat) : State := match d with
  | .discard => s
  | .bytes o l => s.writeWin n o l v
  | .parts l => l.foldl (fun s p => s.writeWin n p.1 p.2.2 (v / 2 ^ (8 * p.2.1) % 2 ^ (8 * p.2.2))) s
  | .shadow r => s.modSeq n fun q => { q with shadow := q.shadow.set r (BitVec.ofNat 64 v) }
  | .port p e => s.modSeq n fun q => fillEntry q p e v

/-! ### Banks (spec/15 R292) -/

/-- The bank a bundle uses: the consumer's code of a spliced sequencer has its own. -/
def Seq.bankOf (q : Seq) (consumer : Bool) : Bank := if consumer then q.cons.getD {} else q.bank
def Seq.setBank (q : Seq) (consumer : Bool) (k : Bank) : Seq :=
  if consumer then { q with cons := some k } else { q with bank := k }
/-- FMT in effect for the bundle (spec/04 R72). -/
def Issue.fmt (b : Issue) : BitVec 32 := (b.before.bankOf b.consumer).fmt
/-- Fields of FMT (spec/04 R70). -/
def fmtVF (f : BitVec 32) : Fmt := fmtOf (bits f.toNat 6 3)
def fmtMA (f : BitVec 32) : Fmt := fmtOf (bits f.toNat 10 7)
def fmtMB (f : BitVec 32) : Fmt := fmtOf (bits f.toNat 14 11)
def fmtRM (f : BitVec 32) : Nat := bits f.toNat 16 15
def fmtSE (f : BitVec 32) : Bool := bits f.toNat 17 17 = 1
def fmtSC (f : BitVec 32) : Bool := bits f.toNat 18 18 = 1
def fmtACC (f : BitVec 32) : Bool := bits f.toNat 19 19 = 1

/-! ### Traps, stalls and slots (spec/02 R442) -/

def Cause.code : Cause → Nat
  | .illegalBundle => 1 | .illegalInstr => 2 | .reservedField => 3 | .badTarget => 4 | .viewOut => 5 | .misaligned => 6
  | .translation => 7 | .permission => 8 | .dataAbort => 9 | .sealMismatch => 10 | .landingOverflow => 11
  | .compareMismatch => 12 | .softTrap => 13 | .loopOverflow => 14 | .channelFault => 15 | .scaleFault => 16
  | .ampMap => 17 | .queueSpill => 18 | .retentionLoss => 19 | .twinMismatch => 20

/-- FLAGS bits of the fault record (spec/20 R377). -/
def flagHeld : Nat := 1
def flagFormat : Nat := 2
def flagShape : Nat := 4
def flagWelt : Nat := 8
def flagDomain : Nat := 16
def flagDescriptor : Nat := 32
def flagPrecise : Nat := 64

/-- Order in which raised traps are reported (spec/02 R442): phase, position, a held repeat before the encoded slot. -/
def Raised.before (x y : Raised) : Bool :=
  x.phase < y.phase || (x.phase = y.phase && (x.pos < y.pos || (x.pos = y.pos && x.trap.held && !y.trap.held)))

/-- The first raised trap. -/
def firstRaised : List Raised → Option Raised
  | [] => none
  | x :: t => match firstRaised t with
    | none => some x
    | some y => if y.before x then some y else some x

/-- A trap of the slot being issued. -/
def State.raise (s : State) (phase : Nat) (t : Trap) : State :=
  s.modIssue fun b => { b with raised := b.raised ++ [⟨phase, b.pos, { t with slot := b.pos, held := b.held }⟩] }

/-- The bundle does not issue now. A bundle that is not ready is not tried for its waits. -/
def State.stalled (s : State) (w : Stall) : State :=
  s.modIssue fun b => { b with stall := match b.stall, w with
    | some .notReady, _ => some .notReady
    | _, .notReady => some .notReady
    | some x, _ => some x
    | none, x => some x }

/-- What a slot needs beside its effect. -/
structure SlotNeeds where
  names : List Name := []         -- registers the slot names, whose accessibility is checked (spec/04 R64)
  reads : List Name := []         -- those whose bytes it reads (spec/09 R178)
  ready : Bool := true            -- engines and queues (spec/01 R13)
  early : Option Trap := none     -- a taken transfer's bad target (spec/02 R44)
  uses : List Name := []          -- the operands that target depends on
  view : Bool := true             -- the check of a new view (spec/04 R64)
  fmtOk : Bool := true            -- the format check (spec/07 R127)
  checks : List (Option Trap) := []
  wait : Option Wait := none      -- a wait whose condition is unmet

/-- An operand read that meets an uncorrectable word of register space (spec/09 R178). -/
def regAbort (s : State) (b : Issue) (l : List Name) : Option Trap :=
  if s.poison = [] then none
  else ((l.filter (· ≠ Name.scalar 0)).filterMap (Name.range b.before)).findSome? fun r =>
    let a := State.regPa (coreOf b.n) (b.before.winBase + r.1)
    (s.poison.find? fun g => meet a r.2 g 8).map fun g => { cause := .dataAbort, addr := g }

/-- The bad target of a slot, once the operands it depends on can be read (spec/02 R45, R442 phase 1, log 51). -/
def SlotNeeds.badTarget (r : SlotNeeds) (s : State) (b : Issue) : Option Trap :=
  if (r.uses.all fun x => x.ok b.before && x.ready b) && (regAbort s b r.uses).isNone then r.early else none

/-- One slot of the bundle being issued: a bad target (phase 1 of spec/02 R442), which no engine and no other register
holds back; readiness; the checks of phases 2, 3 and 4; then its wait, then its effect. Outside a bundle a slot does
nothing. -/
def slot (s : State) (needs : Issue → SlotNeeds) (effect : Issue → State → State) : State :=
  match s.issue with
  | none => s
  | some b =>
    let r := needs b
    match r.badTarget s b with
    | some t => s.raise 1 t
    | none =>
      if !r.ready || !r.names.all (fun x => !x.ok b.before || x.ready b) then s.stalled .notReady
      else if !(r.names.all fun x => x.ok b.before) || !r.view then s.raise 2 { cause := .viewOut }
      else if !r.fmtOk then s.raise 3 { cause := .illegalInstr, flags := flagFormat }
      else match firstSome (regAbort s b r.reads :: r.checks) with
        | some t => s.raise 4 t
        | none => match r.wait with
          | some w => s.stalled (.wait w)
          | none => effect b s

/-- A trap with a cause when a condition fails. -/
def need (ok : Bool) (c : Cause) (flags : Nat := 0) : Option Trap := if ok then none else some { cause := c, flags := flags }

/-! ### Taking a trap and returning (spec/01 R17, spec/20 R376-R378) -/

def SqState.code : SqState → Nat
  | .idle => 0 | .running => 1 | .waiting => 2 | .preempted => 3 | .faulted => 4 | .frozen => 5 | .calved => 6 | .retired => 7

/-- Is the launch a task launch (spec/14 R274). -/
def Ctx.isTask (c : Ctx) : Bool := fld c.packet.toNat 7 0 = 2
/-- A field of the launch record: byte offset and length (spec/14 R275). -/
def Ctx.lr (c : Ctx) (off len : Nat) : Nat := c.lrec / 2 ^ (8 * off) % 2 ^ (8 * len)
/-- PREBUD of a launch (spec/14 R275). -/
def prebud (c : Ctx) : Nat := if c.lr 124 4 = 0 then 20000 else c.lr 124 4

/-- SEQID (spec/00 R4, spec/04 R74). -/
def seqId (s : State) (n : Nat) : Nat := s.sys.modid * 2048 + n

/-- The kernel id of a bundle, and its start in that kernel's own image (spec/15 R298, spec/18 R354). -/
def kernelAt (c : Ctx) (pc : Nat) : Nat × Nat := match c.splice with
  | none => (c.image.kid, pc)
  | some sp => match sp.bundles.find? (fun e => e.1 = pc) with
    | some (_, con, orig, _) => (if con then sp.ckid else sp.pkid, orig)
    | none => (sp.pkid, pc)

/-- The 64-byte fault record (spec/20 R377). -/
def faultRecord (s : State) (n : Nat) (t : Trap) (pc : Nat) (precise : Bool) : BitVec 512 :=
  let q := s.seq n
  let c := s.ctxOf n
  let (kid, orig) := kernelAt c pc
  let flags := t.flags + (if t.held then flagHeld else 0) + (if precise then flagPrecise else 0)
  let b := fun (x lo : Nat) => x * 2 ^ (8 * lo)
  BitVec.ofNat 512 (b t.cause.code 0 + b (flags + (if c.splice.isSome then 128 else 0)) 1 + b t.slot 2 + b q.st.code 3 +
    b (if t.code then c.image.kid else kid) 4 + b (if t.code then 0 else orig) 8 + b (seqId s n) 12 +
    b ((s.seq n).ctx.getD 0) 16 + b c.asid 18 + b t.xlat 20 + b (t.addr % 2 ^ 64) 24 + b (t.aux % 2 ^ 64) 32 +
    b (t.info % 2 ^ 64) 40 + b q.stepno 48 + b (s.sys.dtime % 2 ^ 64) 56)

/-- Has the watch of a sequencer triggered. -/
def triggered (q : Seq) : Bool := match q.watch with
  | some (_, _, t) => t
  | none => false
/-- Why an `mwait` ends, where more than one reason has arisen: the lowest code (spec/11 R224). -/
def mwaitCode (s : State) (q : Seq) (until_ : Option Nat) (code : Nat) : Nat :=
  if triggered q then 0 else if until_.any (· ≤ s.sys.dtime) then 1 else code
/-- A sequencer leaves running or waiting for a stop: an mwait ends with reason 3, every other wait is kept with the
PC rule of spec/20 R379. `dest` is the state entered. -/
def stopSeq (s : State) (n : Nat) (dest : SqState) : State :=
  let q := s.seq n
  let s := match q.wait with
    | some (.mwait d u) => deliver s n d (mwaitCode s q u 3)
    | _ => s
  s.modSeq n fun q => match q.wait with
    | some (.mwait _ _) => { q with prev := .running, wait := none, watch := none, st := dest, stopReq := false }
    | w => { q with prev := q.st, st := dest, watch := none, stopReq := false, wait := w.map fun x => match x with
        | .tbwait _ _ _ => .slot     -- evaluated afresh when the sequencer runs again (spec/19 R364)
        | x => x }

/-- Has PREBUD passed since the stop request of the sequencer's context (spec/20 R390). -/
def overBudget (s : State) (n : Nat) : Bool := (s.ctxOf n).stopAt.any fun t => t + (s.seq n).prebud ≤ s.sys.dtime
/-- Does a stop request take effect at the boundary where the sequencer stands: outside every loop, while it waits, or once
PREBUD has passed (spec/14 R284, spec/20 R383, R390). -/
def stopDue (s : State) (n : Nat) : Bool :=
  (s.seq n).stopReq && ((s.seq n).loops = [] || (s.seq n).st = .waiting || overBudget s n)
/-- May a sequencer in this state take a cause: it stands at a boundary. -/
def SqState.takesCause (x : SqState) : Bool := x.live || x = .idle || x = .retired
/-- Of the sequencers of one context that take a fault in one cycle, the one of lowest number is named (spec/01 R17): none
below `n` has a cause at its boundary. -/
def firstFault (s : State) (n : Nat) : Bool := match (s.seq n).ctx with
  | none => true
  | some c => (s.ctx c).seqs.all fun m => n ≤ m || !(s.seq m).st.takesCause || (s.seq m).causes = []

/-- Take a trap: the sequencer becomes faulted with its record, every other live sequencer of its context enters
preempted, and the context starts to stop (spec/01 R17, spec/20 R376). `saved` is the PC at which it resumes. -/
def takeTrap (s : State) (n : Nat) (t : Trap) (pc saved : Nat) (precise : Bool) : State :=
  let rec_ := faultRecord s n t pc precise
  match (s.seq n).ctx with
  | none => s
  | some c =>
    let others := (s.ctx c).seqs.filter fun m => m ≠ n && (s.seq m).st.live
    let s := others.foldl (fun s m => stopSeq s m .preempted) s
    let s := (stopSeq s n .faulted).modSeq n fun q => { q with pc := saved }
    let s := s.modCtx c fun x => { x with st := .stopping, frec := rec_, faulted := x.faulted.filter (· ≠ n) ++ [n], fromPf := t.stage2 }
    (s.ctx c).cores.foldl (fun s g => promote s g) s

/-- A cause that arises outside any bundle waits in the sequencer for its boundary, in order of arrival (spec/20 R376). -/
def addCause (s : State) (n : Nat) (t : Trap) : State := s.modSeq n fun q => { q with causes := q.causes ++ [t] }
/-- Causes that arrive together: in rising code (spec/20 R376). -/
def addCauses (s : State) (n : Nat) (l : List Trap) : State := (sortBy (fun t => t.cause.code) l).foldl (fun s t => addCause s n t) s

/-- Return of a sequencer to the state before the stop: the faulting one becomes running at its PC; one that was idle or
retired at the fault is so again (spec/20 R376, R378). -/
def returnFromStop (s : State) (n : Nat) : State := (settleSeq s n).modSeq n fun q =>
  if q.st = .faulted then { q with st := if q.prev = .idle || q.prev = .retired then q.prev else .running, prev := .idle }
  else if q.st = .preempted then { q with st := q.prev, prev := .idle } else q

/-! ### User-level interrupts (spec/20 R379-R381) -/

/-- The source of the ULI pending and enabled, if any; bit 0 comes first. -/
def uliPending (q : Seq) : Option Nat :=
  if q.inHandler then none
  else if q.ulist.getLsbD 0 && q.ulimask.getLsbD 0 then some 0
  else if q.ulist.getLsbD 1 && q.ulimask.getLsbD 1 then some 1
  else none

/-- The handler's FMT keeps the control fields; no flag, no pending write, no held slot (spec/04 R73). -/
def handlerBank (k : Bank) : Bank := { fmt := BitVec.ofNat 32 (k.fmt.toNat % 2 ^ 20 / 8 * 8), shadow := [], held := [] }

/-- The wait that a return from the handler resumes: a pending domain or T belongs to the interrupted program. -/
def heldWait (q : Seq) : Option Wait := if q.pendDom.isSome then some .dsync else if q.pendT.isSome then some .waitt else q.wait
/-- Entry to the handler, in one step (spec/20 R380). A waiting mwait ends with reason 2 and the next bundle. -/
def enterHandler (s : State) (n b : Nat) : State :=
  let q := s.seq n
  let s := match q.wait with
    | some (.mwait d u) => deliver s n d (mwaitCode s q u 2)
    | _ => s
  s.modSeq n fun q =>
    let taken := BitVec.ofNat 2 (2 ^ b)
    let watch := match q.wait with
      | some (.mwait _ _) => none
      | _ => q.watch
    { q with
      saved := some { pc := q.pc, loops := q.loops, bank := q.bank, cons := q.cons, wait := heldWait q, pendT := q.pendT }
      pendT := none
      loops := []
      bank := handlerBank q.bank
      cons := q.cons.map handlerBank
      ulist := q.ulist &&& ~~~ taken
      inHandler := true
      shadow := ((q.shadow.set 1 (BitVec.ofNat 64 (b + 1))).set 2 (BitVec.ofNat 64 q.uliChan)).set 3 (BitVec.ofNat 64 q.pc)
      st := .running
      wait := none
      watch := watch
      pc := q.ulivec }

/-- Return from the handler (spec/20 R381). Where a dsync, waitt or step waits still, the sequencer waits again. -/
def leaveHandler (q : Seq) : Seq := match q.saved with
  | none => q
  | some v =>
    let again := match v.wait with
      | some .dsync => q.pendDom.isSome
      | some .waitt => v.pendT.isSome
      | some .step => true
      | _ => false
    { q with pc := v.pc, loops := v.loops, bank := v.bank, cons := v.cons, saved := none, inHandler := false, pendT := v.pendT
             st := if again then .waiting else .running
             wait := if again then v.wait else none }

/-! ### Instruction memory and bundle starts (spec/02 R28) -/

def instrWord (c : Core) (a : Nat) : BitVec 32 := c.imem.getD (a / 4) 0
/-- Is an address a bundle start (spec/02 R28). -/
def bundleStart (c : Core) (a : Nat) : Bool :=
  a % 4 = 0 && a < 0x40000 && (a = 0 || slotStop (instrWord c (a - 4)).toNat)

/-! ### Exit link (spec/01 R26) -/
def exitLink : Nat := 0x40000
def exitWord : Word := 0x40000

end Sys2Proof.Machine
end

