-- ==== Sys2Proof/Machine/Translate.lean ====
section
/-! DEFINITION. The physical map (spec/09 R176), the walks (spec/17 R320-R326), the translation caches (R329, R330)
and the checks that follow a translation (R325). -/
set_option linter.unusedVariables false
namespace Sys2Proof.Machine
open Sys2Proof

/-- What a module-local physical address names (spec/09 R176, R186). -/
inductive Region where
  | hbm (d : Nat) | feState | staging (d slice : Nat) | scratch (g : Nat) | regspace (g : Nat)
  | aperture (g ch : Nat) | control | firnUser | firnFw | none
deriving DecidableEq, Repr

def regionOf (pa : Nat) : Region :=
  if pa < 0x008000000000 then
    if 0x001FFFF00000 ≤ pa ∧ pa < 0x002000000000 then .feState else .hbm (pa / 0x2000000000)
  else if 0x010000000000 ≤ pa ∧ pa < 0x010020000000 then
    .staging ((pa - 0x010000000000) / 0x8000000) ((pa - 0x010000000000) % 0x8000000 / 0x200000)
  else if 0x020000000000 ≤ pa ∧ pa < 0x020100000000 then .scratch ((pa - 0x020000000000) / 0x800000)
  else if 0x030000000000 ≤ pa ∧ pa < 0x030020000000 then .regspace ((pa - 0x030000000000) / 0x100000)
  else if 0x040000000000 ≤ pa ∧ pa < 0x040002000000 then
    .aperture ((pa - 0x040000000000) / 0x10000) ((pa - 0x040000000000) % 0x10000 / 0x1000)
  else if 0x050000000000 ≤ pa ∧ pa < 0x050040000000 then .control
  else if 0x100000000000 ≤ pa ∧ pa < 0x101F80000000 then .firnUser
  else if 0x101F80000000 ≤ pa ∧ pa < 0x110000000000 then .firnFw
  else .none

/-- Is a path admitted for a region by a requester on core `g`: S, P, M and A reach the scratchpads of their own
cluster, X and F reach any (spec/09 R175, R176). The aperture is decided with the store's width, in `apertureOk`. -/
def admitted (path : Path) (g : Nat) : Region → Bool
  | .hbm _ | .staging _ _ => true
  | .feState => false
  | .scratch h => match path with
    | .s | .p | .m | .a => clusterOf h = clusterOf g
    | .x | .f => true
    | .b => false
  | .regspace _ | .control | .firnFw => path = .f
  | .firnUser => path = .x || path = .f
  | .aperture _ _ | .none => false

/-- Paths admitted for another module's memory (spec/09 R176). -/
def admittedFabric (path : Path) : Region → Bool
  | .hbm _ | .staging _ _ => path = .s || path = .x || path = .b
  | .scratch _ => path = .x
  | _ => false

/-- Size of an error granule (spec/09 R188). -/
def granule (pa : Nat) : Nat := match regionOf pa with
  | .scratch _ | .regspace _ => 8
  | _ => 32
/-- Does a BAU home the address: staging memory and HBM (spec/09 R184). -/
def bauHomed (pa : Nat) : Bool := match regionOf pa with
  | .hbm _ | .staging _ _ => true
  | _ => false

/-- The die that holds an address; register spaces, scratchpads, staging and HBM belong to dies. -/
def dieOfPa (pa : Nat) : Option Nat := match regionOf pa with
  | .hbm d | .staging d _ => some d
  | .feState => some 0
  | .scratch g | .regspace g | .aperture g _ => some (dieOf g)
  | _ => none

/-! ### Keys (spec/17 R327) -/

/-- Is data of the region stored encrypted (spec/17 R327). -/
def encrypted (pa : Nat) : Bool := match regionOf pa with
  | .hbm _ | .firnUser | .feState => true
  | _ => false
/-- Was every sector of the range written under this key (unwritten sectors count as key 0). -/
def sameKey (s : State) (pa len key : Nat) : Bool :=
  !encrypted pa || (List.range ((pa + len - 1) / 32 - pa / 32 + 1)).all fun k => s.keyOf.getD (pa / 32 + k) 0 = key
/-- One byte read under a key: another key's decryption where the sector was written under another (spec/17 R327). -/
def byteUnder (s : State) (pa key : Nat) : BitVec 8 :=
  let k := s.keyOf.getD (pa / 32) 0
  if k = key then s.mem.get pa else Config.wrongKeyByte k key pa (s.mem.get pa)
def bytesUnder (s : State) (key : Nat) : Nat → Nat → Nat
  | 0, _ => 0
  | n + 1, pa => (byteUnder s pa key).toNat + 256 * bytesUnder s key n (pa + 1)
/-- Bytes of ordinary memory under a key. -/
def plainRead (s : State) (pa len key : Nat) : Nat := if sameKey s pa len key then s.mem.readNat pa len else bytesUnder s key len pa

/-- A failed translation or check (spec/17 R333). -/
structure XFault where
  cause : Cause
  va : Nat
  stage : Nat := 1
  level : Nat := 0
  ipa : Nat := 0
  keyf : Bool := false
deriving DecidableEq, Repr

/-- A leaf as one stage gives it. -/
structure Leaf where
  frame : Nat
  size : Nat
  level : Nat
  fab : Bool
  key : Nat
  r : Bool
  w : Bool
  x : Bool
  c : Bool
  a : Bool
deriving DecidableEq, Repr

/-- Size of the page a leaf at a level maps (spec/17 R320). -/
def levelSize : Nat → Nat
  | 1 => 0x1000 | 2 => 0x200000 | 3 => 0x40000000 | _ => 0x8000000000
/-- Is ADDR this module's own (spec/17 R323). -/
def ownAddr (modid a : Nat) : Bool := a / 2 ^ 46 = 0 || a / 2 ^ 46 = modid

/-- One entry of a walk (spec/17 R322, R323): none for a fault, the next table, or a leaf. -/
inductive Entry where
  | bad | table (a : Nat) | leaf (l : Leaf)

def readEntry (e modid level : Nat) : Entry :=
  let addr := e / 2 ^ 12 % 2 ^ 44 * 2 ^ 12
  let isLeaf := bit e 1
  let attrs := e / 4 % 64   -- PS A C X W R
  if !bit e 0 || bit e 63 || e / 2 ^ 8 % 16 ≠ 0 then .bad
  else if isLeaf then
    let ps := bit e 7
    let size := if level = 1 ∧ ps = true then 0x10000 else levelSize level
    if level = 4 || (ps && level ≠ 1) || addr % size ≠ 0 || (!bit e 62 && !ownAddr modid addr) then .bad
    else .leaf { frame := addr, size := size, level := level, fab := bit e 62, key := e / 2 ^ 56 % 64,
                 r := bit e 2, w := bit e 3, x := bit e 4, c := bit e 5, a := bit e 6 }
  else if level = 1 || attrs ≠ 0 || e / 2 ^ 56 % 128 ≠ 0 || !ownAddr modid addr then .bad
  else .table addr

/-- Does an entry of a table lie in a poisoned granule: it is not delivered (spec/09 R187, log 101). -/
def entryBad (poison : List Nat) (a : Nat) : Bool := poison.any fun g => meet a 8 g (granule g)
/-- Is the group of 16 entries that holds an L1 leaf one page, or 16 pages of 4 KiB (spec/17 R324). -/
def groupOk (e : Nat) (group : List Nat) : Bool := group.all (· = e) || !group.any fun x => bit x 0 && bit x 7
/-- A walk over the levels given, from a table's address; `tab` turns a table's address into a physical one and the key it
is read under (stage 2 translates the tables of stage 1, spec/17 R326; other tables are read under key 0, log 48). -/
def walk (s : State) (stage va : Nat) (tab : Nat → Except XFault (Nat × Nat)) : List Nat → Nat → Except XFault Leaf
  | [], _ => .error { cause := .translation, va := va, stage := stage, level := 1 }
  | lv :: more, t => match tab t with
    | .error f => .error f
    | .ok (p, key) =>
      let idx := va / 2 ^ (12 + 9 * (lv - 1)) % 512
      let e := plainRead s (p + 8 * idx) 8 key
      if entryBad s.poison (p + 8 * idx) then .error { cause := .dataAbort, va := va, stage := stage, level := lv }
      else match readEntry e s.sys.modid lv with
      | .bad => .error { cause := .translation, va := va, stage := stage, level := lv }
      | .table a => if lv = 1 then .error { cause := .translation, va := va, stage := stage, level := lv }
        else walk s stage va tab more a
      | .leaf l =>
        if lv = 1 && !groupOk e ((List.range 16).map fun k => plainRead s (p + 8 * (idx / 16 * 16 + k)) 8 key) then
          .error { cause := .translation, va := va, stage := stage, level := lv }
        else .ok l

def funcEntry (s : State) (f : Nat) : Nat := (s.sys.funcs.getD f (if f = 0 then 0 else 1)).toNat
def asidEntry (s : State) (a : Nat) : Nat := (s.sys.asids.getD a 0).toNat
def asidFunc (s : State) (a : Nat) : Nat := fld (asidEntry s a) 6 1

/-- Stage 2 of an intermediate physical address of function `f`. -/
def stage2 (s : State) (f va ipa : Nat) : Except XFault Leaf :=
  if 2 ^ 48 ≤ ipa then .error { cause := .translation, va := va, stage := 2, level := 0, ipa := ipa }
  else match walk s 2 ipa (fun a => .ok (a % 2 ^ 46, 0)) [4, 3, 2, 1] (fld (funcEntry s f) 55 12 * 4096 % 2 ^ 46) with
    | .error x => .error { x with va := va, ipa := ipa }
    | .ok l => .ok l

/-- Where a table of stage 1 stands, and the key it is read under. A stage-2 leaf that names another module admits no F
access, so the read is a permission fault (spec/09 R176, spec/17 R322, log 48). -/
def tableAt (s : State) (f va a : Nat) : Except XFault (Nat × Nat) :=
  if !bit (funcEntry s f) 0 then .ok (a % 2 ^ 46, 0)
  else match stage2 s f va a with
    | .error x => .error x
    | .ok l => if l.fab && !ownAddr s.sys.modid l.frame then .error { cause := .permission, va := va, stage := 2, level := l.level, ipa := a }
      else .ok (l.frame % 2 ^ 46 + a % l.size, l.key)
/-- The effective translation of a virtual address (spec/17 R320-R326). -/
def translate (s : State) (asid va : Nat) : Except XFault Tlb :=
  if 2 ^ 48 ≤ va then .error { cause := .translation, va := va, stage := 1, level := 0 }
  else
    let ae := asidEntry s asid
    if !bit ae 0 then .error { cause := .translation, va := va, stage := 1, level := 5 }
    else
      let f := fld ae 6 1
      let s2 := bit (funcEntry s f) 0
      match walk s 1 va (tableAt s f va) [4, 3, 2, 1] (fld ae 55 12 * 4096) with
      | .error x => .error { x with va := va }
      | .ok l =>
        let perm := l.r.toNat + 2 * l.w.toNat + 4 * l.x.toNat
        if !s2 then
          .ok { asid := asid, va := va / l.size * l.size, ipa := 0, s1 := perm, lvl1 := l.level, size := l.size, pa := l.frame,
                fab := l.fab, key := l.key, r := l.r, w := l.w, x := l.x, c := l.c, a := l.a }
        else
          let ipa := l.frame + va % l.size
          match stage2 s f va ipa with
          | .error x => .error x
          | .ok m =>
            let size := Nat.min l.size m.size
            .ok { asid := asid, va := va / size * size, ipa := ipa / size * size, s1 := perm, lvl1 := l.level, lvl2 := m.level,
                  size := size, pa := m.frame + ipa % m.size / size * size, fab := m.fab, key := m.key,
                  r := l.r && m.r, w := l.w && m.w, x := l.x && m.x, c := l.c && m.c, a := l.a || m.a }

/-- Which core TLB serves an access (spec/17 R329). -/
inductive Which where
  | itlb | dtlb | etlb | shared
deriving DecidableEq, Repr

def tlbHit (l : List Tlb) (asid va : Nat) : Option Tlb := l.find? fun e => e.asid = asid && e.va ≤ va && va < e.va + e.size

def coreTlb (c : Core) : Which → List Tlb
  | .itlb => c.itlb | .dtlb => c.dtlb | .etlb => c.etlb | .shared => []
def tlbCap : Which → Nat
  | .itlb => 64 | .dtlb => 128 | .etlb => 256 | .shared => 8192

/-- Core TLB, then shared TLB, then a walk (spec/17 R330). -/
def lookup (s : State) (g : Nat) (wh : Which) (asid va : Nat) : Except XFault Tlb :=
  match tlbHit (coreTlb (s.core g) wh) asid va with
  | some e => .ok e
  | none => match tlbHit (s.die (dieOf g)).tlb asid va with
    | some e => .ok e
    | none => translate s asid va

/-- Put a translation at the front, dropping the least recently used (spec/17 R329). -/
def lruPut (cap : Nat) (e : Tlb) (l : List Tlb) : List Tlb :=
  (e :: l.filter (fun x => x.asid ≠ e.asid || x.va ≠ e.va)).take cap

/-- Install a translation in the core TLB that missed and in the shared TLB, counting a miss (spec/17 R331). -/
def install (s : State) (g : Nat) (wh : Which) (e : Tlb) : State :=
  let hit := (tlbHit (coreTlb (s.core g) wh) e.asid e.va).isSome
  let s := s.modCore g fun c =>
    let c := match wh with
      | .itlb => { c with itlb := lruPut 64 e c.itlb }
      | .dtlb => { c with dtlb := lruPut 128 e c.dtlb }
      | .etlb => { c with etlb := lruPut 256 e c.etlb }
      | .shared => c
    if hit || wh = .shared then c else { c with perf := { c.perf with tlbmiss := c.perf.tlbmiss + 1 } }
  if hit then s else s.modDie (dieOf g) fun d => { d with tlb := lruPut 8192 e d.tlb }

/-- What an access needs (spec/17 R325). -/
structure Needs where
  r : Bool := false
  w : Bool := false
  x : Bool := false
deriving DecidableEq, Repr

/-- Is an address local: FAB clear, or this module's own id (spec/09 R176). -/
def isLocal (s : State) (fab : Bool) (pa : Nat) : Bool := !fab || pa / 2 ^ 46 = s.sys.modid

/-- Permission, key and range checks of one page (spec/17 R325, spec/09 R176). -/
def checkPage (s : State) (g : Nat) (path : Path) (n : Needs) (e : Tlb) (va : Nat) : Option XFault :=
  let off := va - e.va
  let want := n.r.toNat + 2 * n.w.toNat + 4 * n.x.toNat
  let denied := (n.r && !e.r) || (n.w && !e.w) || (n.x && !e.x)
  let by1 := (n.r && !bit e.s1 0) || (n.w && !bit e.s1 1) || (n.x && !bit e.s1 2)
  let keys := fld (funcEntry s (asidFunc s e.asid)) 127 64
  let pa := e.pa + off
  let stage := if denied && !by1 && e.lvl2 ≠ 0 then 2 else 1
  let lv := if stage = 2 then e.lvl2 else e.lvl1
  if denied then some { cause := .permission, va := va, stage := stage, level := lv, ipa := if stage = 2 then e.ipa + off else 0 }
  else if e.key ≠ 0 && !bit keys e.key then
    (if e.lvl2 ≠ 0 then some { cause := .permission, va := va, stage := 2, level := e.lvl2, ipa := e.ipa + off, keyf := true }
     else some { cause := .permission, va := va, stage := 1, level := e.lvl1, keyf := true })
  else if isLocal s e.fab pa then
    (if admitted path g (regionOf (pa % 2 ^ 46)) then none else some { cause := .permission, va := va, stage := 1, level := e.lvl1 })
  else if admittedFabric path (regionOf (pa % 2 ^ 46)) then none
  else some { cause := .permission, va := va, stage := 1, level := e.lvl1 }

/-- The checks of every part of a page that [va, va+len) covers: the regions of spec/09 R176 meet at multiples of 1 MiB,
so its first byte and each later such boundary are looked at, lowest first. -/
def checkPart (s : State) (g : Nat) (path : Path) (n : Needs) (e : Tlb) (va len : Nat) : Option XFault :=
  match checkPage s g path n e va with
  | some f => some f
  | none =>
    let pa := e.pa + (va - e.va)
    (List.range ((pa + len - 1) / 0x100000 - pa / 0x100000)).findSome? fun k =>
      checkPage s g path n e (va + ((pa / 0x100000 + k + 1) * 0x100000 - pa))

/-- Translate bytes [va, va+len) page by page (spec/11 R209). The fuel is the number of pages that can be touched. -/
def segsGo (s : State) (g : Nat) (wh : Which) (asid : Nat) (path : Path) (n : Needs) : Nat → Nat → Nat → Nat → Except XFault (List Seg)
  | 0, _, _, _ => .ok []
  | fuel + 1, va, len, at_ =>
    if len = 0 then .ok [] else
    match lookup s g wh asid va with
    | .error f => .error f
    | .ok e =>
      let k := Nat.min len (e.va + e.size - va)
      match checkPart s g path n e va k with
      | some f => .error f
      | none =>
        match segsGo s g wh asid path n fuel (va + k) (len - k) (at_ + k) with
        | .error f => .error f
        | .ok rest => .ok ({ va := va, pa := e.pa + (va - e.va), fab := !isLocal s e.fab (e.pa + (va - e.va)), len := k, at_ := at_,
                             frame := e.pa, key := e.key, cache := e.c, atomic := e.a } :: rest)

def segs (s : State) (g : Nat) (wh : Which) (asid : Nat) (path : Path) (n : Needs) (va len : Nat) : Except XFault (List Seg) :=
  segsGo s g wh asid path n (len / 4096 + 2) (va % 2 ^ 64) len 0

/-- Install the translations of the pages of an access that has been checked. -/
def installSegs (s : State) (g : Nat) (wh : Which) (asid : Nat) (l : List Seg) : State :=
  l.foldl (fun s x => match lookup s g wh asid x.va with
    | .ok e => install s g wh e
    | .error _ => s) s

/-- The trap of a failed translation or check; ACCESS codes are those of spec/17 R333. -/
def XFault.trap (f : XFault) (access : Nat) : Trap :=
  { cause := f.cause, addr := f.va, aux := if f.stage = 2 then f.ipa else 0,
    xlat := f.stage + f.level * 4 + access * 32 + f.keyf.toNat * 512, stage2 := f.stage = 2 }

/-- Trap of a translation result, for a slot's list of checks. -/
def xtrap {α : Type} (access : Nat) : Except XFault α → Option Trap
  | .error f => some (f.trap access)
  | .ok _ => none

/-- The core TLB that serves an ACCESS code (spec/17 R329, R333). -/
def whichOf (access : Nat) : Which := if access < 3 then .dtlb else if access = 3 then .itlb else .etlb
/-- A failed translation or check that the core's TLB could not answer was a miss (spec/19 R375): it is counted, and where
the walk gave a translation, that is installed (spec/17 R331). The AE and the front end use the shared TLB alone. -/
def missTrap (s : State) (g asid : Nat) (t : Trap) : State :=
  let wh := whichOf (t.xlat / 32 % 16)
  if !(t.cause = .translation || t.cause = .permission) || t.xlat % 4 = 0 || 7 ≤ t.xlat / 32 % 16 || (tlbHit (coreTlb (s.core g) wh) asid t.addr).isSome then s
  else match lookup s g wh asid t.addr with
    | .ok e => install s g wh e
    | .error _ => s.modCore g fun c => { c with perf := { c.perf with tlbmiss := c.perf.tlbmiss + 1 } }

def segsOk (r : Except XFault (List Seg)) : List Seg := match r with
  | .ok l => l
  | .error _ => []

end Sys2Proof.Machine
end

