-- ==== Sys2Proof/Machine/Flits.lean ====
section
/-! DEFINITION. Akvin flits and transactions: their bytes, their CRC-64 checks, and sending them (spec/16 R316-R319,
spec/23 R432, R433). -/
set_option linter.unusedVariables false
namespace Sys2Proof.Machine
open Sys2Proof

/-! ### CRC-64 (spec/16 R316, R319, log 81) -/

def crc64Bit (c : Nat) : Nat := if c < 2 ^ 63 then 2 * c else (2 * c - 2 ^ 64) ^^^ 0x42F0E1EBA9EA3693
def crc64Byte (c b : Nat) : Nat := foldNat (fun c _ => crc64Bit c) (List.range 8) (c ^^^ (b * 2 ^ 56))
/-- CRC-64 of `n` bytes, with the ECMA-182 polynomial. -/
def crc64 (n x : Nat) : Nat := foldNat (fun c k => crc64Byte c (x / 2 ^ (8 * k) % 256)) (List.range n) 0

/-! ### Transactions (spec/16 R316, R319) -/

/-- Types of transactions; 2 to 5 are channel traffic. -/
def txRead : Nat := 0
def txWrite : Nat := 1
def txVector : Nat := 2
def txCredit : Nat := 3
def txDeclare : Nat := 4
def txClose : Nat := 5
def txBank : Nat := 7
def txVbred : Nat := 8
def txBarrier : Nat := 9
def txJinit : Nat := 10
/-- Answers: done, with data where any was asked for, aborted, calved; then the demands to send a request or an answer
again, and the receipt of an answer. -/
def txDone : Nat := 32
def txAbort : Nat := 33
def txCalved : Nat := 34
def txAgain : Nat := 35
def txAnswerAgain : Nat := 36
def txReceipt : Nat := 40
/-- A message that a full drift ring did not take: it is tried again as after *calved* (spec/16 R314, log 81). -/
def txFull : Nat := 37
/-- Bytes of payload. -/
def Tx.bytes (x : Tx) : Nat := if [txRead, txCredit, txClose, txAbort, txCalved, txFull, txAgain, txAnswerAgain, txReceipt].contains x.kind then 0 else Nat.min x.len 2048
/-- Does it write memory. -/
def Tx.writes (x : Tx) : Bool := x.kind = txWrite || (txBank ≤ x.kind && x.kind ≤ txJinit)
/-- Is it an answer that is kept until its receipt. -/
def Tx.isAnswer (x : Tx) : Bool := (txDone ≤ x.kind && x.kind ≤ txCalved) || x.kind = txFull
/-- Destination module. -/
def Tx.to (x : Tx) : Nat := x.addr / 2 ^ 46
/-- Source module. -/
def Tx.from_ (x : Tx) : Nat := x.src / 2048
/-- The end-to-end check covers the fabric address and the payload. -/
def Tx.crc (x : Tx) : Nat := crc64 (8 + x.bytes) (x.addr % 2 ^ 64 + x.data % 2 ^ (8 * x.bytes) * 2 ^ 64)
/-- The 64-byte header, its check being `c`, and the payload (log 81). -/
def Tx.image (x : Tx) (c : Nat) : Nat :=
  x.addr % 2 ^ 64 + x.src % 2 ^ 32 * 2 ^ 64 + x.kind % 2 ^ 16 * 2 ^ 96 + x.len % 2 ^ 16 * 2 ^ 112 + c * 2 ^ 128 + x.num % 2 ^ 64 * 2 ^ 192 +
    x.launch % 2 ^ 64 * 2 ^ 256 + x.op % 2 ^ 8 * 2 ^ 320 + x.ty % 2 ^ 8 * 2 ^ 328 + x.key % 2 ^ 16 * 2 ^ 336 + x.fabric.toNat * 2 ^ 352 +
    x.chan % 2 ^ 8 * 2 ^ 360 + x.dchan % 2 ^ 8 * 2 ^ 368 + x.arg % 2 ^ 64 * 2 ^ 384 + x.gen % 2 ^ 64 * 2 ^ 448 + x.data % 2 ^ (8 * x.bytes) * 2 ^ 512
/-- A transaction read from its image. -/
def Tx.ofImage (v : Nat) : Tx :=
  { addr := fld v 63 0, src := fld v 95 64, kind := fld v 111 96, len := fld v 127 112, num := fld v 255 192, launch := fld v 319 256,
    op := fld v 327 320, ty := fld v 335 328, key := fld v 351 336, fabric := bit v 352, chan := fld v 367 360, dchan := fld v 375 368,
    arg := fld v 447 384, gen := fld v 511 448, data := v / 2 ^ 512 }
/-- Does the check in an image agree with its address and payload. -/
def imageOk (v : Nat) : Bool := let x := Tx.ofImage v; fld v 191 128 = { x with data := x.data % 2 ^ (8 * x.bytes) }.crc

/-! ### Flits (spec/16 R316, spec/23 R432) -/

/-- Flit kinds. -/
def flitData : Nat := 0
def flitIdle : Nat := 1
def flitAck : Nat := 2
def flitReplay : Nat := 3
/-- Flits of a transaction: 176 payload bytes in the first, 240 in each later one. -/
def flitsOf (len : Nat) : Nat := (64 + len + 239) / 240
/-- The payloads of a transaction's flits. -/
def Tx.flits (x : Tx) : List Nat := (List.range (flitsOf x.bytes)).map fun i => x.image x.crc / 2 ^ (1920 * i) % 2 ^ 1920
/-- The 8-byte header. -/
def flitHead (seq ack kind credit : Nat) : Nat := seq % 2 ^ 12 + ack % 2 ^ 12 * 2 ^ 12 + 2 ^ 24 + kind % 2 ^ 4 * 2 ^ 28 + credit % 2 ^ 16 * 2 ^ 32
/-- A flit of 256 bytes: header, payload and hop check. -/
def flitOf (head payload : Nat) : Nat := let x := head + payload * 2 ^ 64; x + crc64 248 x * 2 ^ 1984
/-- Does the hop check of a flit pass. -/
def hopOk (x : Nat) : Bool := x / 2 ^ 1984 = crc64 248 (x % 2 ^ 1984)

/-! ### Sending (spec/16 R317, R318, spec/21 R413) -/

def linkOf (s : State) (p : Nat) : Link := s.sys.links.getD p {}
def modLink (s : State) (p : Nat) (f : Link → Link) : State := s.modSys fun y => { y with links := upd y.links p f }
/-- A flit goes onto the lanes: it acknowledges the last flit accepted and returns what the receive buffer has freed. -/
def emit (s : State) (p kind seq payload : Nat) : State :=
  let x := linkOf s p
  (modLink s p fun y => { y with freed := 0 }).out (.link p 0 (flitOf (flitHead seq (x.rxSeq + 4095) kind x.freed) payload))
/-- A flit that is no data: it carries the SEQ of the next data flit, and nothing keeps it. -/
def emitControl (s : State) (p kind : Nat) : State := emit s p kind (linkOf s p).txSeq 0
/-- A data flit is sent and kept until it is acknowledged. -/
def emitData (s : State) (p payload : Nat) : State :=
  let q := (linkOf s p).txSeq
  emit (modLink s p fun y => { y with replay := y.replay ++ [(q, payload)], txSeq := (q + 1) % 4096 }) p flitData q payload
/-- A port to a module that can take `k` more flits: the lowest. -/
def portTo (s : State) (m k : Nat) : Option Nat := (List.range 16).find? fun p =>
  let x := linkOf s p
  x.up && !x.training && x.peer = some m && x.replay.length + k ≤ 2048

/-- The flow of a transaction (spec/10 R200). -/
def flowOf (r : Remote) : Nat × Nat × Path := (dieOf (coreOf r.seq), r.tx.to, r.path)
/-- Is an earlier write of its flow not yet acknowledged (spec/10 R200). -/
def flowBlocked (before : List Remote) (r : Remote) : Bool :=
  r.tx.writes && before.any fun e => e.tx.writes && e.answer.isNone && flowOf e = flowOf r
/-- Demands and receipts, kept by nobody once they are sent, leave as ports have room. -/
def pumpLoose (s : State) : State :=
  let r := s.sys.loose.foldl (fun (acc : State × List (Nat × Nat × Nat)) (m, kind, num) => match portTo acc.1 m 1 with
    | some p => ((Tx.flits { kind := kind, addr := m * 2 ^ 46, src := s.sys.modid * 2048, num := num }).foldl (fun s x => emitData s p x) acc.1, acc.2)
    | none => (acc.1, acc.2 ++ [(m, kind, num)])) (s, [])
  r.1.modSys fun y => { y with loose := r.2 }
/-- Send every transaction that has no port and whose module has one with room. -/
def pumpRemotes (s : State) : State :=
  let s := pumpLoose s
  let r := s.sys.remote.foldl (fun (acc : State × List Remote) r =>
    match (if r.port.isSome || r.answer.isSome || r.calved || acc.1.sys.away.contains r.tx.to || flowBlocked acc.2 r then none
           else portTo acc.1 r.tx.to (flitsOf r.tx.bytes)) with
    | none => (acc.1, acc.2 ++ [r])
    | some p => (r.tx.flits.foldl (fun s x => emitData s p x) acc.1, acc.2 ++ [{ r with port := some p }])) (s, [])
  r.1.modSys fun y => { y with remote := r.2 }
/-- New transactions to other modules, each under a number of its own. -/
def submit (s : State) (l : List Remote) : State :=
  pumpRemotes { s with sys := { s.sys with remote := s.sys.remote ++ l.zipIdx.map fun (r, i) => { r with tx := { r.tx with num := s.nextId + i } } }
                       nextId := s.nextId + l.length }
/-- Transactions that a choice selects are over, or taken back. -/
def dropRemotes (s : State) (p : Remote → Bool) : State := s.modSys fun y => { y with remote := y.remote.filter fun r => !p r }
/-- Those of an operation. -/
def dropRemote (s : State) (id : Nat) : State := dropRemotes s fun r => r.id = id
/-- Have all parts of a datum that lie on other modules been acknowledged, having left. -/
def remoteDone (s : State) (id part : Nat) (far : Bool) : Bool :=
  !far || (s.sys.remote.any (fun r => r.id = id && r.part = part) && s.sys.remote.all fun r => !(r.id = id && r.part = part) || r.answer.isSome)
/-- The bytes that other modules answered with, each at its place. -/
def remoteData (s : State) (id part : Nat) : Nat :=
  ((s.sys.remote.filter fun r => r.id = id && r.part = part).map fun r => r.answer.getD 0 % 2 ^ (8 * r.tx.len) * 2 ^ (8 * r.at_)).foldl (· + ·) 0

end Sys2Proof.Machine
end

