-- ==== Sys2Proof/Machine/Sha3.lean ====
section
/-! DEFINITION. SHA3-256 (FIPS 202), the digest of spec/21 R408 and spec/22 R423. The 1,600 bits of the state are one
number: lane x + 5y stands at bit 64(x + 5y), so a plane has 320 bits. -/
set_option linter.unusedVariables false
namespace Sys2Proof.Machine
open Sys2Proof

/-- Bit 0 of each of the five lanes of a plane, and of each of the five planes of the state. -/
def shaLanes : Nat := 1 + 2 ^ 64 + 2 ^ 128 + 2 ^ 192 + 2 ^ 256
def shaPlanes : Nat := 1 + 2 ^ 320 + 2 ^ 640 + 2 ^ 960 + 2 ^ 1280
/-- A lane rotated left. -/
def shaRot (x r : Nat) : Nat := x * 2 ^ r % 2 ^ 64 + x / 2 ^ (64 - r)
/-- Theta: each lane takes in the parities of two columns of planes. -/
def shaTheta (a : Nat) : Nat :=
  let c := (List.range 5).foldl (fun c y => c ^^^ (a / 2 ^ (320 * y) % 2 ^ 320)) 0
  let c1 := (c * 2 % 2 ^ 320 &&& (2 ^ 320 - 1 - shaLanes)) + (c / 2 ^ 63 &&& shaLanes)
  let d := (c * 2 ^ 64 % 2 ^ 320 + c / 2 ^ 256) ^^^ (c1 / 2 ^ 64 + c1 % 2 ^ 64 * 2 ^ 256)
  a ^^^ (d * shaPlanes)
/-- Rotation of each lane. -/
def shaOffsets : List Nat := [0, 1, 62, 28, 27, 36, 44, 6, 55, 20, 3, 10, 43, 25, 39, 41, 45, 15, 21, 8, 18, 2, 61, 56, 14]
/-- Rho and pi: each lane is rotated and moves to its new place. -/
def shaMove (a : Nat) : Nat := (shaOffsets.zipIdx.map fun (r, i) =>
  shaRot (a / 2 ^ (64 * i) % 2 ^ 64) r * 2 ^ (64 * (i / 5 + 5 * ((2 * (i % 5) + 3 * (i / 5)) % 5)))).foldl (· + ·) 0
/-- In every plane, lane x takes what lane x + 1 holds. -/
def shaNext (b : Nat) : Nat :=
  (b / 2 ^ 64 &&& ((2 ^ 256 - 1) * shaPlanes)) + (b &&& ((2 ^ 64 - 1) * shaPlanes)) * 2 ^ 256
/-- Chi. -/
def shaChi (b : Nat) : Nat := b ^^^ ((shaNext b ^^^ (2 ^ 1600 - 1)) &&& shaNext (shaNext b))
/-- Iota's constants. -/
def shaConstants : List Nat :=
  [0x0000000000000001, 0x0000000000008082, 0x800000000000808A, 0x8000000080008000, 0x000000000000808B, 0x0000000080000001,
   0x8000000080008081, 0x8000000000008009, 0x000000000000008A, 0x0000000000000088, 0x0000000080008009, 0x000000008000000A] ++
  [0x000000008000808B, 0x800000000000008B, 0x8000000000008089, 0x8000000000008003, 0x8000000000008002, 0x8000000000000080,
   0x000000000000800A, 0x800000008000000A, 0x8000000080008081, 0x8000000000008080, 0x0000000080000001, 0x8000000080008008]
/-- Keccak-f[1600]. -/
def keccak (a : Nat) : Nat := foldNat (fun a c => shaChi (shaMove (shaTheta a)) ^^^ c) shaConstants a
/-- SHA3-256 of `n` bytes: byte k of the message and of the digest at bit 8k. -/
def sha3 (n x : Nat) : BitVec 256 :=
  let k := n / 136 + 1
  let p := x % 2 ^ (8 * n) + 0x06 * 2 ^ (8 * n) + 0x80 * 2 ^ (8 * (136 * k - 1))
  BitVec.ofNat 256 (foldNat (fun a i => keccak (a ^^^ (p / 2 ^ (1088 * i) % 2 ^ 1088))) (List.range k) 0)

end Sys2Proof.Machine
end

