-- ==== Sys2Proof/Machine/Access.lean ====
section
/-! DEFINITION. Accesses: physical reads and writes with keys, poison, replicas and the L1; the order an access gets
at issue (spec/10), and its completion. -/
set_option linter.unusedVariables false
namespace Sys2Proof.Machine
open Sys2Proof

/-! ### Physical bytes -/

/-- Local part of a physical address. -/
def localPa (pa : Nat) : Nat := pa % 2 ^ 46

/-- Is an address in register space. -/
def inRegs (pa : Nat) : Bool := 0x030000000000 ≤ pa && pa < 0x030020000000
/-- The cores whose register spaces a range of register space meets: core, place in it, bytes, place in the datum. -/
def regParts : Nat → Nat → Nat → Nat → List (Nat × Nat × Nat × Nat)
  | 0, _, _, _ => []
  | k + 1, pa, len, at_ => if len = 0 then [] else
    let n := Nat.min len (0x100000 - pa % 0x100000)
    ((pa - 0x030000000000) / 0x100000, pa % 0x100000, n, at_) :: regParts k (pa + n) (len - n) (at_ + n)

/-- `len` bytes at a local physical address, read under a key. -/
def physRead (s : State) (pa len key : Nat) : Nat :=
  if inRegs pa then ((regParts (len / 0x100000 + 2) pa len 0).map fun p => (s.core p.1).regs.readNat p.2.1 p.2.2.1 * 2 ^ (8 * p.2.2.2)).foldl (· + ·) 0
  else plainRead s pa len key

/-- A sector that a write covers in part is read and stored again under the write's key (spec/17 R327, log 21). -/
def rekey (s : State) (sector key : Nat) : State :=
  if !encrypted (32 * sector) || s.keyOf.getD sector 0 = key then s
  else { s with mem := s.mem.write (32 * sector) 32 (bytesUnder s key 32 (32 * sector))
                keyOf := if key = 0 then s.keyOf.del sector else s.keyOf.put sector key }
/-- Write `len` bytes at a local physical address under a key; register space is the cores' own. -/
def physWrite (s : State) (pa len key v : Nat) : State :=
  if inRegs pa then (regParts (len / 0x100000 + 2) pa len 0).foldl (fun s p =>
    s.modCore p.1 fun c => { c with regs := c.regs.write p.2.1 p.2.2.1 (v / 2 ^ (8 * p.2.2.2) % 2 ^ (8 * p.2.2.1)) }) s
  else
    let s := if pa % 32 = 0 && len % 32 = 0 then s else rekey (rekey s (pa / 32) key) ((pa + len - 1) / 32) key
    { s with mem := s.mem.write pa len v,
                keyOf := if encrypted pa then (List.range ((pa + len - 1) / 32 - pa / 32 + 1)).foldl (fun t k =>
             if key = 0 then t.del (pa / 32 + k) else t.put (pa / 32 + k) key) s.keyOf else s.keyOf }

/-- Does a range meet a poisoned granule. -/
def poisoned (s : State) (pa len : Nat) : Bool := s.poison.any fun g => meet pa len g (granule g)
/-- Does a range cover part, and only part, of a poisoned granule. -/
def poisonPart (s : State) (pa len : Nat) : Bool :=
  s.poison.any fun g => meet pa len g (granule g) && !(pa ≤ g && g + granule g ≤ pa + len)

/-- A requester that is no sequencer: the host, firmware or another module. -/
def noSeq : Nat := 2048
/-- The writer of a host's or firmware's write, in marks. -/
def outside : Nat := 2049
/-- The second interrupt of spec/09 R188 and the first of R187: the owning tenant's vector 2 and the die's firmware, with
the address, which names the memory, and the requester. -/
def errorInterrupt (s : State) (f : Nat) (pa : Nat) (who : Nat := noSeq) : State := (s.msix f 2).out (.memError pa who)

/-- Watches of every sequencer on a written line trigger (spec/10 R205). -/
def notify (s : State) (pa len : Nat) : State :=
  { s with seqs := s.seqs.map fun e => (e.1, match e.2.watch with
      | some (l, v, _) => if meet pa len l 128 then { e.2 with watch := some (l, v, true) } else e.2
      | none => e.2) }

/-- Granules written whole carry a new code (spec/09 R188). -/
def clearPoison (s : State) (pa len : Nat) : State :=
  { s with poison := s.poison.filter fun g => !(pa ≤ g && g + granule g ≤ pa + len) }
/-- What a range was marked with is gone. -/
def unmark (s : State) (pa len : Nat) : State :=
  { s with marks := (s.marks.map fun e => (cutPart (e.1, 0, e.2.1) (pa, len)).map fun p => (p.1, p.2.2, e.2.2)).flatten }
/-- A whole area is written anew, its granules with it: its watches trigger (spec/09 R188, spec/10 R205). -/
def renewed (s : State) (pa len : Nat) : State :=
  notify (unmark (clearPoison s pa len) pa len) pa len
/-- The granules at `dst` that take bytes of the poisoned granules of `n` bytes at `src`: a copy of a whole area carries
the marks with it (log 107). -/
def poisonTo (s : State) (src dst n : Nat) : List Nat :=
  ((List.range ((n + granule dst - 1) / granule dst)).map fun k => dst + k * granule dst).filter fun g => poisoned s (src + (g - dst)) (granule dst)
/-- A whole area has been copied from `src`: it carries new codes, but for what was poisoned there. -/
def movedFrom (s : State) (src dst n : Nat) : State :=
  let p := if s.poison.any fun g => meet g (granule g) src n then poisonTo s src dst n else []
  let s := renewed s dst n
  { s with poison := s.poison ++ p }
/-- Sparse bytes laid over a range of ordinary memory under a key: what they do not list is zero there. -/
def physFill (s : State) (pa len key : Nat) (m : Mem) : State :=
  let a := pa / 32
  let n := (pa + len - 1) / 32 - a + 1
  renewed { s with mem := s.mem.fill pa len m
                   keyOf := if !encrypted pa then s.keyOf
                     else s.keyOf.filter (fun e => e.1 < a) ++ (if key = 0 then [] else (List.range n).map fun k => (a + k, key)) ++ s.keyOf.filter fun e => a + n ≤ e.1 } pa len
/-- The bytes of a range of ordinary memory under a key, as sparse bytes. -/
def physSlice (s : State) (pa len key : Nat) : Mem :=
  if sameKeys s pa len key then s.mem.slice pa len else Mem.cells 0 len (bytesUnder s key len pa)
where
  /-- As `sameKey`, over the sectors that the table lists. -/
  sameKeys (s : State) (pa len key : Nat) : Bool :=
    !encrypted pa || (if key = 0 then !s.keyOf.any fun e => meet pa len (32 * e.1) 32
      else sameKey s pa len key)
/-- A write at a home or at a replica: a poisoned granule in part keeps the write out (spec/09 R188). What the bytes
written were marked with is gone. -/
def homeWrite (s : State) (f pa len key v : Nat) (who : Nat := noSeq) : State :=
  if poisonPart s pa len then errorInterrupt s f pa who
  else
    let s := physWrite s pa len key v
    notify (unmark { s with poison := s.poison.filter fun g => !meet pa len g (granule g) } pa len) pa len

/-! ### Replicas (spec/17 R328) -/

def replicaSize : Nat → Nat
  | 0 => 0x1000 | 1 => 0x10000 | _ => 0x200000
/-- The directory entry whose home frame holds an address. -/
def replicaEntry (s : State) (pa : Nat) : Option Replica :=
  (s.sys.replicas.map (·.2)).find? fun r => r.v && r.home ≤ pa && pa < r.home + replicaSize r.size
/-- The address a load of an agent on die `d` reads, in a page of frame `frame`. -/
def copyAddr (s : State) (d pa frame : Nat) (atomic : Bool) : Nat :=
  if atomic then pa else match replicaEntry s pa with
  | some r => if r.rdy && bit r.dmask d && frame % 2 ^ 46 = r.home then r.frames.getD d 0 + (pa - r.home) else pa
  | none => pa
/-- Dies whose replica a write must still reach, with the address there. -/
def copiesOf (s : State) (pa : Nat) : List Nat := match replicaEntry s pa with
  | some r => (List.range 4).filter (bit r.dmask)
  | none => []
def copyAt (s : State) (d pa : Nat) : Nat := match replicaEntry s pa with
  | some r => r.frames.getD d 0 + (pa - r.home)
  | none => pa

/-! ### Causality (spec/10 R195, R198) -/

/-- Does one stamp precede another. -/
def stampBefore (a b : List Nat) : Bool := a ≠ b && (a.zip b).all fun p => p.1 ≤ p.2
def clockMerge (a b : List Nat) : List Nat := List.zipWith Nat.max a b
/-- A release of an agent of die `d` at die scope or wider advances the die's entry. -/
def advanceClock (s : State) (d : Nat) (sc : Scope) : State :=
  if 2 ≤ scopeCode sc then s.modDie d fun x => { x with clock := x.clock.modify d (· + 1) } else s
/-- The marks of a range at one copy. -/
def marksAt (s : State) (pa len : Nat) : List Mark := (s.marks.filter fun e => meet pa len e.1 e.2.1).map (·.2.2)
/-- Mark a range that has just been written. -/
def mark (s : State) (pa len : Nat) (m : Mark) : State :=
  if len = 0 then s else { s with marks := s.marks ++ [(pa, len, m)] }
/-- The clock of a sequencer's die takes in what a read at these bytes of one copy carried (spec/10 R198). -/
def mergeClock (s : State) (n pa len : Nat) : State :=
  s.modDie (dieOf (coreOf n)) fun x => { x with clock := (marksAt s pa len).foldl (fun c m => clockMerge c m.clock) x.clock }
/-- Does a scope include two agents; 2048 is on another module, and the host is in no unit but the module (spec/10 R194). -/
def includes (sc : Scope) (n m : Nat) : Bool := match sc with
  | .core => coreOf n = coreOf m
  | .cluster => clusterOf (coreOf n) = clusterOf (coreOf m)
  | .die => dieOf (coreOf n) = dieOf (coreOf m)
  | .module => n ≠ noSeq && m ≠ noSeq
  | .fabric => true
/-- Does an acquire at scope `sc` of sequencer `n` that reads a write with this mark order what comes after it: the scope
includes the writer, and so does that of a release (spec/10 R195, R198). -/
def Mark.joins (m : Mark) (sc : Scope) (n : Nat) : Bool := includes sc n m.writer && m.rel.all fun y => includes y n m.writer

/-! ### The L1 (spec/09 R181, R182) -/

def l1Find (c : Core) (line key : Nat) : Option Line := c.l1.find? fun l => l.pa = line && l.key = key
/-- Fill or refresh a line; a full L1 loses the line that Config names. -/
def l1Put (c : Core) (l : Line) (n : Nat) : Core :=
  let rest := c.l1.filter fun x => x.pa ≠ l.pa || x.key ≠ l.key
  { c with l1 := l :: (if 2048 ≤ rest.length then rest.eraseIdx (Config.l1Victim n % 2048) else rest) }

/-- Split a physical range at 128-byte lines. -/
def lines : Nat → Nat → Nat → List (Nat × Nat)
  | 0, _, _ => []
  | k + 1, pa, len => if len = 0 then [] else
    let n := Nat.min len (128 - pa % 128)
    (pa, n) :: lines k (pa + n) (len - n)

/-- May an S-path load of these bytes hit in the L1 (spec/09 R181). -/
def cacheable (x : Seg) : Bool := x.cache && (match regionOf (localPa x.pa) with
  | .hbm _ | .staging _ _ => true
  | _ => false)
/-- The tag of the line that holds a byte of a segment: another module's lines have tags of their own. -/
def lineTag (x : Seg) (pa : Nat) : Nat := (if x.fab then 2 ^ 56 else 0) + pa / 128 * 128
/-- The line that a load without F hits at a byte of a segment. -/
def lineHit (s : State) (g : Nat) (x : Seg) (fresh : Bool) (pa : Nat) : Option Line :=
  if cacheable x && !fresh then l1Find (s.core g) (lineTag x pa) x.key else none
/-- Bytes of a line. -/
def lineBytes (l : Line) (pa len : Nat) : Nat := l.data.toNat / 2 ^ (8 * (pa % 128)) % 2 ^ (8 * len)
/-- One line's part of an S-path load (spec/09 R181): the value and what the L1 becomes. An F load of a present line reads
the whole line again; a line with a poisoned granule is not kept (DESIGN CHOICE, log 110). -/
def loadLine (s : State) (g : Nat) (x : Seg) (fresh : Bool) (pa len : Nat) : State × Nat :=
  let src := copyAddr s (dieOf g) pa x.frame x.atomic
  let line := lineTag x pa
  let vline := (x.va + (pa - localPa x.pa)) / 128 * 128
  let whole := BitVec.ofNat 1024 (physRead s (src / 128 * 128) 128 x.key)
  let fill := fun (c : Core) => if poisoned s (src / 128 * 128) 128 then { c with l1 := c.l1.filter fun l => !(l.pa = line && l.key = x.key) }
    else l1Put c ⟨line, x.key, vline, whole⟩ s.free
  if cacheable x && !fresh then
    match lineHit s g x fresh pa with
    | some l => (s.modCore g fun c => { c with perf := { c.perf with l1hit := c.perf.l1hit + 1 } },
        lineBytes l pa len)
    | none => ({ s.modCore g (fun c => fill { c with perf := { c.perf with l1miss := c.perf.l1miss + 1 } }) with
        free := s.free + 1 }, physRead s src len x.key)
  else
    (if fresh && (l1Find (s.core g) line x.key).isSome then s.modCore g fill else s, physRead s src len x.key)

/-- The bytes of one segment of a load. -/
def loadSeg (s : State) (g : Nat) (path : Path) (x : Seg) (fresh : Bool) : State × Nat :=
  let pa := localPa x.pa
  if path = .s then
    let r := (lines (x.len / 128 + 2) pa x.len).foldl (fun (acc : State × Nat) p =>
      let v := loadLine acc.1 g x fresh p.1 p.2
      (v.1, acc.2 + v.2 * 2 ^ (8 * (p.1 - pa)))) (s, 0)
    r
  else (s, physRead s (copyAddr s (dieOf g) pa x.frame (x.atomic || path = .x || path = .b || path = .f)) x.len x.key)

/-- The bytes of an access, each segment at its place. -/
def loadSegs (s : State) (g : Nat) (path : Path) (l : List Seg) (fresh : Bool) : State × Nat :=
  l.foldl (fun acc x => let v := loadSeg acc.1 g path x fresh; (v.1, acc.2 + v.2 * 2 ^ (8 * x.at_))) (s, 0)

/-- The address of the copy a segment's load reads, for poison. -/
def loadAddr (s : State) (g : Nat) (path : Path) (x : Seg) : Nat :=
  copyAddr s (dieOf g) (localPa x.pa) x.frame (x.atomic || path = .x || path = .b || path = .f)
/-- The bytes of a segment that memory is read for: all but those that an S-path load without F hits in the L1. -/
def memParts (s : State) (g : Nat) (path : Path) (x : Seg) (fresh : Bool) : List (Nat × Nat) :=
  let pa := localPa x.pa
  if path = .s && !fresh then (lines (x.len / 128 + 2) pa x.len).filter fun p => (lineHit s g x fresh p.1).isNone else [(pa, x.len)]
/-- The virtual address of the first byte of a read that a poisoned granule holds. -/
def loadPoisoned (s : State) (g : Nat) (path : Path) (l : List Seg) (fresh : Bool := true) : Option Nat := l.findSome? fun x =>
  let a := loadAddr s g path x
  (((memParts s g path x fresh).map fun r =>
    (s.poison.filter fun p => meet (a + (r.1 - localPa x.pa)) r.2 p (granule p)).map fun p => x.va + (p - a)).flatten).min?

/-- Bytes of a datum that belong to a segment. -/
def segData (v : Nat) (x : Seg) : Nat := v / 2 ^ (8 * x.at_) % 2 ^ (8 * x.len)

/-- Does no die that an access touches answer calved (spec/11 R212, spec/21 R402). -/
def segsLive (s : State) (l : List Seg) : Bool := l.all fun x => x.fab || match dieOfPa (localPa x.pa) with
  | some d => dieAnswers s d
  | none => true

/-! ### What is still in flight -/

/-- Only an `mma` reads memory (spec/08 R171). -/
def MtxEntry.isMma (e : MtxEntry) : Bool := match e.op with
  | .mma .. => true
  | _ => false
/-- Identities of a sequencer's operations in flight on a path (spec/10 R189). -/
def idsOn (s : State) (n : Nat) (p : Path) : List Nat :=
  let q := s.seq n
  let c := s.core (coreOf n)
  let acc := (q.acc.filter (·.path = p)).map (·.id)
  match p with
  | .p => acc ++ (q.ports.map fun x => (x.buf.filter fun e => (e.vec.isNone && e.fault.isNone) || bit x.desc.toNat 64).map (·.id)).flatten
  | .m => acc ++ (c.mq.filter (fun e => e.seq = n && !e.done && e.isMma)).map (·.id)
  | .x => acc ++ ((c.bte.flatten).filter (·.seq = n)).map (·.id)
  | .a => acc ++ (match q.ae.cmd with
    | some x => [x.id]
    | none => [])
  | _ => acc

/-- The same with the writes their homes have applied and some replica has not. -/
def openOn (s : State) (n : Nat) (p : Path) : List Nat :=
  idsOn s n p ++ (s.updates.filter fun u => u.mark.writer = n && u.path = some p).map (·.id)
def scopeLe (x y : Scope) : Bool := scopeCode x ≤ scopeCode y

/-- Is a dependency performed at its scope (spec/10 R195): a load has its value, a write is applied at its home and at
the copies the scope looks at; at die scope and below that is the copy of the writer's own die. -/
def depMet (s : State) (n : Nat) (d : Dep) : Bool :=
  let q := s.seq n
  !(s.updates.any fun u => u.id = d.id && (!scopeLe d.scope .die || u.die = dieOf (coreOf n))) &&
  match q.acc.find? (fun a => a.id = d.id) with
  | some a => a.home
  | none => !(([.p, .m, .x, .a] : List Path).any (fun p => (idsOn s n p).contains d.id))
def depsMet (s : State) (n : Nat) (l : List Dep) : Bool := l.all (depMet s n)

/-- No other write of the module is held by some copies and not by others (spec/10 R198). -/
def noHalf (s : State) (id : Nat) : Bool := s.updates.all fun u => u.id = id
/-- The same for a write of sequencer `n` that follows a release or an acquire of it; another write may go on. -/
def causal (s : State) (n id : Nat) : Bool := !(s.seq n).ordered || noHalf s id

/-- Fences and releases with nothing left to wait for are dropped. -/
def pruneOrders (s : State) (n : Nat) : State :=
  let live := (s.seq n).order.filter fun o => !depsMet s n o.after
  s.modSeq n fun q => { q with order := live }

/-- Do two segments name a byte in common: this module's own id names its own memory (spec/09 R176). -/
def Seg.meets (x y : Seg) : Bool := x.fab = y.fab &&
  (if x.fab then meet x.pa x.len y.pa y.len else meet (localPa x.pa) x.len (localPa y.pa) y.len)
/-- Do two segment lists meet. -/
def segsMeet (a b : List Seg) : Bool := a.any fun x => b.any fun y => x.meets y

def AccKind.writes : AccKind → Bool
  | .load _ _ _ | .flush _ => false
  | _ => true

/-- Is a bundle that starts an access on a path held back by a fence (spec/10 R202, spec/11 R221). -/
def heldBack (s : State) (n : Nat) (p : Path) (writes : Bool) : Bool := (s.seq n).order.any fun o =>
  o.hold && o.paths.contains p && (o.reads || writes) && !depsMet s n o.after

/-- What an access issued now must follow: earlier accesses of the sequencer on its path to overlapping bytes (spec/10
R192), and the fences in force (R196, R202). An S load does not wait for an acquire: it is read again where the acquire
reads a release that binds it (R195). -/
def orderAt (s : State) (n : Nat) (a : Access) : List Dep :=
  let q := s.seq n
  let same := (q.acc.filter fun e => e.path = a.path && segsMeet e.segs a.segs).map fun e => ⟨e.id, .core⟩
  let load := a.path = .s && !a.kind.writes
  let fenced := (q.order.filter fun o => o.paths.contains a.path && (o.reads || a.kind.writes) && !(o.early && load)).map (·.after)
  same ++ fenced.flatten
/-- What the fences in force put before work of a path that an engine does, beside its own accesses (spec/10 R196, R202). -/
def fencedOn (q : Seq) (p : Path) (writes : Bool) : List Dep :=
  ((q.order.filter fun o => o.paths.contains p && (o.reads || writes)).map (·.after)).flatten

/-- What a release of the sequencer covers (spec/10 R195, R197): its S and B accesses, what an xfence put before S or B,
and its P writes that their home has applied and some copy has not. -/
def releaseDeps (s : State) (n : Nat) (sc : Scope) : List Dep :=
  let q := s.seq n
  (openOn s n .s ++ openOn s n .b ++ (s.updates.filter fun u => u.mark.writer = n && u.path = some .p).map (·.id)).map (fun i => ⟨i, sc⟩) ++
    ((q.order.filter fun o => o.paths.contains .s || o.paths.contains .b).map (·.after)).flatten.map fun d => { d with scope := sc }

def allPaths : List Path := [.s, .p, .m, .x, .b, .a]

inductive Ctr where
  | none | ld | st | xf | mt | cm
deriving DecidableEq, Repr

def Seq.ctr (q : Seq) : Ctr → Nat
  | .none => 0 | .ld => q.ld | .st => q.st_ | .xf => q.xf | .mt => q.mt | .cm => q.cm
def Seq.setCtr (q : Seq) (c : Ctr) (v : Nat) : Seq := match c with
  | .none => q
  | .ld => { q with ld := v } | .st => { q with st_ := v } | .xf => { q with xf := v } | .mt => { q with mt := v } | .cm => { q with cm := v }
/-- Raise and lower a counter (spec/19 R358). -/
def Seq.raise (q : Seq) (c : Ctr) : Seq := q.setCtr c (q.ctr c + 1)
def Seq.lower (q : Seq) (c : Ctr) : Seq := q.setCtr c (q.ctr c - 1)
/-- May the counter be raised: a bundle that would pass 63 is not ready. -/
def Seq.room (q : Seq) (c : Ctr) : Bool := q.ctr c < 63

/-- The counter an access raises (spec/11 R211, spec/19 R358). -/
def AccKind.ctr : AccKind → Ctr
  | .load _ _ _ | .bank _ _ _ _ _ => .ld
  | .store | .vbred _ _ | .tb _ | .jinit _ => .st
  | .fill | .seal _ | .last _ _ | .flush _ => .xf
  | .portOut _ _ => .none

/-- What the release in a bank operation waits for: S and B accesses issued before it, but for S stores to its own bytes,
which fall into the bytes' coherence order on their own (spec/10 R201, spec/11 R219, R232, log 100). -/
def releaseOf (s : State) (n : Nat) (a : Access) : List Dep :=
  let own := if a.path = .b then ((s.seq n).acc.filter fun e => e.path = .s && segsMeet e.segs a.segs).map (·.id) else []
  (releaseDeps s n a.scope).filter fun d => !own.contains d.id
/-- What an access leaves in force behind it: writes after a release follow what it covers (spec/10 R198), and everything
after an acquire follows the acquire (R195). -/
def ordersOf (a : Access) (covered : List Dep) : List Order :=
  (if a.rel && covered ≠ [] then [{ paths := allPaths, after := covered, reads := false }] else []) ++
    (if a.acq then [{ paths := allPaths, after := [⟨a.id, .core⟩], early := true }] else [])
/-- Start an access of sequencer `n`: it takes an identity and its order, raises its counter, and, where it releases
or acquires, orders what comes after it (spec/10 R196). -/
def startAccess (s : State) (n pc slot : Nat) (held : Bool) (a : Access) : State :=
  let s := pruneOrders s n
  let q := s.seq n
  let covered := if a.rel then releaseDeps s n a.scope else []
  let a := { a with id := s.nextId, after := orderAt s n a ++ (if a.rel then releaseOf s n a else []), pc := pc, slot := slot, held := held,
                    wide := a.rel || q.ordered }
  let s := s.modSeq n fun q =>
    let q := { q with acc := q.acc ++ [a], ordered := q.ordered || a.rel || a.acq, order := q.order ++ ordersOf a covered }
    q.raise a.kind.ctr
  (if a.rel then advanceClock s (dieOf (coreOf n)) a.scope else s).bump

/-- Remove an access and lower its counter, in the sequencer and in every snapshot that holds it (spec/19 R359). -/
def finish (s : State) (n id : Nat) : State :=
  match (s.seq n).acc.find? (fun a => a.id = id) with
  | none => s
  | some a => pruneOrders (modBoth s n fun q =>
      if q.acc.any (fun x => x.id = id) then { q.lower a.kind.ctr with acc := q.acc.filter fun x => x.id ≠ id } else q) n

/-- Deliver a late result to the sequencer and to the snapshots that already held the operation (spec/19 R359). -/
def deliverBoth (s : State) (n id : Nat) (d : Dest) (v : Nat) : State :=
  let s' := deliver s n d v
  let patch := fun (p : Snap) =>
    let q := p.seqs.getD n {}
    if q.acc.any (fun x => x.id = id) then match d with
      | .bytes o l => { p with core := { p.core with regs := p.core.regs.write (q.winBase + o) l v } }
      | .parts l => { p with core := { p.core with regs := l.foldl (fun m x => m.write (q.winBase + x.1) x.2.2 (v / 2 ^ (8 * x.2.1) % 2 ^ (8 * x.2.2))) p.core.regs } }
      | .shadow r => { p with seqs := p.seqs.put n { q with shadow := q.shadow.set r (BitVec.ofNat 64 v) } }
      | .port pt e => { p with seqs := p.seqs.put n (fillEntry q pt e v) }
      | .discard => p
    else p
  { s' with hist := s'.hist.put (coreOf n) ((s'.hist.getD (coreOf n) []).map patch) }

/-- Function of a sequencer's context. -/
def funcOf (s : State) (n : Nat) : Nat := (s.ctxOf n).func
def asidOf (s : State) (n : Nat) : Nat := (s.ctxOf n).asid

/-- Extend a loaded or returned value to a scalar (spec/11 R214, R217). -/
def extend (bytes : Nat) (signed : Bool) (v : Nat) : Nat :=
  if signed then ofInt 64 (toInt (8 * bytes) v) else v % 2 ^ (8 * bytes)

end Sys2Proof.Machine
end

