-- ==== Sys2Proof/Machine/Float.lean ====
section
/-! DEFINITION. Floating point (spec/05): values as exact dyadic numbers, rounding to a format by mode with flags,
and the exact operations. Element patterns are natural numbers. -/
set_option linter.unusedVariables false
namespace Sys2Proof.Fp
open Sys2Proof

/-- Shape of a float format (spec/05 R78): exponent bits, fraction bits, bias, and whether it has infinities. -/
structure Shape where
  eb : Nat
  fb : Nat
  bias : Int
  inf : Bool := true
deriving DecidableEq, Repr

def shapeOf : Fmt → Shape
  | .f64 => ⟨11, 52, 1023, true⟩
  | .f32 => ⟨8, 23, 127, true⟩
  | .f16 => ⟨5, 10, 15, true⟩
  | .bf16 => ⟨8, 7, 127, true⟩
  | .f8e5 => ⟨5, 2, 15, true⟩
  | .f8e4 => ⟨4, 3, 7, false⟩
  | _ => ⟨8, 23, 127, true⟩

/-- Width in bits of a format (spec/05 R76, R78). -/
def width : Fmt → Nat
  | .f64 | .i64 | .z64 => 64
  | .f32 | .i32 | .z32 => 32
  | .f16 | .bf16 | .i16 | .z16 => 16
  | .f8e4 | .f8e5 | .i8 | .z8 => 8
  | .i4 | .i4x => 4
def isFloat : Fmt → Bool
  | .f64 | .f32 | .f16 | .bf16 | .f8e4 | .f8e5 => true
  | _ => false
def isSigned : Fmt → Bool
  | .i4 | .i8 | .i16 | .i32 | .i64 => true
  | _ => false
/-- The class F of spec/07 R127. -/
def isF : Fmt → Bool
  | .f64 | .f32 | .f16 | .bf16 => true
  | _ => false
/-- The class I of spec/07 R127. -/
def isI : Fmt → Bool
  | .i8 | .i16 | .i32 | .i64 | .z8 | .z16 | .z32 | .z64 => true
  | _ => false

/-- A value: a NaN (signalling or not), an infinity, or sign, magnitude and binary exponent: (-1)^s m 2^e. -/
inductive Val where
  | nan (sig : Bool)
  | inf (s : Bool)
  | fin (s : Bool) (m : Nat) (e : Int)
deriving DecidableEq, Repr

/-- Flags of FMT [31:24] as bits 7..0 (spec/04 R70). -/
def NV : Nat := 1
def DZ : Nat := 2
def OF : Nat := 4
def UF : Nat := 8
def NX : Nat := 16
def SAT : Nat := 32
def IOV : Nat := 64
def I4XM : Nat := 128

/-- The value of a pattern (spec/05 R78). -/
def decode (f : Fmt) (x : Nat) : Val :=
  let h := shapeOf f
  let s := x / 2 ^ (h.eb + h.fb) % 2 = 1
  let e := x / 2 ^ h.fb % 2 ^ h.eb
  let m := x % 2 ^ h.fb
  if h.inf then
    if e = 2 ^ h.eb - 1 then (if m = 0 then .inf s else .nan (m < 2 ^ (h.fb - 1)))
    else if e = 0 then .fin s m (1 - h.bias - h.fb) else .fin s (2 ^ h.fb + m) (e - h.bias - h.fb)
  else
    if e = 2 ^ h.eb - 1 && m = 2 ^ h.fb - 1 then .nan false
    else if e = 0 then .fin s m (1 - h.bias - h.fb) else .fin s (2 ^ h.fb + m) (e - h.bias - h.fb)

/-- The canonical NaN (spec/05 R79). -/
def canon (f : Fmt) : Nat := match f with
  | .f64 => 0x7FF8000000000000 | .f32 => 0x7FC00000 | .f16 => 0x7E00 | .bf16 => 0x7FC0 | .f8e5 => 0x7E | .f8e4 => 0x7F | _ => 0
def signBit (f : Fmt) (s : Bool) : Nat := if s then 2 ^ (width f - 1) else 0
/-- Pattern of the largest finite magnitude. -/
def maxFin (f : Fmt) : Nat :=
  let h := shapeOf f
  if h.inf then (2 ^ h.eb - 1) * 2 ^ h.fb - 1 else 2 ^ (h.eb + h.fb) - 2
def infPat (f : Fmt) : Nat := (2 ^ (shapeOf f).eb - 1) * 2 ^ (shapeOf f).fb

/-- Number of bits of a magnitude. -/
def bitLen (m : Nat) : Nat := if m = 0 then 0 else Nat.log2 m + 1

/-- Does a rounding mode increase the magnitude: quotient parity, remainder against a divisor, sign (spec/05 R83). -/
def roundUp (rm : Nat) (s : Bool) (odd : Bool) (r d : Nat) : Bool := match rm with
  | 0 => d < 2 * r || (2 * r = d && odd)
  | 1 => false
  | 2 => !s && r ≠ 0
  | _ => s && r ≠ 0

/-- Round m 2^e to a multiple of 2^q: the multiple, and whether exact. -/
def quantum (rm : Nat) (s : Bool) (m : Nat) (e q : Int) : Nat × Bool :=
  if q ≤ e then (m * 2 ^ (e - q).toNat, true)
  else
    let d := 2 ^ (q - e).toNat
    let k := m / d
    let r := m % d
    (if roundUp rm s (k % 2 = 1) r d then k + 1 else k, r = 0)

/-- Round a finite nonzero magnitude to a format (spec/05 R83, R85, R87): pattern and flags. `sat` is FMT.SE. -/
def roundFin (f : Fmt) (rm : Nat) (sat s : Bool) (m : Nat) (e : Int) : Nat × Nat :=
  let h := shapeOf f
  let emin := 1 - h.bias
  let p := h.fb
  -- exponent range unbounded, to judge overflow and tininess after rounding
  let top := e + bitLen m - 1
  let q0 := top - p
  let (k0, ex0) := quantum rm s m e q0
  let (k0, q0) := if k0 = 2 ^ (p + 1) then (2 ^ p, q0 + 1) else (k0, q0)
  let tiny := q0 + p < emin
  let maxE := (if h.inf then (2 ^ h.eb - 2 : Nat) else (2 ^ h.eb - 1 : Nat)) - h.bias
  let ovf := maxE < q0 + p || (!h.inf && q0 + p = maxE && k0 = 2 ^ (p + 1) - 1)
  let sb := signBit f s
  if ovf then
    let toward := rm = 1 || (rm = 2 && s) || (rm = 3 && !s)
    if sat then (sb + maxFin f, OF + NX + SAT)
    else if toward then (sb + maxFin f, OF + NX)
    else if h.inf then (sb + infPat f, OF + NX) else (canon f, OF + NX)
  else if tiny then
    let (k, ex) := quantum rm s m e (emin - p)
    (sb + k, if ex then 0 else UF + NX)
  else
    let ef := (q0 + p + h.bias).toNat
    (sb + ef * 2 ^ p + (k0 - 2 ^ p), if ex0 then 0 else NX)

/-- Round a value to a format; `zs` is the sign of an exact zero. An infinity converts as spec/05 R87 states. -/
def round (f : Fmt) (rm : Nat) (sat : Bool) (v : Val) : Nat × Nat := match v with
  | .nan sig => (canon f, if sig then NV else 0)
  | .inf s =>
    if (shapeOf f).inf then (signBit f s + infPat f, 0)
    else if sat then (signBit f s + maxFin f, SAT) else (canon f, NV)
  | .fin s m e => if m = 0 then (signBit f s, 0) else roundFin f rm sat s m e

/-- Exact sum; an exact zero from opposite signs takes the mode's sign (spec/06 R122). -/
def addExact (rm : Nat) : Val → Val → Val × Nat
  | .nan a, .nan b => (.nan false, if a || b then NV else 0)
  | .nan a, _ => (.nan false, if a then NV else 0)
  | _, .nan b => (.nan false, if b then NV else 0)
  | .inf a, .inf b => if a = b then (.inf a, 0) else (.nan false, NV)
  | .inf a, .fin _ _ _ => (.inf a, 0)
  | .fin _ _ _, .inf b => (.inf b, 0)
  | .fin s m e, .fin t n k =>
    let q := min e k
    let x : Int := (if s then -1 else 1) * ((m * 2 ^ (e - q).toNat : Nat) : Int) + (if t then -1 else 1) * ((n * 2 ^ (k - q).toNat : Nat) : Int)
    if x = 0 then (.fin (if m = 0 && n = 0 && s = t then s else rm = 3) 0 0, 0)
    else (.fin (x < 0) x.natAbs q, 0)

/-- Exact product (spec/05 R85: 0 × ∞ is invalid). -/
def mulExact : Val → Val → Val × Nat
  | .nan a, .nan b => (.nan false, if a || b then NV else 0)
  | .nan a, _ => (.nan false, if a then NV else 0)
  | _, .nan b => (.nan false, if b then NV else 0)
  | .inf a, .inf b => (.inf (a ^^ b), 0)
  | .inf a, .fin t n _ => if n = 0 then (.nan false, NV) else (.inf (a ^^ t), 0)
  | .fin s m _, .inf b => if m = 0 then (.nan false, NV) else (.inf (s ^^ b), 0)
  | .fin s m e, .fin t n k => (.fin (s ^^ t) (m * n) (e + k), 0)

def neg : Val → Val
  | .nan a => .nan a
  | .inf s => .inf (!s)
  | .fin s m e => .fin (!s) m e
def isNan : Val → Bool
  | .nan _ => true
  | _ => false
def sigNan : Val → Bool
  | .nan s => s
  | _ => false
def isZero : Val → Bool
  | .fin _ m _ => m = 0
  | _ => false
def sgn : Val → Bool
  | .nan _ => false
  | .inf s => s
  | .fin s _ _ => s

/-- Round the exact result of an operation, joining flags. Arithmetic never saturates (spec/05 R77), also
where a rule has its overflow follow R87 (log 49). -/
def deliver (f : Fmt) (rm : Nat) (r : Val × Nat) : Nat × Nat :=
  let p := round f rm false r.1
  (p.1, p.2 ||| r.2)

/-- Arithmetic results in a format with infinities keep an infinite operand without a flag. -/
def add (f : Fmt) (rm : Nat) (x y : Nat) : Nat × Nat := deliver f rm (addExact rm (decode f x) (decode f y))
def sub (f : Fmt) (rm : Nat) (x y : Nat) : Nat × Nat := deliver f rm (addExact rm (decode f x) (neg (decode f y)))
def mul (f : Fmt) (rm : Nat) (x y : Nat) : Nat × Nat := deliver f rm (mulExact (decode f x) (decode f y))
/-- x × y + z, one rounding; `n` negates the product. A signalling operand raises NV once, and beside a NaN operand
nothing else raises it: spec/05 R84 decides before the 0 × ∞ of R85 (log 42). -/
def fma (f : Fmt) (rm : Nat) (n : Bool) (x y z : Nat) : Nat × Nat :=
  let p := mulExact (decode f x) (decode f y)
  let q := addExact rm (if n then neg p.1 else p.1) (decode f z)
  let signals := sigNan (decode f x) || sigNan (decode f y) || sigNan (decode f z)
  let invalid := if signals then NV else if isNan (decode f z) then 0 else p.2 ||| q.2
  deliver f rm (q.1, invalid)

/-- Quotient (spec/05 R85): enough quotient bits and a sticky bit make the rounding exact. -/
def div (f : Fmt) (rm : Nat) (x y : Nat) : Nat × Nat :=
  match decode f x, decode f y with
  | .nan a, .nan b => (canon f, if a || b then NV else 0)
  | .nan a, _ => (canon f, if a then NV else 0)
  | _, .nan b => (canon f, if b then NV else 0)
  | .inf a, .inf b => (canon f, NV)
  | .inf a, .fin t _ _ => deliver f rm (.inf (a ^^ t), 0)
  | .fin s _ _, .inf b => deliver f rm (.fin (s ^^ b) 0 0, 0)
  | .fin s m e, .fin t n k =>
    if n = 0 then (if m = 0 then (canon f, NV) else deliver f rm (.inf (s ^^ t), DZ))
    else if m = 0 then deliver f rm (.fin (s ^^ t) 0 0, 0)
    else
      let sh := 130 + bitLen n
      let q := m * 2 ^ sh / n
      let r := m * 2 ^ sh % n
      deliver f rm (.fin (s ^^ t) (2 * q + (if r = 0 then 0 else 1)) (e - k - sh - 1), 0)

/-- Integer square root by bits, from a starting bit down. -/
def isqrtGo (n : Nat) : Nat → Nat → Nat
  | 0, r => if (r + 1) * (r + 1) ≤ n then r + 1 else r
  | b + 1, r => isqrtGo n b (if (r + 2 ^ (b + 1)) * (r + 2 ^ (b + 1)) ≤ n then r + 2 ^ (b + 1) else r)
def isqrt (n : Nat) : Nat := isqrtGo n (bitLen n / 2 + 1) 0

/-- Square root (spec/06 R122: the root of -0 is -0). -/
def sqrt (f : Fmt) (rm : Nat) (x : Nat) : Nat × Nat := match decode f x with
  | .nan a => (canon f, if a then NV else 0)
  | .inf s => if s then (canon f, NV) else deliver f rm (.inf false, 0)
  | .fin s m e =>
    if m = 0 then deliver f rm (.fin s 0 0, 0)
    else if s then (canon f, NV)
    else
      let sh : Nat := 140 + (if (e % 2 = 0) then 0 else 1)
      let n := m * 2 ^ sh
      let r := isqrt n
      deliver f rm (.fin false (2 * r + (if r * r = n then 0 else 1)) ((e - sh) / 2 - 1), 0)

/-- Order of two values that are no NaN: negative, zero or positive. -/
def cmpVal : Val → Val → Ordering
  | .inf a, .inf b => if a = b then .eq else if a then .lt else .gt
  | .inf a, _ => if a then .lt else .gt
  | _, .inf b => if b then .gt else .lt
  | .fin s m e, .fin t n k =>
    let q := min e k
    let x : Int := (if s then -1 else 1) * ((m * 2 ^ (e - q).toNat : Nat) : Int)
    let y : Int := (if t then -1 else 1) * ((n * 2 ^ (k - q).toNat : Nat) : Int)
    compare x y
  | _, _ => .eq

/-- minimumNumber and maximumNumber (spec/05 R84), -0 below +0. -/
def minmax (f : Fmt) (mx : Bool) (x y : Nat) : Nat × Nat :=
  let a := decode f x; let b := decode f y
  let fl := if sigNan a || sigNan b then NV else 0
  if isNan a && isNan b then (canon f, fl)
  else if isNan a then (y, fl)
  else if isNan b then (x, fl)
  else
    let less := match cmpVal a b with
      | .lt => true
      | .gt => false
      | .eq => sgn a && !sgn b
    (if less != mx then x else y, fl)

/-- Compare: 0 equal, 1 less, 2 greater, 3 unordered (spec/06 R123). `ordered`: every NaN is invalid. -/
def compareCode (f : Fmt) (ordered : Bool) (x y : Nat) : Nat × Nat :=
  let a := decode f x; let b := decode f y
  let fl := if sigNan a || sigNan b || (ordered && (isNan a || isNan b)) then NV else 0
  if isNan a || isNan b then (3, fl)
  else (match cmpVal a b with
    | .eq => 0
    | .lt => 1
    | .gt => 2, fl)

/-! ### Conversions (spec/05 R87, R88) -/

/-- Value of an element pattern of any format but i4x. -/
def intVal (f : Fmt) (x : Nat) : Int :=
  let w := width f
  if isSigned f then (if x % 2 ^ w < 2 ^ (w - 1) then ((x % 2 ^ w : Nat) : Int) else ((x % 2 ^ w : Nat) : Int) - (2 ^ w : Nat)) else ((x % 2 ^ w : Nat) : Int)
def value (f : Fmt) (x : Nat) : Val :=
  if isFloat f then decode f x else .fin (intVal f x < 0) (intVal f x).natAbs 0
def lo (f : Fmt) : Int := if isSigned f then -(2 ^ (width f - 1) : Nat) else 0
def hi (f : Fmt) : Int := if isSigned f then (2 ^ (width f - 1) : Nat) - 1 else (2 ^ width f : Nat) - 1
def wrap (f : Fmt) (x : Int) : Nat := (x % (2 ^ width f : Nat)).toNat

/-- A value to an integer format: rounded by RM, then clamped with NV. -/
def toIntFmt (f : Fmt) (rm : Nat) (sat : Bool) (v : Val) : Nat × Nat :=
  let bad := NV + (if sat then SAT else 0)
  match v with
  | .nan _ => (0, bad)
  | .inf s => (wrap f (if s then lo f else hi f), bad)
  | .fin s m e =>
    let (k, ex) := quantum rm s m e 0
    let x : Int := if s then -(k : Int) else k
    if x < lo f then (wrap f (lo f), bad) else if hi f < x then (wrap f (hi f), bad) else (wrap f x, if ex then 0 else NX)

/-- An integer to an integer format. One that saturates raises SAT alone (DESIGN CHOICE, log 111). -/
def intToInt (f : Fmt) (sat : Bool) (x : Int) : Nat × Nat :=
  if lo f ≤ x ∧ x ≤ hi f then (wrap f x, 0)
  else if sat then (wrap f (if x < lo f then lo f else hi f), SAT) else (wrap f x, 0)

/-- Convert a value that came from a float (or an i4x outlier) or from an integer. -/
def convertVal (t : Fmt) (rm : Nat) (sat fromFloat : Bool) (v : Val) : Nat × Nat :=
  if isFloat t then round t rm sat v
  else if fromFloat then toIntFmt t rm sat v
  else match v with
    | .fin s m _ => intToInt t sat (if s then -(m : Int) else m)
    | _ => (0, 0)

/-- Convert a pattern of one format to another (spec/05 R87, R88). -/
def convert (t f : Fmt) (rm : Nat) (sat : Bool) (x : Nat) : Nat × Nat := convertVal t rm sat (isFloat f) (value f x)

/-! ### The escaped 4-bit format (spec/05 R81) -/

/-- Decode one block: the values of its slots, and whether an escape was malformed. -/
def i4xGo : Nat → List Nat → List Val × Bool
  | 0, _ => ([], false)
  | _, [] => ([], false)
  | fuel + 1, x :: rest =>
    if x = 8 then match rest with
      | y :: z :: more =>
        let r := i4xGo fuel more
        (decode .f8e4 (z * 16 + y) :: .fin false 0 0 :: .fin false 0 0 :: r.1, r.2)
      | _ => let r := i4xGo fuel rest; (.fin false 0 0 :: r.1, true)
    else let r := i4xGo fuel rest; (value .i4 x :: r.1, r.2)
def i4xBlock (nibs : List Nat) : List Val × Bool := i4xGo (nibs.length + 1) nibs

end Sys2Proof.Fp
end

