-- ==== Sys2Proof/Machine/Flags.lean ====
section
/-! DEFINITION. FMT: the shadow queue (spec/04 R72), sticky flags (spec/05 R85, R86), PORTST and the counters. -/
set_option linter.unusedVariables false
namespace Sys2Proof.Machine
open Sys2Proof

/-- A write that lands: control fields are replaced, ones written clear flags (spec/04 R72). -/
def landFmt (fmt v : BitVec 32) : BitVec 32 :=
  BitVec.ofNat 32 ((fmt.toNat / 2 ^ 24 &&& (255 - v.toNat / 2 ^ 24)) * 2 ^ 24 + v.toNat % 2 ^ 20 / 8 * 8)

/-- Raise flags, given as bits 7..0 of FMT [31:24]. -/
def orFlags (fmt : BitVec 32) (flags : Nat) : BitVec 32 := fmt ||| BitVec.ofNat 32 (flags % 256 * 2 ^ 24)

/-- Entries whose count has reached zero land, oldest first. -/
def landAll : BitVec 32 → List FmtWrite → BitVec 32 × List FmtWrite
  | f, [] => (f, [])
  | f, e :: t => if e.count = 0 then landAll (landFmt f e.value) t else (f, e :: t)

/-- The shadow rule for one issued bundle of the bank's kernel (spec/04 R72). -/
def shadowTick (k : Bank) (wrote : Option (BitVec 32)) (flags : Nat) : Bank :=
  let down := k.shadow.map fun e => { e with count := e.count - 1 }
  let q := down ++ (match wrote with
    | some v => [⟨v, 4⟩]
    | none => [])
  let r := landAll (orFlags k.fmt flags) q
  { k with fmt := r.1, shadow := r.2 }

/-- Flags of a slot join the bundle's (spec/05 R86). -/
def State.flag (s : State) (flags : Nat) : State := s.modIssue fun b => { b with flags := b.flags ||| flags }

/-- Is a bundle of a sequencer in the consumer's code of a splice (spec/15 R292). -/
def inConsumer (s : State) (n pc : Nat) : Bool := match (s.ctxOf n).splice with
  | some sp => sp.bundles.any fun e => e.1 = pc && e.2.1
  | none => false
/-- Is the bundle at a spliced sequencer's PC one of the gaps, which belong to neither kernel (spec/15 R290, R292). -/
def inGap (s : State) (n pc : Nat) : Bool := match (s.ctxOf n).splice with
  | some sp => sp.bundles.any fun e => e.1 = pc && e.2.2.2
  | none => false
/-- Slot position as the original bundle numbers it: the removed halt slot keeps its place (spec/15 R298). -/
def slotAt (s : State) (n pc pos : Nat) : Nat := match (s.ctxOf n).splice with
  | some sp => if sp.haltPc = pc && sp.haltPos ≤ pos && sp.haltPos < 8 && sp.bundles.any (fun e => e.1 = pc && !e.2.1) then pos + 1 else pos
  | none => pos
/-- Flags join FMT of a bank. -/
def withFlags (con : Bool) (flags : Nat) (q : Seq) : Seq := let k := q.bankOf con; q.setBank con { k with fmt := orFlags k.fmt flags }
/-- Flags of an operation that completes later go into FMT at completion, in the bank of the bundle that issued it
(spec/05 R86, spec/15 R292). DESIGN CHOICE: while a user-level handler runs, FMT is the handler's (log 106). -/
def lateFlags (s : State) (n pc flags : Nat) : State := s.modSeq n (withFlags (inConsumer s n pc) flags)

/-- Set a bit of PORTST (spec/04 R74). -/
def setPortst (s : State) (n k : Nat) : State := s.modSeq n fun q => { q with portst := q.portst ||| BitVec.ofNat 16 (2 ^ k) }

end Sys2Proof.Machine
end

