-- ==== Sys2Proof/Machine/Operands.lean ====
section
/-! DEFINITION. Operand forms: immediates (spec/02 R34), vectors as elements (spec/07 R125, R126), masks, and the
stream-port operands (spec/07 R129, spec/13 R250-R254). -/
set_option linter.unusedVariables false
namespace Sys2Proof.Machine
open Sys2Proof

/-! ### Immediates -/

/-- The immediate with its imx extension: field width, and value. -/
def immWide (b : Issue) (w f : Nat) : Nat × Nat := match b.ext with
  | some e => (w + 17, e.toNat * 2 ^ w + f)
  | none => (w, f)
/-- Signed immediate as a 64-bit word. -/
def immS (b : Issue) (w f : Nat) : Word := let p := immWide b w f; BitVec.ofInt 64 (toInt p.1 p.2)
/-- Zero-extended immediate as a 64-bit word. -/
def immZ (b : Issue) (w f : Nat) : Word := BitVec.ofNat 64 (immWide b w f).2
/-- Signed offset in slots as an address, from the bundle's start (spec/02 R44). -/
def branchTarget (b : Issue) (w f : Nat) : Word :=
  let p := immWide b w f
  BitVec.ofInt 64 ((b.pc : Int) + 4 * toInt p.1 p.2)

/-! ### Vectors as elements -/

/-- The first `n` elements of `w` bits, element 0 first. -/
def elems (w : Nat) : Nat → Nat → List Nat
  | 0, _ => []
  | n + 1, v => v % 2 ^ w :: elems w n (v / 2 ^ w)
/-- Elements packed, element 0 lowest. -/
def packE (w : Nat) : List Nat → Nat
  | [] => 0
  | x :: t => x % 2 ^ w + 2 ^ w * packE w t
def count (f : Fmt) : Nat := 4096 / Fp.width f
def elemsOf (f : Fmt) (v : Vec) : List Nat := elems (Fp.width f) (count f) v.toNat
def vecOf (w : Nat) (l : List Nat) : Vec := BitVec.ofNat 4096 (packE w l)
/-- Mask bit of element `e` (spec/07 R126). -/
def maskBit (f : Fmt) (k : Mask) (e : Nat) : Bool := k.getLsbD (if 32 ≤ Fp.width f then e else e * Fp.width f / 32)
/-- Results with flags: the elements, and the flags joined. -/
def joinFlags (l : List (Nat × Nat)) : List Nat × Nat := (l.map (·.1), l.foldl (fun a x => a ||| x.2) 0)
/-- Element-wise operation on three vectors. -/
def map3 (g : Nat → Nat → Nat → Nat × Nat) : List Nat → List Nat → List Nat → List (Nat × Nat)
  | x :: xs, y :: ys, z :: zs => g x y z :: map3 g xs ys zs
  | _, _, _ => []

/-! ### Port walks (spec/13 R250, R251) -/

/-- Validity of a descriptor (spec/13 R250). -/
def pdValid (d : BitVec 512) : Bool :=
  fld d.toNat 63 48 = 0 && fld d.toNat 127 67 = 0 && fld d.toNat 511 432 = 0 &&
  (List.range 4).all (fun i => 1 ≤ pdCount d i && pdStride d i % (pdWidth d : Int) = 0) && pdBase d % pdWidth d = 0
/-- Address of element t, modulo 2^64. -/
def pdAddr (d : BitVec 512) (t : Nat) : Nat :=
  let c0 := pdCount d 0; let c1 := pdCount d 1; let c2 := pdCount d 2
  ofInt 64 ((pdBase d : Int) + (t % c0 : Nat) * pdStride d 0 + (t / c0 % c1 : Nat) * pdStride d 1 +
    (t / (c0 * c1) % c2 : Nat) * pdStride d 2 + (t / (c0 * c1 * c2) : Nat) * pdStride d 3)
/-- The elements of vector v: address and byte place. -/
def pdElems (d : BitVec 512) (v : Nat) : List (Nat × Nat) :=
  let e := pdPer d
  (List.range (Nat.min e (pdTotal d - v * e))).map fun k => (pdAddr d (v * e + k), k * pdWidth d)

/-- Elements of `w` bytes translated in order; the first failing one decides (spec/11 R209). -/
def elemSegs (s : State) (g : Nat) (wh : Which) (asid : Nat) (path : Path) (n : Needs) (w : Nat) : List (Nat × Nat) → Except XFault (List Seg)
  | [] => .ok []
  | (va, at_) :: t => match segsGo s g wh asid path n 2 va w at_ with
    | .error f => .error f
    | .ok l => match elemSegs s g wh asid path n w t with
      | .error f => .error f
      | .ok m => .ok (l ++ m)

/-! ### Pops and pushes (spec/07 R129, spec/13 R252-R254) -/

/-- Is the port a loaded input whose walk has vectors left. -/
def portLive (p : Port) (out : Bool) : Bool := p.v && pdOut p.desc = out && !p.exh && p.moved < pdVectors p.desc
/-- The forwarding buffer an input or output port belongs to, in a spliced loop (spec/15 R294). -/
def fwdIn (q : Seq) (p : Nat) : Option (Nat × Nat × List Vec) := q.fwd.find? fun x => x.2.1 = p
def fwdOut (q : Seq) (p : Nat) : Option (Nat × Nat × List Vec) := q.fwd.find? fun x => x.1 = p
/-- Does a forwarded output keep its memory writes (spec/15 R295). -/
def fwdKeep (s : State) (n p : Nat) : Bool := match (s.ctxOf n).splice with
  | some sp => sp.pairs.any fun x => x.1 = p && x.2.2.2
  | none => true

/-- May a slot pop the port now. -/
def popReady (s : State) (n p : Nat) : Bool :=
  let q := s.seq n
  let x := q.ports.getD p {}
  if !portLive x false then true
  else match fwdIn q p with
    | some (_, _, b) => b ≠ []
    | none => match x.buf with
      | e :: _ => e.vec.isSome || e.fault.isSome
      | [] => false
/-- The fault that a pop meets (spec/13 R253, spec/09 R187). -/
def popFault (s : State) (n p : Nat) : Option Trap :=
  let q := s.seq n
  let x := q.ports.getD p {}
  if portLive x false && (fwdIn q p).isNone then match x.buf with
    | e :: _ => e.fault
    | [] => none
  else none

/-- The bits that vector `k` of a walk had before a strike rollback; asked for again, they are used up (spec/13 R257). -/
def seenVec (q : Seq) (p : Nat) (d : BitVec 512) (k : Nat) : Option Vec :=
  (q.again.find? fun e => e.1 = p && e.2.1 = d && e.2.2.1 = k).map (·.2.2.2)
def giveBack (q : Seq) (p : Nat) (d : BitVec 512) (k : Nat) : Seq := match q.again.findIdx? fun e => e.1 = p && e.2.1 = d && e.2.2.1 = k with
  | some i => { q with again := q.again.eraseIdx i }
  | none => q
/-- Take one vector; the reads of a later vector issue with the pop (spec/13 R253). -/
def popPort (s : State) (n p : Nat) : State × Vec :=
  let q := s.seq n
  let x := q.ports.getD p {}
  if !portLive x false then (setPortst s n p, 0)
  else match fwdIn q p with
    | some (o, i, b) =>
      (s.modSeq n fun q => { q with fwd := q.fwd.map (fun f => if f.2.1 = p then (o, i, b.drop 1) else f),
                                    ports := upd q.ports p fun x => { x with moved := x.moved + 1 } }, b.headD 0)
    | none =>
      let after := fencedOn q .p false
      let more := x.asked < pdVectors x.desc
      let entry : PortEntry := { id := s.nextId, after := after, vec := seenVec q p x.desc x.asked }
      let s := s.modSeq n fun q => { (if more then giveBack q p x.desc x.asked else q) with
        ports := upd q.ports p fun x => { x with buf := x.buf.drop 1 ++ (if more then [entry] else []), moved := x.moved + 1, asked := if more then x.asked + 1 else x.asked }
        seen := (q.seen ++ x.buf.head?.toList.map fun e => (e.id, p, x.desc, x.moved, e.vec.getD 0)).reverse.take 384 |>.reverse }
      (s.bump, ((x.buf.head?.bind (·.vec)).getD 0))

/-- A vector load on its way into a port: a forwarded one takes it at the tail of its buffer when it arrives (spec/11
R215, spec/15 R294, R295). -/
def pushPending (q : Seq) (p : Nat) : Bool := q.acc.any fun a => match a.kind with
  | .load (.port r _) _ _ => r = p
  | _ => false
def pushReady (s : State) (n p : Nat) : Bool :=
  let q := s.seq n
  let x := q.ports.getD p {}
  if !portLive x true then true
  else (match fwdOut q p with
    | some (_, _, b) => b.length < 8 && !pushPending q p
    | none => true) && ((fwdOut q p).isSome && !fwdKeep s n p || x.buf.length < 4)
/-- Does a push write memory. -/
def pushWrites (s : State) (n p : Nat) : Bool :=
  let q := s.seq n
  portLive (q.ports.getD p {}) true && ((fwdOut q p).isNone || fwdKeep s n p)
/-- Translation of the elements that the next pushed vector writes (spec/13 R253). -/
def pushSegs (s : State) (n p : Nat) : Except XFault (List Seg) :=
  let x := (s.seq n).ports.getD p {}
  if pushWrites s n p then
    elemSegs s (coreOf n) .etlb (asidOf s n) .p { w := true } (pdWidth x.desc) (pdElems x.desc x.moved)
  else .ok []
def pushFault (s : State) (n p : Nat) : Option Trap := xtrap 5 (pushSegs s n p)

/-- What a push of `v` does to the sequencer: `id` names the entry, `writes` says whether it writes memory, and `l` where. -/
def pushSeq (q : Seq) (p id : Nat) (v : Vec) (writes : Bool) (l : List Seg) (after : List Dep) (pc slot : Nat) (held : Bool := false) : Seq :=
  let x := q.ports.getD p {}
  let cut := BitVec.ofNat 4096 (cutVec x.desc x.moved v.toNat)
  let entry : PortEntry := { id := id, vec := some cut, segs := l, after := after, pc := pc, slot := slot, held := held }
  if !portLive x true then { q with portst := q.portst ||| BitVec.ofNat 16 (2 ^ (8 + p)) }
  else { q with fwd := q.fwd.map (fun f => if f.1 = p then (f.1, f.2.1, f.2.2 ++ [cut]) else f),
                ports := upd q.ports p fun x => { x with moved := x.moved + 1, buf := if writes then x.buf ++ [entry] else x.buf } }

/-- Push one vector. -/
def pushPort (s : State) (b : Issue) (p : Nat) (v : Vec) : State :=
  let n := b.n
  let q := s.seq n
  let writes := pushWrites s n p
  let l := segsOk (pushSegs s n p)
  let s := if writes then installSegs s (coreOf n) .etlb (asidOf s n) l else s
  (s.modSeq n fun q => pushSeq q p s.nextId v writes l (fencedOn q .p true) b.pc b.pos b.held).bump
/-- Where a vector load into a port delivers: it takes its entry, its place in the order and its translation as it
issues (spec/13 R253), and the vector follows; an exhausted port discards it (R254); a forwarded port has it at the tail
of its buffer when it arrives. -/
def loadIntoPort (s : State) (b : Issue) (p : Nat) : State × Dest :=
  let q := s.seq b.n
  if !portLive (q.ports.getD p {}) true then (setPortst s b.n (8 + p), .discard)
  else
    let id := s.nextId
    let s := pushPort s b p 0
    (s.modSeq b.n fun q' => { q' with fwd := q.fwd, ports := upd q'.ports p fun x => { x with buf := x.buf.map fun e => if e.id = id then { e with vec := none } else e } },
      .port p id)

/-! ### Vector operands of a slot -/

/-- Ports of a slot whose pops or pushes access memory: a forwarded one without KEEP does not (spec/10 R202, spec/15 R295). -/
def memPorts (s : State) (n : Nat) (l : List Nat) (push : Bool) : List Nat :=
  l.filter fun p => if push then (fwdOut (s.seq n) p).isNone || fwdKeep s n p else (fwdIn (s.seq n) p).isNone

/-- Port number of a vector field, if it names one (spec/07 R128). -/
def portOf (r : Reg) : Option Nat := if 56 ≤ r.toNat then some (r.toNat - 56) else none
def portsOf (l : List Reg) : List Nat := (l.filterMap portOf).dedup

/-- Names of the vector fields. -/
def vnames (w : Nat) (l : List Reg) : List Name := l.map fun r => .vec w r.toNat
def snames (l : List Reg) : List Name := l.map fun r => .scalar r.toNat

/-- Pop every port named in the source fields once, in field order. -/
def popAll (s : State) (n : Nat) : List Nat → State × List (Nat × Vec)
  | [] => (s, [])
  | p :: t =>
    let r := popPort s n p
    let u := popAll r.1 n t
    (u.1, (p, r.2) :: u.2)
/-- Value of a source field: a register before the bundle, or the popped vector. -/
def srcVal (b : Issue) (w : Nat) (pops : List (Nat × Vec)) (r : Reg) : Vec := match portOf r with
  | some p => ((pops.find? fun x => x.1 = p).map (·.2)).getD 0
  | none => b.rv w r
/-- Old value of a destination read as a source: zero for a port (spec/07 R129). -/
def oldVal (b : Issue) (w : Nat) (r : Reg) : Vec := match portOf r with
  | some _ => 0
  | none => b.rv w r
/-- Write a vector result to a register or push it. -/
def putVec (s : State) (b : Issue) (w : Nat) (r : Reg) (v : Vec) : State := match portOf r with
  | some p => pushPort s b p v
  | none => s.wv b w r v

/-- Readiness and faults of the ports of a slot: sources popped, destinations pushed. -/
def portsReady (s : State) (n : Nat) (src dst : List Reg) : Bool :=
  (portsOf src).all (popReady s n) && (portsOf dst).all (pushReady s n)
/-- Ports ready, and no fence against what they do in memory. -/
def portPath (s : State) (n : Nat) (src dst : List Reg) : Bool :=
  portsReady s n src dst && (memPorts s n (portsOf src) false = [] || !heldBack s n .p false) &&
    (memPorts s n (portsOf dst) true = [] || !heldBack s n .p true)
def portChecks (s : State) (n : Nat) (src dst : List Reg) : List (Option Trap) :=
  (portsOf src).map (popFault s n) ++ (portsOf dst).map (pushFault s n)

end Sys2Proof.Machine
end

