-- ==== Sys2Proof/Machine/Control.lean ====
section
/-! DEFINITION. Control instructions: transfers, loops, waits, format, views, control registers, traps and the
user-level interrupt instructions (spec/06 R98-R114, spec/11 R224, spec/19 R360-R370, spec/20 R381, R382, spec/21 R414,
spec/22 R425). -/
set_option linter.unusedVariables false
namespace Sys2Proof.Machine
open Sys2Proof

/-! ### Transfers (spec/06 R98-R100) -/

/-- The check of a taken transfer's target, on the full 64-bit value (spec/02 R44). -/
def targetTrap (s : State) (k : Issue) (t : Word) : Option Trap :=
  if bundleStart (s.core (coreOf k.n)) t.toNat then none else some { cause := .badTarget, addr := t.toNat }
def takeTransfer (s : State) (t : Word) : State := s.modIssue fun k => { k with target := some t.toNat }
/-- Held state of the classes that a mask names is cleared at the end of the bundle (spec/02 R39, spec/06 R110). -/
def clearHeld (s : State) (k : Issue) (m : Nat) : State := s.modSeq k.n fun q =>
  let bank := q.bankOf k.consumer
  q.setBank k.consumer { bank with held := bank.held.filter fun e => !bit m (e.1 - 2) }
/-- What happens once the bundle has had its effect. -/
def afterwards (s : State) (a : After) : State := s.modIssue fun k => { k with after := a }

def execNop (s : State) : Host.Outcome State Fault Refusal := .next (slot s (fun _ => {}) fun _ s => s)

def execBr (off : BitVec 20) (s : State) : Host.Outcome State Fault Refusal :=
  .next (slot s (fun k => { early := targetTrap s k (branchTarget k 20 off.toNat) }) fun k s =>
    takeTransfer s (branchTarget k 20 off.toNat))

/-- The conditions of spec/06 R99. -/
def condHolds (c : Cond) (x : Word) : Bool := match c with
  | .eq => x = 0 | .ne => x ≠ 0 | .lt => x.toInt < 0 | .ge => 0 ≤ x.toInt | .gt => 0 < x.toInt | .le => x.toInt ≤ 0
  | .b0 => x.getLsbD 0

def execBc (cond : Cond) (a : Reg) (off : BitVec 11) (s : State) : Host.Outcome State Fault Refusal :=
  .next (slot s (fun k =>
        { names := snames [a], reads := snames [a], uses := snames [a],
          early := if condHolds cond (k.rs a) then targetTrap s k (branchTarget k 11 off.toNat) else none }) fun k s =>
    if condHolds cond (k.rs a) then takeTransfer s (branchTarget k 11 off.toNat) else s)

def execJmp (a : Reg) (s : State) : Host.Outcome State Fault Refusal :=
  .next (slot s (fun k => { names := snames [a], reads := snames [a], uses := snames [a], early := targetTrap s k (k.rs a) }) fun k s =>
    takeTransfer s (k.rs a))

/-- The link register. -/
def linkReg : Reg := 63
/-- The register that names the join object (spec/13 R266). -/
def joinReg : Reg := 61
/-- Link, transfer, and held state cleared. -/
def callTo (k : Issue) (s : State) (t : Word) : State :=
  clearHeld (takeTransfer (s.ws k linkReg (BitVec.ofNat 64 k.next)) t) k 63

def execCall (off : BitVec 20) (s : State) : Host.Outcome State Fault Refusal :=
  .next (slot s (fun k => { names := snames [linkReg], early := targetTrap s k (branchTarget k 20 off.toNat) }) fun k s =>
    callTo k s (branchTarget k 20 off.toNat))

def execCallr (a : Reg) (s : State) : Host.Outcome State Fault Refusal :=
  .next (slot s (fun k => { names := snames [a, linkReg], reads := snames [a], uses := snames [a], early := targetTrap s k (k.rs a) }) fun k s =>
    callTo k s (k.rs a))

/-- `ret` to the exit link acts as `halt` in a gang launch and as `retire` in a task launch (spec/01 R26, spec/06 R99); it
is a taken transfer then too (R94), so the loop stack stays as it is (R104). -/
def execRet (s : State) : Host.Outcome State Fault Refusal :=
  .next (slot s (fun k =>
        { names := snames (linkReg :: if k.rs linkReg = exitWord && (s.ctxOf k.n).isTask then [joinReg] else []), reads := snames [linkReg],
          uses := snames [linkReg], early := if k.rs linkReg = exitWord then none else targetTrap s k (k.rs linkReg) }) fun k s =>
    let s := clearHeld s k 63
    if k.rs linkReg = exitWord then (afterwards s (if (s.ctxOf k.n).isTask then .retire else .halt)).modIssue fun x => { x with exits := true }
    else takeTransfer s (k.rs linkReg))

/-- Steps 1 and 2 of spec/06 R101; step 3 is HALT_RETIRE. In a task launch it performs the effect of `retire`. -/
def execHalt (s : State) : Host.Outcome State Fault Refusal :=
  .next (slot s (fun k => { names := if (s.ctxOf k.n).isTask then snames [joinReg] else [] }) fun k s =>
    afterwards (clearHeld s k 63) (if (s.ctxOf k.n).isTask then .retire else .halt))

/-! ### Hardware loops (spec/06 R102-R106) -/

/-- Address after the bundle that starts at `a`, if a stop bit ends it. -/
def bundleAfter (c : Core) : Nat → Nat → Nat
  | 0, a => a
  | k + 1, a => if slotStop (instrWord c a).toNat then a + 4 else bundleAfter c k (a + 4)

/-- The checks of a push (spec/06 R103, spec/04 R68), made whatever the count is. -/
def loopTrap (s : State) (k : Issue) (stop : Nat) : Option Trap :=
  let c := s.core (coreOf k.n)
  let bad := fun (x : Nat) => some ({ cause := .badTarget, addr := x } : Trap)
  if stop < k.next || !bundleStart c stop then bad stop
  else if k.next % 16 ≠ 0 then bad k.next
  else if (match k.before.loops with
      | l :: _ => k.pc = l.stop || l.stop < stop
      | [] => false) then bad stop
  else none
/-- The target of a loop whose count is zero: the bundle past its end (spec/06 R103, spec/02 R44). -/
def loopSkip (s : State) (k : Issue) (stop : Nat) : Word := BitVec.ofNat 64 (bundleAfter (s.core (coreOf k.n)) 8 stop)

/-- A PATREC read of a port before the spliced loop head (spec/15 R294). -/
def patrecSegs (s : State) (k : Issue) (p : Nat) : Except XFault (List Seg) :=
  segs s (coreOf k.n) .etlb (asidOf s k.n) .p { r := true } (pdPatrec (k.before.ports.getD p {}).desc) 128
/-- Ports matched by the splice whose loop head this bundle is, with their records. -/
def weltHead (s : State) (k : Issue) : List (Nat × BitVec 1024) := match (s.ctxOf k.n).splice with
  | some sp => if k.pc = sp.headPc then (sp.pairs.map fun x => [(x.1, x.2.2.1), (x.2.1, x.2.2.1)]).flatten else []
  | none => []
/-- Both latches loaded, and both PATREC records as matched. -/
def weltTrap (s : State) (k : Issue) : Option Trap :=
  if (weltHead s k).all fun e =>
    let x := k.before.ports.getD e.1 {}
    let l := segsOk (patrecSegs s k e.1)
    x.v && pdPatrec x.desc ≠ 0 && l ≠ [] && (loadPoisoned s (coreOf k.n) .p l).isNone && (loadSegs s (coreOf k.n) .p l false).2 = e.2.toNat
  then none else some { cause := .illegalInstr, flags := flagWelt }

/-- Push a level, or skip the body when the count is zero. -/
def loopPush (s : State) (names reads : List Name) (count stop : Issue → Nat) : State :=
  slot s (fun k =>
        { names := names, reads := reads, uses := if (loopTrap s k (stop k)).isSome then [] else names
          early := match loopTrap s k (stop k) with
            | some t => some t
            | none => if count k = 0 then targetTrap s k (loopSkip s k (stop k)) else none
          ready := (weltHead s k).all fun e => segsLive s (segsOk (patrecSegs s k e.1))
          checks := [weltTrap s k, need (count k = 0 || k.before.loops.length < 6) .loopOverflow] }) fun k s =>
    if count k = 0 then takeTransfer s (loopSkip s k (stop k))
    else s.modSeq k.n fun q => { q with loops := { count := count k, stop := stop k, start := k.next } :: q.loops }

def execLoop (c : Reg) (off : BitVec 14) (s : State) : Host.Outcome State Fault Refusal :=
  .next (loopPush s (snames [c]) (snames [c]) (fun k => (k.rs c).toNat % 2 ^ 32) fun k => k.pc + 4 * (immWide k 14 off.toNat).2)
def execLoopi (n off : BitVec 10) (s : State) : Host.Outcome State Fault Refusal :=
  .next (loopPush s [] [] (fun k => (immWide k 10 n.toNat).2) fun k => k.pc + 4 * off.toNat)

def lbrkTarget (k : Issue) (off : BitVec 17) : Word := BitVec.ofInt 64 ((k.pc : Int) + 4 * off.toInt)
/-- With more levels than DEPTH no transfer is taken, and no target is checked (spec/06 R105). -/
def execLbrk (n : BitVec 3) (off : BitVec 17) (s : State) : Host.Outcome State Fault Refusal :=
  .next (slot s (fun k =>
        { early := if n.toNat ≤ k.before.loops.length then targetTrap s k (lbrkTarget k off) else none,
          checks := [need (n.toNat ≤ k.before.loops.length) .loopOverflow] }) fun k s =>
    takeTransfer (s.modSeq k.n fun q => { q with loops := q.loops.drop n.toNat }) (lbrkTarget k off))

def execLidx (d : Reg) (j : BitVec 3) (s : State) : Host.Outcome State Fault Refusal :=
  .next (slot s (fun _ => { names := snames [d] }) fun k s =>
    s.ws k d (BitVec.ofNat 64 ((k.before.loops[j.toNat]?).elim 0 (·.count))))

/-! ### Waits (spec/19 R360, R364-R370, spec/11 R224) -/

/-- The condition of a `wait`: a limit of 15 places none. -/
def waitMet (q : Seq) (ld st xf mt cm : BitVec 4) : Bool :=
  let low := fun (l : BitVec 4) (c : Nat) => l.toNat = 15 || c ≤ l.toNat
  low ld q.ld && low st q.st_ && low xf q.xf && low mt q.mt && low cm q.cm

def execWait (ld st xf mt cm : BitVec 4) (s : State) : Host.Outcome State Fault Refusal :=
  .next (slot s (fun k => { wait := if waitMet k.before ld st xf mt cm then none else some .slot }) fun _ s => s)

/-- The sequencer's next bundle issues no earlier than T; the late flag is written as it issues (spec/19 R370). -/
def execWaitt (d a : Reg) (s : State) : Host.Outcome State Fault Refusal :=
  .next (slot s (fun _ => { names := snames [d, a], reads := snames [a] }) fun k s =>
    let t := (k.rs a).toNat
    let s := s.modSeq k.n fun q => { q with pendT := some (scalarDest k d, t, t < s.sys.dtime) }
    if t ≤ s.sys.dtime then s else afterwards s (.waits .waitt))

/-- Wait for the watch, a timeout of s[a] ns unless zero, an interrupt or a pre-emption (spec/11 R224, spec/10 R205). -/
def execMwait (d a : Reg) (s : State) : Host.Outcome State Fault Refusal :=
  .next (slot s (fun _ => { names := snames [d, a], reads := snames [a] }) fun k s =>
    let t := (k.rs a).toNat
    afterwards s (.waits (.mwait (scalarDest k d) (if t = 0 then none else some (s.sys.dtime + t)))))

/-- Bit of a level in DMR, its scope, and the unit of a core at that level (spec/04 R74, spec/01 R24). -/
def levelScope : Level → Scope
  | .cluster => .cluster | .die => .die | .module => .module | .fabric => .fabric
def unitOf (l : Level) (g : Nat) : Nat := match l with
  | .cluster => clusterOf g | .die => dieOf g | _ => 0
def domainKey (l : Level) (g : Nat) : Nat := levelCode l * 16 + unitOf l g
def phaseCount (c : Ctx) (l : Level) (g : Nat) : Nat := c.phases.getD (domainKey l g) 0

/-- Arrival at a domain barrier, a release at the level's scope; the sequencer then waits (spec/19 R365). A write to DMR
acts from the domain's next phase on (spec/06 R114, spec/04 R75), for this check too (log 43). -/
def execDsync (lvl : Level) (s : State) : Host.Outcome State Fault Refusal :=
  .next (slot s (fun k => { checks := [need (!(s.ctxOf k.n).isTask && !k.before.withdrawn.getLsbD (levelCode lvl)) .illegalInstr flagDomain] })
    fun k s =>
      let c := k.before.ctx.getD 0
      let g := coreOf k.n
      let rel : Order := { paths := [], after := releaseDeps s k.n (levelScope lvl) }
      let s := s.modCtx c fun x => { x with arrived := x.arrived ++ [(domainKey lvl g, k.n)] }
      let s := (advanceClock s (dieOf g) (levelScope lvl)).modSeq k.n fun q =>
        { q with pendDom := some (lvl, phaseCount (s.ctx c) lvl g), order := q.order ++ [rel], ordered := true }
      afterwards s (.waits .dsync))

/-- The PHASE field of a barrier (spec/19 R361). -/
def barrierPhase (s : State) (x : Seg) : Nat := fld (physRead s (localPa x.pa) 16 x.key) 3 0
/-- Segment of a barrier for the sequencer, or why it has none (spec/19 R363 items 1-3). -/
def barrierSegs (s : State) (n : Nat) (n2 : Needs) (a : Word) (len : Nat) : Except XFault (List Seg) :=
  segs s (coreOf n) .dtlb (asidOf s n) .b n2 a.toNat len
/-- Is every segment in this module's memory that a BAU homes. -/
def bauHere (l : List Seg) : Bool := l.all fun x => !x.fab && bauHomed (localPa x.pa)
def misaligned (a : Word) (k : Nat) : Option Trap := if a.toNat % k = 0 then none else some { cause := .misaligned, addr := a.toNat }
/-- Alignment, translation and the BAU check of a bank object. -/
def bankChecks (s : State) (n : Nat) (need_ : Needs) (a : Word) (al len : Nat) (access : Nat) : List (Option Trap) :=
  let r := barrierSegs s n need_ a len
  [misaligned a al, xtrap access r, if bauHere (segsOk r) then none else some { cause := .permission, addr := a.toNat, xlat := 1 + access * 32 }]

/-- Wait until a transaction barrier leaves a phase (spec/19 R364). -/
def execTbwait (d a b : Reg) (p : Bool) (s : State) : Host.Outcome State Fault Refusal :=
  .next (slot s (fun k =>
      let r := barrierSegs s k.n { r := true } (k.rs a) 16
      let x := (segsOk r).headD { va := 0, pa := 0, len := 16, at_ := 0 }
      let bad := poisoned s (localPa x.pa) 16
      let advance := barrierPhase s x ≠ (k.rs b).toNat % 16
      -- the counted arrivals are in the copy that the observer's die reads (spec/10 R204)
      let come := !advance || !s.updates.any fun u => u.die = dieOf (coreOf k.n) && meet u.pa u.len (localPa x.pa) 32
      let held := k.before.order.any fun o => o.paths.contains .b && o.reads && !depsMet s k.n o.after
      let own := k.before.acc.any fun e => e.path = .b && !e.home && segsMeet e.segs (segsOk r)
      { names := snames [d, a, b], reads := snames [a, b], ready := segsLive s (segsOk r) && !own && !held && come,
        checks := bankChecks s k.n { r := true } (k.rs a) 32 16 2 ++
          [if bad then some { cause := .dataAbort, addr := x.va, late := true } else none],
        wait := if !p && !advance then some (.tbwait (localPa x.pa) ((k.rs b).toNat % 16) x.key) else none })
    fun k s =>
      let r := barrierSegs s k.n { r := true } (k.rs a) 16
      let x := (segsOk r).headD { va := 0, pa := 0, len := 16, at_ := 0 }
      let s := installSegs s (coreOf k.n) .dtlb (asidOf s k.n) (segsOk r)
      -- only an observed advance is an acquire (spec/10 R204)
      let s := if barrierPhase s x = (k.rs b).toNat % 16 then s else (mergeClock s k.n (localPa x.pa) 16).modSeq k.n fun q => { q with ordered := true }
      s.ws k d (BitVec.ofNat 64 (barrierPhase s x)))

/-! ### Format, views, held state (spec/06 R107-R110) -/

def execFmt (a : Reg) (s : State) : Host.Outcome State Fault Refusal :=
  .next (slot s (fun _ => { names := snames [a], reads := snames [a] }) fun k s =>
    s.modIssue fun x => { x with fmtWrite := some ((k.rs a).setWidth 32) })
def execFmti (imm : BitVec 20) (s : State) : Host.Outcome State Fault Refusal :=
  .next (slot s (fun _ => {}) fun k s => s.modIssue fun x => { x with fmtWrite := some (BitVec.ofNat 32 (immWide k 20 imm.toNat).2) })

/-- The view a scalar describes (spec/04 R62), and its check (R64). -/
def viewOfWord (x : Word) : View := { base := fld x.toNat 31 0, size := fld x.toNat 63 32 }
def viewFits (q : Seq) (v : View) : Bool := v.base % 64 = 0 && v.size % 64 = 0 && v.base + v.size ≤ q.winSize
def execVset (w : BitVec 3) (a : Reg) (s : State) : Host.Outcome State Fault Refusal :=
  .next (slot s (fun k => { names := snames [a], reads := snames [a], view := viewFits k.before (viewOfWord (k.rs a)) }) fun k s =>
    s.modSeq k.n fun q => { q with views := q.views.set w.toNat (viewOfWord (k.rs a)) })

def execUnhold (m : BitVec 6) (s : State) : Host.Outcome State Fault Refusal :=
  .next (slot s (fun _ => {}) fun k s => clearHeld s k m.toNat)

/-! ### Phase marker and superstep (spec/22 R425, spec/21 R414) -/

def execPhase (imm : BitVec 14) (s : State) : Host.Outcome State Fault Refusal :=
  .next (slot s (fun _ => {}) fun k s => s.modSeq k.n fun q => { q with phase := (immWide k 14 imm.toNat).2 % 2 ^ 16 })

/-- Record the module domain's phase count; wait for an armed checkpoint (spec/21 R414). -/
def execStep (s : State) : Host.Outcome State Fault Refusal :=
  .next (slot s (fun k => { checks := [need (!(s.ctxOf k.n).isTask && !k.before.withdrawn.getLsbD 2) .illegalInstr flagDomain] }) fun k s =>
    let c := s.ctxOf k.n
    let s := s.modSeq k.n fun q => { q with stepno := phaseCount c .module (coreOf k.n) % 2 ^ 32 }
    if c.armed.isSome then afterwards s (.waits .step) else s)

/-! ### Compare-and-trap, software trap (spec/06 R111, R112) -/

def execCtrap (a b : Reg) (s : State) : Host.Outcome State Fault Refusal :=
  .next (slot s (fun k =>
        { names := snames [a, b], reads := snames [a, b],
          checks := [if k.rs a = k.rs b then none
        else some { cause := .compareMismatch, addr := (k.rs a).toNat, aux := (k.rs b).toNat }] }) fun _ s => s)

def execTrap (imm : BitVec 20) (s : State) : Host.Outcome State Fault Refusal :=
  .next (slot s (fun _ => {}) fun k s =>
    afterwards s (.trap { cause := .softTrap, slot := k.pos, info := (immWide k 20 imm.toNat).2 }))

/-! ### User-level interrupts (spec/20 R381, R382) -/

def execUret (s : State) : Host.Outcome State Fault Refusal :=
  .next (slot s (fun k => { checks := [need k.before.inHandler .illegalInstr] }) fun _ s => afterwards s .uret)

def uliApply (op : UliOp) (old v : BitVec 2) : BitVec 2 := match op with
  | .wr => v | .set => old ||| v | .clr => old &&& ~~~ v
def execUlimask (op : UliOp) (bits : BitVec 2) (s : State) : Host.Outcome State Fault Refusal :=
  .next (slot s (fun _ => {}) fun k s => s.modSeq k.n fun q => { q with ulimask := uliApply op q.ulimask bits })

/-! ### Control registers (spec/04 R74, R75, spec/06 R114) -/

/-- The sequencer whose identity a core of a twin pair shows (spec/20 R387). -/
def twinSeq (s : State) (n : Nat) : Nat := match (s.core (coreOf n)).twinOf with
  | some e => 4 * e + sqOf n
  | none => n
/-- LBSTAT: the sequencer's own slots at their physical numbers (spec/08 R154). -/
def lbstat (c : Core) (n : Nat) : Nat := (c.ls.zipIdx.map fun (l, k) => match l.owner, l.tile with
  | some m, some t => if m = n then (128 + (if l.partial_ then 64 else 0) + t) * 2 ^ (8 * k) else 0
  | _, _ => 0).foldl (· + ·) 0
/-- The value of a control register of sequencer `n`, whose registers are `q` (spec/04 R74). -/
def cregOf (s : State) (n : Nat) (q : Seq) (fmt : BitVec 32) (pc r : Nat) : Nat :=
  let f := if q.ctx.isSome then (s.ctxOf n).func else q.lastFunc.getD 0
  let core := s.core (coreOf n)
  match r with
  | 0x00 => if q.ctx.isSome || q.lastFunc.isSome then seqId s (twinSeq s n) else 0
  | 0x01 => s.sys.modid * 512 + coreOf (twinSeq s n)
  | 0x02 => q.ctxid
  | 0x03 => q.asidReg
  | 0x04 => if q.ctx.isSome then (kernelAt (s.ctxOf n) pc).1 else q.kernid
  | 0x05 => q.dmr.toNat
  | 0x06 => q.ulivec
  | 0x07 => q.ulimask.toNat + (if q.inHandler then 2 ^ 63 else 0)
  | 0x08 => q.ulist.toNat + 16 * q.uliChan
  | 0x09 => q.prebud
  | 0x0A => lbstat core n
  | 0x0B => q.rowprog
  | 0x0C => q.stepno
  | 0x0D => q.phase
  | 0x0E => q.portst.toNat
  | 0x0F => core.cwlim.toNat
  | 0x10 => (s.die (dieOf (coreOf n))).drpth.toNat
  | 0x11 => core.frzcnt.toNat
  | 0x12 => core.strikes.toNat
  | 0x13 => core.cycle.toNat
  | 0x14 => s.sys.dtime
  | 0x15 => fmt.toNat
  | 0x16 => q.winBase
  | 0x17 => q.winBase + q.winSize - 1
  | 0x18 => (s.func f).weltspl.toNat
  | 0x19 => (s.func f).weltref.toNat
  | 0x1A => q.aeprog
  | _ => (viewAt q (r - 0x20)).size * 2 ^ 32 + (viewAt q (r - 0x20)).base
/-- The value `crd` reads: registers as they stood before the bundle. -/
def readCreg (s : State) (k : Issue) (r : Nat) : Nat := cregOf s k.n k.before k.fmt k.pc r

/-- Registers marked FW: a program's access traps. -/
def firmwareReg (r : Nat) : Bool := r = 0x0F || r = 0x10
def writableReg (r : Nat) : Bool := r = 0x05 || r = 0x06 || r = 0x07 || r = 0x08 || r = 0x0E || r = 0x15

def execCrd (d : Reg) (n : BitVec 8) (s : State) : Host.Outcome State Fault Refusal :=
  .next (slot s (fun _ => { names := snames [d], checks := [need (!firmwareReg n.toNat) .permission] }) fun k s =>
    s.ws k d (BitVec.ofNat 64 (readCreg s k n.toNat)))

/-- The writes of spec/06 R114: FMT through the shadow; W1C registers clear the bits written as one; DMR cannot gain a
bit that was clear at launch. -/
def writeCreg (s : State) (k : Issue) (r : Nat) (v : Word) : State := match r with
  | 0x05 => s.modSeq k.n fun q => { q with dmr := v.setWidth 4 &&& q.dmr0 }
  | 0x06 => s.modSeq k.n fun q => { q with ulivec := v.toNat % 2 ^ 18 }
  | 0x07 => s.modSeq k.n fun q => { q with ulimask := v.setWidth 2 }
  | 0x08 => s.modSeq k.n fun q => { q with ulist := q.ulist &&& ~~~ (v.setWidth 2), uliChan := q.uliChan &&& (15 - fld v.toNat 7 4) }
  | 0x0E => s.modSeq k.n fun q => { q with portst := q.portst &&& ~~~ (v.setWidth 16) }
  | 0x15 => s.modIssue fun x => { x with fmtWrite := some (v.setWidth 32) }
  | _ => s

def execCwr (n : BitVec 8) (a : Reg) (s : State) : Host.Outcome State Fault Refusal :=
  .next (slot s (fun _ => { names := snames [a], reads := snames [a], checks := [need (writableReg n.toNat) .permission] }) fun k s =>
    writeCreg s k n.toNat (k.rs a))

end Sys2Proof.Machine
end

