-- ==== Sys2Proof/Machine/Approx.lean ====
section
/-! DEFINITION. vrcp, vrsq, vexp2 and vlog2 on one element (spec/07 R135): special cases, the exact value to far more
bits than any format holds, and the result, which the spec leaves open within a bound. -/
set_option linter.unusedVariables false
namespace Sys2Proof.Fp
open Sys2Proof

inductive ApproxOp where
  | rcp | rsq | exp2 | log2
deriving DecidableEq, Repr
def ApproxOp.code : ApproxOp → Nat
  | .rcp => 0 | .rsq => 1 | .exp2 => 2 | .log2 => 3

/-- A positive number as a value with a sticky lowest bit when it is not exact. -/
def sticky (s : Bool) (m : Nat) (exact : Bool) (e : Int) : Val := .fin s (2 * m + (if exact then 0 else 1)) (e - 1)

/-- Bits of the fixed point in which powers and logarithms are computed. -/
def fixBits : Nat := 160
/-- 2^(1/2), 2^(1/4), ... in fixed point. -/
def rootsOfTwo : Nat → Nat → List Nat
  | 0, _ => []
  | n + 1, r => let h := isqrt (r * 2 ^ fixBits); h :: rootsOfTwo n h
def roots : List Nat := rootsOfTwo 80 (2 * 2 ^ fixBits)
/-- Product of the roots whose bit is set, most significant bit of an 80-bit fraction first. -/
def powGo (frac : Nat) : List Nat → Nat → Nat → Nat
  | [], _, acc => acc
  | r :: t, k, acc => powGo frac t (k - 1) (if frac / 2 ^ (k - 1) % 2 = 1 then acc * r / 2 ^ fixBits else acc)

/-- 2^x for a finite nonzero x. -/
def exp2Val (s : Bool) (m : Nat) (e : Int) : Val :=
  if 12 < e + bitLen m then (if s then .fin false 3 (-5000) else .fin false 3 5000)
  else
    let x : Int := (if s then -1 else 1) * ((if 0 ≤ e then m * 2 ^ e.toNat * 2 ^ 80 else m * 2 ^ 80 / 2 ^ (-e).toNat : Nat) : Int)
    let exact := 0 ≤ e || (m * 2 ^ 80) % 2 ^ (-e).toNat = 0
    let whole := x / 2 ^ 80
    let frac := (x % 2 ^ 80).toNat
    if frac = 0 && exact then .fin false 1 whole
    else sticky false (powGo frac roots 80 (2 ^ fixBits)) false (whole - fixBits)

/-- Bits of the logarithm of a number in [1, 2), by repeated squaring. -/
def logGo : Nat → Nat → Nat → Nat
  | 0, _, acc => acc
  | n + 1, y, acc =>
    let y := y * y / 2 ^ fixBits
    if 2 * 2 ^ fixBits ≤ y then logGo n (y / 2) (2 * acc + 1) else logGo n y (2 * acc)

/-- log2 of m 2^e, m nonzero. -/
def log2Val (m : Nat) (e : Int) : Val :=
  let b := bitLen m - 1
  let k : Int := e + b
  if m = 2 ^ b then .fin (k < 0) k.natAbs 0
  else
    let y := if b ≤ fixBits then m * 2 ^ (fixBits - b) else m / 2 ^ (b - fixBits)
    let x : Int := k * 2 ^ 90 + (logGo 90 y 0 : Nat)
    if 0 ≤ x then sticky false x.toNat false (-90) else .fin true (2 * x.natAbs - 1) (-91)

/-- Special operands: result and flags; otherwise the exact value. -/
def approxExact (op : ApproxOp) (f : Fmt) (x : Nat) : Except (Nat × Nat) Val :=
  let inf := fun (s : Bool) (fl : Nat) => Except.error (signBit f s + infPat f, fl)
  match decode f x with
  | .nan sig => .error (canon f, if sig then NV else 0)
  | .inf s => match op with
    | .rcp => .error (signBit f s, 0)
    | .rsq => if s then .error (canon f, NV) else .error (0, 0)
    | .exp2 => if s then .error (0, 0) else inf false 0
    | .log2 => if s then .error (canon f, NV) else inf false 0
  | .fin s m e =>
    if m = 0 then match op with
      | .rcp | .rsq => inf s DZ
      | .exp2 => .ok (.fin false 1 0)
      | .log2 => inf true DZ
    else match op with
      | .rcp => .ok (sticky s (2 ^ 200 / m) (2 ^ 200 % m = 0) (-200 - e))
      | .rsq => if s then .error (canon f, NV) else
          let o : Nat := if e % 2 = 0 then 0 else 1
          let m' := m * 2 ^ o
          let q := 2 ^ 400 / m'
          let r := isqrt q
          .ok (sticky false r (r * r = q && 2 ^ 400 % m' = 0) (-200 - (e - o) / 2))
      | .exp2 => .ok (exp2Val s m e)
      | .log2 => if s then .error (canon f, NV) else .ok (log2Val m e)

/-- The stated bound on the error against an exact value whose leading bit has weight 2^top; 0 where the result is
correctly rounded. -/
def approxBound (op : ApproxOp) (f : Fmt) (top : Int) : Val :=
  let ulp : Int := top - (shapeOf f).fb
  let wide := f = .f32
  let base : Val := if !wide then .fin false 1 (ulp - 1) else if op = .rcp then .fin false 1 ulp else .fin false 1 (ulp + 1)
  let abs : Val := .fin false 1 (if wide then -22 else -10)
  if op = .log2 && top < 0 then (if cmpVal base abs = .lt then abs else base)
  else if wide then base else .fin false 0 0

/-- Does the spec leave the result open. -/
def approxOpen (op : ApproxOp) (f : Fmt) (v : Val) : Bool := match v with
  | .fin _ m e => !isZero (approxBound op f (e + bitLen m - 1))
  | _ => false

/-- The value of a result pattern for its distance: an infinity counts as the value after the largest finite one. -/
def patVal (f : Fmt) (x : Nat) : Val := match decode f x with
  | .inf s => .fin s 1 (2 ^ (shapeOf f).eb - 1 - (shapeOf f).bias)
  | v => v

/-- May the fixed method give this pattern: within the bound of the exact value, or, below the smallest normal, the
nearest value of an approximation within the bound. -/
def approxOk (op : ApproxOp) (f : Fmt) (v : Val) (c : Nat) : Bool := match v with
  | .fin s m e =>
    let top := e + bitLen m - 1
    let h := shapeOf f
    let tiny := top < 1 - h.bias
    let bound := approxBound op f top
    let bound := if tiny then (addExact 0 bound (.fin false 1 (-h.bias - h.fb))).1 else bound
    match patVal f c with
    | .fin t n k => (match (addExact 0 (.fin t n k) (neg v)).1 with
        | .fin _ d q => cmpVal (.fin false d q) bound ≠ .gt
        | _ => false) && (s = t || op = .log2) && c < 2 ^ width f
    | _ => false
  | _ => false

/-- Result and flags of one element, `vrcp` of a negative operand aside. An exact case is exact; elsewhere the result is the free value where it lies
within the bound, and the correctly rounded one otherwise (log 20). An exact case raises no flag, a subnormal one included
(log 104). -/
def approxMag (op : ApproxOp) (f : Fmt) (x : Nat) : Nat × Nat := match approxExact op f x with
  | .error r => r
  | .ok v =>
    let r := round f 0 false v
    if r.2 = 0 then r
    else
      let c := Config.approx op.code (fmtCodeOf f) x
      if approxOpen op f v && approxOk op f v c then
        match decode f c with
        | .inf t => roundFin f 0 false t 1 (2 ^ (shapeOf f).eb - (shapeOf f).bias)
        | .fin _ m e => (c, if m < 2 ^ (shapeOf f).fb then NX + UF else NX)
        | .nan _ => r
      else r
where
  /-- A number for each format. -/
  fmtCodeOf : Fmt → Nat
    | .f32 => 0 | .f16 => 1 | _ => 2

/-- The same, `vrcp` of a negative number being that of its magnitude with the sign set. -/
def approx (op : ApproxOp) (f : Fmt) (x : Nat) : Nat × Nat :=
  let sb := 2 ^ (width f - 1)
  if op = .rcp && !isNan (decode f x) then
    let r := approxMag op f (x % sb)
    (x / sb % 2 * sb + r.1, r.2)
  else approxMag op f x

end Sys2Proof.Fp
end

