-- ==== Sys2Proof/Machine/Vector.lean ====
section
/-! DEFINITION. Vector instructions (spec/07). -/
set_option linter.unusedVariables false
namespace Sys2Proof.Machine
open Sys2Proof

/-! ### Formats and element functions -/

/-- Formats an instruction accepts (spec/07 R127). -/
def accF (f : Fmt) : Bool := Fp.isF f
def accFI (f : Fmt) : Bool := Fp.isF f || Fp.isI f
def accAny (_ : Fmt) : Bool := true
def accNotX (f : Fmt) : Bool := f ≠ .i4x
def accIi4 (f : Fmt) : Bool := Fp.isI f || f = .i4

/-- Modes in effect for the bundle: rounding, and the saturation of conversions (spec/05 R77, R87). -/
structure Mode where
  rm : Nat
  sat : Bool
def modeOf (k : Issue) : Mode := { rm := fmtRM k.fmt, sat := fmtSE k.fmt }

/-- An integer result modulo 2^w. -/
def intRes (f : Fmt) (x : Int) : Nat × Nat := (ofInt (Fp.width f) x, 0)
/-- An operation with a float and an integer meaning (spec/07 R133). -/
def either (f : Fmt) (x : Nat × Nat) (y : Int) : Nat × Nat := if Fp.isF f then x else intRes f y

def eAdd (m : Mode) (f : Fmt) (x y z : Nat) : Nat × Nat := if Fp.isF f then Fp.add f m.rm x y else intRes f (x + y : Nat)
def eSub (m : Mode) (f : Fmt) (x y z : Nat) : Nat × Nat := if Fp.isF f then Fp.sub f m.rm x y else intRes f ((x : Int) - y)
def eMul (m : Mode) (f : Fmt) (x y z : Nat) : Nat × Nat := if Fp.isF f then Fp.mul f m.rm x y else intRes f (x * y : Nat)
def eFma (m : Mode) (f : Fmt) (x y z : Nat) : Nat × Nat := if Fp.isF f then Fp.fma f m.rm false x y z else intRes f (x * y + z : Nat)
def eFms (m : Mode) (f : Fmt) (x y z : Nat) : Nat × Nat := if Fp.isF f then Fp.fma f m.rm true x y z else intRes f ((z : Int) - (x * y : Nat))
def eMinMax (mx : Bool) (m : Mode) (f : Fmt) (x y z : Nat) : Nat × Nat :=
  if Fp.isF f then Fp.minmax f mx x y
  else (if (if mx then Fp.intVal f x < Fp.intVal f y else Fp.intVal f y < Fp.intVal f x) then y else x, 0)
def eDiv (m : Mode) (f : Fmt) (x y z : Nat) : Nat × Nat := Fp.div f m.rm x y
def eSqrt (m : Mode) (f : Fmt) (x y z : Nat) : Nat × Nat := Fp.sqrt f m.rm x
/-- Sign operations (spec/07 R134). -/
def eAbs (m : Mode) (f : Fmt) (x y z : Nat) : Nat × Nat :=
  if Fp.isF f then (x % 2 ^ (Fp.width f - 1), 0) else intRes f (Fp.intVal f x).natAbs
def eNeg (m : Mode) (f : Fmt) (x y z : Nat) : Nat × Nat :=
  if Fp.isF f then (x ^^^ 2 ^ (Fp.width f - 1), 0) else intRes f (-(x : Int))
/-- Shifts by the low bits of y (spec/07 R136). -/
def eShl (m : Mode) (f : Fmt) (x y z : Nat) : Nat × Nat := (x * 2 ^ (y % Fp.width f) % 2 ^ Fp.width f, 0)
def eShr (m : Mode) (f : Fmt) (x y z : Nat) : Nat × Nat := (x / 2 ^ (y % Fp.width f), 0)
def eSra (m : Mode) (f : Fmt) (x y z : Nat) : Nat × Nat := intRes f (toInt (Fp.width f) x / 2 ^ (y % Fp.width f))

/-! ### Slots -/

/-- A vector slot: destination and source fields of view `w`, other names, formats, checks of its own, and its effect
from the source values (spec/07 R127-R129). `old`: it reads its destination too, where `part` of its format holds. -/
def vecSlot (s : State) (w : Nat) (dst src : List Reg) (old : Bool) (other reads : List Name) (acc : Fmt → Bool)
    (own : Issue → Fmt → List (Option Trap)) (late : Issue → Fmt → (Reg → Vec) → List (Option Trap))
    (effect : Issue → Fmt → (Reg → Vec) → State → State) (part : Fmt → Bool := fun _ => true) : State :=
  slot s (fun k =>
    { names := vnames w (dst ++ src) ++ other
      reads := vnames w (src ++ if old && part (fmtVF k.fmt) then dst else []) ++ reads
      ready := portPath s k.n src dst
      fmtOk := acc (fmtVF k.fmt)
      checks := own k (fmtVF k.fmt) ++ portChecks s k.n src dst ++
        late k (fmtVF k.fmt) (srcVal k w (popAll s k.n (portsOf src)).2) })
    fun k s =>
      let r := popAll s k.n (portsOf src)
      effect k (fmtVF k.fmt) (srcVal k w r.2) r.1

/-- Element by element on three lists, from the bundle's modes: the vector and the flags. -/
def elementwise (f : Fmt) (g : Nat → Nat → Nat → Nat × Nat) (x y z : Vec) : Vec × Nat :=
  let r := joinFlags (map3 g (elemsOf f x) (elemsOf f y) (elemsOf f z))
  (vecOf (Fp.width f) r.1, r.2)

def noChecks (_ : Issue) (_ : Fmt) : List (Option Trap) := []
def noLate (_ : Issue) (_ : Fmt) (_ : Reg → Vec) : List (Option Trap) := []

/-- vD[e] := g(vA[e], vB[e], old vD[e]) (spec/07 R133). -/
def vec3 (s : State) (d a b : Reg) (m : BitVec 2) (acc : Fmt → Bool) (g : Mode → Fmt → Nat → Nat → Nat → Nat × Nat) (old : Bool := false) : State :=
  let w := viewOfM m
  vecSlot s w [d] [a, b] old [] [] acc noChecks noLate fun k f v s =>
    let r := elementwise f (g (modeOf k) f) (v a) (v b) (oldVal k w d)
    (putVec s k w d r.1).flag r.2
/-- vD[e] := g(vA[e]). -/
def vec2 (s : State) (d a : Reg) (m : BitVec 2) (acc : Fmt → Bool) (g : Mode → Fmt → Nat → Nat → Nat → Nat × Nat) : State :=
  let w := viewOfM m
  vecSlot s w [d] [a] false [] [] acc noChecks noLate fun k f v s =>
    let r := elementwise f (g (modeOf k) f) (v a) 0 0
    (putVec s k w d r.1).flag r.2

def execVadd (d a b : Reg) (m : BitVec 2) (s : State) : Host.Outcome State Fault Refusal := .next (vec3 s d a b m accFI eAdd)
def execVsub (d a b : Reg) (m : BitVec 2) (s : State) : Host.Outcome State Fault Refusal := .next (vec3 s d a b m accFI eSub)
def execVmul (d a b : Reg) (m : BitVec 2) (s : State) : Host.Outcome State Fault Refusal := .next (vec3 s d a b m accFI eMul)
def execVfma (d a b : Reg) (m : BitVec 2) (s : State) : Host.Outcome State Fault Refusal := .next (vec3 s d a b m accFI eFma true)
def execVfms (d a b : Reg) (m : BitVec 2) (s : State) : Host.Outcome State Fault Refusal := .next (vec3 s d a b m accFI eFms true)
def execVmin (d a b : Reg) (m : BitVec 2) (s : State) : Host.Outcome State Fault Refusal := .next (vec3 s d a b m accFI (eMinMax false))
def execVmax (d a b : Reg) (m : BitVec 2) (s : State) : Host.Outcome State Fault Refusal := .next (vec3 s d a b m accFI (eMinMax true))
def execVabs (d a : Reg) (m : BitVec 2) (s : State) : Host.Outcome State Fault Refusal := .next (vec2 s d a m accFI eAbs)
def execVneg (d a : Reg) (m : BitVec 2) (s : State) : Host.Outcome State Fault Refusal := .next (vec2 s d a m accFI eNeg)
def execVdiv (d a b : Reg) (m : BitVec 2) (s : State) : Host.Outcome State Fault Refusal := .next (vec3 s d a b m accF eDiv)
def execVsqrt (d a : Reg) (m : BitVec 2) (s : State) : Host.Outcome State Fault Refusal := .next (vec2 s d a m accF eSqrt)

/-- Formats of the approximations (spec/07 R135). -/
def accApprox (f : Fmt) : Bool := f = .f32 || f = .f16 || f = .bf16
def eApprox (op : Fp.ApproxOp) (m : Mode) (f : Fmt) (x y z : Nat) : Nat × Nat := Fp.approx op f x
def execVrcp (d a : Reg) (m : BitVec 2) (s : State) : Host.Outcome State Fault Refusal := .next (vec2 s d a m accApprox (eApprox .rcp))
def execVrsq (d a : Reg) (m : BitVec 2) (s : State) : Host.Outcome State Fault Refusal := .next (vec2 s d a m accApprox (eApprox .rsq))
def execVexp2 (d a : Reg) (m : BitVec 2) (s : State) : Host.Outcome State Fault Refusal := .next (vec2 s d a m accApprox (eApprox .exp2))
def execVlog2 (d a : Reg) (m : BitVec 2) (s : State) : Host.Outcome State Fault Refusal := .next (vec2 s d a m accApprox (eApprox .log2))

/-! ### Logic and shifts (spec/07 R136) -/

/-- A bitwise operation on all 512 bytes. -/
def vecBits (s : State) (d a b : Reg) (m : BitVec 2) (g : Vec → Vec → Vec) : State :=
  let w := viewOfM m
  vecSlot s w [d] [a, b] false [] [] accAny noChecks noLate fun k _ v s => putVec s k w d (g (v a) (v b))
def execVand (d a b : Reg) (m : BitVec 2) (s : State) : Host.Outcome State Fault Refusal := .next (vecBits s d a b m fun x y => x &&& y)
def execVor (d a b : Reg) (m : BitVec 2) (s : State) : Host.Outcome State Fault Refusal := .next (vecBits s d a b m fun x y => x ||| y)
def execVxor (d a b : Reg) (m : BitVec 2) (s : State) : Host.Outcome State Fault Refusal := .next (vecBits s d a b m fun x y => x ^^^ y)
def execVshl (d a b : Reg) (m : BitVec 2) (s : State) : Host.Outcome State Fault Refusal := .next (vec3 s d a b m accIi4 eShl)
def execVshr (d a b : Reg) (m : BitVec 2) (s : State) : Host.Outcome State Fault Refusal := .next (vec3 s d a b m accIi4 eShr)
def execVsra (d a b : Reg) (m : BitVec 2) (s : State) : Host.Outcome State Fault Refusal := .next (vec3 s d a b m accIi4 eSra)

/-! ### Compares and select (spec/07 R137, R138) -/

inductive VCmp where
  | eq | lt | le
deriving DecidableEq, Repr
/-- One comparison: 1 or 0, and flags. -/
def eCmp (p : VCmp) (f : Fmt) (x y z : Nat) : Nat × Nat :=
  let r := if Fp.isF f then Fp.compareCode f (p ≠ .eq) x y
    else (if Fp.intVal f x = Fp.intVal f y then 0 else if Fp.intVal f x < Fp.intVal f y then 1 else 2, 0)
  (match p with
    | .eq => if r.1 = 0 then 1 else 0
    | .lt => if r.1 = 1 then 1 else 0
    | .le => if r.1 ≤ 1 then 1 else 0, r.2)
/-- Split a list into runs of n. -/
def chunks {α : Type} (n : Nat) : Nat → List α → List (List α)
  | 0, _ => []
  | k + 1, l => if l = [] then [] else l.take n :: chunks n k (l.drop n)
/-- The 128 mask bits of the predicates of the elements. -/
def maskOf (f : Fmt) (p : List Nat) : Mask :=
  let lanes := if 32 ≤ Fp.width f then p else (chunks (32 / Fp.width f) 128 p).map fun l => if l.all (· = 1) then 1 else 0
  BitVec.ofNat 128 (packE 1 lanes)
def vecCmp (s : State) (kd : BitVec 3) (a b : Reg) (m : BitVec 2) (p : VCmp) : State :=
  vecSlot s (viewOfM m) [] [a, b] false [] [] accFI noChecks noLate fun k f v s =>
    let r := joinFlags (map3 (eCmp p f) (elemsOf f (v a)) (elemsOf f (v b)) (elemsOf f 0))
    (s.wk k kd (maskOf f r.1)).flag r.2
def execVceq (k : BitVec 3) (a b : Reg) (m : BitVec 2) (s : State) : Host.Outcome State Fault Refusal := .next (vecCmp s k a b m .eq)
def execVclt (k : BitVec 3) (a b : Reg) (m : BitVec 2) (s : State) : Host.Outcome State Fault Refusal := .next (vecCmp s k a b m .lt)
def execVcle (k : BitVec 3) (a b : Reg) (m : BitVec 2) (s : State) : Host.Outcome State Fault Refusal := .next (vecCmp s k a b m .le)
def execVsel (d a : Reg) (k : BitVec 3) (m : BitVec 2) (s : State) : Host.Outcome State Fault Refusal :=
  let w := viewOfM m
  .next (vecSlot s w [d] [a] true [] [] accNotX noChecks noLate fun i f v s =>
    let new := elemsOf f (v a)
    let old := elemsOf f (oldVal i w d)
    putVec s i w d (vecOf (Fp.width f) ((new.zip old).zipIdx.map fun (x, e) => if maskBit f (i.rk k) e then x.1 else x.2)))

/-! ### Conversions (spec/07 R139-R141) -/

/-- The elements [from, from + n) of a vector as values, an i4x vector decoded block by block over the blocks that hold
them (spec/05 R81), with the I4XM flag. -/
def srcValues (f : Fmt) (v : Vec) (first n : Nat) : List Fp.Val × Nat :=
  let l := elemsOf f v
  if f = .i4x then
    let b0 := first / 64
    let blocks := (chunks 64 ((first + n + 63) / 64 - b0) (l.drop (64 * b0))).map Fp.i4xBlock
    (((blocks.map (·.1)).flatten.drop (first - 64 * b0)).take n, if blocks.any (·.2) then Fp.I4XM else 0)
  else (((l.drop first).take n).map (Fp.value f), 0)
/-- Is a value of an i4x block an outlier: a digit is an integer of at most 7. -/
def isOutlier : Fp.Val → Bool
  | .fin _ m e => !(e = 0 && m ≤ 7)
  | _ => true
/-- One conversion: an i4x digit converts as an integer, an outlier as a float. -/
def convOne (t f : Fmt) (m : Mode) (v : Fp.Val) : Nat × Nat :=
  Fp.convertVal t m.rm m.sat (if f = .i4x then isOutlier v else Fp.isFloat f) v

/-- Source start, element count, and the place of the results, for widths `ws` and `wt` and part `p`. -/
def cvtPlan (ws wt p n nt : Nat) : Nat × Nat × Nat :=
  if wt < ws then (0, n, p * n) else if ws < wt then (p * nt, nt, 0) else (0, n, 0)
def cvtOk (ws wt p : Nat) : Bool := if wt < ws then p < ws / wt else if ws < wt then p < wt / ws else p = 0
def execVcvt (d a : Reg) (p : BitVec 2) (dst : Fmt) (m : BitVec 2) (s : State) : Host.Outcome State Fault Refusal :=
  let w := viewOfM m
  .next (vecSlot s w [d] [a] true [] [] accAny
    (fun _ f => [need (cvtOk (Fp.width f) (Fp.width dst) p.toNat) .reservedField]) noLate (fun k f v s =>
      let plan := cvtPlan (Fp.width f) (Fp.width dst) p.toNat (count f) (count dst)
      let src := srcValues f (v a) plan.1 plan.2.1
      let r := joinFlags (src.1.map (convOne dst f (modeOf k)))
      let old := elemsOf dst (oldVal k w d)
      let out := if Fp.width dst < Fp.width f then old.take plan.2.2 ++ r.1 ++ old.drop (plan.2.2 + plan.2.1) else r.1
      (putVec s k w d (vecOf (Fp.width dst) out)).flag (r.2 ||| src.2)) (part := fun f => decide (Fp.width dst < Fp.width f)))

/-- Formats and targets of `vpack` and `vunpk`. -/
def packTarget (z : Bool) : Fmt → Option Fmt
  | .i8 | .z8 => if z then none else some .i4
  | .i16 | .z16 => some (if z then .z8 else .i8)
  | .i32 | .z32 => some (if z then .z16 else .i16)
  | .i64 | .z64 => some (if z then .z32 else .i32)
  | _ => none
def unpackTarget : Fmt → Option Fmt
  | .i4 => some .i8 | .i8 => some .i16 | .i16 => some .i32 | .i32 => some .i64
  | .z8 => some .z16 | .z16 => some .z32 | .z32 => some .z64 | _ => none
def execVpack (d a b : Reg) (z : Bool) (s : State) : Host.Outcome State Fault Refusal :=
  .next (vecSlot s 1 [d] [a, b] false [] [] Fp.isI (fun _ f => [need (packTarget z f).isSome .reservedField]) noLate fun k f v s =>
    let t := (packTarget z f).getD .i4
    let r := joinFlags ((elemsOf f (v a) ++ elemsOf f (v b)).map fun x => Fp.intToInt t (fmtSE k.fmt) (Fp.intVal f x))
    (putVec s k 1 d (vecOf (Fp.width t) r.1)).flag r.2)
def execVunpk (d a : Reg) (hi : Bool) (s : State) : Host.Outcome State Fault Refusal :=
  .next (vecSlot s 1 [d] [a] false [] [] (fun f => (unpackTarget f).isSome) noChecks noLate fun k f v s =>
    let t := (unpackTarget f).getD .i8
    let n := count f / 2
    let l := ((elemsOf f (v a)).drop (if hi then n else 0)).take n
    putVec s k 1 d (vecOf (Fp.width t) (l.map fun x => Fp.wrap t (Fp.intVal f x))))

/-! ### Dot product, reductions, scans (spec/07 R142-R144) -/

/-- Exact sum of values, left to right, with flags; an exact zero is -0 only when every term is (spec/05 R92). -/
def sumExact (l : List Fp.Val) : Fp.Val × Nat := match l with
  | [] => (.fin false 0 0, 0)
  | x :: t =>
    if l.any Fp.isNan then (.nan false, if l.any Fp.sigNan then Fp.NV else 0)
    else t.foldl (fun acc y => let r := Fp.addExact 0 acc.1 y; (r.1, acc.2 ||| r.2)) (x, 0)
def accDot4 (f : Fmt) : Bool := f = .i8 || f = .z8 || f = .f8e4 || f = .f8e5
/-- One lane of `vdot4`. -/
def dotLane (m : Mode) (f : Fmt) (xs ys : List Nat) (z : Nat) : Nat × Nat :=
  if Fp.isFloat f then
    let ps := (xs.zip ys).map fun (x, y) => Fp.mulExact (Fp.decode f x) (Fp.decode f y)
    let r := sumExact (Fp.decode .f32 z :: ps.map (·.1))
    Fp.deliver .f32 m.rm (r.1, r.2 ||| ps.foldl (fun a p => a ||| p.2) 0)
  else (ofInt 32 ((xs.zip ys).foldl (fun a p => a + Fp.intVal f p.1 * Fp.intVal f p.2) (z : Int)), 0)
/-- Lane by lane over the groups of two vectors and the old lanes. -/
def lanes3 (g : List Nat → List Nat → Nat → Nat × Nat) : List (List Nat) → List (List Nat) → List Nat → List (Nat × Nat)
  | x :: xs, y :: ys, z :: zs => g x y z :: lanes3 g xs ys zs
  | _, _, _ => []
def execVdot4 (d a b : Reg) (m : BitVec 2) (s : State) : Host.Outcome State Fault Refusal :=
  let w := viewOfM m
  .next (vecSlot s w [d] [a, b] true [] [] accDot4 noChecks noLate fun k f v s =>
    let r := joinFlags (lanes3 (dotLane (modeOf k) f) (chunks 4 128 (elemsOf f (v a))) (chunks 4 128 (elemsOf f (v b)))
      (elems 32 128 (oldVal k w d).toNat))
    (putVec s k w d (vecOf 32 r.1)).flag r.2)

/-- The identity of a position that does not take part (spec/07 R143, spec/05 R89). -/
def redIdentity (op : RedOp) (f : Fmt) : Nat := match op with
  | .add => if Fp.isF f then 2 ^ (Fp.width f - 1) else 0
  | .min => if Fp.isF f then Fp.infPat f else if Fp.isSigned f then 2 ^ (Fp.width f - 1) - 1 else 2 ^ Fp.width f - 1
  | .max => if Fp.isF f then Fp.signBit f true + Fp.infPat f else if Fp.isSigned f then 2 ^ (Fp.width f - 1) else 0
/-- One node. -/
def redNode (op : RedOp) (m : Mode) (f : Fmt) (x y : Nat) : Nat × Nat := match op with
  | .add => eAdd m f x y 0
  | .min => eMinMax false m f x y 0
  | .max => eMinMax true m f x y 0
/-- Combine neighbours: one level of the tree of spec/05 R89. -/
def redLevel (g : Nat → Nat → Nat × Nat) : List Nat → List Nat × Nat
  | x :: y :: t => let r := g x y; let u := redLevel g t; (r.1 :: u.1, r.2 ||| u.2)
  | l => (l, 0)
/-- The tree, level by level. -/
def redTree (g : Nat → Nat → Nat × Nat) : Nat → List Nat × Nat → List Nat × Nat
  | 0, x => x
  | n + 1, x => if x.1.length ≤ 1 then x else let r := redLevel g x.1; redTree g n (r.1, x.2 ||| r.2)
/-- The elements that take part; identities elsewhere. -/
def redElems (k : Issue) (f : Fmt) (op : RedOp) (en : Bool) (m : BitVec 3) (v : Vec) : List Nat :=
  (elemsOf f v).zipIdx.map fun (x, e) => if !en || maskBit f (k.rk m) e then x else redIdentity op f
def execVred (d a : Reg) (en : Bool) (k : BitVec 3) (op : RedOp) (m : BitVec 2) (s : State) : Host.Outcome State Fault Refusal :=
  let w := viewOfM m
  .next (vecSlot s w [d] [a] false [] [] accFI noChecks noLate fun i f v s =>
    let r := redTree (redNode op (modeOf i) f) 12 (redElems i f op en k (v a), 0)
    (putVec s i w d (vecOf (Fp.width f) (r.1.take 1))).flag r.2)

/-- One step of a sweep of spec/05 R90: positions `i + off` become op(x[i], x[i + off]) where the test holds. -/
def sweep (g : Nat → Nat → Nat × Nat) (test : Nat → Bool) (off : Nat) (x : List Nat × Nat) : List Nat × Nat :=
  let left := List.replicate off 0 ++ x.1
  let r := (left.zip x.1).zipIdx.map fun (p, i) => if test i then g p.1 p.2 else (p.2, 0)
  let j := joinFlags r
  (j.1, x.2 ||| j.2)
/-- The up-sweep, rising; then the down-sweep, falling. -/
def scanUp (g : Nat → Nat → Nat × Nat) : Nat → Nat → List Nat × Nat → List Nat × Nat
  | 0, _, x => x
  | n + 1, d, x => scanUp g n (2 * d) (sweep g (fun i => (i + 1) % (2 * d) = 0) d x)
def scanDown (g : Nat → Nat → Nat × Nat) : Nat → List Nat × Nat → List Nat × Nat
  | 0, x => x
  | n + 1, x => let d := 2 ^ n; scanDown g n (sweep g (fun i => d ≤ i && (i + 1 - d) % (2 * d) = 0) d x)
/-- An exclusive scan. Position 0 is no operation's result (spec/05 R90): what it takes is copied as it stands, a NaN that is
not canonical too (DESIGN CHOICE, log 111). -/
def scanAll (g : Nat → Nat → Nat × Nat) (n : Nat) (l : List Nat) : List Nat × Nat :=
  let logN := Nat.log2 n
  scanDown g (logN - 1) (scanUp g logN 1 (l, 0))
def execVscan (d a : Reg) (en : Bool) (k : BitVec 3) (op : RedOp) (m : BitVec 2) (s : State) : Host.Outcome State Fault Refusal :=
  let w := viewOfM m
  .next (vecSlot s w [d] [a] false [] [] accFI noChecks noLate fun i f v s =>
    let r := scanAll (redNode op (modeOf i) f) (count f) (redElems i f op en k (v a))
    (putVec s i w d (vecOf (Fp.width f) r.1)).flag r.2)

/-! ### Lane moves (spec/07 R145-R150) -/

/-- Units of `vperm`: 64-bit elements, or lanes. -/
def permUnit (f : Fmt) : Nat := if Fp.width f = 64 then 64 else 32
def execVperm (d a b : Reg) (m : BitVec 2) (s : State) : Host.Outcome State Fault Refusal :=
  let w := viewOfM m
  .next (vecSlot s w [d] [a, b] false [] [] accAny noChecks noLate fun k f v s =>
    let u := permUnit f
    let n := 4096 / u
    let src := (v a).toNat
    putVec s k w d (vecOf u ((elems u n (v b).toNat).map fun i => src / 2 ^ (u * (i % n)) % 2 ^ u)))
def execVbcst (d a : Reg) (m : BitVec 2) (s : State) : Host.Outcome State Fault Refusal :=
  let w := viewOfM m
  .next (vecSlot s w [d] [] false (snames [a]) (snames [a]) accNotX noChecks noLate fun k f _ s =>
    putVec s k w d (vecOf (Fp.width f) (List.replicate (count f) (lowBits' f (k.rs a)))))
where
  /-- The low w bits of a scalar. -/
  lowBits' (f : Fmt) (x : Word) : Nat := x.toNat % 2 ^ Fp.width f
def execVslide (d a b : Reg) (m : BitVec 2) (s : State) : Host.Outcome State Fault Refusal :=
  let w := viewOfM m
  .next (vecSlot s w [d] [a] false (snames [b]) (snames [b]) accNotX noChecks noLate fun k f v s =>
    let n := count f
    let x := (k.rs b).toInt
    let l := elemsOf f (v a)
    let out := if 0 ≤ x then l.drop x.toNat ++ List.replicate (Nat.min x.toNat n) 0
      else (List.replicate (Nat.min x.natAbs n) 0 ++ l).take n
    putVec s k w d (vecOf (Fp.width f) out))
/-- Bits are copied whatever the format (spec/07 R148). -/
def execVmov (d a : Reg) (kind m : BitVec 2) (s : State) : Host.Outcome State Fault Refusal :=
  let w := viewOfM m
  let toMask := kind.getLsbD 0
  let ofMask := kind.getLsbD 1
  .next (vecSlot s w (if toMask then [] else [d]) (if ofMask then [] else [a]) false [] [] accAny noChecks noLate fun k _ v s =>
    let x : Vec := if ofMask then (k.rk (a.setWidth 3)).setWidth 4096 else v a
    if toMask then s.wk k (d.setWidth 3) (x.setWidth 128) else putVec s k w d x)
def execVidx (d a : Reg) (m : BitVec 2) (s : State) : Host.Outcome State Fault Refusal :=
  let w := viewOfM m
  .next (vecSlot s w [d] [] false (snames [a]) (snames [a]) accFI noChecks noLate fun k f _ s =>
    let x := (k.rs a).toInt
    let r := joinFlags ((List.range (count f)).map fun (e : Nat) =>
      let y := x + (e : Int)
      if Fp.isF f then Fp.round f (fmtRM k.fmt) (fmtSE k.fmt) (.fin (y < 0) y.natAbs 0) else intRes f y)
    (putVec s k w d (vecOf (Fp.width f) r.1)).flag r.2)
/-- An element as a scalar: signed formats sign-extend (spec/07 R149). -/
def extElem (f : Fmt) (x : Nat) : Word := if Fp.isSigned f then BitVec.ofInt 64 (toInt (Fp.width f) x) else BitVec.ofNat 64 x
def execVext (d a b : Reg) (m : BitVec 2) (s : State) : Host.Outcome State Fault Refusal :=
  let w := viewOfM m
  .next (vecSlot s w [] [a] false (snames [d, b]) (snames [b]) accNotX noChecks noLate fun k f v s =>
    let i := (k.rs b).toNat % count f
    s.ws k d (extElem f ((v a).toNat / 2 ^ (Fp.width f * i) % 2 ^ Fp.width f)))
def execVins (d a b : Reg) (m : BitVec 2) (s : State) : Host.Outcome State Fault Refusal :=
  let w := viewOfM m
  .next (vecSlot s w [d] [] true (snames [a, b]) (snames [a, b]) accNotX noChecks noLate fun k f _ s =>
    let i := (k.rs b).toNat % count f
    putVec s k w d (vecOf (Fp.width f) ((elemsOf f (oldVal k w d)).set i ((k.rs a).toNat % 2 ^ Fp.width f))))

/-! ### Compare-and-trap, complex multiply (spec/07 R151, R152) -/

/-- Bit i is one where lane i differs. -/
def laneDiff (x y : Vec) : Mask :=
  BitVec.ofNat 128 (packE 1 (((elems 32 128 x.toNat).zip (elems 32 128 y.toNat)).map fun (u, v) => if u = v then 0 else 1))
def execVctrap (q : Bool) (k : BitVec 3) (a b : Reg) (m : BitVec 2) (s : State) : Host.Outcome State Fault Refusal :=
  .next (vecSlot s (viewOfM m) [] [a, b] false [] [] accAny noChecks
    (fun _ _ v =>
      let mm := laneDiff (v a) (v b)
      [if q || mm = 0 then none else some { cause := .compareMismatch, aux := mm.toNat % 2 ^ 64, info := mm.toNat / 2 ^ 64 }])
    fun i _ v s => s.wk i k (laneDiff (v a) (v b)))

def accCmul (f : Fmt) : Bool := f = .f32 || f = .f64
/-- x × y ± u × v: exact products, exact sum, one rounding, overflow as spec/05 R87 without saturation (R77, log 49). -/
def mulPair (m : Mode) (f : Fmt) (sub : Bool) (x y u v : Nat) : Nat × Nat :=
  let p := Fp.mulExact (Fp.decode f x) (Fp.decode f y)
  let q := Fp.mulExact (Fp.decode f u) (Fp.decode f v)
  let r := sumExact [p.1, if sub then Fp.neg q.1 else q.1]
  Fp.deliver f m.rm (r.1, p.2 ||| q.2 ||| r.2)
/-- Complex products of neighbouring pairs (spec/05 R80). -/
def cmulGo (m : Mode) (f : Fmt) : List Nat → List Nat → List (Nat × Nat)
  | ar :: ai :: xs, br :: bi :: ys => mulPair m f true ar br ai bi :: mulPair m f false ar bi ai br :: cmulGo m f xs ys
  | _, _ => []
def execVcmul (d a b : Reg) (m : BitVec 2) (s : State) : Host.Outcome State Fault Refusal :=
  let w := viewOfM m
  .next (vecSlot s w [d] [a, b] false [] [] accCmul noChecks noLate fun k f v s =>
    let r := joinFlags (cmulGo (modeOf k) f (elemsOf f (v a)) (elemsOf f (v b)))
    (putVec s k w d (vecOf (Fp.width f) r.1)).flag r.2)

end Sys2Proof.Machine
end

