-- ==== Sys2Proof/Machine/Memory.lean ====
section
/-! DEFINITION. MEM instructions and `fill`: what they check and start at issue (spec/11, spec/19 R363). -/
set_option linter.unusedVariables false
namespace Sys2Proof.Machine
open Sys2Proof

/-! ### S-path accesses -/

/-- Effective address of an RRI form (spec/11 R209). -/
def effAddr (k : Issue) (a : Reg) (imm : BitVec 8) : Word := k.rs a + immS k 8 imm.toNat
/-- Translation of one access of the sequencer through the data TLB. -/
def dataSegs (s : State) (n : Nat) (p : Path) (need_ : Needs) (a : Word) (len : Nat) : Except XFault (List Seg) :=
  segs s (coreOf n) .dtlb (asidOf s n) p need_ a.toNat len
/-- Start an access of the slot being issued, its translations now cached. -/
def issueAccess (s : State) (k : Issue) (wh : Which) (a : Access) : State :=
  let s := installSegs s (coreOf k.n) wh (asidOf s k.n) a.segs
  startAccess s k.n k.pc k.pos k.held { a with scope := k.scope }

/-- A slot that makes one or more accesses on a path: room in its counter, no fence against it, then alignment,
translation and permission, in ascending element order (spec/11 R209-R211). -/
def memSlot (s : State) (names reads : List Name) (path : Path) (ctr : Ctr) (writes : Bool) (checks : Issue → List (Option Trap))
    (access : Issue → Access) (ready : Issue → Bool := fun _ => true) (fmtOk : Issue → Bool := fun _ => true)
    (before : Issue → State → State := fun _ s => s) (wh : Which := .dtlb) : State :=
  slot s (fun k =>
    { names := names, reads := reads
      ready := (s.seq k.n).room ctr && !heldBack s k.n path writes && ready k
      fmtOk := fmtOk k
      checks := checks k }) fun k s => issueAccess (before k s) k wh (access k)

/-- ld and ldz of `bytes` bytes (spec/11 R214). -/
def loadSlot (s : State) (bytes : Nat) (signed f o : Bool) (d a : Reg) (imm : BitVec 8) : State :=
  memSlot s (snames [d, a]) (snames [a]) .s .ld false
    (fun k => [misaligned (effAddr k a imm) bytes, xtrap 0 (dataSegs s k.n .s { r := true } (effAddr k a imm) bytes)])
    fun k => { id := 0, path := .s, kind := .load (scalarDest k d) bytes signed, fresh := f, acq := o
               segs := segsOk (dataSegs s k.n .s { r := true } (effAddr k a imm) bytes) }

def execLd8 (f o : Bool) (d a : Reg) (imm : BitVec 8) (s : State) : Host.Outcome State Fault Refusal := .next (loadSlot s 1 true f o d a imm)
def execLd16 (f o : Bool) (d a : Reg) (imm : BitVec 8) (s : State) : Host.Outcome State Fault Refusal := .next (loadSlot s 2 true f o d a imm)
def execLd32 (f o : Bool) (d a : Reg) (imm : BitVec 8) (s : State) : Host.Outcome State Fault Refusal := .next (loadSlot s 4 true f o d a imm)
def execLd64 (f o : Bool) (d a : Reg) (imm : BitVec 8) (s : State) : Host.Outcome State Fault Refusal := .next (loadSlot s 8 true f o d a imm)
def execLdz8 (f o : Bool) (d a : Reg) (imm : BitVec 8) (s : State) : Host.Outcome State Fault Refusal := .next (loadSlot s 1 false f o d a imm)
def execLdz16 (f o : Bool) (d a : Reg) (imm : BitVec 8) (s : State) : Host.Outcome State Fault Refusal := .next (loadSlot s 2 false f o d a imm)
def execLdz32 (f o : Bool) (d a : Reg) (imm : BitVec 8) (s : State) : Host.Outcome State Fault Refusal := .next (loadSlot s 4 false f o d a imm)

/-- st of `bytes` bytes (spec/11 R214). -/
def storeSlot (s : State) (bytes : Nat) (o : Bool) (d a : Reg) (imm : BitVec 8) : State :=
  memSlot s (snames [d, a]) (snames [d, a]) .s .st true
    (fun k => [misaligned (effAddr k a imm) bytes, xtrap 1 (dataSegs s k.n .s { w := true } (effAddr k a imm) bytes)])
    fun k => { id := 0, path := .s, kind := .store, rel := o, data := (k.rs d).toNat % 2 ^ (8 * bytes)
               segs := segsOk (dataSegs s k.n .s { w := true } (effAddr k a imm) bytes) }

/-- The channel of the issuing core's own aperture that an address lies in, if its page may be written (spec/11 R226). -/
def apertureOf (s : State) (n : Nat) (a : Word) : Option Nat := match lookup s (coreOf n) .dtlb (asidOf s n) a.toNat with
  | .error _ => none
  | .ok e =>
    let pa := e.pa + (a.toNat - e.va)
    let keys := fld (funcEntry s (asidFunc s e.asid)) 127 64
    if e.w && (e.key = 0 || bit keys e.key) && isLocal s e.fab pa then match regionOf (pa % 2 ^ 46) with
      | .aperture g ch => if g = coreOf n then some ch else none
      | _ => none
    else none

/-- Start a copy: it joins its channel's FIFO (spec/11 R226). With O it is a release: it waits for what that covers, and
later writes of the sequencer follow too (spec/10 R198). -/
def startCopy (s : State) (k : Issue) (ch : Nat) (w : Word) (rel : Bool) : State :=
  let s := pruneOrders s k.n
  let q := s.seq k.n
  let covered := if rel then releaseDeps s k.n k.scope else []
  let c : Copy := { seq := k.n, ctx := k.before.ctx.getD 0, word := w, pc := k.pc, slot := k.pos, held := k.held, id := s.nextId,
                    after := fencedOn q .x true ++ covered, rel := rel }
  let s := s.modCore (coreOf k.n) fun x => { x with bte := upd x.bte ch fun l => l ++ [c] }
  let s := if rel then advanceClock s (dieOf (coreOf k.n)) k.scope else s
  let after : List Order := if rel && covered ≠ [] then [{ paths := allPaths, after := covered, reads := false }] else []
  (s.modSeq k.n fun q => { (q.raise .xf) with ordered := q.ordered || rel, order := q.order ++ after }).bump

def execSt8 (o : Bool) (d a : Reg) (imm : BitVec 8) (s : State) : Host.Outcome State Fault Refusal := .next (storeSlot s 1 o d a imm)
def execSt16 (o : Bool) (d a : Reg) (imm : BitVec 8) (s : State) : Host.Outcome State Fault Refusal := .next (storeSlot s 2 o d a imm)
def execSt32 (o : Bool) (d a : Reg) (imm : BitVec 8) (s : State) : Host.Outcome State Fault Refusal := .next (storeSlot s 4 o d a imm)
/-- A store of 64 bits, or the start of a copy where it lands in the core's own aperture. -/
def execSt64 (o : Bool) (d a : Reg) (imm : BitVec 8) (s : State) : Host.Outcome State Fault Refusal :=
  .next (match s.issue.bind fun k => if (snames [d, a]).all (Name.ok k.before) && (effAddr k a imm).toNat % 8 = 0 then apertureOf s k.n (effAddr k a imm) else none with
  | none => storeSlot s 8 o d a imm
  | some ch => slot s (fun k =>
      { names := snames [d, a], reads := snames [d, a]
        ready := (s.seq k.n).room .xf && ((s.core (coreOf k.n)).bte.getD ch []).length < 4 && !heldBack s k.n .x true && !heldBack s k.n .s true })
      fun k s => startCopy s k ch (k.rs d) o)

/-! ### Vector loads, stores, gathers, scatters (spec/11 R215, R216) -/

/-- The vector a source field holds, before any pop of this slot. -/
def peekVec (s : State) (k : Issue) (w : Nat) (src : List Reg) (r : Reg) : Vec := srcVal k w (popAll s k.n (portsOf src)).2 r
def popVecs (s : State) (k : Issue) (src : List Reg) : State := (popAll s k.n (portsOf src)).1

/-- Where a vector result that comes later goes; a port takes its entry now. -/
def vectorDest (s : State) (k : Issue) (w : Nat) (d : Reg) : State × Dest := match portOf d with
  | some p => loadIntoPort s k p
  | none => (s, .bytes (elemOff (viewAt k.before w) d.toNat 512) 512)
/-- A slot that loads one vector (spec/11 R215, R216). -/
def vectorLoad (s : State) (names reads : List Name) (w : Nat) (d : Reg) (src : List Reg) (checks : Issue → List (Option Trap))
    (l : Issue → List Seg) (f o : Bool) (fmtOk : Issue → Bool := fun _ => true) : State :=
  slot s (fun k =>
    { names := names, reads := reads
      ready := (s.seq k.n).room .ld && !heldBack s k.n .s false && portPath s k.n src [d]
      fmtOk := fmtOk k
      checks := checks k }) fun k s =>
    let l := l k
    let r := vectorDest (popVecs s k src) k w d
    issueAccess r.1 k .dtlb { id := 0, path := .s, kind := .load r.2 512 false, fresh := f, acq := o, segs := l }

def execVld (f o : Bool) (d a : Reg) (imm : BitVec 8) (s : State) : Host.Outcome State Fault Refusal :=
  .next (vectorLoad s (vnames 1 [d] ++ snames [a]) (snames [a]) 1 d []
    (fun k => [misaligned (effAddr k a imm) 64, xtrap 0 (dataSegs s k.n .s { r := true } (effAddr k a imm) 512)] ++ portChecks s k.n [] [d])
    (fun k => segsOk (dataSegs s k.n .s { r := true } (effAddr k a imm) 512)) f o)

def execVst (o : Bool) (d a : Reg) (imm : BitVec 8) (s : State) : Host.Outcome State Fault Refusal :=
  .next (memSlot s (vnames 1 [d] ++ snames [a]) (vnames 1 [d] ++ snames [a]) .s .st true
    (fun k => [misaligned (effAddr k a imm) 64, xtrap 1 (dataSegs s k.n .s { w := true } (effAddr k a imm) 512)] ++ portChecks s k.n [d] [])
    (fun k => { id := 0, path := .s, kind := .store, rel := o, data := (peekVec s k 1 [d] d).toNat
                segs := segsOk (dataSegs s k.n .s { w := true } (effAddr k a imm) 512) })
    (fun k => portPath s k.n [d] [])
    (fun _ => true) fun k s => popVecs s k [d])

/-- Element addresses of a gather or scatter: s[a] plus the signed 32-bit lane, and the place in the vector. -/
def gatherAddrs (f : Fmt) (base : Word) (idx : Vec) : List (Word × Nat) :=
  ((elems 32 (count f) idx.toNat).zipIdx).map fun (x, e) => (base + BitVec.ofInt 64 (toInt 32 x), e * (Fp.width f / 8))
/-- Per element: alignment, then translation; the first failure decides (spec/11 R210). -/
def gatherSegs (s : State) (n : Nat) (need_ : Needs) (access w : Nat) : List (Word × Nat) → Except Trap (List Seg)
  | [] => .ok []
  | (a, at_) :: t => match misaligned a w with
    | some x => .error x
    | none => match segsGo s (coreOf n) .dtlb (asidOf s n) .s need_ 2 a.toNat w at_ with
      | .error f => .error (f.trap access)
      | .ok l => match gatherSegs s n need_ access w t with
        | .error x => .error x
        | .ok m => .ok (l ++ m)
def gatherTrap (r : Except Trap (List Seg)) : Option Trap := match r with
  | .error t => some t
  | .ok _ => none
def gatherList (r : Except Trap (List Seg)) : List Seg := match r with
  | .error _ => []
  | .ok l => l
def accGather (f : Fmt) : Bool := Fp.width f = 32 || Fp.width f = 64

def execVgat (f o : Bool) (d a b : Reg) (m : BitVec 2) (s : State) : Host.Outcome State Fault Refusal :=
  let w := viewOfM m
  let plan := fun (k : Issue) => gatherSegs s k.n { r := true } 0 (Fp.width (fmtVF k.fmt) / 8)
    (gatherAddrs (fmtVF k.fmt) (k.rs a) (peekVec s k w [b] b))
  .next (vectorLoad s (vnames w [d, b] ++ snames [a]) (vnames w [b] ++ snames [a]) w d [b]
    (fun k => portChecks s k.n [b] [d] ++ [gatherTrap (plan k)]) (fun k => gatherList (plan k)) f o fun k => accGather (fmtVF k.fmt))

def execVsct (o : Bool) (d a b : Reg) (m : BitVec 2) (s : State) : Host.Outcome State Fault Refusal :=
  let w := viewOfM m
  let plan := fun (k : Issue) => gatherSegs s k.n { w := true } 1 (Fp.width (fmtVF k.fmt) / 8)
    (gatherAddrs (fmtVF k.fmt) (k.rs a) (peekVec s k w [d, b] b))
  .next (memSlot s (vnames w [d, b] ++ snames [a]) (vnames w [d, b] ++ snames [a]) .s .st true
    (fun k => portChecks s k.n [d, b] [] ++ [gatherTrap (plan k)])
    (fun k => { id := 0, path := .s, kind := .store, rel := o, segs := gatherList (plan k), data := (peekVec s k w [d, b] d).toNat })
    (fun k => portPath s k.n [d, b] [])
    (fun k => accGather (fmtVF k.fmt)) fun k s => popVecs s k [d, b])

/-! ### Bank operations (spec/11 R217-R220) -/

/-- Does a BAU home every byte, here or on another module. -/
def bauAny (l : List Seg) : Bool := l.all fun x => bauHomed (localPa x.pa)
def bankTyBytes (t : BankTy) : Nat := if t = .i64 then 8 else 4
/-- A bank atomic: a release and an acquire at its scope; the old value comes back to s[d]. -/
def bankSlot (s : State) (op : BankOp) (d a b : Reg) (ty : BankTy) : State :=
  let n := bankTyBytes ty
  let r := fun (k : Issue) => dataSegs s k.n .b { r := true, w := true } (k.rs a) n
  memSlot s (snames [d, a, b]) (snames (if op = .cas then [d, a, b] else [a, b])) .b .ld true
    (fun k => [misaligned (k.rs a) n, xtrap 2 (r k),
      if bauAny (segsOk (r k)) then none else some { cause := .permission, addr := (k.rs a).toNat, xlat := 1 + 2 * 32 }])
    fun k => { id := 0, path := .b, kind := .bank op ty (k.rs b) (k.rs d) (scalarDest k d), acq := true, rel := true, segs := segsOk (r k) }

def execBadd (d a b : Reg) (ty : BankTy) (s : State) : Host.Outcome State Fault Refusal := .next (bankSlot s .add d a b ty)
def execBmin (d a b : Reg) (ty : BankTy) (s : State) : Host.Outcome State Fault Refusal := .next (bankSlot s .min d a b ty)
def execBmax (d a b : Reg) (ty : BankTy) (s : State) : Host.Outcome State Fault Refusal := .next (bankSlot s .max d a b ty)
def execBand (d a b : Reg) (ty : BankTy) (s : State) : Host.Outcome State Fault Refusal := .next (bankSlot s .and d a b ty)
def execBor (d a b : Reg) (ty : BankTy) (s : State) : Host.Outcome State Fault Refusal := .next (bankSlot s .or d a b ty)
def execBxor (d a b : Reg) (ty : BankTy) (s : State) : Host.Outcome State Fault Refusal := .next (bankSlot s .xor d a b ty)
def execBswp (d a b : Reg) (ty : BankTy) (s : State) : Host.Outcome State Fault Refusal := .next (bankSlot s .swap d a b ty)
def execBcas (d a b : Reg) (ty : BankTy) (s : State) : Host.Outcome State Fault Refusal := .next (bankSlot s .cas d a b ty)

def accVbred (f : Fmt) : Bool := f = .f32 || f = .f16 || f = .bf16 || f = .i32 || f = .z32 || f = .i16 || f = .z16
def execVbred (a b : Reg) (op : RedOp) (s : State) : Host.Outcome State Fault Refusal :=
  let r := fun (k : Issue) => dataSegs s k.n .b { r := true, w := true } (k.rs a) 512
  .next (memSlot s (vnames 1 [b] ++ snames [a]) (vnames 1 [b] ++ snames [a]) .b .st true
    (fun k => [misaligned (k.rs a) 512, xtrap 2 (r k),
      if bauAny (segsOk (r k)) then none else some { cause := .permission, addr := (k.rs a).toNat, xlat := 1 + 2 * 32 }] ++ portChecks s k.n [b] [])
    (fun k => { id := 0, path := .b, kind := .vbred op (fmtVF k.fmt), rel := true, data := (peekVec s k 1 [b] b).toNat, segs := segsOk (r k) })
    (fun k => portPath s k.n [b] [])
    (fun k => accVbred (fmtVF k.fmt)) fun k s => popVecs s k [b])

/-! ### Fences and monitors (spec/11 R221-R223) -/

/-- Operations in flight of the sequencer on a path, at a scope. -/
def pathDeps (s : State) (n : Nat) (p : Path) (sc : Scope) : List Dep := (openOn s n p).map fun i => ⟨i, sc⟩
/-- Earlier S-path loads and bank atomics: what `fence.acq` makes acquires. -/
def loadDeps (s : State) (n : Nat) : List Dep := ((s.seq n).acc.filter fun a => match a.kind with
  | .load _ _ _ => a.path = .s
  | .bank _ _ _ _ _ => true
  | _ => false).map fun a => ⟨a.id, .core⟩
/-- The orders a fence puts in force: as a release it also goes before every later write (spec/10 R195, R198). -/
def fenceOrders (s : State) (n : Nat) (kind : FenceKind) (sc : Scope) : List Order :=
  let rel : Order := { paths := [.s, .b], after := releaseDeps s n sc, reads := false, hold := true }
  let later : Order := { paths := allPaths, after := releaseDeps s n sc, reads := false }
  let acq : Order := { paths := allPaths, after := loadDeps s n, hold := true }
  let full : Order := { paths := [.s, .b], after := releaseDeps s n sc, hold := true }
  match kind with
  | .rel => [rel, later] | .acq => [acq] | .full => [full, later, acq]

/-- Orders accesses; itself starts none and raises no counter. -/
def execFence (k : FenceKind) (s : State) : Host.Outcome State Fault Refusal :=
  .next (slot s (fun _ => {}) fun i s =>
    let s := s.modSeq i.n fun q => { q with ordered := true }
    let s := if k = .acq then s else advanceClock s (dieOf (coreOf i.n)) i.scope
    s.modIssue fun x => { x with orders := x.orders ++ fenceOrders s i.n k i.scope })

/-- Accesses on p from earlier bundles before accesses on q of later ones (spec/10 R202); in force from the next bundle. -/
def execXfence (p q : Path) (s : State) : Host.Outcome State Fault Refusal :=
  .next (slot s (fun _ => {}) fun i s =>
    let old := (pathDeps s i.n p i.scope).filter fun d => d.id < i.firstId
    s.modIssue fun x => { x with orders := x.orders ++ [{ paths := [q], after := old, hold := true }] })

/-- Arm the watch on a line (spec/10 R205). -/
def execMon (a : Reg) (s : State) : Host.Outcome State Fault Refusal :=
  .next (slot s (fun k =>
      { names := snames [a], reads := snames [a]
        checks := [xtrap 0 (dataSegs s k.n .s { r := true } (k.rs a) 1)] })
    fun k s =>
      let l := segsOk (dataSegs s k.n .s { r := true } (k.rs a) 1)
      let x := l.headD { va := 0, pa := 0, len := 1, at_ := 0 }
      let line := if x.fab then x.pa else copyAddr s (dieOf (coreOf k.n)) (localPa x.pa) x.frame x.atomic
      let s := installSegs s (coreOf k.n) .dtlb (asidOf s k.n) l
      s.modSeq k.n fun q => { q with watch := some (line / 128 * 128, (k.rs a).toNat / 128 * 128, false) })

/-! ### Transaction barriers and join objects (spec/19 R362, R363, spec/13 R267) -/

/-- An update of a barrier or join object by its BAU: a release and an acquire, counted in ST. -/
def updateSlot (s : State) (a b : Reg) (own : Issue → List (Option Trap)) (al len : Nat) (kind : Issue → AccKind) (sc : Issue → Scope) : State :=
  let r := fun (k : Issue) => barrierSegs s k.n { r := true, w := true } (k.rs a) len
  slot s (fun k =>
    { names := snames [a, b], reads := snames [a, b]
      ready := (s.seq k.n).room .st && !heldBack s k.n .b true
      checks := own k ++ bankChecks s k.n { r := true, w := true } (k.rs a) al len 2 }) fun k s =>
    let s := installSegs s (coreOf k.n) .dtlb (asidOf s k.n) (segsOk (r k))
    startAccess s k.n k.pc k.pos k.held { id := 0, path := .b, kind := kind k, acq := true, rel := true, scope := sc k, segs := segsOk (r k) }

def execTbinit (a b : Reg) (s : State) : Host.Outcome State Fault Refusal :=
  .next (updateSlot s a b (fun k => [need ((k.rs b).toNat % 2 ^ 20 ≠ 0) .reservedField]) 32 32
    (fun k => .tb (.init ((k.rs b).toNat % 2 ^ 20))) fun k => k.scope)
def execTbexp (a b : Reg) (s : State) : Host.Outcome State Fault Refusal :=
  .next (updateSlot s a b (fun _ => []) 32 32 (fun k => .tb (.expect ((k.rs b).toNat % 2 ^ 32))) fun k => k.scope)
def execTbarv (a b : Reg) (s : State) : Host.Outcome State Fault Refusal :=
  .next (updateSlot s a b (fun _ => []) 32 32 (fun k => .tb (.arrive (if b = 0 then 1 else (k.rs b).toNat % 2 ^ 20))) fun k => k.scope)
def execJinit (a b : Reg) (s : State) : Host.Outcome State Fault Refusal :=
  .next (updateSlot s a b (fun _ => []) 64 64 (fun k => .jinit (k.rs b)) fun _ => .module)

/-! ### Fill (spec/11 R225) -/

def execFill (a b : Reg) (p : Bool) (s : State) : Host.Outcome State Fault Refusal :=
  let r := fun (k : Issue) => segs s (coreOf k.n) .etlb (asidOf s k.n) .x { w := true } (k.rs a).toNat 512
  .next (slot s (fun k =>
      { names := snames [a] ++ vnames 1 [b], reads := snames [a] ++ vnames 1 [b]
        ready := (s.seq k.n).room .xf && !heldBack s k.n .x true && portPath s k.n [b] []
        checks := [misaligned (k.rs a) 64, xtrap 6 (r k)] ++ portChecks s k.n [b] [] })
    fun k s =>
      let v := peekVec s k 1 [b] b
      let s := popVecs s k [b]
      let earlier := ((s.seq k.n).acc.filter fun x => x.kind = .fill).map fun x => (⟨x.id, .core⟩ : Dep)
      let id := s.nextId
      let s := issueAccess s k .etlb { id := 0, path := .x, kind := .fill, data := v.toNat, segs := segsOk (r k) }
      let s := s.modSeq k.n fun q => { q with acc := q.acc.map fun x => if x.id = id then { x with after := x.after ++ earlier } else x }
      if p then s.ws k a (k.rs a + 512) else s)

end Sys2Proof.Machine
end

