-- ==== Sys2Proof/Machine/Matrix.lean ====
section
/-! DEFINITION. The matrix engine (spec/08): the MTX instructions, the matrix queue and its events. -/
set_option linter.unusedVariables false
namespace Sys2Proof.Machine
open Sys2Proof

/-! ### Shape records (spec/08 R155-R158) -/

def shM (x : BitVec 512) : Nat := fld x.toNat 7 0
def shN (x : BitVec 512) : Nat := fld x.toNat 15 8
def shK (x : BitVec 512) : Nat := fld x.toNat 31 16
def shAF (x : BitVec 512) : Fmt := fmtOf (fld x.toNat 35 32)
def shBF (x : BitVec 512) : Fmt := fmtOf (fld x.toNat 39 36)
def shFsrc (x : BitVec 512) : Bool := bit x.toNat 40
def shT (x : BitVec 512) : Bool := bit x.toNat 41
def shSA (x : BitVec 512) : Bool := bit x.toNat 42
def shSB (x : BitVec 512) : Bool := bit x.toNat 43
def shTidA (x : BitVec 512) : Nat := fld x.toNat 55 48
def shTidB (x : BitVec 512) : Nat := fld x.toNat 63 56
def shRSA (x : BitVec 512) : Nat := fld x.toNat 95 64
def shESA (x : BitVec 512) : Nat := fld x.toNat 111 96
def shRSB (x : BitVec 512) : Nat := fld x.toNat 159 128
def shESB (x : BitVec 512) : Nat := fld x.toNat 175 160
def shReserved (x : BitVec 512) : Bool := fld x.toNat 47 44 ≠ 0 || fld x.toNat 127 112 ≠ 0 || fld x.toNat 511 176 ≠ 0

/-- Operand formats the engine accepts (spec/08 R155). -/
def accMtx (f : Fmt) : Bool := f = .f16 || f = .bf16 || f = .f8e4 || f = .f8e5 || f = .i8 || f = .z8 || f = .i4 || f = .i4x
def intMtx (f : Fmt) : Bool := f = .i8 || f = .z8 || f = .i4
/-- The formats in effect for A and B. -/
def mtxFmts (x : BitVec 512) (fmt : BitVec 32) : Fmt × Fmt := if shFsrc x then (shAF x, shBF x) else (fmtMA fmt, fmtMB fmt)
/-- The conditions of spec/08 R155. -/
def mtxFmtOk (fa fb : Fmt) (fmt : BitVec 32) (d : Bool) : Bool :=
  accMtx fa && accMtx fb && (!fmtACC fmt || (intMtx fa && intMtx fb && !fmtSC fmt)) &&
  (!fmtSC fmt || (Fp.width fa ≤ 8 && Fp.width fb ≤ 8)) && (!d || fa ≠ .i4x)

/-- Items 3, 4 and 5 of spec/08 R157 for one operand. -/
def stridesOk (f : Fmt) (rs es : Nat) (bNeedsT : Bool) : Bool :=
  if Fp.width f = 4 then es = 0 && !bNeedsT else rs ≠ 0 && es ≠ 0 && rs % (Fp.width f / 8) = 0 && es % (Fp.width f / 8) = 0
/-- Items 1 and 2. -/
def shapeRanges (x : BitVec 512) : Bool :=
  let dim := fun (v top : Nat) => 8 ≤ v && v ≤ top && v % 8 = 0
  dim (shM x) 64 && dim (shN x) 64 && dim (shK x) 512 && !shReserved x &&
  (!shFsrc x || (accMtx (shAF x) && accMtx (shBF x)))
/-- Items 3 to 5. -/
def shapeStrides (x : BitVec 512) (fa fb : Fmt) (d : Bool) : Bool :=
  (d || stridesOk fa (shRSA x) (shESA x) false) && stridesOk fb (shRSB x) (shESB x) (!shT x)
/-- Items 6 and 7. -/
def shapeScales (x : BitVec 512) (fa fb : Fmt) (sc d : Bool) : Bool :=
  (!sc || (shK x % 64 = 0 && (!shSB x || shT x) && (d || !shSA x || Fp.width fa ≠ 4 || shRSA x ≠ 0) &&
    (!shSB x || Fp.width fb ≠ 4 || shRSB x ≠ 0))) && (!d || shK x ≤ 64)
/-- What `mshape` checks, and what `mma` checks. -/
def shapeLoadable (x : BitVec 512) : Bool := shapeRanges x && (!shFsrc x || shapeStrides x (shAF x) (shBF x) false)
def shapeValid (x : BitVec 512) (fa fb : Fmt) (sc d : Bool) : Bool :=
  shapeRanges x && shapeStrides x fa fb d && shapeScales x fa fb sc d

/-! ### Landing slots, queue and tensors (spec/08 R153, R154, R160) -/

/-- The slot of a sequencer that holds a tile. -/
def slotOf (c : Core) (n t : Nat) : Option Nat := c.ls.findIdx? fun l => l.owner = some n && l.tile = some t
/-- A free slot that the sequencer owns. -/
def slotFree (c : Core) (n : Nat) : Option Nat := c.ls.findIdx? fun l => l.owner = some n && l.tile = none
def landingAt (c : Core) (k : Nat) : Landing := c.ls.getD k {}

/-- Entry `t` of the context's tensor table as left by every `mstab` issued so far (spec/08 R163). -/
def tensorIssued (s : State) (c t : Nat) : Option Tensor :=
  let queued := ((s.cores.map (·.2.mq)).flatten).filter fun e => (s.seq e.seq).ctx = some c
  (sortBy (·.id) queued).foldl (fun acc e => match e.op with
    | .stab u x => if u = t then some x else acc
    | _ => acc) ((s.ctx c).tensors.find? t)

/-- Where the scale of row r at panel 0 lies, as a block number (spec/08 R163): none for a scale-table fault. -/
def scaleBlock (e : Tensor) (base rs es k : Nat) (w4 : Bool) (r : Nat) : Option Nat :=
  let o : Int := (base + r * rs : Nat) - (e.dbase : Int)
  let row := o.toNat / rs
  let col := if w4 then o.toNat % rs * 2 else o.toNat % rs / es
  if o < 0 || col % 64 ≠ 0 || e.bpr < col / 64 + (k + 63) / 64 then none else some (row * e.bpr + col / 64)
/-- The issue check of one operand. -/
def scaleOk (e : Option Tensor) (base rs es k rows : Nat) (w4 : Bool) : Bool := match e with
  | none => false
  | some x => (List.range rows).all fun r => (scaleBlock x base rs es k w4 r).isSome

/-- Append an entry to the queue and raise MT (spec/08 R170). -/
def queueMtx (s : State) (k : Issue) (e : MtxEntry) : State :=
  let s := pruneOrders s k.n
  let e := { e with id := s.nextId, seq := k.n, fmt := k.fmt, after := fencedOn (s.seq k.n) .m false, pc := k.pc, slot := k.pos, held := k.held }
  let s := promote (s.modCore (coreOf k.n) fun c => { c with mq := c.mq ++ [e] }) (coreOf k.n)
  (s.modSeq k.n fun q => q.raise .mt).bump
/-- Room in the queue and in MT. -/
def mtxRoom (s : State) (k : Issue) : Bool := (s.core (coreOf k.n)).mq.length < 4 && (s.seq k.n).room .mt
def tileOff (k : Issue) (t : Nat) : Nat := elemOff (viewAt k.before 2) t 16384
/-- A shape record as it stood before the bundle. -/
def shapeAt (k : Issue) (h : Nat) : BitVec 512 :=
  BitVec.ofNat 512 (k.regs.readNat (k.before.winBase + elemOff (viewAt k.before 3) h 64) 64)

/-! ### mma at issue (spec/08 R159, R160) -/

def mmaSlot (s : State) (z neg d : Bool) (t : BitVec 4) (h : BitVec 3) (a b : Reg) : State :=
  let n := t.toNat
  let fmts := fun (k : Issue) => mtxFmts (shapeAt k h.toNat) k.fmt
  let scaledA := fun (k : Issue) => fmtSC k.fmt && shSA (shapeAt k h.toNat) && !d
  let scaledB := fun (k : Issue) => fmtSC k.fmt && shSB (shapeAt k h.toNat)
  let tensor := fun (k : Issue) (id : Nat) => tensorIssued s (k.before.ctx.getD 0) id
  slot s (fun k =>
    let x := shapeAt k h.toNat
    let c := s.core (coreOf k.n)
    let f := fmts k
    { names := [.tile n, .shape h.toNat] ++ snames (if d then [b] else [a, b])
      reads := [.shape h.toNat] ++ snames (if d then [b] else [a, b])
      ready := mtxRoom s k && !heldBack s k.n .m false
      fmtOk := mtxFmtOk f.1 f.2 k.fmt d
      checks := [need (shapeValid x f.1 f.2 (fmtSC k.fmt) d) .reservedField flagShape,
        need ((slotOf c k.n n).isSome || (slotFree c k.n).isSome) .landingOverflow,
        match slotOf c k.n n with
        | some i => need ((landingAt c i).int_ = fmtACC k.fmt) .illegalInstr
        | none => none,
        -- A before B (log 105)
        if d || Fp.width f.1 ≠ 16 then none else misaligned (k.rs a) 2,
        if Fp.width f.2 ≠ 16 then none else misaligned (k.rs b) 2,
        need (!scaledA k || scaleOk (tensor k (shTidA x)) (k.rs a).toNat (shRSA x) (shESA x) (shK x) (shM x) (Fp.width f.1 = 4)) .scaleFault,
        need (!scaledB k || scaleOk (tensor k (shTidB x)) (k.rs b).toNat (shRSB x) (shESB x) (shK x) (shN x) (Fp.width f.2 = 4)) .scaleFault] })
  fun k s =>
    let x := shapeAt k h.toNat
    let c := s.core (coreOf k.n)
    let opens := (slotOf c k.n n).isNone
    let i := ((slotOf c k.n n).orElse fun _ => slotFree c k.n).getD 0
    let s := if opens then s.modCore (coreOf k.n) fun c => { c with ls := upd c.ls i fun l => { l with tile := some n, int_ := fmtACC k.fmt, partial_ := false } } else s
    queueMtx s k { id := 0, seq := 0, tile := n, ls := some i, opens := opens, off := tileOff k n
                   op := .mma z neg d x (fmts k).1 (fmts k).2 (if scaledA k then tensor k (shTidA x) else none)
                     (if scaledB k then tensor k (shTidB x) else none) (if d then 0 else (k.rs a).toNat) (k.rs b).toNat }

def execMma (z neg : Bool) (t : BitVec 4) (h : BitVec 3) (a b : Reg) (s : State) : Host.Outcome State Fault Refusal :=
  .next (mmaSlot s z neg false t h a b)
/-- A comes from the drain latch (spec/08 R162). -/
def execMmaD (z neg : Bool) (t : BitVec 4) (h : BitVec 3) (b : Reg) (s : State) : Host.Outcome State Fault Refusal :=
  .next (mmaSlot s z neg true t h 0 b)

/-- `mcommit` and `mzero` at issue: the slot that holds the tile is free from now on (spec/08 R160). -/
def freeingSlot (s : State) (t : BitVec 4) (op : Bool → MtxOp) : State :=
  slot s (fun k => { names := [.tile t.toNat], ready := mtxRoom s k }) fun k s =>
    let held := slotOf (s.core (coreOf k.n)) k.n t.toNat
    let acc := match held with
      | some i => (landingAt (s.core (coreOf k.n)) i).int_
      | none => fmtACC k.fmt
    let s := match held with
      | some i => s.modCore (coreOf k.n) fun c => { c with ls := upd c.ls i fun l => { l with tile := none } }
      | none => s
    queueMtx s k { id := 0, seq := 0, op := op held.isSome, tile := t.toNat, ls := held, opens := acc, off := tileOff k t.toNat }
/-- For an `mcommit` the entry's `opens` holds the accumulator format of the drain. -/
def execMcommit (t : BitVec 4) (s : State) : Host.Outcome State Fault Refusal := .next (freeingSlot s t .commit)
def execMzero (t : BitVec 4) (s : State) : Host.Outcome State Fault Refusal := .next (freeingSlot s t fun _ => .zero)

/-- A checked copy of a vector's first 64 bytes into a shape record (spec/08 R167). -/
def execMshape (h : BitVec 3) (a : Reg) (m : BitVec 2) (s : State) : Host.Outcome State Fault Refusal :=
  .next (vecSlot s (viewOfM m) [] [a] false [.shape h.toNat] [] accAny noChecks
    (fun _ _ v => [need (shapeLoadable ((v a).setWidth 512)) .reservedField flagShape]) fun k _ v s =>
      s.wb k (elemOff (viewAt k.before 3) h.toNat 64) 64 ((v a).toNat % 2 ^ 512))

/-- Register a tensor (spec/08 R168). -/
def execMstab (t : BitVec 8) (a b : Reg) (s : State) : Host.Outcome State Fault Refusal :=
  .next (slot s (fun k =>
    { names := snames [a, b], reads := snames [a, b], ready := mtxRoom s k
      checks := [misaligned (k.rs a) 2, need (fld (k.rs b).toNat 63 48 ≠ 0) .scaleFault] }) fun k s =>
    queueMtx s k { id := 0, seq := 0, op := .stab t.toNat { bpr := fld (k.rs b).toNat 63 48, dbase := fld (k.rs b).toNat 47 0, saddr := fld (k.rs a).toNat 47 0, core := coreOf k.n } })

/-! ### Arithmetic of mma (spec/05 R91-R93) -/

/-- A nibble-packed or plain operand segment as values, element 0 first, with the I4XM flag. -/
def segVals (f : Fmt) (n v : Nat) : List Fp.Val × Nat :=
  let l := elems (Fp.width f) n v
  if f = .i4x then let r := Fp.i4xBlock l; (r.1, if r.2 then Fp.I4XM else 0) else (l.map (Fp.value f), 0)
def segInts (f : Fmt) (n v : Nat) : List Int := (elems (Fp.width f) n v).map (Fp.intVal f)

/-- Exact products with their flags. -/
def products (x y : List Fp.Val) : List (Fp.Val × Nat) := List.zipWith Fp.mulExact x y
def prodFlags (l : List (Fp.Val × Nat)) : Nat := l.foldl (fun a p => a ||| p.2) 0
def negIf (n : Bool) (v : Fp.Val) : Fp.Val := if n then Fp.neg v else v
/-- c plus exact terms, rounded once to f32, nearest even. -/
def addRound (c : Nat) (terms : List (Fp.Val × Nat)) : Nat × Nat :=
  let r := sumExact (Fp.decode .f32 c :: terms.map (·.1))
  Fp.deliver .f32 0 (r.1, r.2 ||| prodFlags terms)
/-- Products taken in runs of `k`, the exact sum of a run negated where `neg`, one rounding a run. -/
def runAcc (k : Nat) (neg : Bool) : Nat → Nat × Nat → List (Fp.Val × Nat) → Nat × Nat
  | 0, c, _ => c
  | fuel + 1, c, l => if l = [] then c else
    let sum := sumExact ((l.take k).map (·.1))
    let r := addRound c.1 [(negIf neg sum.1, sum.2 ||| prodFlags (l.take k))]
    runAcc k neg fuel (r.1, c.2 ||| r.2) (l.drop k)
/-- A whole block rounded first, then added (widths of 4, and scaled operands). -/
def blockAcc (neg : Bool) (c : Nat) (terms : List (Fp.Val × Nat)) (scales : List Fp.Val) : Nat × Nat :=
  let dot := sumExact (terms.map (·.1))
  let whole := scales.foldl (fun acc x => let r := Fp.mulExact acc.1 x; (r.1, acc.2 ||| r.2)) (dot.1, dot.2 ||| prodFlags terms)
  let p := Fp.deliver .f32 0 whole
  let r := addRound c [(negIf neg (Fp.decode .f32 p.1), 0)]
  (r.1, p.2 ||| r.2)
/-- One element over one panel: the float cases of spec/05 R91. `sc`: the scales of the two rows under FMT.SC. -/
def accumulate (width : Nat) (sc : Option (Fp.Val × Fp.Val)) (neg : Bool) (c : Nat) (x y : List Fp.Val) : Nat × Nat :=
  let ps := products x y
  match sc with
  | some (u, v) => blockAcc neg c ps [u, v]
  | none => if width = 4 then blockAcc neg c ps [] else
    runAcc (if width = 16 then 1 else 2) neg (ps.length + 1) (c, 0) ps

/-! ### Running the head of the queue (spec/08 R161) -/

def wider (fa fb : Fmt) : Nat := Nat.max (Fp.width fa) (Fp.width fb)
def panelLen (x : BitVec 512) (p : Nat) : Nat := Nat.min 64 (shK x - 64 * p)
/-- Bytes of one operand row's elements from k on: address and place. -/
def rowBytes (f : Fmt) (start es n : Nat) : List (Nat × Nat × Nat) :=
  if Fp.width f = 4 then [(start, 0, n / 2)]
  else if es = Fp.width f / 8 then [(start, 0, n * es)]
  else (List.range n).map fun k => (start + k * es, k * (Fp.width f / 8), Fp.width f / 8)
/-- The A segment i, and the B segment r, of a panel (spec/08 R158). -/
def segmentA (x : BitVec 512) (f : Fmt) (a p i : Nat) : List (Nat × Nat × Nat) :=
  rowBytes f (a + i * shRSA x + (if Fp.width f = 4 then 32 * p else 64 * p * shESA x)) (shESA x) (panelLen x p)
def segmentB (x : BitVec 512) (f : Fmt) (b p r : Nat) : List (Nat × Nat × Nat) :=
  if shT x then rowBytes f (b + r * shRSB x + (if Fp.width f = 4 then 32 * p else 64 * p * shESB x)) (shESB x) (panelLen x p)
  else rowBytes f (b + (64 * p + r) * shRSB x) (shESB x) (shN x)
/-- Segments of a panel. -/
def countB (x : BitVec 512) (p : Nat) : Nat := if shT x then shN x else panelLen x p

/-- How a read of the engine ends. -/
inductive MtxRead where
  | ok (s : State) (v : Nat)
  | fault (f : XFault)
  | abort (va : Nat)
  | calved

/-- Read pieces on path M through the engine TLB (spec/08 R171). An address sum does not wrap: one of 2^64 or more faults on
translation like any with a bit above 47 (spec/08 R158, log 105). -/
def mtxRead (s : State) (g asid : Nat) : List (Nat × Nat × Nat) → Nat → MtxRead
  | [], acc => .ok s acc
  | (va, at_, len) :: t, acc => match segs s g .etlb asid .m { r := true } (if va < 2 ^ 64 then va else 2 ^ 63) len with
    | .error f => .fault f
    | .ok l =>
      if !segsLive s l then .calved
      else match loadPoisoned s g .m l with
        | some a => .abort a
        | none =>
          let r := loadSegs (installSegs s g .etlb asid l) g .m l false
          mtxRead r.1 g asid t (acc + r.2 * 2 ^ (8 * at_))

/-- The scale of a block through the scale cache, the least recently used of 256 entries leaving (spec/08 R164). -/
def scaleRead (s : State) (g asid tid : Nat) (e : Tensor) (block : Nat) : MtxRead :=
  let c := s.core g
  let here := fun (x : Nat × Nat × Nat × BitVec 16) => x.1 = asid && x.2.1 = tid && x.2.2.1 = block
  let use := fun (s : State) (v : BitVec 16) => s.modCore g fun c => { c with scales := ((asid, tid, block, v) :: c.scales.filter (fun x => !here x)).take 256 }
  match c.scales.find? here with
  | some x => .ok (use s x.2.2.2) x.2.2.2.toNat
  | none => match mtxRead s g asid [(e.saddr + 2 * block, 0, 2)] 0 with
    | .ok s v => .ok (use s (BitVec.ofNat 16 v)) v
    | r => r

/-- Read a list of things in order, keeping what was read when one fails. -/
def readAll {α : Type} (f : State → α → MtxRead) : State → List α → List Nat → State × List Nat × Option MtxRead
  | s, [], acc => (s, acc, none)
  | s, x :: t, acc => match f s x with
    | .ok s v => readAll f s t (acc ++ [v])
    | r => (s, acc, some r)

/-- Operand A from the drain latch, converted to A's format (spec/08 R162). -/
def latchRow (q : Seq) (f : Fmt) (k i : Nat) : List Nat × Nat :=
  joinFlags ((List.range k).map fun j => Fp.convert f (if q.drainInt then .i32 else .f32) 0 true ((q.drain.getD (64 * i + j) 0).toNat))

/-- Replace the slot's words in the M x N corner. -/
def putCorner (old : Tab (BitVec 32)) (m n : Nat) (new : Nat → Nat → Nat) : Tab (BitVec 32) :=
  (List.range 4096).filterMap fun k =>
    let v := if k / 64 < m && k % 64 < n then BitVec.ofNat 32 (new (k / 64) (k % 64)) else old.getD k 0
    if v = 0 then none else some (k, v)

/-- Change the entry at the head of a core's queue. -/
def modHead (s : State) (g : Nat) (f : MtxEntry → MtxEntry) : State := match mqHead s g with
  | some e => modEntry s g e.id f
  | none => s
def setRowprog (s : State) (n tile b a : Nat) : State := s.modSeq n fun q => { q with rowprog := tile * 2 ^ 32 + b * 2 ^ 16 + a }

/-- A translation or permission fault in mid-tile (spec/08 R172). -/
def mtxFault (s : State) (g : Nat) (e : MtxEntry) (f : XFault) : State :=
  let s := match e.ls with
    | some i => s.modCore g fun c => { c with ls := upd c.ls i fun l => { l with partial_ := true } }
    | none => s
  let s := missTrap s g (asidOf s e.seq) (f.trap 4)
  addCause (modEntry s g e.id fun e => { e with begun := false }) e.seq { f.trap 4 with pc := some e.pc, slot := e.slot, held := e.held }

/-- A data abort: the entry and every later one of the sequencer are discarded (spec/08 R173). The slot of the aborted
`mma` is free, and those that discarded ones were to open. ROWPROG counts nothing then (DESIGN CHOICE, log 110). -/
def mtxAbort (s : State) (g : Nat) (e : MtxEntry) (va : Nat) : State :=
  let c := s.core g
  let gone := c.mq.filter fun x => x.seq = e.seq
  let free := (gone.filterMap fun x => if x.isMma && x.opens then x.ls else none) ++ (match e.ls with
    | some i => [i]
    | none => [])
  let s := s.modCore g fun c => { c with mq := c.mq.filter fun x => x.seq ≠ e.seq
                                         ls := c.ls.zipIdx.map fun (l, i) => if free.contains i && l.owner = some e.seq then { l with tile := none, partial_ := false, words := [] } else l }
  let s := promote (s.modSeq e.seq fun q => { q with mt := 0, rowprog := 0 }) g
  addCause s e.seq { cause := .dataAbort, addr := va, info := gone.length, pc := some e.pc, slot := e.slot, held := e.held }

/-- One panel whose segments are loaded: into the slot. -/
def panelInto (s : State) (g : Nat) (e : MtxEntry) (p : Nat) (aw bw : List Nat) (sa sb : List Nat) : State := match e.op, e.ls with
  | .mma z neg d x fa fb _ _ _ _, some i =>
    let len := panelLen x p
    let m := shM x; let n := shN x
    let slotw := (landingAt (s.core g) i).words
    let q := s.seq e.seq
    let rows := aw.map fun v => segVals fa len v
    let bcols := if shT x then bw.map fun v => segVals fb len v
      else let l := bw.map fun v => (segVals fb n v).1; (List.range n).map fun j => (l.map fun r => r.getD j (.fin false 0 0), 0)
    if fmtACC e.fmt then
      let rowi := aw.map (segInts fa len)
      let coli := if shT x then bw.map (segInts fb len)
        else let l := bw.map (segInts fb n); (List.range n).map fun j => l.map fun r => r.getD j 0
      let start := fun (k : Nat) => if p = 0 then (if z then (0 : Int) else toInt 32 (slotw.getD k 0).toNat) else e.exact.getD k 0
      let val := fun (i j : Nat) =>
        let t := (List.zipWith (fun u v : Int => u * v) (rowi.getD i []) (coli.getD j [])).foldl (fun a v => a + v) (0 : Int)
        start (64 * i + j) + (if neg then -t else t)
      let sums : Tab Int := (List.range 4096).filterMap fun k => if k / 64 < m && k % 64 < n then some (k, val (k / 64) (k % 64)) else none
      let last := 64 * (p + 1) ≥ shK x
      let iov := last && sums.any fun v => v.2 < -(2 ^ 31) || 2 ^ 31 ≤ v.2
      let s := s.modCore g fun c => { c with ls := upd c.ls i fun l => { l with words := putCorner slotw m n fun a b => ofInt 32 (sums.getD (64 * a + b) 0) } }
      modHead s g fun e => { e with exact := if last then [] else sums, panel := p + 1, segsA := [], segsB := [], flags := e.flags ||| (if iov then Fp.IOV else 0) }
    else
      let bf := fun (l : List Nat) (r : Nat) => Fp.decode .bf16 (l.getD r 0x3F80)
      let one := fun (i j : Nat) =>
        let c := if z && p = 0 then 0 else (slotw.getD (64 * i + j) 0).toNat
        accumulate (wider fa fb) (if fmtSC e.fmt then some (bf sa i, bf sb j) else none) neg c (rows.getD i ([], 0)).1 (bcols.getD j ([], 0)).1
      let all : Tab (Nat × Nat) := (List.range 4096).filterMap fun k => if k / 64 < m && k % 64 < n then some (k, one (k / 64) (k % 64)) else none
      let flags := all.foldl (fun a v => a ||| v.2.2) ((rows ++ bcols).foldl (fun (a : Nat) (r : List Fp.Val × Nat) => a ||| r.2) 0)
      let s := s.modCore g fun c => { c with ls := upd c.ls i fun l => { l with words := putCorner slotw m n fun a b => (all.getD (64 * a + b) (0, 0)).1 } }
      modHead s g fun e => { e with panel := p + 1, segsA := [], segsB := [], flags := e.flags ||| flags }
  | _, _ => s

/-- A panel has been computed (spec/08 R169, spec/19 R371, R375). -/
def computed (s : State) (g cycles : Nat) : State :=
  s.modCore g fun c => { c with mtxDue := c.mtxDue + cycles, perf := { c.perf with mtxcy := c.perf.mtxcy + cycles } }
/-- Panels from the one in progress on, until one stops. Of a panel the scales of B are fetched before those of A (log 105). -/
def runPanels (g : Nat) : Nat → State → State
  | 0, s => s
  | fuel + 1, s => match mqHead s g with
    | none => s
    | some e => match e.op with
      | .mma z neg d x fa fb sa sb a b =>
        let p := e.panel
        if shK x ≤ 64 * p then
          let s := s.modCore g fun c => { c with ls := match e.ls with
                                                   | some i => upd c.ls i fun l => { l with partial_ := false }
                                                   | none => c.ls }
          modHead (setRowprog s e.seq 0 0 0) g fun e => { e with done := true }
        else
          let asid := asidOf s e.seq
          let blockA := fun (t : Tensor) (r : Nat) => (scaleBlock t a (shRSA x) (shESA x) (shK x) (Fp.width fa = 4) r).getD 0 + p
          let blockB := fun (t : Tensor) (r : Nat) => (scaleBlock t b (shRSB x) (shESB x) (shK x) (Fp.width fb = 4) r).getD 0 + p
          let r1 := match sb with
            | some t => readAll (fun s r => scaleRead s g asid (shTidB x) t (blockB t r)) s (List.range (shN x)) []
            | none => (s, [], none)
          let r2 := match r1.2.2, sa with
            | none, some t => readAll (fun s r => scaleRead s g asid (shTidA x) t (blockA t r)) r1.1 (List.range (shM x)) []
            | bad, _ => (r1.1, [], bad)
          let r3 := match r2.2.2 with
            | none => readAll (fun s r => mtxRead s g asid (segmentB x fb b p r) 0) r2.1 ((List.range (countB x p)).drop e.segsB.length) e.segsB
            | bad => (r2.1, e.segsB, bad)
          let latch : List (List Nat × Nat) := (List.range (shM x)).map fun i => latchRow (s.seq e.seq) fa (shK x) i
          let r4 := match r3.2.2 with
            | none => if d then (r3.1, latch.map fun (l : List Nat × Nat) => packE (Fp.width fa) l.1, (none : Option MtxRead))
              else readAll (fun s r => mtxRead s g asid (segmentA x fa a p r) 0) r3.1 ((List.range (shM x)).drop e.segsA.length) e.segsA
            | bad => (r3.1, e.segsA, bad)
          let doneB := ((List.range p).map (countB x)).foldl (· + ·) 0 + r3.2.1.length
          let s := modHead r4.1 g fun e => { e with segsB := r3.2.1, segsA := r4.2.1, flags := e.flags ||| (if d then latch.foldl (fun (f : Nat) (l : List Nat × Nat) => f ||| l.2) 0 else 0) }
          let s := setRowprog s e.seq e.tile doneB (p * shM x + r4.2.1.length)
          match r4.2.2 with
          | some (.fault f) => mtxFault s g e f
          | some (.abort va) => mtxAbort s g e va
          | some _ => s
          | none => runPanels g fuel (computed (panelInto s g e p r4.2.1 r3.2.1 r2.2.1 r1.2.1) g (panelLen x p * wider fa fb / 16))
      | _ => s

/-- The bytes of a tile as nonzero words. -/
def tileWords (c : Core) (a : Nat) : Tab (BitVec 32) := (List.range 4096).filterMap fun k =>
  let v := BitVec.ofNat 32 (c.regs.readNat (a + 4 * k) 4)
  if v = 0 then none else some (k, v)
/-- The words of an entry's tile, as after every earlier bundle: not what its own bundle wrote (spec/08 R161, spec/02 R29). -/
def tileOf (s : State) (e : MtxEntry) : Tab (BitVec 32) :=
  let c := s.core (coreOf e.seq)
  let a := (s.seq e.seq).winBase
  tileWords { c with regs := e.keep.foldl (fun m p => m.write (a + p.1) p.2.1 p.2.2) c.regs } (a + e.off)
/-- Write an entry's tile, but for what slots of higher class of its bundle wrote (spec/02 R29). -/
def putTile (s : State) (e : MtxEntry) (v : Nat) : State :=
  (e.skip.foldl (fun l r => (l.map fun p => cutPart p r).flatten) [(e.off, 0, 16384)]).foldl (fun s p =>
    s.writeWin e.seq p.1 p.2.2 (v / 2 ^ (8 * p.2.1) % 2 ^ (8 * p.2.2))) s
def wordsNat (t : Tab (BitVec 32)) : Nat := (t.map fun e => e.2.toNat * 2 ^ (32 * e.1)).foldl (· + ·) 0
/-- A tile range that meets an uncorrectable word of register space (spec/09 R178). -/
def tilePoison (s : State) (n off : Nat) : Option Nat :=
  let a := State.regPa (coreOf n) ((s.seq n).winBase + off)
  s.poison.find? fun g => meet a 16384 g 8

/-- May the head run: what it follows is performed, no cause of its sequencer waits, and its context runs, or stops with
this `mma` already begun (spec/08 R172, R174). -/
def headReady (s : State) (e : MtxEntry) : Bool :=
  depsMet s e.seq e.after && (s.seq e.seq).causes = [] &&
    (engineOn s (((s.seq e.seq).ctx).getD 0) (coreOf e.seq) || (e.isMma && e.begun && dieLive s (dieOf (coreOf e.seq))))

/-- The mma at the head of core arg 0 runs until it is done, stopped by a fault, or waiting for a calved die. -/
def execMmaExecute (s : State) : Host.Outcome State Fault Refusal :=
  .next (match mqHead s (s.arg 0) with
  | none => s
  | some e =>
    if !e.isMma || e.done || !headReady s e then s
    else
      let g := s.arg 0
      let first := e.opens && !e.resumed
      let s := modEntry s g e.id fun e => { e with resumed := true, begun := true }
      match if first then tilePoison s e.seq e.off else none with
      | some a => mtxAbort s g e a
      | none =>
        let s := match first, e.ls with
          | true, some i => s.modCore g fun c => { c with ls := upd c.ls i fun l => { l with words := tileOf s e } }
          | _, _ => s
        runPanels g 9 s)

/-- Take the head off the queue and lower MT (spec/08 R170). A strike rollback returns the queue, the slots and MT
together, so an operation that completed after the boundary runs again (R174, spec/20 R384, log 30). -/
def popMtx (s : State) (g : Nat) (e : MtxEntry) : State :=
  let s := s.modCore g fun c => { c with mq := c.mq.filter fun x => x.id ≠ e.id }
  promote (s.modSeq e.seq fun q => q.lower .mt) g

/-- The last panel is in the slot: flags reach FMT and MT falls (spec/08 R170, spec/05 R86). -/
def execMmaComplete (s : State) : Host.Outcome State Fault Refusal :=
  .next (match mqHead s (s.arg 0) with
  | none => s
  | some e => if e.isMma && e.done then lateFlags (popMtx s (s.arg 0) e) e.seq e.pc e.flags else s)

/-- The drain of `mcommit` at the head (spec/08 R165). -/
def execMcommitDrain (s : State) : Host.Outcome State Fault Refusal :=
  .next (match mqHead s (s.arg 0) with
  | none => s
  | some e => match e.op with
    | .commit hit =>
      if !headReady s e then s else
      let g := s.arg 0
      match tilePoison s e.seq e.off with
      | some a => mtxAbort s g e a
      | none =>
        let s := match hit, e.ls with
          | true, some i => putTile s e (wordsNat (landingAt (s.core g) i).words)
          | _, _ => s
        let w := match hit, e.ls with
          | true, some i => (landingAt (s.core g) i).words
          | _, _ => tileOf s e
        popMtx (s.modSeq e.seq fun q => { q with drain := w, drainInt := e.opens }) g e
    | _ => s)

/-- `mzero` at the head (spec/08 R166). -/
def execMzeroExecute (s : State) : Host.Outcome State Fault Refusal :=
  .next (match mqHead s (s.arg 0) with
  | none => s
  | some e => match e.op with
    | .zero => if !headReady s e then s else popMtx (putTile s e 0) (s.arg 0) e
    | _ => s)

/-- `mstab` at the head writes its entry and drops the tensor's cached scales on every core of the context (spec/08 R168). -/
def execMstabApply (s : State) : Host.Outcome State Fault Refusal :=
  .next (match mqHead s (s.arg 0) with
  | none => s
  | some e => match e.op with
    | .stab t x =>
      if !headReady s e then s else
      let asid := asidOf s e.seq
      let s := s.modCtx ((s.seq e.seq).ctx.getD 0) fun c => { c with tensors := c.tensors.put t x }
      let s := (s.arg 0 :: (s.ctxOf e.seq).cores).foldl (fun s g => s.modCore g fun c => { c with scales := c.scales.filter fun y => y.1 ≠ asid || y.2.1 ≠ t }) s
      popMtx s (s.arg 0) e
    | _ => s)

end Sys2Proof.Machine
end

