-- ==== Sys2Proof/Machine/Complete.lean ====
section
/-! DEFINITION. Accesses completing: loads, stores, bank operations and barrier updates, fills; uncorrectable errors
and calved retries; page walks (spec/09 R181-R188, spec/10, spec/11 R211-R225, spec/17 R331, spec/19 R362). -/
set_option linter.unusedVariables false
namespace Sys2Proof.Machine
open Sys2Proof

/-! ### Homes and copies -/

/-- Write one part of a datum at its home, marked, and leave the updates of its replicas (spec/10 R199). A poisoned
granule in part keeps it out (spec/09 R188). A part on another module is written there; watches on it trigger. -/
def storeSeg (s : State) (id f : Nat) (path : Option Path) (m : Mark) (x : Seg) (v : Nat) : State :=
  let pa := localPa x.pa
  if x.fab then notify s x.pa x.len
  else if poisonPart s pa x.len then errorInterrupt s f pa (Nat.min m.writer noSeq)
  else
    let t := mark (homeWrite s f pa x.len x.key v (Nat.min m.writer noSeq)) pa x.len m
    { t with updates := t.updates ++ (copiesOf s pa).map fun d =>
        { id := id, die := d, pa := pa, len := x.len, key := x.key, data := v % 2 ^ (8 * x.len), f := f, mark := m, path := path } }
def storeAll (s : State) (id f : Nat) (path : Option Path) (m : Mark) (l : List Seg) (v : Nat) : State :=
  l.foldl (fun s x => storeSeg s id f path m x (segData v x)) s
/-- A replica takes a write, while the directory still has it. -/
def applyUpdate (s : State) (u : Update) : State :=
  if (copiesOf s u.pa).contains u.die then mark (homeWrite s u.f (copyAt s u.die u.pa) u.len u.key u.data) (copyAt s u.die u.pa) u.len u.mark else s
/-- The updates that a choice selects with the older ones of their bytes at the same die, and the others. -/
def splitUpdates (p : Update → Bool) (l : List Update) : List Update × List Update :=
  l.foldr (fun u acc => if p u || acc.1.any (fun e => e.die = u.die && meet e.pa e.len u.pa u.len) then (u :: acc.1, acc.2) else (acc.1, u :: acc.2)) ([], [])
/-- The updates that a choice selects are applied, in coherence order: no older one of their bytes is left (spec/10 R191). -/
def updateWhere (s : State) (p : Update → Bool) : State :=
  let r := splitUpdates p s.updates
  r.1.foldl applyUpdate { s with updates := r.2 }
/-- A write under a mark, at its home and at every copy, behind what its bytes still wait for (spec/10 R191, log 102). -/
def writeMarked (s : State) (f : Nat) (m : Mark) (l : List Seg) (v : Nat) : State :=
  updateWhere (storeAll s 0 f none m l v) fun u => l.any fun x => !x.fab && meet u.pa u.len (localPa x.pa) x.len
/-- A write of an engine, of the host or of firmware. -/
def writeAll (s : State) (f : Nat) (l : List Seg) (v : Nat) (who : Nat := noSeq) : State :=
  writeMarked s f { writer := if who = noSeq then outside else who } l v
/-- Has everything whose stamp precedes a clock been applied at die `d` (spec/10 R198). -/
def arrived (s : State) (d : Nat) (clock : List Nat) : Bool := !s.updates.any fun u => u.die = d && stampBefore u.mark.clock clock
/-- May die `d` apply the updates of access `id`: every earlier write of their bytes and every write whose stamp precedes
theirs is applied there (spec/10 R191, R198). -/
def updateTurn (s : State) (id d : Nat) : Bool := s.updates.zipIdx.all fun (u, i) =>
  u.id ≠ id || u.die ≠ d || (arrived s d u.mark.clock && !(s.updates.take i).any fun e => e.die = d && e.id ≠ id && meet e.pa e.len u.pa u.len)

/-- Modules that hold remote bytes of an access and are away (spec/16 R311, spec/21 R413). -/
def remoteAway (s : State) (l : List Seg) : Bool := l.any fun x => x.fab && s.sys.away.contains (x.pa / 2 ^ 46)
/-- The bytes asked for where a part of an S-path load without F lies in another module: the lines it meets (spec/09 R181). -/
def farSpan (x : Seg) (fresh : Bool) : Nat × Nat :=
  if cacheable x && !fresh then (x.pa / 128 * 128, (x.pa + x.len + 127) / 128 * 128 - x.pa / 128 * 128) else (x.pa, x.len)
/-- Does the L1 hold every line of a part in another module. -/
def farHit (s : State) (g : Nat) (x : Seg) (fresh : Bool) : Bool := (lines (x.len / 128 + 2) x.pa x.len).all fun p => (lineHit s g x fresh p.1).isSome
/-- One part of an S-path load in another module: its lines, where the L1 holds them; else the answer, whose lines fill the
L1 where none of them is poisoned; an F load refreshes the bytes it returns of a line that is present (spec/09 R181, log 110). -/
def loadFar (s : State) (g id : Nat) (x : Seg) (fresh : Bool) : State × Nat :=
  let parts := lines (x.len / 128 + 2) x.pa x.len
  if farHit s g x fresh then
    (s.modCore g fun c => { c with perf := { c.perf with l1hit := c.perf.l1hit + parts.length } },
      (parts.map fun p => ((lineHit s g x fresh p.1).elim 0 fun l => lineBytes l p.1 p.2) * 2 ^ (8 * (p.1 - x.pa))).foldl (· + ·) 0)
  else match s.sys.remote.find? fun r => r.id = id && r.part = 0 && r.at_ = x.at_ with
    | none => (s, 0)
    | some r =>
      let v := r.answer.getD 0
      let line := fun (p : Nat) => v / 2 ^ (8 * (p / 128 * 128 - r.tx.addr)) % 2 ^ 1024
      let vline := fun (p : Nat) => (x.va + (p - x.pa)) / 128 * 128
      (s.modCore g fun c => parts.foldl (fun c p =>
        if !cacheable x then c
        else if fresh then { c with l1 := c.l1.map fun l => if l.pa = lineTag x p.1 && l.key = x.key then
            { l with data := BitVec.ofNat 1024 (Mem.write (Mem.cells 0 128 l.data.toNat) (p.1 % 128) p.2 (v / 2 ^ (8 * (p.1 - x.pa)) % 2 ^ (8 * p.2)) |>.readNat 0 128) } else l }
        else
          let c := { c with perf := { c.perf with l1miss := c.perf.l1miss + 1 } }
          if v < 2 ^ (8 * r.tx.len) then l1Put c ⟨lineTag x p.1, x.key, vline p.1, BitVec.ofNat 1024 (line p.1)⟩ s.free else c) c,
        v / 2 ^ (8 * (x.pa - r.tx.addr)) % 2 ^ (8 * x.len))
/-- A whole S-path load: its parts here and on other modules. -/
def loadAll (s : State) (g : Nat) (a : Access) : State × Nat :=
  (a.segs.filter (·.fab)).foldl (fun acc x => let v := loadFar acc.1 g a.id x a.fresh
    ({ v.1 with free := v.1.free + 1 }, acc.2 + v.2 * 2 ^ (8 * x.at_))) (loadSegs s g a.path (a.segs.filter (!·.fab)) a.fresh)
/-- Take the local bytes of a read from memory and the others from the answers of their modules. -/
def loadWith (s : State) (g : Nat) (path : Path) (l : List Seg) (fresh : Bool) (id part : Nat) : State × Nat :=
  let r := loadSegs s g path (l.filter (!·.fab)) fresh
  (r.1, r.2 + if l.any (·.fab) then remoteData s id part else 0)

/-! ### Parts on other modules (spec/16 R311, log 81) -/

/-- Numbers of operations and types in a transaction. -/
def bankOpNum : BankOp → Nat
  | .add => 0 | .min => 1 | .max => 2 | .and => 3 | .or => 4 | .xor => 5 | .swap => 6 | .cas => 7
def tbNum : TbUpdate → Nat × Nat
  | .init c => (0, c) | .expect n => (1, n) | .arrive c => (2, c) | .countdown n => (3, n)
/-- The transaction for one part of an access. -/
def accTx (s : State) (n : Nat) (a : Access) (x : Seg) : Tx :=
  let y : Tx := { kind := txRead, addr := x.pa, src := seqId s n, len := x.len, key := x.key }
  match a.kind with
  | .load _ _ _ => if a.path = .s then { y with addr := (farSpan x a.fresh).1, len := (farSpan x a.fresh).2, arg := (x.pa - (farSpan x a.fresh).1) + x.len * 2 ^ 16 } else y
  | .seal _ | .last _ _ | .flush _ => y
  | .store | .fill | .portOut _ _ => { y with kind := txWrite, data := segData a.data x }
  | .bank op ty v c _ => { y with kind := txBank, op := bankOpNum op, ty := bankTyCode ty, data := v.toNat % 2 ^ (8 * x.len), arg := c.toNat }
  | .vbred op f => { y with kind := txVbred, op := redCode op, ty := fmtCode f, data := a.data }
  | .tb u => { y with kind := txBarrier, op := (tbNum u).1, len := 8, data := (tbNum u).2 % 2 ^ 64 }
  | .jinit c => { y with kind := txJinit, len := 8, data := c.toNat }
/-- The parts of an access on other modules that must be asked for or written there. -/
def farSegs (s : State) (n : Nat) (a : Access) : List Seg := a.segs.filter fun x =>
  x.fab && !(a.path = .s && !a.kind.writes && farHit s (coreOf n) x a.fresh)
/-- The parts of an access on other modules leave for them, once. -/
def goOut (s : State) (n : Nat) (a : Access) : State :=
  let l := (farSegs s n a).filter fun x => !s.sys.remote.any fun r => r.id = a.id && r.part = 0 && r.at_ = x.at_
  if l = [] then s
  else
    let s := submit s (l.map fun x => { id := a.id, tx := accTx s n a x, at_ := x.at_, seq := n, path := a.path })
    if a.kind.writes then leaves s (coreOf n) a.id else s

def accOf (s : State) (n id : Nat) : Option Access := (s.seq n).acc.find? fun a => a.id = id
/-- Change one access in flight, in the snapshots that hold it too. -/
def modAcc (s : State) (n id : Nat) (f : Access → Access) : State :=
  modBoth s n fun q => { q with acc := q.acc.map fun a => if a.id = id then f a else a }
/-- The entry of an output port that a load was to fill is gone. -/
def dropEntry (q : Seq) (k : AccKind) : Seq := match k with
  | .load (.port p e) _ _ => { q with ports := upd q.ports p fun x => { x with buf := x.buf.filter fun y => y.id ≠ e }
                                      acc := q.acc.filter fun a => a.kind ≠ .portOut p e }
  | _ => q
def needsOf (k : AccKind) : Needs := match k with
  | .load _ _ _ | .last _ _ => { r := true }
  | .store | .fill | .portOut _ _ => { w := true }
  | .flush _ => {}
  | _ => { r := true, w := true }
def accessCode (p : Path) (k : AccKind) : Nat := match p with
  | .b => 2
  | .m => 4
  | .p => 5
  | .x => 6
  | .a => 7
  | .f => 8
  | .s => match k with
    | .load _ _ _ => 0
    | _ => 1
/-- Translate the bytes of segments anew. -/
def retranslate (s : State) (g : Nat) (wh : Which) (asid : Nat) (p : Path) (n : Needs) : List Seg → Except XFault (List Seg)
  | [] => .ok []
  | x :: t => match segs s g wh asid p n x.va x.len with
    | .error f => .error f
    | .ok l => match retranslate s g wh asid p n t with
      | .error f => .error f
      | .ok r => .ok (l.map (fun y => { y with at_ := x.at_ + y.at_ }) ++ r)
/-- An access ends in an abort completion: its counter falls, and the data abort waits for a boundary (spec/09 R187). The
record has no field for a load's destination: PC and SLOT name the load, which names it (DESIGN CHOICE, log 110). -/
def abortAccess (s : State) (n : Nat) (a : Access) (va : Nat) : State :=
  addCause (modBoth (finish (dropRemote s a.id) n a.id) n fun q => dropEntry q a.kind) n
    { cause := .dataAbort, addr := va, pc := some a.pc, slot := a.slot, held := a.held }

/-- An acquire has read: later loads of the sequencer that are fixed already are read again if the write it read is of an
agent that its scope includes (spec/10 R195, R198); what another module wrote counts as released at fabric scope. -/
def acquired (s : State) (n : Nat) (a : Access) : State :=
  if !a.acq then s else
  let here := (a.segs.filter (!·.fab)).map fun x => (loadAddr s (coreOf n) a.path x, x.len)
  let joins := here.any (fun p => (marksAt s p.1 p.2).any fun m => m.joins a.scope n) || (a.scope = .fabric && a.segs.any (·.fab))
  let s := here.foldl (fun s p => mergeClock s n p.1 p.2) s
  if !joins then s
  else
    let again := (s.seq n).acc.filter fun x => a.id < x.id && x.path = .s && !x.kind.writes && x.home
    again.foldl (fun s x => modAcc (dropRemote s x.id) n x.id fun y => { y with home := false }) s
/-- The mark a write of a sequencer leaves. -/
def markOf (s : State) (n : Nat) (a : Access) : Mark :=
  { clock := (s.die (dieOf (coreOf n))).clock, writer := n, rel := if a.rel then some a.scope else none }
/-- The home applies an access's data to the bytes of `l`: its counter falls (spec/11 R211), and what is left are its
replicas. -/
def performAt (s : State) (n : Nat) (a : Access) (l : List Seg) (v : Nat) : State :=
  finish (dropRemote (leaves (storeAll s a.id (funcOf s n) (some a.path) (markOf s n a) l v) (coreOf n) a.id) a.id) n a.id
/-- As `performAt` for a bank operation, whose old value waits for its turn as a load's does. -/
def performBank (s : State) (n : Nat) (a : Access) (k : AccKind) (old v : Nat) : State :=
  let s := leaves (storeAll s a.id (funcOf s n) (some a.path) (markOf s n a) a.segs v) (coreOf n) a.id
  modAcc (dropRemote s a.id) n a.id fun x => { x with kind := k, data := old, home := true }
/-- May a write be applied at its home now: what it follows is performed, its die is live, and, after a release or an
acquire, no other write is held by some copies only (spec/10 R198). -/
def mayApply (s : State) (n : Nat) (a : Access) : Bool :=
  !a.home && depsMet s n a.after && segsLive s a.segs && (!a.wide || noHalf s a.id) &&
  a.segs.all fun x => x.fab || match dieOfPa (localPa x.pa) with
    | some d => d = dieOf (coreOf n) || arrived s d (s.die (dieOf (coreOf n))).clock
    | none => true
/-- Have its parts on other modules been applied there. -/
def farDone (s : State) (n : Nat) (a : Access) : Bool := (farSegs s n a).all fun x =>
  s.sys.remote.any fun r => r.id = a.id && r.part = 0 && r.at_ = x.at_ && r.answer.isSome

/-! ### Stream ports' own order (spec/10 R192, spec/13 R253) -/

/-- The elements of the k-th vector of an input port's buffer. -/
def entrySegs (s : State) (n : Nat) (x : Port) (k : Nat) : Except XFault (List Seg) :=
  elemSegs s (coreOf n) .etlb (asidOf s n) .p { r := true } (pdWidth x.desc) (pdElems x.desc (x.moved + k))
/-- Outstanding P accesses: identity, does it write, and its bytes. -/
def portBusy (s : State) (n : Nat) : List (Nat × Bool × List Seg) :=
  let q := s.seq n
  (q.ports.map fun x => (x.buf.zipIdx.filter fun (e, _) => e.vec.isNone || pdOut x.desc).map fun (e, k) =>
      (e.id, pdOut x.desc, if pdOut x.desc then e.segs else segsOk (entrySegs s n x k))).flatten ++
    (q.acc.filter (·.path = .p)).map fun a => (a.id, true, a.segs)
/-- No earlier P access of the sequencer meets these bytes. -/
def portClear (s : State) (n id : Nat) (write : Bool) (l : List Seg) : Bool :=
  (portBusy s n).all fun e => id ≤ e.1 || !(write || e.2.1) || !segsMeet e.2.2 l

/-! ### X accesses' own order (spec/10 R192) -/

/-- Bytes of an X access not yet translated piece by piece: as virtual bytes, and as physical ones where they translate. -/
def runSegs (s : State) (n va len : Nat) (w : Bool) : List Seg :=
  match segs s (coreOf n) .etlb (asidOf s n) .x { r := !w, w := w } va len with
  | .ok l => l
  | .error _ => [{ va := va, pa := 2 ^ 64, len := len, at_ := 0 }]
/-- Units of a copy in a byte, and the bytes that a run of units spans (spec/18 R339). -/
def Copy.unit (c : Copy) : Nat := if c.nib then 2 else 1
def spanOf (u a len : Nat) : Nat × Nat := (a / u, (a + len + u - 1) / u - a / u)
/-- Outstanding X accesses: identity, not yet known, bytes read, bytes written. -/
def xBusy (s : State) (n : Nat) : List (Nat × Bool × List Seg × List Seg) :=
  ((s.seq n).acc.filter fun a => a.path = .x).map (fun a => (a.id, false, a.segs, if a.kind.writes then a.segs else [])) ++
  (((s.core (coreOf n)).bte.flatten).filter (·.seq = n)).map fun c =>
    (c.id, !c.read, (c.runs.map fun r => runSegs s n (spanOf c.unit r.1 r.2.2).1 (spanOf c.unit r.1 r.2.2).2 false).flatten ++ (c.flying.map (·.src)).flatten,
      (c.runs.map fun r => runSegs s n (spanOf c.unit r.2.1 r.2.2).1 (spanOf c.unit r.2.1 r.2.2).2 true).flatten ++ (c.flying.map (·.dst)).flatten)
/-- Do two sets of bytes meet, by virtual or by physical address. -/
def bytesMeet (a b : List Seg) : Bool := a.any fun x => b.any fun y => meet x.va x.len y.va y.len || (x.pa < 2 ^ 64 && y.pa < 2 ^ 64 && x.meets y)
/-- No earlier X access of the sequencer meets what this one reads and writes. -/
def xClear (s : State) (n id : Nat) (rd wr : List Seg) : Bool :=
  (xBusy s n).all fun e => id ≤ e.1 || (!e.2.1 && !bytesMeet wr (e.2.2.1 ++ e.2.2.2) && !bytesMeet rd e.2.2.2)

/-! ### Loads and stores -/

/-- The load that brings the vector of an entry pushed by a `vld` or `vgat`. -/
def loadOf (q : Seq) (p e : Nat) : List Dep := (q.acc.filter fun a => match a.kind with
  | .load (.port r i) _ _ => r = p && i = e
  | _ => false).map fun a => ⟨a.id, .core⟩

/-- May a load be written: the loads and bank atomics before it are (spec/11 R211), and the acquires before it have read
(spec/10 R195). -/
def loadTurn (q : Seq) (id : Nat) : Bool := !(q.acc.takeWhile fun a => a.id ≠ id).any fun a => a.kind.ctr = .ld || a.acq

/-- A load whose value is fixed is written once its turn has come. -/
def writeLoad (s : State) (n id : Nat) : State := match accOf s n id with
  | some a => match a.kind with
    | .load d _ _ => if a.home && loadTurn (s.seq n) id then finish (deliverBoth s n a.id d a.data) n id else s
    | _ => s
  | none => s

/-- Load arg 1 of sequencer arg 0: its value is fixed, in any order with other loads of the sequencer that the rules do
not order, and written in issue order. Its parts on other modules are asked for first. Arg 2, less 1, is the tag
of an L1 line that fails its parity, which is dropped (spec/09 R182). -/
def execLoadComplete (s : State) : Host.Outcome State Fault Refusal :=
  .next (let n := s.arg 0
  match accOf s n (s.arg 1) with
  | none => s
  | some a => match a.kind with
    | .load _ width signed =>
      if a.home then writeLoad s n a.id
      else if !depsMet s n a.after || a.calved then s
      else
        let s := if s.arg 2 = 0 then s else s.modCore (coreOf n) fun c => { c with l1 := c.l1.filter fun l => l.pa ≠ s.arg 2 - 1 }
        if !farDone s n a then goOut s n a
        else if !segsLive s a.segs then modAcc s n a.id fun x => { x with calved := true }
        else match loadPoisoned s (coreOf n) a.path (a.segs.filter (!·.fab)) a.fresh with
        | some va => abortAccess s n a va
        | none =>
          let r := loadAll s (coreOf n) a
          let v := if width = 512 then r.2 else extend width signed r.2
          let s := modAcc (dropRemote r.1 a.id) n a.id fun x => { x with home := true, data := v }
          writeLoad (acquired s n a) n a.id
    | _ => s)

/-- An element of a stream-port write is aborted: the others are still written, and the data abort waits (spec/09 R187). -/
def portAbort (s : State) (n : Nat) (a : Access) (x : Seg) : State :=
  addCause (modAcc s n a.id fun y => { y with segs := y.segs.erase x }) n { cause := .dataAbort, addr := x.va, pc := some a.pc, slot := a.slot, held := a.held }
/-- Store arg 1 of sequencer arg 0 is applied: at its home (arg 2 = 0), or at the replica of die arg 2 - 1. For a
stream port's vector, arg 3, less 1, is an element whose write meets an uncorrectable error. -/
def execStoreApplied (s : State) : Host.Outcome State Fault Refusal :=
  .next (let n := s.arg 0
  let id := s.arg 1
  if s.arg 2 ≠ 0 then
    let d := s.arg 2 - 1
    if updateTurn s id d then updateWhere s fun u => u.id = id && u.die = d else s
  else match accOf s n id with
    | none => s
    | some a =>
      let port := match a.kind with
        | .portOut _ _ => true
        | _ => false
      let come := match a.kind with
        | .portOut p e => loadOf (s.seq n) p e = []
        | _ => true
      if (a.kind = .store || port) && come && mayApply s n a && (!port || portClear s n a.id true a.segs) then
        (if !farDone s n a then goOut s n a
         else match (if port && s.arg 3 ≠ 0 then a.segs[s.arg 3 - 1]? else none) with
          | some x => performAt (portAbort s n a x) n a (a.segs.erase x) a.data
          | none => performAt s n a a.segs a.data)
      else if a.kind = .store && !a.home && !segsLive s a.segs then modAcc s n a.id fun x => { x with calved := true }
      else s)

/-- A fill's bytes are applied, in issue order of the sequencer's fills (spec/11 R225). -/
def execFillComplete (s : State) : Host.Outcome State Fault Refusal :=
  .next (let n := s.arg 0
  match accOf s n (s.arg 1) with
  | none => s
  | some a =>
    if a.kind = .fill && mayApply s n a && xClear s n a.id [] a.segs then
      (if !farDone s n a then goOut s n a else finish (leaves (writeAll (dropRemote s a.id) (funcOf s n) a.segs a.data n) (coreOf n) a.id) n a.id)
    else if a.kind = .fill && !segsLive s a.segs then modAcc s n a.id fun x => { x with calved := true }
    else s)

/-! ### Bank arithmetic (spec/11 R217-R220) -/

def bankFmt : BankTy → Fmt
  | .i32 => .i32 | .i64 => .i64 | .z32 => .z32 | .f32 => .f32
/-- The new value of a bank atomic. -/
def bankNew (op : BankOp) (t : BankTy) (old y cmp : Nat) : Nat :=
  let f := bankFmt t
  let w := Fp.width f
  let y := y % 2 ^ w
  let m : Mode := { rm := 0, sat := false }
  match op with
  | .add => if t = .f32 then (Fp.add .f32 0 old y).1 else (old + y) % 2 ^ w
  | .min => (eMinMax false m f old y 0).1
  | .max => (eMinMax true m f old y 0).1
  | .and => old &&& y
  | .or => old ||| y
  | .xor => old ^^^ y
  | .swap => y
  | .cas => if old = cmp % 2 ^ w then y else old
/-- The old value as the scalar it returns. -/
def bankOld (t : BankTy) (old : Nat) : Nat := extend (bankTyBytes t) (t = .i32) old
/-- `vbred` on 512 bytes. -/
def vbredNew (op : RedOp) (f : Fmt) (old y : Nat) : Nat :=
  (elementwise f (fun a b _ => redNode op { rm := 0, sat := false } f a b) (BitVec.ofNat 4096 old) (BitVec.ofNat 4096 y) 0).1.toNat

/-- One update of a transaction barrier: 16 bytes, or 32 for `tbinit`, which zeroes the report (spec/19 R362). -/
def barrierNew (u : TbUpdate) (x : Nat) : Nat × Nat :=
  let phase := fld x 3 0; let arr := fld x 23 4; let reload := fld x 43 24; let sect := fld x 75 44
  let make := fun (p a r t : Nat) => p % 16 + a % 2 ^ 20 * 2 ^ 4 + r * 2 ^ 24 + t % 2 ^ 32 * 2 ^ 44
  match u with
  | .init c => (32, make phase c (c % 2 ^ 20) 0)
  | u =>
    let a := match u with
      | .arrive c => (arr + 2 ^ 20 - c % 2 ^ 20) % 2 ^ 20
      | _ => arr
    let t := match u with
      | .expect n => (sect + n) % 2 ^ 32
      | .countdown n => (sect + 2 ^ 32 - n % 2 ^ 32) % 2 ^ 32
      | _ => sect
    (16, if a = 0 && t = 0 then make (phase + 1) reload reload 0 else make phase a reload t)
/-- An update of a barrier by an engine, at its home and every copy. -/
def barrierUpdate (s : State) (f pa key : Nat) (u : TbUpdate) (who : Nat := noSeq) : State :=
  let r := barrierNew u (physRead s pa 16 key)
  writeAll s f [{ va := 0, pa := pa, len := r.1, at_ := 0, key := key }] r.2 who

/-- A bank operation, `vbred`, barrier update or `jinit` is applied by its BAU, here or on another module. As an acquire it
has then read (spec/10 R196, R201). -/
def execBauOperation (s : State) : Host.Outcome State Fault Refusal :=
  .next (let n := s.arg 0
  match accOf s n (s.arg 1) with
  | none => s
  | some a =>
    let g := coreOf n
    if a.path ≠ .b || a.home then s
    else if !mayApply s n a then (if segsLive s a.segs then s else modAcc s n a.id fun x => { x with calved := true })
    else if !farDone s n a then goOut s n a
    else match loadPoisoned s g .b (a.segs.filter (!·.fab)) with
      | some va => abortAccess s n a va
      | none =>
        let x := a.segs.headD { va := 0, pa := 0, len := 64, at_ := 0 }
        let old := (loadWith s g .b a.segs false a.id 0).2
        let s := acquired s n a
        match a.kind with
        | .bank op ty y cmp dst =>
          writeLoad (performBank s n a (.load dst 8 false) (bankOld ty old) (bankNew op ty old y.toNat cmp.toNat)) n a.id
        | .vbred op fmt => performAt s n a a.segs (vbredNew op fmt old a.data)
        | .tb u =>
          let r := barrierNew u (physRead s (localPa x.pa) 16 x.key)
          performAt s n a [{ x with len := r.1 }] r.2
        | .jinit count =>
          let old := physRead s (localPa x.pa + 8) 8 x.key
          performAt s n a [{ x with len := 16 }] (count.toNat + (if bit old 1 then old - 2 else old) * 2 ^ 64)
        | _ => s)

/-! ### Errors (spec/09 R185, R187, R188) -/

/-- The granule of address arg 0 fails its code: it is poisoned, and the owner's function arg 1 is interrupted; arg 2 is
the requester. -/
def execUncorrectableError (s : State) : Host.Outcome State Fault Refusal :=
  .next (let pa := s.arg 0
  let g := pa / granule pa * granule pa
  let holds := match regionOf pa with
    | .none | .aperture _ _ | .control => false
    | _ => true
  if !holds || s.poison.contains g then s
  else errorInterrupt { s with poison := s.poison ++ [g] } (s.arg 1) g (s.arg 2))

/-- Patrol scrub writes back corrected data: the contents stay (spec/09 R185). -/
def execPatrolScrub (s : State) : Host.Outcome State Fault Refusal := .next s

/-! ### Page walks (spec/17 R330, R331) -/

/-- A walk for core arg 0 and its TLB arg 1 (0 ITLB, 1 DTLB, 2 engine, 3 shared), ASID arg 2 and address arg 3 ends: its
result is installed, or it ends in a fault, which nothing caches. -/
def execPageWalk (s : State) : Host.Outcome State Fault Refusal :=
  .next (let wh := match s.arg 1 with
    | 0 => Which.itlb
    | 1 => .dtlb
    | 2 => .etlb
    | _ => .shared
  match translate s (s.arg 2) (s.arg 3) with
  | .ok e => install s (s.arg 0 % 512) wh e
  | .error _ => s)

end Sys2Proof.Machine
end

