-- ==== Sys2Proof/Machine/Stream.lean ====
section
/-! DEFINITION. Stream ports (spec/13 R249-R257): `pcfg`, `pflush` and the address generators. -/
set_option linter.unusedVariables false
namespace Sys2Proof.Machine
open Sys2Proof

/-- Does the port hold output entries whose writes have not issued (spec/13 R255). -/
def holdsOutput (q : Seq) (p : Nat) : Bool := let x := q.ports.getD p {}; pdOut x.desc && x.buf ≠ []

/-- The writes of the head entry of an output port issue: the entry becomes an access (spec/13 R252). A vector still
loading is written once it has come. -/
def issueEntry (s : State) (n p : Nat) : State :=
  let x := (s.seq n).ports.getD p {}
  match x.buf with
  | [] => s
  | e :: _ =>
    let a : Access := { id := e.id, path := .p, kind := .portOut p e.id, segs := e.segs, data := (e.vec.getD 0).toNat,
                        after := e.after ++ (if e.vec.isNone then loadOf (s.seq n) p e.id else []),
                        pc := e.pc, slot := e.slot, held := e.held, wide := (s.seq n).ordered }
    modBoth s n fun q =>
      let y := q.ports.getD p {}
      if y.buf.any (fun z => z.id = e.id) then
        { q with ports := upd q.ports p fun y => { y with buf := y.buf.filter fun z => z.id ≠ e.id }, acc := q.acc ++ [a] }
      else q
/-- Every entry of an output port issues. -/
def issueEntries (s : State) (n p : Nat) : State := (List.range 4).foldl (fun s _ => if holdsOutput (s.seq n) p then issueEntry s n p else s) s

/-- A descriptor takes effect after the bundle: the walk starts, and the reads of the first four vectors issue (spec/13
R253, R255). Entries pushed in the bundle itself have their writes issued first (log 31). A pair is forwarded until a
bundle behind the spliced loop's head gives one of its ports another descriptor (spec/15 R295). -/
def loadPort (s : State) (n pc p : Nat) (d : BitVec 512) : State :=
  let s := issueEntries s n p
  let s := if (s.ctxOf n).splice.any fun sp => sp.headPc < pc then
      s.modSeq n fun q => { q with fwd := q.fwd.map fun f => if f.1 = p then (8, f.2.1, f.2.2) else if f.2.1 = p then (f.1, 8, []) else f }
    else s
  let after := fencedOn (s.seq n) .p false
  let k := if pdOut d || (fwdIn (s.seq n) p).isSome then 0 else Nat.min 4 (pdVectors d)
  let base := s.nextId
  let s := s.modSeq n fun q =>
    { (List.range k).foldl (fun q i => giveBack q p d i) q with
             ports := upd q.ports p fun _ => { v := true, desc := d, moved := 0, asked := k, exh := false,
                                               buf := (List.range k).map fun i => { id := base + i, after := after, vec := seenVec q p d i } }
             portst := q.portst &&& ~~~ (BitVec.ofNat 16 (2 ^ p + 2 ^ (8 + p))) }
  { s with nextId := s.nextId + k }

/-- The 64 bytes of a descriptor. -/
def descOf (v : Vec) : BitVec 512 := v.setWidth 512
def execPcfg (p : BitVec 3) (a : Reg) (m : BitVec 2) (s : State) : Host.Outcome State Fault Refusal :=
  .next (if (s.issue.map fun k => holdsOutput k.before p.toNat).getD false then s.stalled .notReady
  else vecSlot s (viewOfM m) [] [a] false [.portd p.toNat] [] accAny noChecks
    (fun _ _ v => [need (pdValid (descOf (v a))) .reservedField flagDescriptor]) fun k _ v s =>
      let s := s.wb k (elemOff (viewAt k.before 4) p.toNat 64) 64 (descOf (v a)).toNat
      s.modIssue fun x => { x with pcfgs := x.pcfgs ++ [(p.toNat, descOf (v a))] })

/-- Identities of an output port's writes still outstanding, and of the loads into it. -/
def portWrites (q : Seq) (p : Nat) : List Nat :=
  ((q.ports.getD p {}).buf.map (·.id)) ++ (q.acc.filter fun a => match a.kind with
    | .portOut r _ => r = p
    | .load (.port r _) _ _ => r = p
    | _ => false).map (·.id)
/-- `pflush` acts on vectors pushed in earlier bundles; in a spliced loop it empties the forwarding buffer of the input
port, and that of a forwarded output port without KEEP ends as it issues (spec/13 R256, spec/15 R295). No view is checked:
the port number names no register (DESIGN CHOICE, log 111). -/
def execPflush (p : BitVec 3) (s : State) : Host.Outcome State Fault Refusal :=
  .next (slot s (fun k => { ready := !((k.before.ports.getD p.toNat {}).v && pdOut (k.before.ports.getD p.toNat {}).desc) || (s.seq k.n).room .xf }) fun k s =>
    let x := k.before.ports.getD p.toNat {}
    if !x.v || (pdOut x.desc && (fwdOut k.before p.toNat).isSome && !fwdKeep s k.n p.toNat) then s
    else if pdOut x.desc then
      let ids := (portWrites (s.seq k.n) p.toNat).filter fun i => i < k.firstId
      startAccess s k.n k.pc k.pos k.held { id := 0, path := .f, kind := .flush ids, segs := [] }
    else s.modSeq k.n fun q =>
      { q with ports := upd q.ports p.toNat fun y => { y with buf := [], exh := true }
               fwd := q.fwd.map fun f => if f.2.1 = p.toNat then (f.1, f.2.1, []) else f })

/-- Every write that the `pflush` arg 1 of sequencer arg 0 covers has been applied (spec/13 R256). -/
def execPflushComplete (s : State) : Host.Outcome State Fault Refusal :=
  .next (match accOf s (s.arg 0) (s.arg 1) with
  | none => s
  | some a => match a.kind with
    | .flush ids =>
      let q := s.seq (s.arg 0)
      if ids.any fun i => q.acc.any (fun x => x.id = i && !x.home) || q.ports.any fun x => pdOut x.desc && x.buf.any fun e => e.id = i then s
      else finish s (s.arg 0) a.id
    | _ => s)

/-- Has a port work for its generator. -/
def portWork (x : Port) : Bool := x.v && if pdOut x.desc then (x.buf.head?.map fun e => e.vec.isSome).getD false else x.buf.any fun e => !e.issued && e.vec.isNone
/-- The sequencer a generator serves next: round-robin, after the one it served last (spec/13 R252). -/
def genChoice (s : State) (g p : Nat) : Option Nat :=
  let last := (s.core g).gen.getD p 3
  ((List.range 4).map fun k => 4 * g + (last + 1 + k) % 4).find? fun n =>
    portWork ((s.seq n).ports.getD p {}) && match ((s.seq n).ports.getD p {}).buf with
      | e :: _ => !pdOut ((s.seq n).ports.getD p {}).desc || depsMet s n e.after
      | [] => false

/-- Generator arg 1 of core arg 0 issues the element accesses of one vector. -/
def execPortGeneratorCycle (s : State) : Host.Outcome State Fault Refusal :=
  .next (let g := s.arg 0
  let p := s.arg 1
  match genChoice s g p with
  | none => s
  | some n =>
    let s := s.modCore g fun c => { c with gen := c.gen.set p (sqOf n) }
    let x := (s.seq n).ports.getD p {}
    if pdOut x.desc then issueEntry s n p
    else match x.buf.find? fun e => !e.issued && e.vec.isNone with
      | none => s
      | some e => modBoth s n fun q => { q with ports := upd q.ports p fun y => { y with buf := y.buf.map fun z => if z.id = e.id then { z with issued := true } else z } })

/-- The oldest input vector that is on its way arrives at port arg 1 of sequencer arg 0; a fault waits for its pop
(spec/13 R253, spec/09 R187). -/
def execPortInputArrival (s : State) : Host.Outcome State Fault Refusal :=
  .next (let n := s.arg 0
  let p := s.arg 1
  let x := (s.seq n).ports.getD p {}
  match (x.buf.zipIdx.find? fun (e, _) => e.issued && e.vec.isNone && e.fault.isNone) with
  | none => s
  | some (e, k) =>
    if pdOut x.desc || !depsMet s n e.after then s
    else
      let put := fun (s : State) (h : PortEntry → PortEntry) => modBoth s n fun q =>
        { q with ports := upd q.ports p fun y => { y with buf := y.buf.map fun z => if z.id = e.id then h z else z } }
      match entrySegs s n x k with
      | .error f => put s fun z => { z with fault := some (f.trap 5) }
      | .ok l =>
        if !segsLive s l || !portClear s n e.id false l then s
        else match loadPoisoned s (coreOf n) .p l with
          | some va => put s fun z => { z with fault := some { cause := .dataAbort, addr := va } }
          | none =>
            let r := loadSegs (installSegs s (coreOf n) .etlb (asidOf s n) l) (coreOf n) .p l false
            put r.1 fun z => { z with vec := some (BitVec.ofNat 4096 r.2) })

end Sys2Proof.Machine
end

