-- ==== Sys2Proof/Machine/Transfer.lean ====
section
/-! DEFINITION. Pattern records and lasts, `pseal`, `lset`, the descriptor unit, and block transfers (spec/18 R337-R348,
spec/11 R226-R232). -/
set_option linter.unusedVariables false
namespace Sys2Proof.Machine
open Sys2Proof

/-! ### Pattern records (spec/18 R338-R340, R343) -/

/-- Byte `k` of a number. -/
def byteAt (x k : Nat) : Nat := x / 2 ^ (8 * k) % 256
/-- One bit of CRC-32C, reflected. -/
def crcBit (c : Nat) : Nat := if c % 2 = 1 then (c / 2) ^^^ 0x82F63B78 else c / 2
def crcByte (c b : Nat) : Nat := foldNat (fun c _ => crcBit c) (List.range 8) (c ^^^ b)
/-- CRC-32C of `n` bytes (log 32). -/
def crc32c (n x : Nat) : Nat := foldNat (fun c k => crcByte c (byteAt x k)) (List.range n) 0xFFFFFFFF ^^^ 0xFFFFFFFF

def recBase (r : Nat) : Nat := fld r 47 0
def recFmt (r : Nat) : Fmt := fmtOf (fld r 67 64)
def recNdim (r : Nat) : Nat := fld r 74 72
def recVersion (r : Nat) : Nat := fld r 95 80
def recSeal (r : Nat) : Nat := fld r 127 96
def recExt (r i : Nat) : Nat := fld r (128 + 32 * i + 31) (128 + 32 * i)
def recStride (r i : Nat) : Nat := fld r (320 + 64 * i + 47) (320 + 64 * i)
def recTile (r i : Nat) : Nat := fld r (640 + 32 * i + 31) (640 + 32 * i)
/-- The value SEAL must have. -/
def recCrc (r : Nat) : Nat := crc32c 128 (r - recSeal r * 2 ^ 96)
def recSealed (r : Nat) : Bool := recSeal r = recCrc r
/-- Reserved fields by ascending byte offset: is one non-zero, and which dimension it names. -/
def recReserved (r : Nat) : Option Nat :=
  firstSome ([if fld r 63 48 ≠ 0 then some 0xFF else none, if fld r 71 68 ≠ 0 then some 0xFF else none, if fld r 79 75 ≠ 0 then some 0xFF else none,
    if fld r 319 288 ≠ 0 then some 0xFF else none] ++
    ((List.range 5).map fun i => if fld r (320 + 64 * i + 63) (320 + 64 * i + 48) ≠ 0 then some i else none) ++
    [if fld r 1023 800 ≠ 0 then some 0xFF else none])
/-- Element size in bytes, 0 for the 4-bit formats. -/
def recElem (r : Nat) : Nat := Fp.width (recFmt r) / 8
/-- span_i (spec/18 R343). -/
def recSpan (r : Nat) : Nat → Nat
  | 0 => if recElem r = 0 then (recExt r 0 + 1) / 2 else (recExt r 0 - 1) * recStride r 0 + recElem r
  | i + 1 => (recExt r (i + 1) - 1) * recStride r (i + 1) + recSpan r i
/-- The first contradiction: status word, 0 for none. -/
def recStatus (r : Nat) : Nat :=
  let e := recElem r
  let d := recNdim r
  let dims := List.range (Nat.min d 5)
  let code := fun (c i : Nat) => some (c + 256 * i)
  let scan := fun (l : List Nat) (c : Nat) (bad : Nat → Bool) => (l.find? bad).map fun i => c + 256 * i
  (firstSome [(recReserved r).map fun i => 1 + 256 * i,
    if d = 0 || 5 < d then code 2 0xFF else none,
    if 1 ≤ e && recBase r % e ≠ 0 then code 3 0xFF else none,
    scan dims 4 fun i => recExt r i = 0,
    scan dims 5 fun i => recTile r i = 0,
    scan dims 6 fun i => recExt r i < recTile r i,
    scan ((List.range 5).drop d) 7 fun i => recExt r i ≠ 0 || recStride r i ≠ 0 || recTile r i ≠ 0,
    if (if e = 0 then recStride r 0 ≠ 0 || recExt r 0 % 2 = 1 || recTile r 0 % 2 = 1 else recStride r 0 = 0 || recStride r 0 % e ≠ 0) then code 8 0 else none,
    if e = 0 then none else scan (dims.drop 1) 9 fun i => recStride r i % e ≠ 0,
    scan (dims.drop 1) 10 fun i => 1 < recExt r i && recStride r i < recSpan r (i - 1),
    if 2 ^ 48 < recBase r + recSpan r (d - 1) then code 11 0xFF else none]).getD 0

/-- Length of the walk in elements. -/
def recLength (r : Nat) : Nat := ((List.range (Nat.min (recNdim r) 5)).map (recTile r)).foldl (· * ·) 1
/-- Does a walk of a 4-bit format at tile column `col0` move whole bytes: pairs of nibbles from an even one on. -/
def recPaired (r col0 : Nat) : Bool := recTile r 0 % 2 = 0 && col0 * recTile r 0 % 2 = 0
/-- Units that one step of the innermost dimension moves: bytes, or nibbles where `nib`; a 4-bit format moves pairs of
nibbles as bytes otherwise. -/
def recUnit (r : Nat) (nib : Bool) : Nat := if recElem r = 0 || nib then 1 else recElem r
/-- The walk's addresses in units, in order, one per step (spec/18 R339). -/
def recWalk (r row0 col0 : Nat) (nib : Bool) : List Nat :=
  let d := Nat.min (recNdim r) 5
  let four := recElem r = 0
  let u := if nib then 2 else 1
  let tile := fun (i : Nat) => if i = 0 && four && !nib then recTile r 0 / 2 else recTile r i
  let o0 := col0 * recTile r 0
  let start := u * recBase r + (if d = 0 then 0 else if four then o0 * u / 2 else o0 * recStride r 0) + (if 2 ≤ d then u * (row0 * recTile r 1 * recStride r 1) else 0)
  let step := fun (i : Nat) => if i = 0 && four then 1 else u * recStride r i
  (List.range d).foldl (fun (l : List Nat) i => ((List.range (tile i)).map fun j => l.map fun a => a + j * step i).flatten) [start]
/-- Runs contiguous on both sides: source, destination, units. -/
def mergeRuns (e : Nat) : List (Nat × Nat) → List (Nat × Nat × Nat)
  | [] => []
  | (a, b) :: t => match mergeRuns e t with
    | (c, d, n) :: u => if c = a + e && d = b + e then (a, b, n + e) :: u else (a, b, e) :: (c, d, n) :: u
    | [] => [(a, b, e)]

/-! ### pseal and lset (spec/18 R341-R346) -/

/-- S-path stores of the sequencer, issued before `id`, to these virtual bytes are performed. -/
def storesClear (s : State) (n id : Nat) (r : List Seg) : Bool :=
  !((s.seq n).acc.any fun a => a.kind = .store && a.id < id && bytesMeet a.segs r)

def descSlot (s : State) (d a : Reg) (names : List Reg) (al len : Nat) (need_ : Needs) (kind : Issue → AccKind) : State :=
  let r := fun (k : Issue) => segs s (coreOf k.n) .etlb (asidOf s k.n) .x need_ (k.rs a).toNat len
  memSlot s (snames ([d, a] ++ names)) (snames ([a] ++ names)) .x .xf true
    (fun k => [misaligned (k.rs a) al, xtrap 6 (r k)])
    (fun k => { id := 0, path := .x, kind := kind k, segs := segsOk (r k), data := k.firstId })
    (fun _ => true) (fun _ => true) (fun _ s => s) .etlb
def execPseal (d a : Reg) (s : State) : Host.Outcome State Fault Refusal :=
  .next (descSlot s d a [] 128 128 { r := true, w := true } fun k => .seal (scalarDest k d))
def execLset (d a b : Reg) (s : State) : Host.Outcome State Fault Refusal :=
  .next (descSlot s d a [b] 64 64 { r := true } fun k => .last (scalarDest k d) (k.rs b).toNat)

/-- How the BTE reads a record. -/
inductive RecRead where
  | ok (l : List Seg) (r : Nat)
  | fault (f : XFault)
  | abort (va : Nat)
  | wait
  | ask (l : List Seg)           -- on another module, which has not answered
/-- Parts of a datum of operation `id` on other modules are read there: transactions of at most 2,048 bytes, none with a
part of a sector that another holds (spec/10 R190). -/
def askFar (s : State) (n id part : Nat) (l : List Seg) : State :=
  if !l.any (·.fab) || s.sys.remote.any (fun r => r.id = id && r.part = part) then s
  else submit s ((cutFar (l.filter (·.fab))).map fun x =>
    { id := id, part := part, tx := { kind := txRead, addr := x.pa, src := seqId s n, len := x.len, key := x.key }, at_ := x.at_, seq := n, path := .x })
where
  /-- Parts that end at multiples of 2,048, in ascending order. -/
  cutFar (l : List Seg) : List Seg := (l.map fun x => (List.range ((x.pa % 2048 + x.len + 2047) / 2048)).map fun k =>
    let o := 2048 * k - x.pa % 2048
    { x with pa := x.pa + o, va := x.va + o, at_ := x.at_ + o, len := Nat.min (2048 * (k + 1) - x.pa % 2048) x.len - o }).flatten
/-- The same, for writing a datum there: transactions of 2,048 bytes and a remainder, each part with what it has beside the
others in its sectors: bit 0 where the next transaction goes on in its last sector, bit 1 where the one before did
(spec/10 R190, spec/23 R432). -/
def cutPut (l : List Seg) : List (Seg × Nat) := (l.map fun x => (List.range ((x.len + 2047) / 2048)).map fun k =>
    let y := { x with pa := x.pa + 2048 * k, va := x.va + 2048 * k, at_ := x.at_ + 2048 * k, len := Nat.min 2048 (x.len - 2048 * k) }
    let split := x.pa % 32 ≠ 0
    (y, (if split && 2048 * (k + 1) < x.len then 1 else 0) + (if split && k ≠ 0 then 2 else 0))).flatten
def putFar (s : State) (n id part : Nat) (l : List Seg) (v : Nat) : State :=
  submit s ((cutPut (l.filter (·.fab))).map fun (x, op) =>
    { id := id, part := part, tx := { kind := txWrite, addr := x.pa, src := seqId s n, len := x.len, key := x.key, data := segData v x, op := op }, at_ := x.at_, seq := n, path := .x })
/-- Read a record of operation `id` on path X; `part` marks the transactions that ask another module for it (spec/18 R346,
spec/11 R227). -/
def readRec (s : State) (n id va len part : Nat) : RecRead :=
  let g := coreOf n
  match segs s g .etlb (asidOf s n) .x { r := true } va len with
  | .error f => .fault f
  | .ok l =>
    if !segsLive s l || !xClear s n id l [] || !storesClear s n id l then .wait
    else if !remoteDone s id part (l.any (·.fab)) then .ask l
    else match loadPoisoned s g .x (l.filter (!·.fab)) with
      | some a => .abort a
      | none => .ok l (loadWith s g .x l false id part).2

/-! Fields of a last (spec/18 R344). -/
def lastSrc (x : Nat) : Nat := fld x 47 0
def lastDst (x : Nat) : Nat := fld x 111 64
def lastBar (x : Nat) : Nat := fld x 175 128
def lastPol (x : Nat) : Bool := bit x 200
def lastUli (x : Nat) : Bool := bit x 201
def lastV (x : Nat) : Bool := bit x 207
def lastReserved (x : Nat) : Bool := fld x 63 48 ≠ 0 || fld x 127 112 ≠ 0 || fld x 191 176 ≠ 0 || bit x 199 || fld x 206 202 ≠ 0 || fld x 511 208 ≠ 0
def lastVer (x : Nat) (dst : Bool) : Nat := if dst then fld x 255 240 else fld x 239 224
def lastSeal (x : Nat) (dst : Bool) : Nat := if dst then fld x 319 288 else fld x 287 256
/-- The entry that a descriptor and the two records make. -/
def lastEntry (x src dst : Nat) : Nat :=
  fld x 47 0 + fld x 111 64 * 2 ^ 64 + fld x 175 128 * 2 ^ 128 + fld x 198 192 * 2 ^ 192 + fld x 201 200 * 2 ^ 200 + 2 ^ 207 +
  recVersion src * 2 ^ 224 + recVersion dst * 2 ^ 240 + recSeal src * 2 ^ 256 + recSeal dst * 2 ^ 288

/-- The barrier address of a last, translated (spec/18 R346 status 0x18, spec/11 R227). -/
def barrierOf (s : State) (n va : Nat) : Except XFault (List Seg) := segs s (coreOf n) .etlb (asidOf s n) .b { r := true, w := true } va 32

/-- The copies of the context that read index `idx` and were issued before `id` have read their entry (spec/18 R347). -/
def lastFree (s : State) (c idx id : Nat) : Bool := s.cores.all fun e => e.2.bte.all fun l => l.all fun x =>
  x.read || x.entry.isSome || x.ctx ≠ c || x.word.toNat % 4096 ≠ idx || id ≤ x.id

/-- Does the die whose HBM holds the context's last table answer (spec/18 R337, spec/21 R402). -/
def lastsLive (s : State) (c : Nat) : Bool := ((s.ctx c).cores.min?).all fun g => dieAnswers s (dieOf g)
/-- What an `lset` ends with: a status and, if it succeeds, the new entry. -/
inductive LastEnd where
  | status (x : Nat) (entry : Option Nat)
  | abort (va : Nat)
  | wait
  | ask (part : Nat) (l : List Seg)
def lastCheck (s : State) (n id idx desc : Nat) : LastEnd :=
  let bad := fun (x : Nat) => LastEnd.status x none
  if 4095 < idx then bad 0x10
  else if lastV desc then .status 0 (some 0)
  else if lastReserved desc then bad 0x11
  else if lastSrc desc % 128 ≠ 0 || lastDst desc % 128 ≠ 0 then bad 0x12
  else match readRec s n id (lastSrc desc) 128 1, readRec s n id (lastDst desc) 128 2 with
    | .fault _, _ => bad 0x13
    | _, .fault _ => bad 0x13
    | .wait, _ => .wait
    | _, .wait => .wait
    | .ask l, _ => .ask 1 l
    | _, .ask l => .ask 2 l
    | .abort a, _ => .abort a
    | _, .abort a => .abort a
    | .ok _ p, .ok _ q =>
      if !recSealed p then bad 0x14
      else if !recSealed q then bad 0x15
      else if recFmt p ≠ recFmt q then bad 0x16
      else if recLength p ≠ recLength q then bad 0x17
      else if lastBar desc % 32 ≠ 0 then bad 0x18
      else match barrierOf s n (lastBar desc) with
        | .error _ => bad 0x18
        | .ok l => if bauHere l then .status 0 (some (lastEntry desc p q)) else bad 0x18

/-- The descriptor unit finishes the `pseal` or `lset` arg 1 of sequencer arg 0; what lies on another module is asked for
first. -/
def execDescriptorUnitComplete (s : State) : Host.Outcome State Fault Refusal :=
  .next (let n := s.arg 0
  match accOf s n (s.arg 1) with
  | none => s
  | some a =>
    let g := coreOf n
    let r := a.segs
    let done := fun (s : State) (d : Dest) (v : Nat) => finish (deliverBoth s n a.id d v) n a.id
    let held := !depsMet s n a.after || !segsLive s a.segs || !storesClear s n a.id r || !causal s n a.id
    match a.kind with
    | .seal d =>
      if held || !xClear s n a.id r r then s
      else if !farDone s n a then goOut s n a
      else match loadPoisoned s g .x (a.segs.filter (!·.fab)) with
        | some va => abortAccess s n a va
        | none =>
          let x := (loadWith s g .x a.segs false a.id 0).2
          if recStatus x ≠ 0 then done (dropRemote s a.id) d (recStatus x)
          else
            let l := a.segs.map fun y => { y with va := y.va + 12, pa := y.pa + 12, len := 4, at_ := 0 }
            if remoteDone s a.id 3 (l.any (·.fab)) then done (leaves (writeAll (dropRemote s a.id) (funcOf s n) l (recCrc x) n) g a.id) d 0
            else if s.sys.remote.any (fun r => r.id = a.id && r.part = 3) then s
            else leaves (putFar s n a.id 3 l (recCrc x)) g a.id
    | .last d idx =>
      let c := ((s.seq n).ctx).getD 0
      if held || !xClear s n a.id r [] || !lastFree s c idx a.data || !lastsLive s c then s
      else if !farDone s n a then goOut s n a
      else match loadPoisoned s g .x (a.segs.filter (!·.fab)) with
        | some va => abortAccess s n a va
        | none =>
          let x := (loadWith s g .x a.segs false a.id 0).2
          match lastCheck s n a.id idx x with
          | .wait => s
          | .ask part l => askFar s n a.id part l
          | .abort va => abortAccess s n a va
          | .status v entry =>
            let s := dropRemote s a.id
            let s := match entry with
              | some e => leaves (s.modCtx c fun y => { y with lasts := if e = 0 then y.lasts.del idx else y.lasts.put idx (BitVec.ofNat 512 e) }) g a.id
              | none => s
            done s d v
    | _ => s)

/-! ### Copies (spec/11 R226-R231) -/

def headCopy (s : State) (g ch : Nat) : Option Copy := ((s.core g).bte.getD ch []).head?
def modCopy (s : State) (g ch : Nat) (f : Copy → Copy) : State := s.modCore g fun c => { c with bte := upd c.bte ch fun l => upd l 0 f }
/-- Record fields common to the faults of a copy (spec/11 R227, R229). -/
def copyTrap (c : Copy) (ch done : Nat) (t : Trap) : Trap :=
  { t with pc := some c.pc, slot := c.slot, held := c.held, info := c.word.toNat, xlat := t.xlat + ch % 16 * 2 ^ 12 + done % 2 ^ 16 * 2 ^ 16 }
/-- Lower XF of a sequencer, in snapshots too. -/
def lowerXf (s : State) (n : Nat) : State := modBoth s n fun q => q.lower .xf
/-- Lower XF, or another counter, for operation `id`, in the snapshots that hold it (spec/19 R359). -/
def lowerLate (s : State) (n id : Nat) (c : Ctr := .xf) : State :=
  let s := s.modSeq n fun q => q.lower c
  { s with hist := s.hist.put (coreOf n) ((s.hist.getD (coreOf n) []).map fun p =>
      if id < p.firstId then { p with seqs := p.seqs.put n ((p.seqs.getD n {}).lower c) } else p) }

/-- A copy refused at the head: it and every later copy of the channel are discarded (spec/11 R227). -/
def refuseCopy (s : State) (g ch : Nat) (c : Copy) (t : Trap) : State :=
  let l := (s.core g).bte.getD ch []
  let s := s.modCore g fun x => { x with bte := x.bte.set ch [] }
  let s := missTrap (l.foldl (fun s x => lowerLate s x.seq x.id) s) g (asidOf s c.seq) t
  addCause s c.seq (copyTrap c ch 0 t)

/-- The copy is complete (spec/11 R228, R231). -/
def completeCopy (s : State) (g ch : Nat) (c : Copy) : State :=
  let s := s.modCore g fun x => { x with bte := upd x.bte ch fun l => l.drop 1 }
  let s := lowerXf s c.seq
  if c.uli then modBoth s c.seq fun q => { q with ulist := q.ulist ||| 1, uliChan := ch % 16 } else s

/-- Write the error report (spec/11 R230). -/
def writeReport (s : State) (c : Copy) (ch : Nat) (cause : Cause) (addr done : Nat) : State :=
  let v := addr % 2 ^ 64 + c.last % 2 ^ 12 * 2 ^ 64 + ch % 16 * 2 ^ 76 + cause.code * 2 ^ 80 + done % 2 ^ 16 * 2 ^ 88
  writeAll s (funcOf s c.seq) [{ va := 0, pa := c.bar + 16, len := 16, at_ := 0, key := c.barKey }] v c.seq

/-- The error arrival of a piece fault, once the earlier pieces have completed; then the copy is complete and the
context faults (spec/11 R229). -/
def errorArrival (s : State) (g ch : Nat) (c : Copy) (t : Trap) : State :=
  let s := if c.report.isSome then s else writeReport s c ch t.cause t.addr c.done
  let s := if c.sectors = [] then s else barrierUpdate s (funcOf s c.seq) c.bar c.barKey (.countdown c.sectors.length) c.seq
  addCause (missTrap (completeCopy s g ch c) g (asidOf s c.seq) t) c.seq (copyTrap c ch c.done t)

/-- Does the die of a copy's barrier answer: its updates wait for that (spec/11 R212). -/
def barLive (s : State) (c : Copy) : Bool := segsLive s [{ va := 0, pa := c.bar, len := 32, at_ := 0 }]
/-- What follows when nothing of the head copy is in flight. -/
def settleCopy (s : State) (g ch : Nat) : State := match headCopy s g ch with
  | none => s
  | some c =>
    if !c.read || c.flying ≠ [] then s
    else match c.stopped with
      | some t => if c.runs = [] && barLive s c then errorArrival s g ch c t else s
      | none => if c.runs = [] then completeCopy s g ch c else s

/-- Units of a run in each sector of `w` units. -/
def addSectors (w : Nat) (t : Tab Nat) : Nat → Nat → Nat → Tab Nat
  | 0, _, _ => t
  | fuel + 1, va, len => if len = 0 then t else
    let k := Nat.min len (w - va % w)
    addSectors w (t.put (va / w) (t.getD (va / w) 0 + k)) fuel (va + k) (len - k)
def subSectors (w : Nat) (t : Tab Nat) : Nat → Nat → Nat → Tab Nat
  | 0, _, _ => t
  | fuel + 1, va, len => if len = 0 then t else
    let k := Nat.min len (w - va % w)
    let left := t.getD (va / w) 0 - k
    subSectors w (if left = 0 then t.del (va / w) else t.put (va / w) left) fuel (va + k) (len - k)

/-- The head of channel arg 1 of core arg 0 reads its last and its records and translates BAR. -/
def execCopyHead (s : State) : Host.Outcome State Fault Refusal :=
  .next (let g := s.arg 0
  let ch := s.arg 1
  match headCopy s g ch with
  | none => s
  | some c =>
    let n := c.seq
    let idx := c.word.toNat % 4096
    let waiting := s.seqs.any fun e => coreOf e.1 = g && e.2.ctx = some c.ctx && e.2.acc.any fun a => a.data ≤ c.id && match a.kind with
      | .last _ i => i = idx
      | _ => false
    if c.read || !bteOn s c.ctx g ch || !depsMet s n c.after || (c.rel && !noHalf s 0) || waiting || !lastsLive s c.ctx then s
    else
      let s := leaves s g c.id
      let entry := c.entry.getD ((s.ctx c.ctx).lasts.getD idx 0)
      let s := modCopy s g ch fun c => { c with entry := some entry }
      let e := entry.toNat
      let faulted := fun (f : XFault) => { f.trap 6 with flags := flagDescriptor }
      let mismatch : Trap := { cause := .sealMismatch }
      let bad := fun (r : Nat) (dst : Bool) => !recSealed r || recSeal r ≠ lastSeal e dst || recVersion r ≠ lastVer e dst
      if !lastV e then refuseCopy s g ch c mismatch
      else match readRec s n c.id (lastSrc e) 128 1 with
        | .wait => s
        | .ask l => askFar s n c.id 1 l
        | .fault f => refuseCopy s g ch c (faulted f)
        | .abort _ => refuseCopy s g ch c { cause := .dataAbort, addr := lastSrc e, flags := flagDescriptor }
        | .ok l1 p => if bad p false then refuseCopy s g ch c mismatch else match readRec s n c.id (lastDst e) 128 2 with
          | .wait => s
          | .ask l => askFar s n c.id 2 l
          | .fault f => refuseCopy s g ch c (faulted f)
          | .abort _ => refuseCopy s g ch c { cause := .dataAbort, addr := lastDst e, flags := flagDescriptor }
          | .ok l2 q => if bad q true then refuseCopy s g ch c mismatch else match barrierOf s n (lastBar e) with
            | .error f => refuseCopy s g ch c { (faulted f) with addr := lastBar e }
            | .ok l3 =>
              if !bauHere l3 then refuseCopy s g ch c { cause := .permission, addr := lastBar e, xlat := 1 + 6 * 32, flags := flagDescriptor }
              else if !segsLive s l3 then s
              else
                let x := l3.headD { va := 0, pa := 0, len := 32, at_ := 0 }
                let row0 := fld c.word.toNat 37 12
                let col0 := fld c.word.toNat 63 38
                let nib := recElem p = 0 && !(recPaired p col0 && recPaired q col0)
                let runs := mergeRuns (recUnit p nib) ((recWalk p row0 col0 nib).zip (recWalk q row0 col0 nib))
                let sectors := runs.foldl (fun t r => addSectors (if nib then 64 else 32) t (r.2.2 / 32 + 2) r.2.1 r.2.2) ([] : Tab Nat)
                let s := installSegs (dropRemotes s fun r => r.id = c.id) g .etlb (asidOf s n) (l1 ++ l2 ++ l3)
                let s := modCopy s g ch fun c => { c with read := true, bar := localPa x.pa, barKey := x.key, barVa := lastBar e, nib := nib, runs := runs, sectors := sectors, uli := lastUli e, last := idx }
                let s := if lastPol e then barrierUpdate s (funcOf s n) (localPa x.pa) x.key (.expect sectors.length) n else s
                settleCopy s g ch)

/-- Bytes left in the page of an address after a checked translation. -/
def pageRoom (s : State) (g asid : Nat) (need_ : Needs) (va : Nat) : Except XFault Nat :=
  match lookup s g .etlb asid (va % 2 ^ 64) with
  | .error f => .error f
  | .ok e => match checkPage s g .x need_ e (va % 2 ^ 64) with
    | some f => .error f
    | none => .ok (e.va + e.size - va % 2 ^ 64)

/-- The marks of a piece's transactions that read, that write, and that read what a part of a byte stands beside. -/
def pieceRead (i : Nat) : Nat := 16 + 3 * i
def pieceWrite (i : Nat) : Nat := 17 + 3 * i
def pieceOld (i : Nat) : Nat := 18 + 3 * i
/-- Nibbles `k` long from nibble `p` of a number replaced. -/
def setNibs (old p k v : Nat) : Nat := old % 16 ^ p + v % 16 ^ k * 16 ^ p + old / 16 ^ (p + k) * 16 ^ (p + k)
/-- A translation or permission fault of a piece: neither it nor a later piece starts (spec/11 R229). -/
def stopCopy (s : State) (g ch : Nat) (f : XFault) : State :=
  settleCopy (modCopy s g ch fun c => { c with stopped := some (f.trap 6), runs := [] }) g ch
/-- The next piece of the copy at the head of channel arg 1 of core arg 0 is translated and started (spec/11 R228). -/
def execCopyPieceStart (s : State) : Host.Outcome State Fault Refusal :=
  .next (let g := s.arg 0
  let ch := s.arg 1
  match headCopy s g ch with
  | none => s
  | some c => match c.runs with
    | [] => settleCopy s g ch
    | (a, b, len) :: rest =>
      let asid := asidOf s c.seq
      let u := c.unit
      if !c.read || !bteOn s c.ctx g ch then s
      else match pageRoom s g asid { r := true } (a / u), pageRoom s g asid { w := true } (b / u) with
        | .error f, _ => stopCopy s g ch f
        | _, .error f => stopCopy s g ch f
        | .ok ra, .ok rb =>
          let k := Nat.min (Nat.min len (4096 * u - Nat.max (a % u) (b % u))) (Nat.min (u * ra - a % u) (u * rb - b % u))
          match segs s g .etlb asid .x { r := true } (spanOf u a k).1 (spanOf u a k).2, segs s g .etlb asid .x { w := true } (spanOf u b k).1 (spanOf u b k).2 with
          | .error f, _ => stopCopy s g ch f
          | _, .error f => stopCopy s g ch f
          | .ok l1, .ok l2 =>
          if !xClear s c.seq c.id l1 l2 then s
          else
            let s := installSegs s g .etlb asid (l1 ++ l2)
            let s := askFar s c.seq c.id (pieceRead c.started) l1
            let s := if c.nib then askFar s c.seq c.id (pieceOld c.started) l2 else s
            modCopy s g ch fun c => { c with runs := if k < len then (a + k, b + k, len - k) :: rest else rest,
                                             flying := c.flying ++ [{ no := c.started, src := l1, dst := l2, a := a, b := b, len := k }], started := c.started + 1 })

/-- Piece `i` of a copy is over, written or aborted at `bad`: its sectors are counted down and the first failure is
reported (spec/09 R187, spec/11 R228, R230). Its beats of 64 bytes weigh (spec/19 R371). -/
def pieceEnd (s : State) (g ch : Nat) (c : Copy) (p : Piece) (bad : Option Nat) : State :=
  let i := p.no
  let s := dropRemotes s fun r => r.id = c.id && (r.part = pieceRead i || r.part = pieceWrite i || r.part = pieceOld i)
  let s := s.modCore g fun k => { k with beats := k.beats + (p.len + 64 * c.unit - 1) / (64 * c.unit) }
  let left := subSectors (32 * c.unit) c.sectors (p.len / 32 + 2) p.b p.len
  let n := c.sectors.length - left.length
  let first : Bool := match c.report with
    | some r => decide (i < r.1)
    | none => true
  let s := match bad with
    | some va => if first then writeReport s c ch .dataAbort va c.done else s
    | none => s
  let s := modCopy s g ch fun c => { c with flying := c.flying.filter (fun p => p.no ≠ i), sectors := left, done := if bad.isSome then c.done else c.done + 1,
                                            report := match bad with
                                              | some va => if first then some (i, .dataAbort, va) else c.report
                                              | none => c.report }
  let s := if n = 0 then s else barrierUpdate s (funcOf s c.seq) c.bar c.barKey (.countdown n) c.seq
  settleCopy s g ch

/-- The retry of a piece that an INVAL has met translates it again (spec/17 R336). -/
def retryPiece (s : State) (g ch : Nat) (c : Copy) (p : Piece) : State :=
  let asid := asidOf s c.seq
  let a := spanOf c.unit p.a p.len; let b := spanOf c.unit p.b p.len
  let gone := fun (f : XFault) => stopCopy (modCopy s g ch fun c => { c with flying := c.flying.filter fun y => y.no ≠ p.no }) g ch f
  match segs s g .etlb asid .x { r := true } a.1 a.2, segs s g .etlb asid .x { w := true } b.1 b.2 with
  | .error f, _ => gone f
  | _, .error f => gone f
  | .ok l1, .ok l2 =>
    let s := askFar (installSegs s g .etlb asid (l1 ++ l2)) c.seq c.id (pieceRead p.no) l1
    let s := if c.nib then askFar s c.seq c.id (pieceOld p.no) l2 else s
    modCopy s g ch fun c => { c with flying := c.flying.map fun y => if y.no = p.no then { y with src := l1, dst := l2, stale := false } else y }
/-- Piece arg 2 of the copy at the head of channel arg 1 of core arg 0 is applied at its home, here or on another module,
and its sectors are counted down (spec/11 R228, spec/09 R187). -/
def execCopyPieceComplete (s : State) : Host.Outcome State Fault Refusal :=
  .next (let g := s.arg 0
  let ch := s.arg 1
  match headCopy s g ch with
  | none => s
  | some c => match c.flying.find? fun p => p.no = s.arg 2 with
    | none => s
    | some p =>
      let i := p.no; let l1 := p.src; let l2 := p.dst
      if p.stale then retryPiece s g ch c p
      else if !segsLive s l1 || !segsLive s l2 || !remoteDone s c.id (pieceRead i) (l1.any (·.fab)) || !causal s c.seq 0 || !barLive s c || (c.nib && !remoteDone s c.id (pieceOld i) (l2.any (·.fab))) then s
      else match loadPoisoned s g .x (l1.filter (!·.fab)) with
        | some va => pieceEnd s g ch c p (some va)
        | none =>
          let r := loadWith s g .x l1 false c.id (pieceRead i)
          let v := if !c.nib then r.2 else setNibs (loadWith r.1 g .x l2 false c.id (pieceOld i)).2 (p.b % 2) p.len (r.2 / 16 ^ (p.a % 2))
          if remoteDone s c.id (pieceWrite i) (l2.any (·.fab)) then pieceEnd (writeAll r.1 (funcOf s c.seq) l2 v c.seq) g ch c p none
          else if s.sys.remote.any (fun r => r.id = c.id && r.part = pieceWrite i) then s
          else putFar s c.seq c.id (pieceWrite i) l2 v)

end Sys2Proof.Machine
end

