-- ==== Sys2Proof/Machine/Task.lean ====
section
/-! DEFINITION. How a sequencer starts and ends (spec/01 R26, R27, spec/04 R61, spec/08 R154), the firmware cores'
accesses, continuation queues, `spawn`, `retire` and join objects (spec/13 R258-R268). -/
set_option linter.unusedVariables false
namespace Sys2Proof.Machine
open Sys2Proof

/-! ### F-path accesses of the front end (spec/17 R329) -/

def feSegs (s : State) (d asid : Nat) (need_ : Needs) (va len : Nat) : Except XFault (List Seg) := segs s (128 * d) .shared asid .f need_ va len
/-- Does an F access meet the window of a running or waiting sequencer: it completes with an abort (spec/09 R177). -/
def regBusy (s : State) (l : List Seg) : Bool := l.any fun x => match regionOf (localPa x.pa) with
  | .regspace _ => !x.fab && (regParts (x.len / 0x100000 + 2) (localPa x.pa) x.len 0).any fun p => (List.range 4).any fun k => let q := s.seq (4 * p.1 + k)
    q.st.live && meet p.2.1 p.2.2.1 q.winBase q.winSize
  | _ => false
/-- Read bytes of an address space on path F. -/
def feRead (s : State) (d asid va len : Nat) : Except XFault Nat := match feSegs s d asid { r := true } va len with
  | .error f => .error f
  | .ok l => if regBusy s l then .error { cause := .dataAbort, va := va } else match loadPoisoned s (128 * d) .f l with
    | some a => .error { cause := .dataAbort, va := a }
    | none => .ok (loadSegs s (128 * d) .f l false).2
/-- Write bytes of an address space on path F. -/
def feWrite (s : State) (d f asid va len v : Nat) : Except XFault State := match feSegs s d asid { w := true } va len with
  | .error x => .error x
  | .ok l => if regBusy s l then .error { cause := .dataAbort, va := va } else .ok (writeAll (installSegs s (128 * d) .shared asid l) f l v)
/-- What an F access finds in no TLB is installed in the die's (spec/17 R329, R331). -/
def feSeen (s : State) (d asid va len : Nat) : State := installSegs s (128 * d) .shared asid (segsOk (feSegs s d asid {} va len))
/-- Does an access of the front end meet no calved die (spec/21 R402). -/
def feLive (s : State) (d asid va len : Nat) : Bool := match feSegs s d asid {} va len with
  | .error _ => true
  | .ok l => segsLive s l

/-! ### Start and end of a sequencer -/

/-- Landing slots a sequencer gets (spec/08 R154). -/
def slotShare (nseq : Nat) : Nat := if nseq = 1 then 4 else if nseq = 2 then 2 else 1
def unowned (c : Core) : Nat := (c.ls.filter fun l => l.owner.isNone).length
/-- Give the lowest unowned slots to a sequencer. -/
def takeSlots (n : Nat) : Nat → List Landing → List Landing
  | _, [] => []
  | 0, l => l
  | k + 1, x :: t => if x.owner.isNone then { owner := some n } :: takeSlots n k t else x :: takeSlots n (k + 1) t

/-- Windows in use on a core (spec/04 R61). -/
def windowsOf (s : State) (g : Nat) : List (Nat × Nat) :=
  (List.range 4).filterMap fun k => let q := s.seq (4 * g + k); if q.st = .idle then none else some (q.winBase, q.winSize)
/-- The lowest place for a window of `size` bytes beside the given windows. -/
def placeWindow (used : List (Nat × Nat)) (size : Nat) : Option Nat :=
  ((List.range 256).map (· * 4096)).find? fun a => a + size ≤ 0x100000 && used.all fun w => !meet a size w.1 w.2

/-- Reserved bits of FMT read zero (spec/04 R70). -/
def fmtMask (f : BitVec 32) : BitVec 32 := f &&& 0xFF0FFFF8#32

/-- What a launch or a pop finds as its sequencer's last program left it, since no Changed by list names the launch
(spec/00 R1): the map table and the command sequence number, which no program reads (spec/12 R233), and the kept notices;
of the same function also ULIVEC, ULIMASK, ULIST, PORTST, ROWPROG and AEPROG, and at a pop PHASE and STEPNO, which the
launch set (spec/04 R74). Between functions nothing that one can read passes (spec/20 R392, log 95). -/
def inherited (q : Seq) (f : Nat) (pop : Bool) : Seq :=
  let keep : Seq := { kept := q.kept, ae := { q.ae with reg := none, cmd := none }, epoch := q.epoch + 1, issued := q.issued }
  if q.lastFunc = some f then
    { keep with ulivec := q.ulivec, ulimask := q.ulimask, ulist := q.ulist, uliChan := q.uliChan, portst := q.portst, aeprog := q.aeprog, rowprog := q.rowprog
                phase := if pop then q.phase else 0, stepno := if pop then q.stepno else 0 }
  else keep

/-- The state at launch or task pop (spec/01 R26, R27): a zeroed window, the header's views and format, the preset
scalars that view w0 covers, the landing slots, and the sequencer running at `pc`. A pop sets ULIMASK (spec/13 R262), and
as R27 says of all other state it finds an empty drain latch (DESIGN CHOICE, log 110). -/
def startSeq (s : State) (c n pc rank : Nat) (pre : List (Nat × Word)) (uli : Option (BitVec 2)) : State :=
  let x := s.ctx c
  let g := coreOf n
  let base := (placeWindow (windowsOf s g) x.image.win).getD 0
  let dmr := BitVec.ofNat 4 (x.lr 102 1)
  let alone := (List.range 4).all fun k => !(s.seq (4 * g + k)).st.live
  let old := inherited (s.seq n) x.func uli.isSome
  let q : Seq := { old with
                   st := .running, ctx := some c, rank := rank, pc := pc, winBase := base, winSize := x.image.win, views := x.image.views
                   bank := { fmt := fmtMask x.image.fmt }, cons := x.splice.map fun sp => { fmt := fmtMask sp.consFmt }
                   fwd := match x.splice with
                     | some sp => sp.pairs.map fun p => (p.1, p.2.1, [])
                     | none => []
                   dmr := dmr, dmr0 := dmr, withdrawn := ~~~dmr, ulimask := uli.getD old.ulimask, prebud := prebud x, lastFunc := some x.func
                   ctxid := c, asidReg := x.asid }
  let s := s.setSeq n q
  let lo := State.regPa g base
  let s := { s with poison := s.poison.filter fun p => !(lo ≤ p && p < lo + x.image.win) }
  s.modCore g fun k =>
    { k with last := if alone then 3 else k.last
             ls := takeSlots n (slotShare x.image.nseq) k.ls
             regs := pre.foldl (fun r p => if p.1 ≠ 0 && elemOk (viewAt q 0) p.1 64 8 then r.write (base + elemOff (viewAt q 0) p.1 8) 8 p.2.toNat else r) (k.regs.zero base x.image.win) }

/-- Port and landing state discarded at `halt` and `retire` (spec/13 R257, R258). -/
def discardUnits (s : State) (n : Nat) : State :=
  let s := s.modSeq n fun q => { q with ports := List.replicate 8 {}, fwd := [] }
  s.modCore (coreOf n) fun c => { c with ls := c.ls.map fun l => if l.owner = some n then { l with tile := none, partial_ := false, words := [] } else l }
/-- A program ends on a sequencer: it belongs to no context and waits for nothing. Its registers, its declared channels
and its control registers stay as they are until a launch or a pop changes them (spec/00 R1, spec/04 R60, spec/16 R300);
the interrupted state of a handler goes (spec/06 R101, log 95). -/
def endSeq (q : Seq) : Seq := { q with
  st := .idle, prev := .idle, below := none, ctx := none, saved := none, pendDom := none, pendT := none, wait := none
  withdrawn := 0xF, inHandler := false, watch := none, cons := none, bank := { q.bank with held := [] }, acc := [], order := []
  ordered := false, causes := [], halting := none, joining := false, stopReq := false, epoch := q.epoch + 1, redo := none }
/-- The sequencer becomes idle: its slots have no owner any more (spec/08 R154). -/
def toIdle (s : State) (n : Nat) : State :=
  let s := discardUnits s n
  let s := s.modCore (coreOf n) fun c => { c with ls := c.ls.map fun l => if l.owner = some n then {} else l }
  s.modSeq n fun q => { endSeq q with kernid := (kernelAt (s.ctxOf n) q.pc).1 }
/-- Every outstanding-operation counter reads zero. -/
def drained (q : Seq) : Bool := q.ld = 0 && q.st_ = 0 && q.xf = 0 && q.mt = 0 && q.cm = 0

/-! ### Continuation records and spill rings (spec/13 R259, R260) -/

/-- Bytes of a record in a spill ring: 32 of the record, then TENQ (log 33). -/
def spillSlot : Nat := 64
def spillCap (c : Ctx) : Nat := c.lr 120 4 / 4 / spillSlot
def spillAddr (c : Ctx) (level k : Nat) : Nat := c.lr 112 8 + level * (c.lr 120 4 / 4) + k % Nat.max 1 (spillCap c) * spillSlot
def recNat (r : CqRec) : Nat := r.code + r.frame * 2 ^ 64 + r.join * 2 ^ 128 + r.flags * 2 ^ 192
def recOf (x tenq : Nat) : CqRec := { code := fld x 63 0, frame := fld x 127 64, join := fld x 191 128, flags := fld x 255 192, tenq := tenq }
def recLevel (r : CqRec) : Nat := r.flags % 4
def onChip (k : Cluster) (l : Nat) : List CqRec := k.levels.getD l []
def spilled (k : Cluster) (l : Nat) : Nat × Nat := k.spill.getD l (0, 0)

/-- How a push ends; `wait`: the die that holds its slot answers calved (spec/21 R402). -/
inductive Pushed where
  | done (s : State)
  | full
  | wait
  | fault (f : XFault)
/-- Put a record at the tail of its level: on chip, or on the level's spill ring. -/
def pushRec (s : State) (cl : Nat) (r : CqRec) : Pushed :=
  let k := s.cluster cl
  let l := recLevel r
  let c := s.ctx (k.launch.getD 0)
  if (onChip k l).length < 256 && (spilled k l).2 = 0 then .done (s.modCluster cl fun k => { k with levels := upd k.levels l fun x => x ++ [r] })
  else if spillCap c ≤ (spilled k l).2 then .full
  else if !feLive s (cl / 4) c.asid (spillAddr c l ((spilled k l).1 + (spilled k l).2)) spillSlot then .wait
  else match feWrite s (cl / 4) c.func c.asid (spillAddr c l ((spilled k l).1 + (spilled k l).2)) spillSlot (recNat r + r.tenq * 2 ^ 256) with
    | .error f => .fault f
    | .ok s => .done (s.modCluster cl fun k => { k with spill := upd k.spill l fun x => (x.1, x.2 + 1) })
/-- A cause reported by a sequencer of the cluster's launch, idle or not (spec/13 R260). -/
def clusterCause (s : State) (cl n : Nat) (t : Trap) : State :=
  addCause (s.modSeq n fun q => { q with ctx := q.ctx.orElse fun _ => (s.cluster cl).launch }) n t
/-- The unit as the pushes that wait will leave it. -/
def afterPushes (s : State) (cl : Nat) : State := ((s.cluster cl).overflow.toList ++ (s.cluster cl).pushes.map (·.r)).foldl (fun s r => match pushRec s cl r with
  | .done s => s
  | _ => s) s
/-- Would a push be accepted, behind those that wait. -/
def pushTrap (s : State) (cl : Nat) (r : CqRec) : Option Trap := match pushRec (afterPushes s cl) cl r with
  | .done _ => none
  | .wait => none
  | .full => some { cause := .queueSpill }
  | .fault f => some { f.trap 8 with cause := .queueSpill }

/-! ### spawn and retire (spec/13 R265, R266) -/

/-- The record in s[a] to s[a+3]. -/
def spawnRec (k : Issue) (a : Reg) (now : Nat) : CqRec :=
  { code := (k.rs a).toNat, frame := (k.rs (a + 1)).toNat, join := (k.rs (a + 2)).toNat, flags := (k.rs (a + 3)).toNat, tenq := now }
def execSpawn (a : Reg) (s : State) : Host.Outcome State Fault Refusal :=
  .next (slot s (fun k =>
    let regs := snames [a, a + 1, a + 2, a + 3]
    let cl := clusterOf (coreOf k.n)
    { names := regs, reads := regs
      ready := !(s.cluster cl).pushes.any fun p => !p.bau && coreOf p.seq = coreOf k.n
      checks := [need ((k.rs (a + 3)).toNat < 32) .reservedField, need (s.ctxOf k.n).isTask .illegalInstr,
        pushTrap s cl (spawnRec k a s.sys.dtime)] }) fun k s =>
    let p : CqPush := { id := s.nextId, r := spawnRec k a s.sys.dtime, seq := k.n, bau := false, after := releaseDeps s k.n .module, pc := k.pc, slot := k.pos, held := k.held }
    let s := s.modCluster (clusterOf (coreOf k.n)) fun c => { c with pushes := c.pushes ++ [p] }
    (s.modSeq k.n fun q => { q with ordered := true }).bump)

def execRetire (s : State) : Host.Outcome State Fault Refusal :=
  .next (slot s (fun k => { names := snames [joinReg], checks := [need (s.ctxOf k.n).isTask .illegalInstr] }) fun k s => afterwards s .retire)

/-- A halted gang sequencer is retired once its counters read zero (spec/06 R101). -/
def execHaltRetire (s : State) : Host.Outcome State Fault Refusal :=
  .next (let n := s.arg 0
  let q := s.seq n
  if q.halting = some .halt && q.st = .running && drained q && q.causes = [] then
    (discardUnits s n).modSeq n fun q => { q with st := .retired, halting := none, inHandler := false, saved := none }
  else s)

/-- A scalar of a sequencer outside any bundle: zero where view w0 does not cover it. -/
def scalarNow (s : State) (n r : Nat) : Nat :=
  let q := s.seq n
  if elemOk (viewAt q 0) r 64 8 then (s.core (coreOf n)).regs.readNat (q.winBase + elemOff (viewAt q 0) r 8) 8 else 0
/-- The word of a scalar outside any bundle that cannot be corrected. -/
def scalarPoison (s : State) (n r : Nat) : Option Nat :=
  let q := s.seq n
  if elemOk (viewAt q 0) r 64 8 then s.poison.find? fun a => a = State.regPa (coreOf n) (q.winBase + elemOff (viewAt q 0) r 8) else none
/-- The trap of a join update: it names no slot and is tried again at resume (spec/20 R376). -/
def joinTrap (s : State) (n : Nat) (t : Trap) : State :=
  let s := missTrap s (coreOf n) (asidOf s n) t
  addCause (s.modSeq n fun q => { q with joining := true }) n { t with slot := 7, join := true, pc := some (s.seq n).pc }

/-- The join update of the retiring sequencer arg 0 at its BAU, its port and landing state being discarded first; then the
sequencer is idle (spec/13 R266). A word of s61 that cannot be corrected is a data abort (spec/09 R178). -/
def execRetireJoinUpdate (s : State) : Host.Outcome State Fault Refusal :=
  .next (let n := s.arg 0
  let q := s.seq n
  let j := scalarNow s n 61
  if q.halting ≠ some .retire || q.st ≠ .running || !drained q || q.acc ≠ [] || q.causes ≠ [] || !depsMet s n (releaseDeps s n .module) || !noHalf s 0 then s
  else match scalarPoison s n 61 with
  | some a => joinTrap s n { cause := .dataAbort, addr := a }
  | none =>
  let s := discardUnits s n
  if j = 0 then toIdle s n
  else match segs s (coreOf n) .dtlb (asidOf s n) .b { r := true, w := true } j 64 with
    | .error f => joinTrap s n { f.trap 2 with addr := j }
    | .ok l =>
      let x := l.headD { va := 0, pa := 0, len := 64, at_ := 0 }
      let pa := localPa x.pa
      if !bauHere l then joinTrap s n { cause := .permission, xlat := 1 + 2 * 32, addr := j }
      else if !segsLive s l then s
      else
      let s := installSegs s (coreOf n) .dtlb (asidOf s n) l
      if poisoned s pa 64 then joinTrap s n { cause := .dataAbort, addr := j }
      else
        let f := funcOf s n
        let count := toInt 64 (physRead s pa 8 x.key)
        let word := physRead s (pa + 8) 8 x.key
        let word2 := if count ≤ 0 && !bit word 1 then word + 2 else word
        let new := count - 1
        let cont := physRead s (pa + 32) 32 x.key
        let cl := clusterOf (coreOf n)
        let s := leaves s (coreOf n) s.nextId
        let s := writeAll s f [{ x with pa := pa, len := 16, at_ := 0 }] (ofInt 64 new + word2 * 2 ^ 64) n
        let s := if new ≠ 0 then s
          else if bit word 0 then s.modCtx (q.ctx.getD 0) fun c => { c with rootDone := true, doneAt := s.nextId }
          else if fld cont 63 0 = exitLink then s
          else (s.modCluster cl fun k => { k with pushes := k.pushes ++ [{ id := s.nextId, r := recOf cont s.sys.dtime, seq := n, bau := true }] }).bump
        toIdle s n)

/-! ### Code of a core (spec/14 R281, R283) -/

/-- Does a sequencer state hold its core's code (spec/14 R281). -/
def SqState.holdsCode (x : SqState) : Bool := x ≠ .idle && x ≠ .preempted
/-- What a core's instruction memory holds for a context: ASID and IMAGE; a spliced image is one of its own. -/
def imgKey (x : Ctx) : Nat × Nat := (x.asid, match x.second with
  | some (_, r, _) => x.image.va + 2 ^ 64 * (r % 2 ^ 64 + 1)
  | none => x.image.va)
/-- May core `g` run the image of context `c`: no live sequencer of another launch with another image. -/
def codeFree (s : State) (c g : Nat) : Bool :=
  (List.range 4).all fun k => let q := s.seq (4 * g + k)
    !(q.st.holdsCode && q.ctx ≠ some c) || (s.core g).img = some (imgKey (s.ctx c))
/-- Length of an image as its table gives it. -/
def imageExtent (i : Image) : Nat := (i.sections.map fun x => x.off + x.size).foldl Nat.max 256
/-- Resident code that fits in 16 MiB, most recent first. -/
def fitCode : Nat → List (Nat × Nat × Nat × List (BitVec 32)) → List (Nat × Nat × Nat × List (BitVec 32))
  | _, [] => []
  | left, e :: t => if 4 * e.2.2.2.length ≤ left then e :: fitCode (left - 4 * e.2.2.2.length) t else []
/-- The code a die runs for a launch: resident, or read from the image (log 39). -/
def dieCode (s : State) (x : Ctx) (d : Nat) : List (BitVec 32) :=
  if x.second.isSome then x.image.code
  else match (s.die d).prog.find? fun e => e.1 = x.asid && e.2.1 = x.image.va with
    | some e => e.2.2.2
    | none => x.image.code
def keepCode (s : State) (x : Ctx) (d : Nat) : State :=
  if x.second.isSome then s
  else
    let code := dieCode s x d
    s.modDie d fun y => { y with prog := fitCode 0x1000000 ((x.asid, x.image.va, imageExtent x.image, code) :: y.prog.filter fun e => !(e.1 = x.asid && e.2.1 = x.image.va)) }
/-- Is the code of a launch resident in a die's program cache. -/
def resident (s : State) (x : Ctx) (d : Nat) : Bool := (s.die d).prog.any fun e => e.1 = x.asid && e.2.1 = x.image.va
/-- The image of a context goes into a core's instruction memory: a fill goes through its ITLB (spec/17 R329). -/
def putCode (s : State) (c g : Nat) : State :=
  let x := s.ctx c
  let code := dieCode s x (dieOf g)
  let s := if resident s x (dieOf g) then s
    else (x.image.sections.filter fun y => y.kind = 1 && y.size ≠ 0).foldl (fun s y =>
      installSegs s g .itlb x.asid (segsOk (segs s g .itlb x.asid .f { x := true } (x.image.va + y.off) y.size))) s
  (keepCode s x (dieOf g)).modCore g fun k =>
    { k with img := some (imgKey x), l1 := if (k.img.map (·.1)) = some x.asid then k.l1 else []
             imem := (code.zipIdx.filter fun e => e.1 ≠ 0).map fun e => (e.2, e.1) }
/-- The same, unless it is there already: at a resume, and at a pop after another launch has used the core. -/
def loadCode (s : State) (c g : Nat) : State := if (s.core g).img = some (imgKey (s.ctx c)) then s else putCode s c g

/-! ### The queue unit (spec/13 R261-R263) -/

/-- An idle enrolled sequencer that may take a record: the lowest (spec/13 R261, spec/08 R154, spec/01 R15), on a core
whose code is free for the launch (spec/14 R281). -/
def popTarget (s : State) (cl : Nat) : Option Nat :=
  let k := s.cluster cl
  let c := s.ctx (k.launch.getD 0)
  (sortBy id k.enrolled).find? fun n =>
    (s.seq n).st = .idle && (s.seq n).causes = [] && codeFree s (k.launch.getD 0) (coreOf n) && slotShare c.image.nseq ≤ unowned (s.core (coreOf n)) &&
    (placeWindow (windowsOf s (coreOf n)) c.image.win).isSome && engineOn s (k.launch.getD 0) (coreOf n) && c.stopAt.isNone && !k.gated
/-- The highest level that holds a record: on chip, or in its spill ring alone, from which it comes back first (spec/13
R260). -/
def popLevel (k : Cluster) (ok : CqRec → Bool) : Option Nat :=
  (List.range 4).find? fun l => (onChip k l).any ok || (onChip k l = [] && (spilled k l).2 ≠ 0)

/-! ### The order of a unit's cycle (spec/13 R261, log 96) -/

/-- An aged record as it enters the level above. -/
def agedRec (r : CqRec) (now : Nat) : CqRec := { r with flags := r.flags - 1, tenq := now }
/-- The units a unit asks, in order (spec/13 R263). -/
def takeOrder (cl : Nat) : List Nat :=
  let d := cl / 4
  let c := cl % 4
  ([1, 2, 3].map fun i => 4 * d + (c + i) % 4) ++ ([1, 2, 3].map fun i => (List.range 4).map fun j => 4 * ((d + i) % 4) + j).flatten
/-- A record that another unit may take. -/
def takeable (r : CqRec) : Bool := !bit r.flags 4
/-- The unit from which a unit with an idle sequencer and empty levels takes a record (spec/13 R263). -/
def askedUnit (s : State) (cl : Nat) : Option Nat :=
  let k := s.cluster cl
  if !dieLive s (cl / 4) || (popTarget s cl).isNone || (popLevel k fun _ => true).isSome || k.spill.any (fun x => x.2 ≠ 0) then none
  else (takeOrder cl).find? fun o => (s.cluster o).launch = k.launch && dieLive s (o / 4) && (popLevel (s.cluster o) takeable).isSome
/-- Does act 3 of a unit's cycle: another unit asks for a record it has on chip. -/
def takesNow (s : State) (o : Nat) : Bool :=
  (match popLevel (s.cluster o) takeable with
    | some l => (onChip (s.cluster o) l).any takeable
    | none => false) && (List.range 16).any fun cl => askedUnit s cl = some o
/-- The pushes that wait, in the order of act 4: the latch is apart; the `spawn` of the lowest core, then continuation
pushes in order of arrival. -/
def pushOrder (s : State) (k : Cluster) : List CqPush :=
  let ready := k.pushes.filter fun p => p.bau || depsMet s p.seq p.after && noHalf s 0
  sortBy (fun p : CqPush => coreOf p.seq) (ready.filter (!·.bau)) ++ ready.filter (·.bau)
/-- Has a sequencer of the unit's launch a spill fault to report: its context stops first, and the latch waits for its
resume (spec/13 R260). -/
def spillStops (s : State) (cl : Nat) : Bool := match (s.cluster cl).launch with
  | none => false
  | some c => (s.ctx c).st ≠ .released || s.seqs.any fun e => e.2.ctx = some c && e.2.causes.any fun t => t.cause = .queueSpill
/-- Does act 4: the latch, or the first push, is accepted or reported. -/
def pushesNow (s : State) (cl : Nat) : Bool := !spillStops s cl && dieLive s (cl / 4) &&
  let room := fun (r : CqRec) => match pushRec s cl { r with tenq := s.sys.dtime } with
    | .done _ => true
    | _ => false
  match (s.cluster cl).overflow with
  | some r => room r
  | none => match (pushOrder s (s.cluster cl)).head? with
    | some p => match pushRec s cl { p.r with tenq := s.sys.dtime } with
      | .wait => false
      | _ => true
    | none => false
/-- A unit with nothing left to do in its cycle begins another. -/
def newCycle (s : State) (cl : Nat) : State :=
  if takesNow s cl || pushesNow s cl then s else s.modCluster cl fun k => { k with pops := 0 }
/-- Does act 1 of the unit's cycle still have a record to move: the latch comes before it, and a full ring keeps it. -/
def agesNow (s : State) (cl : Nat) : Bool := dieLive s (cl / 4) && (s.cluster cl).overflow.isNone && ([1, 2, 3] : List Nat).any fun l => match onChip (s.cluster cl) l with
  | r :: _ => r.tenq + 1000000 ≤ s.sys.dtime && (match pushRec s cl (agedRec r s.sys.dtime) with
    | .full => false
    | .wait => false
    | _ => true)
  | [] => false
/-- Does act 2: a record on chip and a sequencer for it, of at most four pops. -/
def popsNow (s : State) (cl : Nat) : Bool := (s.cluster cl).pops < 4 && (popTarget s cl).isSome &&
  match popLevel (s.cluster cl) (fun _ => true) with
  | some l => onChip (s.cluster cl) l ≠ []
  | none => false

/-- Move the aged records of a level, oldest first, while the level above takes them. -/
def ageLevel (cl l now : Nat) : Nat → State → State
  | 0, s => s
  | fuel + 1, s => match onChip (s.cluster cl) l with
    | [] => s
    | r :: _ =>
      if now < r.tenq + 1000000 || (s.cluster cl).overflow.isSome then s
      else
        let up := agedRec r now
        let drop := fun (s : State) => s.modCluster cl fun k => { k with levels := upd k.levels l fun x => x.drop 1 }
        match pushRec s cl up with
        | .done s => ageLevel cl l now fuel (drop s)
        | .full => s
        | .wait => s
        | .fault f =>
          -- the record waits in the overflow latch, and the launch's first sequencer of the cluster reports it (spec/13 R260)
          clusterCause ((drop s).modCluster cl fun k => { k with overflow := some up }) cl ((s.cluster cl).enrolled.headD 0) { f.trap 8 with cause := .queueSpill, slot := 7 }
/-- Ageing at cluster arg 0, levels 1 to 3: the first act of a cycle. -/
def execCqAgeing (s : State) : Host.Outcome State Fault Refusal :=
  .next (let s := newCycle s (s.arg 0)
  if !dieLive s (s.arg 0 / 4) then s else [1, 2, 3].foldl (fun s l => ageLevel (s.arg 0) l s.sys.dtime 256 s) s)

/-- Cluster arg 0 pops a record onto an idle enrolled sequencer (spec/13 R262), after what has aged and at most four times
a cycle (R261). -/
def execCqPop (s : State) : Host.Outcome State Fault Refusal :=
  .next (let cl := s.arg 0
  let k := (newCycle s cl).cluster cl
  match popTarget s cl, popLevel k (fun _ => true), k.launch with
  | some n, some l, some c =>
    match onChip k l with
    | [] => s
    | r :: _ =>
      if agesNow s cl || 4 ≤ k.pops then s
      else
      let s := loadCode (s.modCluster cl fun _ => { k with levels := upd k.levels l fun x => x.drop 1, pops := k.pops + 1 }) c (coreOf n)
      if r.code % 4 ≠ 0 || exitLink ≤ r.code || !bundleStart (s.core (coreOf n)) r.code then
        let s := s.modSeq n fun q => { q with ctx := some c, ctxid := c, asidReg := (s.ctx c).asid }
        addCause s n { cause := .badTarget, slot := 7, pc := some 0, addr := r.code, info := r.flags, code := true }
      else
        let x := s.ctx c
        let args := (List.range 8).map fun i => (i + 1, BitVec.ofNat 64 (x.lr (8 + 8 * i) 8))
        let s := startSeq s c n r.code 0 (args ++ [(9, BitVec.ofNat 64 n), (10, BitVec.allOnes 64), (61, BitVec.ofNat 64 r.join), (62, BitVec.ofNat 64 r.frame), (63, exitWord)])
          (some (BitVec.ofNat 2 (fld r.flags 3 2)))
        let s := s.modCtx c fun x => { x with lasts := [] }
        s.modSeq n fun q => { q with ordered := s.updates ≠ [] }
  | _, _, _ => s)

/-- Remove the first record with PIN = 0 of a level. -/
def takeFirst : List CqRec → Option (CqRec × List CqRec)
  | [] => none
  | r :: t => if bit r.flags 4 then (takeFirst t).map fun p => (p.1, r :: p.2) else some (r, t)
/-- Cluster arg 0, with an idle sequencer and empty levels, takes one record of another unit of its launch, which serves
it after its own moves and pops (spec/13 R261, R263). -/
def execCqWorkTake (s : State) : Host.Outcome State Fault Refusal :=
  .next (let cl := s.arg 0
  match askedUnit s cl with
  | none => s
  | some o =>
    let l := (popLevel (s.cluster o) takeable).getD 0
    match takeFirst (onChip (s.cluster o) l) with
    | none => s
    | some (r, rest) =>
      if agesNow s o || popsNow s o then s
      else
        let s := s.modCluster o fun k => { k with levels := k.levels.set l rest }
        s.modCluster cl fun k => { k with levels := upd k.levels l fun x => x ++ [r] })

/-- Cluster arg 0 accepts one push, after its moves, its pops and what other units take: the overflow latch, then the
`spawn` of the lowest core, then the oldest continuation push (spec/13 R260, R261). A ring that a `spawn` finds full or
faulting only now is reported at a boundary, and the push is tried again at resume. With the last push its cycle is over. -/
def execCqPushAccept (s : State) : Host.Outcome State Fault Refusal :=
  .next (let cl := s.arg 0
  let k := s.cluster cl
  if agesNow s cl || popsNow s cl || takesNow s cl || spillStops s cl || !dieLive s (cl / 4) then s
  else match k.overflow with
  | some r => match pushRec s cl { r with tenq := s.sys.dtime } with
    | .done s => newCycle (s.modCluster cl fun k => { k with overflow := none }) cl
    | _ => s
  | none => match (pushOrder s k).head? with
    | none => s
    | some p =>
      let drop := fun (s : State) => s.modCluster cl fun k => { k with pushes := k.pushes.filter fun x => x.id ≠ p.id }
      let refused := fun (p : CqPush) (t : Trap) =>
        if p.bau then clusterCause ((drop s).modCluster cl fun k => { k with overflow := some p.r }) cl p.seq { t with slot := 7 }
        else clusterCause s cl p.seq { t with pc := some p.pc, slot := p.slot, held := p.held }
      match pushRec s cl { p.r with tenq := s.sys.dtime } with
      | .done s => newCycle (leaves (drop s) (coreOf p.seq) p.id) cl
      | .wait => s
      | .full => refused p { cause := .queueSpill }
      | .fault f => refused p { f.trap 8 with cause := .queueSpill })

/-- Level arg 1 of cluster arg 0 takes its oldest spilled record back as room appears (spec/13 R260). -/
def execCqSpillRefill (s : State) : Host.Outcome State Fault Refusal :=
  .next (let cl := s.arg 0
  let l := s.arg 1 % 4
  let k := s.cluster cl
  let c := s.ctx (k.launch.getD 0)
  let x := spilled k l
  if x.2 = 0 || 256 ≤ (onChip k l).length || !dieLive s (cl / 4) || !feLive s (cl / 4) c.asid (spillAddr c l x.1) spillSlot then s
  else match feRead s (cl / 4) c.asid (spillAddr c l x.1) spillSlot with
    | .error f =>
      let n := k.enrolled.headD 0
      if (s.seq n).causes.any (fun t => t.cause = .queueSpill) then s else clusterCause s cl n { f.trap 8 with cause := .queueSpill, slot := 7 }
    | .ok v => (feSeen s (cl / 4) c.asid (spillAddr c l x.1) spillSlot).modCluster cl fun k =>
      { k with levels := upd k.levels l fun y => y ++ [recOf (v % 2 ^ 256) (fld v 319 256)]
               spill := upd k.spill l fun y => ((y.1 + 1) % Nat.max 1 (spillCap c), y.2 - 1) })

end Sys2Proof.Machine
end

