-- ==== Sys2Proof/Machine/Amplitude.lean ====
section
/-! DEFINITION. The amplitude engine (spec/12). Engines on other modules answer through the operands of an event. -/
set_option linter.unusedVariables false
namespace Sys2Proof.Machine
open Sys2Proof

/-! ### Descriptors and layout (spec/12 R234, R235) -/

def adN (d : BitVec 512) : Nat := byteAt d.toNat 0
def adL (d : BitVec 512) : Nat := byteAt d.toNat 1
def adCb (d : BitVec 512) : Nat := byteAt d.toNat 2
def adDb (d : BitVec 512) : Nat := byteAt d.toNat 3
def adMb (d : BitVec 512) : Nat := byteAt d.toNat 4
def adFmt (d : BitVec 512) : Fmt := if byteAt d.toNat 5 = 0 then .f32 else .f64
def adCl (d : BitVec 512) (i : Nat) : Nat := byteAt d.toNat 6 / 4 ^ i % 4
def adDie (d : BitVec 512) (i : Nat) : Nat := byteAt d.toNat 7 / 4 ^ i % 4
def adModbase (d : BitVec 512) : Nat := fld d.toNat 73 64
def adTag (d : BitVec 512) : Nat := fld d.toNat 127 96
def adPos (d : BitVec 512) : List Nat := (List.range 48).map fun q => if q < adN d then byteAt d.toNat (16 + q) else q
/-- Bytes of an amplitude. -/
def ampBytes (d : BitVec 512) : Nat := if adFmt d = .f32 then 8 else 16
def adValid (d : BitVec 512) : Bool :=
  1 ≤ adN d && adN d ≤ 48 && adN d = adL d + adCb d + adDb d + adMb d && 1 ≤ adL d && adL d ≤ 34 && adCb d ≤ 2 && adDb d ≤ 2 && adMb d ≤ 10 &&
  byteAt d.toNat 5 ≤ 1 && ((List.range (2 ^ adCb d)).map (adCl d)).Nodup && ((List.range (2 ^ adDb d)).map (adDie d)).Nodup &&
  adModbase d + 2 ^ adMb d ≤ 1024 && fld d.toNat 95 74 = 0 &&
  (List.range (adN d)).all (fun k => (adPos d).take (adN d) |>.contains k) && (List.range 48).all (fun q => q < adN d || byteAt d.toNat (16 + q) = 0)
def engineCount (d : BitVec 512) : Nat := 2 ^ (adCb d + adDb d + adMb d)
/-- Module, die and cluster of share `i`. -/
def engineAt (d : BitVec 512) (i : Nat) : Nat × Nat × Nat :=
  (adModbase d + i / 2 ^ (adCb d + adDb d), adDie d (i / 2 ^ adCb d % 2 ^ adDb d), adCl d (i % 2 ^ adCb d))
/-- The share a sequencer's engine holds, if the descriptor names it. -/
def shareOf (s : State) (d : BitVec 512) (n : Nat) : Option Nat :=
  let cl := clusterOf (coreOf n)
  (List.range (engineCount d)).find? fun i => engineAt d i = (s.sys.modid, cl / 4, cl % 4)
/-- Shares held on this module. -/
def localShares (s : State) (d : BitVec 512) : List Nat := (List.range (engineCount d)).filter fun i => (engineAt d i).1 = s.sys.modid

/-! ### Issue (spec/12 R237-R239) -/

def AeOp.code : AeOp → Nat
  | .gate _ => 5 | .map => 6 | .meas => 7 | .coll _ => 8 | .norm => 9 | .swap => 10
def regOf (s : State) (n : Nat) : Option AeReg := (s.seq n).ae.reg

/-- Issue of an AE command: readiness, the checks of spec/12 R238, then the command is in progress. -/
def aeSlot (s : State) (regs : List Reg) (op : AeOp) (addr : Issue → Nat) (qubits : Issue → List Nat) (al : AeReg → Nat) (len : AeReg → Nat)
    (need_ : Needs) (base : Issue → Nat) : State :=
  let access := fun (k : Issue) => if len ((regOf s k.n).getD ⟨0, 0, 0⟩) = 0 then .ok [] else
    segs s (coreOf k.n) .shared (asidOf s k.n) .a need_ (addr k) (len ((regOf s k.n).getD ⟨0, 0, 0⟩))
  slot s (fun k =>
    let r := regOf s k.n
    let d := (r.getD ⟨0, 0, 0⟩).desc
    let qs := qubits k
    { names := snames regs, reads := snames regs
      ready := (s.seq k.n).ae.cmd.isNone && (s.seq k.n).room .xf && !heldBack s k.n .a true
      checks := [need (op = .map || r.isSome) .ampMap,
        need (qs.all (· < adN d) && (match op with
          | .gate m => qs.Nodup && m ≤ adL d
          | _ => true)) .ampMap,
        misaligned (BitVec.ofNat 64 (addr k)) (al (r.getD ⟨0, 0, 0⟩)),
        if op = .map then misaligned (BitVec.ofNat 64 (base k)) 4096 else none,
        xtrap 7 (access k)] }) fun k s =>
    let s := pruneOrders s k.n
    let fenced := fencedOn (s.seq k.n) .a true
    let s := installSegs s (coreOf k.n) .shared (asidOf s k.n) (segsOk (access k))
    let c : AeCmd := { id := s.nextId, op := op, addr := addr k, qubits := qubits k, seg := segsOk (access k), fmtSnap := k.fmt
                       matrix := base k, after := fenced, pc := k.pc, slot := k.pos, held := k.held }
    let s := s.modSeq k.n fun q => { q with aeprog := op.code * 2 ^ 32
                                            ae := { q.ae with cmd := some c, seqno := if op = .map then q.ae.seqno else (q.ae.seqno + 1) % 2 ^ 32 } }
    (s.modSeq k.n fun q => q.raise .xf).bump

def execAgate (a b : Reg) (m : BitVec 2) (s : State) : Host.Outcome State Fault Refusal :=
  let w := m.toNat + 1
  .next (aeSlot s [a, b] (.gate w) (fun k => (k.rs a).toNat) (fun k => (List.range w).map fun t => fld (k.rs b).toNat (6 * t + 5) (6 * t))
    (fun r => ampBytes r.desc) (fun r => 4 ^ w * ampBytes r.desc) { r := true } fun _ => 0)
def execAmap (a b : Reg) (s : State) : Host.Outcome State Fault Refusal :=
  .next (aeSlot s [a, b] .map (fun k => (k.rs a).toNat) (fun _ => []) (fun _ => 64) (fun _ => 64) { r := true } fun k => (k.rs b).toNat)
def execAmeas (a b : Reg) (s : State) : Host.Outcome State Fault Refusal :=
  .next (aeSlot s [a, b] .meas (fun k => (k.rs a).toNat) (fun k => [(k.rs b).toNat % 64]) (fun _ => 16) (fun _ => 16) { w := true } fun _ => 0)
def execAcoll (a b : Reg) (s : State) : Host.Outcome State Fault Refusal :=
  .next (match s.issue with
  | none => s
  | some k => aeSlot s [a, b] (.coll (fld (k.rs b).toNat 6 6)) (fun k => (k.rs a).toNat) (fun k => [(k.rs b).toNat % 64]) (fun _ => 16) (fun _ => 16) { w := true } fun _ => 0)
def execAnorm (a : Reg) (s : State) : Host.Outcome State Fault Refusal :=
  .next (aeSlot s [a] .norm (fun k => (k.rs a).toNat) (fun _ => []) (fun _ => 16) (fun _ => 16) { w := true } fun _ => 0)
def execAswap (b : Reg) (s : State) : Host.Outcome State Fault Refusal :=
  .next (aeSlot s [b] .swap (fun _ => 0) (fun k => [fld (k.rs b).toNat 5 0, fld (k.rs b).toNat 11 6]) (fun _ => 1) (fun _ => 0) {} fun _ => 0)

/-! ### Commands in progress -/

def modCmd (s : State) (n : Nat) (f : AeCmd → AeCmd) : State := s.modSeq n fun q => { q with ae := { q.ae with cmd := q.ae.cmd.map f } }
/-- A command ends, with XF lowered (spec/12 R237). -/
def endCmd (s : State) (n : Nat) : State :=
  lowerLate (s.modSeq n fun q => { q with ae := { q.ae with cmd := none } }) n (((s.seq n).ae.cmd).elim 0 (·.id))
/-- A cause of a command, taken at a boundary (spec/12 R240, R248). -/
def aeCause (s : State) (n : Nat) (c : AeCmd) (t : Trap) : State := addCause s n { t with pc := some c.pc, slot := c.slot, held := c.held }
/-- A command that ends in a data abort keeps AEPROG at its chunk (spec/12 R248, spec/09 R187). -/
def aeAbort (s : State) (n : Nat) (c : AeCmd) (va : Nat) : State := aeCause (endCmd s n) n c { cause := .dataAbort, addr := va }
/-- Cycles that `fmas` complex FMAs take: 256 of c32 a cycle, 64 of c64 (spec/12 R237). -/
def aeCycles (f : Fmt) (fmas : Nat) : Nat := if f = .f32 then (fmas + 255) / 256 else (fmas + 63) / 64
/-- A chunk is complete; a strike rollback does not take it back (spec/12 R248). Its cycles weigh on the core of the
issuing sequencer (spec/19 R371); a chunk that is only moved or summed counts one FMA for an amplitude (log 44). -/
def countChunk (s : State) (n : Nat) (f : Fmt) (fmas : Nat) : State :=
  (modBoth s n fun q => { q with aeprog := q.aeprog / 2 ^ 32 * 2 ^ 32 + (q.aeprog % 2 ^ 32 + 1) % 2 ^ 32 }).modCore (coreOf n)
    fun k => { k with aeDue := k.aeDue + aeCycles f fmas }

/-- Descriptor that a command stands under: an `amap`'s own, once read; else the registration's. -/
def cmdDesc (q : Seq) : Option (BitVec 512) := match q.ae.cmd with
  | none => none
  | some c => if c.op = .map then (if c.ready then some (BitVec.ofNat 512 c.matrix) else none) else q.ae.reg.map (·.desc)
/-- Sequencers of a context with a command under a tag. -/
def members (s : State) (c tag : Nat) : List Nat :=
  (s.ctx c).seqs.filter fun n => ((cmdDesc (s.seq n)).map adTag) = some tag
/-- What the digest covers (spec/12 R236). -/
def digestOf (q : Seq) : Option (AeOp × Nat × List Nat × Option (BitVec 512)) := q.ae.cmd.map fun c =>
  (c.op, q.ae.seqno, c.qubits, if c.op = .map then some (BitVec.ofNat 512 c.matrix) else none)

/-- An `amap` reads its descriptor and checks it (spec/12 R240). The share base waits in `addr`. -/
def readDesc (s : State) (n : Nat) : State := match (s.seq n).ae.cmd with
  | none => s
  | some c =>
    if c.op ≠ .map || c.ready || !depsMet s n c.after || !engineOn s (((s.seq n).ctx).getD 0) (coreOf n) || !segsLive s c.seg then s
    else
      let s := leaves s (coreOf n) c.id
      match loadPoisoned s (coreOf n) .a c.seg with
      | some va => aeAbort s n c va
      | none =>
        let d := BitVec.ofNat 512 (loadSegs s (coreOf n) .a c.seg false).2
        let ctx := ((s.seq n).ctx).getD 0
        let taken := (s.ctx ctx).seqs.any fun m => m ≠ n && clusterOf (coreOf m) = clusterOf (coreOf n) &&
          ((((s.seq m).ae.reg).map fun r => adTag r.desc) = some (adTag d) || (((s.seq m).ae.cmd).map (·.op) = some .map && (cmdDesc (s.seq m)).map adTag = some (adTag d)))
        if !adValid d || (shareOf s d n).isNone || taken then aeCause (endCmd s n) n c { cause := .ampMap }
        else modCmd s n fun c => { c with ready := true, addr := c.matrix, matrix := d.toNat }

/-- Start of a command whose digests agree: `agate` reads its matrix once (spec/12 R241). -/
def startCmd (s : State) (n : Nat) : State := match (s.seq n).ae.cmd with
  | none => s
  | some c =>
    let s := leaves s (coreOf n) c.id
    match c.op with
    | .gate _ => match loadPoisoned s (coreOf n) .a c.seg with
      | some va => aeAbort s n c va
      | none =>
        let v := (loadSegs s (coreOf n) .a c.seg false).2
        modCmd s n fun c => { c with started := true, matrix := v, todo := c.qubits }
    | _ => modCmd s n fun c => { c with started := true, todo := c.qubits }

/-- The engines of the vector arg 1 of context arg 0 exchange digests; arg 2 says, for engines on other modules, that
theirs have come and agree (1), differ (2), or not yet (0). -/
def execAeDigestExchange (s : State) : Host.Outcome State Fault Refusal :=
  .next (let c := s.arg 0
  let s := (s.ctx c).seqs.foldl readDesc s
  let l := (members s c (s.arg 1)).filter fun n => match (s.seq n).ae.cmd with
    | some x => !x.started && depsMet s n x.after && engineOn s c (coreOf n) && segsLive s x.seg
    | none => false
  -- a participant's descriptor all of whose engines here have come (R236: it waits for the others)
  match (l.filterMap fun n => cmdDesc (s.seq n)).find? fun d => (localShares s d).all fun i => l.any fun n => shareOf s d n = some i with
  | none => s
  | some d =>
    let away := localShares s d ≠ List.range (engineCount d)
    let gone := (List.range (engineCount d)).any fun i => s.sys.away.contains (engineAt d i).1
    if gone || (away && s.arg 2 = 0) then s
    else
      let first := l.head?.bind fun n => digestOf (s.seq n)
      if l.all (fun n => digestOf (s.seq n) = first) && !(away && s.arg 2 ≠ 1) then l.foldl startCmd s
      else l.foldl (fun s n => match (s.seq n).ae.cmd with
        | some x => aeCause (endCmd ((leaves s (coreOf n) x.id).modSeq n fun q => { q with aeprog := q.aeprog / 2 ^ 32 * 2 ^ 32 }) n) n x { cause := .ampMap }
        | none => s) s)

/-- Every participant of the `amap` of vector arg 1 has registered: each loads its registration and map (spec/12 R240). -/
def execAmapRegister (s : State) : Host.Outcome State Fault Refusal :=
  .next ((members s (s.arg 0) (s.arg 1)).foldl (fun s n => match (s.seq n).ae.cmd with
    | some x =>
      if x.op = .map && x.started && x.pass = 0 then
        let d := BitVec.ofNat 512 x.matrix
        (s.modSeq n fun q => { q with ae := { q.ae with reg := some { desc := d, base := x.addr, share := (shareOf s d n).getD 0 }
                                                        pos := adPos d, stamp := List.replicate 48 0, seqno := 0 } }) |>
          fun s => modCmd s n fun c => { c with pass := 1 }
      else s
    | none => s) s)

/-! ### Exchanges (spec/12 R241, R242, R246) -/

/-- The next exchange of a started command: the qubits whose positions swap and their positions, the local one first
unless both lie outside the share. -/
def nextExchange (a : Ae) (c : AeCmd) (l n : Nat) : Option (Nat × Nat × Nat × Nat) :=
  let pos := fun (q : Nat) => a.pos.getD q q
  match c.op with
  | .gate _ => match c.todo.find? fun g => l ≤ pos g with
    | none => none
    | some g =>
      let cand := (List.range n).filter fun q => pos q < l && !c.qubits.contains q
      let best := (sortBy (fun q => a.stamp.getD q 0 * 64 + pos q) cand).headD 0
      some (best, g, pos best, pos g)
  | .swap =>
    let q1 := c.qubits.getD 0 0
    let q2 := c.qubits.getD 1 0
    if c.pass ≠ 0 || q1 = q2 || (pos q1 < l && pos q2 < l) then none
    else if pos q1 < l then some (q1, q2, pos q1, pos q2)
    else if pos q2 < l then some (q2, q1, pos q2, pos q1)
    else some (q1, q2, pos q1, pos q2)
  | _ => none

/-- Amplitudes an exchange moves: own share, partner's share, and the pairs of local indices from the k-th on. -/
def exchangePlan (l share p1 p2 : Nat) : Option (Nat × Nat × (Nat → Nat × Nat)) :=
  if p1 < l then
    let y := share / 2 ^ (p2 - l) % 2
    let partner := if y = 0 then share + 2 ^ (p2 - l) else share - 2 ^ (p2 - l)
    some (partner, 2 ^ (l - 1), fun t =>
      let lo := t / 2 ^ p1 * 2 ^ (p1 + 1) + t % 2 ^ p1
      (lo + (1 - y) * 2 ^ p1, lo + y * 2 ^ p1))
  else
    let a := share / 2 ^ (p1 - l) % 2
    let b := share / 2 ^ (p2 - l) % 2
    if a = b then none
    else some (share ^^^ (2 ^ (p1 - l) + 2 ^ (p2 - l)), 2 ^ l, fun t => (t, t))

def chunkAmps : Nat := 4096
/-- Translate the amplitudes at these local indices of a share (spec/12 R247). -/
def ampSegs (s : State) (n : Nat) (r : AeReg) (need_ : Needs) (idx : List Nat) : Except XFault (List Seg) :=
  let b := ampBytes r.desc
  elemSegs s (coreOf n) .shared (asidOf s n) .a need_ b (idx.zipIdx.map fun (j, k) => (r.base + j * b, k * b))
/-- Swap two qubits' positions. -/
def swapPos (a : Ae) (q1 q2 : Nat) : Ae := { a with pos := (a.pos.set q1 (a.pos.getD q2 q2)).set q2 (a.pos.getD q1 q1) }
/-- After a chunk of an exchange of `total` amplitudes: count it, empty the buffer, and after the last swap the map. -/
def afterExchange (s : State) (n total q1 q2 : Nat) : State :=
  let s := countChunk s n (((regOf s n).map fun r => adFmt r.desc).getD .f32) chunkAmps
  s.modSeq n fun q => match q.ae.cmd with
    | none => q
    | some c =>
      let c := { c with sent := none, posted := false, acked := false, got := false }
      if total ≤ (c.done + 1) * chunkAmps then
        { q with ae := { (swapPos q.ae q1 q2) with cmd := some { c with done := 0, exchange := none, todo := c.todo.filter (· ≠ q2), pass := if c.op = .swap then 1 else c.pass } } }
      else { q with ae := { q.ae with cmd := some { c with done := c.done + 1 } } }

/-- May a started command go on. -/
def cmdRuns (s : State) (n : Nat) : Option AeCmd := match (s.seq n).ae.cmd with
  | some c => if c.started && engineOn s (((s.seq n).ctx).getD 0) (coreOf n) && (s.seq n).causes = [] then some c else none
  | none => none
/-- The sequencer that holds a share of the same vector. -/
def holder (s : State) (c : Nat) (r : AeReg) (share : Nat) : Option Nat :=
  (s.ctx c).seqs.find? fun m => match regOf s m with
    | some x => adTag x.desc = adTag r.desc && x.share = share
    | none => false
/-- An engine's chunk of an exchange at these local indices: translated, then read into the exchange buffer unless it is
there already (spec/12 R242, R247). What stops the engine stops it before the chunk. -/
def fillBuffer (s : State) (n : Nat) (c : AeCmd) (r : AeReg) (idx : List Nat) : State × Option (List Seg × Nat) :=
  match ampSegs s n r { r := true, w := true } idx with
  | .error f => (aeCause s n c (f.trap 7), none)
  | .ok l =>
    if !segsLive s l then (s, none)
    else if c.acked || c.sent.isSome then (s, some (l, c.sent.getD 0))
    else match loadPoisoned s (coreOf n) .a l with
      | some va => (aeAbort s n c va, none)
      | none =>
        let v := (loadSegs s (coreOf n) .a l false).2
        (modCmd (installSegs s (coreOf n) .shared (asidOf s n) l) n fun c => { c with sent := some v }, some (l, v))
/-- The chunk in the buffer goes to an engine of another module (arg 1 = 0); that engine's chunk, arg 2, comes (1); its
acknowledgement comes (2). -/
def farChunk (s : State) (n : Nat) (c : AeCmd) (r : AeReg) (partner total q1 q2 : Nat) (l : List Seg) (v : Nat) : State :=
  let mo := (engineAt r.desc partner).1
  let seqno := (s.seq n).ae.seqno
  if s.sys.away.contains mo then s
  else if s.arg 1 = 0 then (if c.posted then s else (modCmd s n fun c => { c with posted := true }).out (.exchange mo partner seqno c.done v))
  else if s.arg 1 = 1 then if !causal s n c.id then s else
    let s := (modCmd (writeAll s (funcOf s n) l (s.arg 2)) n fun c => { c with got := true }).out (.exchanged mo partner seqno c.done)
    if c.acked then afterExchange s n total q1 q2 else s
  else if c.got then afterExchange s n total q1 q2
  else modCmd s n fun c => { c with sent := none, acked := true }
/-- Have the engines that take part in an exchange of whole shares made it; arg 1 says so of those on other modules. -/
def othersDone (s : State) (n : Nat) (r : AeReg) (p1 p2 : Nat) : Bool :=
  (List.range (engineCount r.desc)).all fun i => (exchangePlan (adL r.desc) i p1 p2).isNone ||
    if (engineAt r.desc i).1 ≠ s.sys.modid then s.arg 1 ≠ 0
    else match holder s (((s.seq n).ctx).getD 0) r i with
      | some m => (s.seq m).ae.seqno ≠ (s.seq n).ae.seqno || ((s.seq m).ae.cmd).all fun d => d.pass ≠ 0
      | none => true

/-- One chunk of the exchange of sequencer arg 0 and its partner: each reads its own into its buffer, and each writes the
other's once both are there. An engine outside an exchange of whole shares waits for those inside it (spec/12 R242, R246). -/
def execAeExchangeChunk (s : State) : Host.Outcome State Fault Refusal :=
  .next (let n := s.arg 0
  match cmdRuns s n, regOf s n with
  | some c, some r =>
    let l := adL r.desc
    match nextExchange (s.seq n).ae c l (adN r.desc) with
    | none => s
    | some (q1, q2, p1, p2) =>
      let s := modCmd s n fun c => { c with exchange := some (q2, p1, p2) }
      match exchangePlan l r.share p1 p2 with
      | none => if !othersDone s n r p1 p2 then s else
        s.modSeq n fun q => { q with ae := { (swapPos q.ae q1 q2) with cmd := some { c with pass := 1, exchange := none } } }
      | some (partner, total, pairs) =>
        let idx := ((List.range (Nat.min chunkAmps (total - c.done * chunkAmps))).map fun k => pairs (c.done * chunkAmps + k))
        match fillBuffer s n c r (idx.map (·.1)) with
        | (s, none) => s
        | (s, some (mine, v)) =>
          if (engineAt r.desc partner).1 ≠ s.sys.modid then farChunk s n c r partner total q1 q2 mine v
          else match holder s (((s.seq n).ctx).getD 0) r partner with
            | none => s
            | some m => match cmdRuns s m, regOf s m with
              | some d, some u =>
                if d.done ≠ c.done || (s.seq m).ae.seqno ≠ (s.seq n).ae.seqno || nextExchange (s.seq m).ae d l (adN r.desc) ≠ some (q1, q2, p1, p2) then s
                else match fillBuffer (modCmd s m fun d => { d with exchange := some (q2, p1, p2) }) m d u (idx.map (·.2)) with
                  | (s, none) => s
                  | (s, some (theirs, w)) => if !causal s n c.id || !causal s m d.id then s else
                    afterExchange (afterExchange (writeAll (writeAll s (funcOf s n) mine w) (funcOf s m) theirs v) n total q1 q2) m total q1 q2
              | _, _ => s
  | _, _ => s)

/-! ### Gates, sums and collapse (spec/12 R243-R245) -/

/-- Insert zero bits at rising positions. -/
def spread (t : Nat) (ps : List Nat) : Nat := ps.foldl (fun x p => x / 2 ^ p * 2 ^ (p + 1) + x % 2 ^ p) t
/-- Local index of vector element k of a group. -/
def groupIndex (ps : List Nat) (low k : Nat) : Nat := ps.zipIdx.foldl (fun x (p, t) => x + k / 2 ^ t % 2 * 2 ^ p) low
/-- A fused step that joins flags. -/
def aeFma (f : Fmt) (neg : Bool) (x y : Nat) (acc : Nat × Nat) : Nat × Nat :=
  let r := Fp.fma f 0 neg x y acc.1
  (r.1, acc.2 ||| r.2)
/-- Row times vector: real and imaginary parts with flags. -/
def aeRow (f : Fmt) : List (Nat × Nat) → List (Nat × Nat) → (Nat × Nat) × (Nat × Nat) → (Nat × Nat) × (Nat × Nat)
  | (ur, ui) :: us, (vr, vi) :: vs, (re, im) =>
    aeRow f us vs (aeFma f true ui vi (aeFma f false ur vr re), aeFma f false ui vr (aeFma f false ur vi im))
  | _, _, acc => acc
/-- Amplitudes of a byte string: real and imaginary patterns. -/
def ampsOf (w : Nat) (n v : Nat) : List (Nat × Nat) := (List.range n).map fun k => (v / 2 ^ (2 * w * k) % 2 ^ w, v / 2 ^ (2 * w * k + w) % 2 ^ w)
def ampsNat (w : Nat) (l : List (Nat × Nat)) : Nat := packE (2 * w) (l.map fun x => x.1 + x.2 * 2 ^ w)
/-- One group: the new amplitudes and flags. -/
def aeGroup (f : Fmt) (m u : Nat) (v : List (Nat × Nat)) : List (Nat × Nat) × Nat :=
  let w := Fp.width f
  let rows := chunks (2 ^ m) (2 ^ m) (ampsOf w (4 ^ m) u)
  let r := rows.map fun row => aeRow f row v ((0, 0), (0, 0))
  (r.map fun x => (x.1.1, x.2.1), r.foldl (fun a x => a ||| x.1.2 ||| x.2.2) 0)
/-- |a|^2 in f64 as spec/12 R244 forms it. -/
def ampProb (f : Fmt) (a : Nat × Nat) : Nat × Nat :=
  let up := fun (x : Nat) => Fp.convert .f64 f 0 false x
  let re := up a.1
  let im := up a.2
  let sq := Fp.mul .f64 0 im.1 im.1
  let t := Fp.fma .f64 0 false re.1 re.1 sq.1
  (t.1, t.2 ||| sq.2 ||| re.2 ||| im.2)

/-- One chunk of the local work of sequencer arg 0: gate groups, sums, the collapse, or a permutation in place. -/
def execAeGateChunk (s : State) : Host.Outcome State Fault Refusal :=
  .next (let n := s.arg 0
  match cmdRuns s n, regOf s n with
  | some c, some r =>
    let a := (s.seq n).ae
    let l := adL r.desc
    let f := adFmt r.desc
    let w := Fp.width f
    let pos := fun (q : Nat) => a.pos.getD q q
    if c.ready || (nextExchange a c l (adN r.desc)).isSome then s
    else
      -- indices of the chunk, how many units the pass has, and whether it writes
      let unit := match c.op with
        | .gate m => 2 ^ m
        | .swap => 2
        | _ => 1
      let total := match c.op with
        | .gate m => 2 ^ (l - m)
        | .swap => 2 ^ (l - 2)
        | _ => 2 ^ l
      let noWork := match c.op with
        | .map => true
        | .swap => c.pass ≠ 0 || c.qubits.getD 0 0 = c.qubits.getD 1 0
        | _ => false
      let writes := match c.op with
        | .gate _ | .swap => true
        | .coll _ => c.pass = 1
        | _ => false
      let ps := match c.op with
        | .gate _ => c.qubits.map pos
        | _ => []
      let sorted := sortBy id ps
      let p1 := pos (c.qubits.getD 0 0)
      let p2 := pos (c.qubits.getD 1 0)
      let ts := (List.range (Nat.min chunkAmps (total - c.done * chunkAmps))).map fun k => c.done * chunkAmps + k
      let idx := match c.op with
        | .gate m => (ts.map fun t => (List.range (2 ^ m)).map fun k => groupIndex ps (spread t sorted) k).flatten
        | .swap => (ts.map fun t => let b := spread t (sortBy id [p1, p2]); [b + 2 ^ p1, b + 2 ^ p2]).flatten
        | _ => ts
      if noWork then modCmd s n fun c => { c with ready := true }
      else match ampSegs s n r { r := true, w := writes } idx with
        | .error x => aeCause s n c (x.trap 7)
        | .ok sg =>
          if !segsLive s sg || (writes && !causal s n c.id) then s
          else match loadPoisoned s (coreOf n) .a sg with
            | some va => aeAbort s n c va
            | none =>
              let v := ampsOf w idx.length (loadSegs s (coreOf n) .a sg false).2
              let groups := chunks unit (idx.length + 1) v
              let res : List (Nat × Nat) × Nat := match c.op with
                | .gate m => let g := groups.map (aeGroup f m c.matrix); ((g.map (·.1)).flatten, g.foldl (fun x y => x ||| y.2) 0)
                | .swap => ((groups.map List.reverse).flatten, 0)
                | .coll o => if !writes then ([], 0) else
                  let one := Fp.sqrt .f64 0 c.sum0
                  let inv := Fp.div .f64 0 0x3FF0000000000000 one.1
                  let scale := fun (x : Nat) => Fp.deliver f 0 (Fp.mulExact (Fp.decode f x) (Fp.decode .f64 inv.1))
                  let out := (v.zip idx).map fun (x, j) =>
                    if (j + r.share * 2 ^ l) / 2 ^ p1 % 2 ≠ o then ((0, 0), 0) else let u := scale x.1; let y := scale x.2; ((u.1, y.1), u.2 ||| y.2)
                  (out.map (·.1), out.foldl (fun (x : Nat) y => x ||| y.2) (one.2 ||| inv.2))
                | _ => ([], 0)
              let sums := if writes then (c.sum0, c.sum1, 0) else
                (v.zip idx).foldl (fun (acc : Nat × Nat × Nat) (x, j) =>
                  let t := ampProb f x
                  let side := c.op ≠ .norm && (j + r.share * 2 ^ l) / 2 ^ p1 % 2 = 1
                  let u := Fp.add .f64 0 (if side then acc.2.1 else acc.1) t.1
                  (if side then acc.1 else u.1, if side then u.1 else acc.2.1, acc.2.2 ||| t.2 ||| u.2)) (c.sum0, c.sum1, 0)
              let s := if writes then writeAll s (funcOf s n) sg (ampsNat w res.1) else s
              let s := countChunk (installSegs s (coreOf n) .shared (asidOf s n) sg) n f (match c.op with | .gate m => groups.length * 4 ^ m | _ => idx.length)
              let last := total ≤ (c.done + 1) * chunkAmps
              s.modSeq n fun q =>
                let ae := { q.ae with cmd := some { c with done := if last then 0 else c.done + 1, ready := last, sum0 := sums.1, sum1 := sums.2.1, flags := c.flags ||| res.2 ||| sums.2.2, exchange := none } }
                let ae := match c.op with
                  | .gate _ => if last then { ae with stamp := c.qubits.foldl (fun t g => t.set g ae.seqno) ae.stamp } else ae
                  | .swap => if last then swapPos ae (c.qubits.getD 0 0) (c.qubits.getD 1 0) else ae
                  | _ => ae
                { q with ae := ae }
  | _, _ => s)

/-- Completion of one participant: XF, flags, and ULIST bit 1 where it is enabled (spec/12 R237). A strike rollback takes
only the flags back, with FMT (log 106). -/
def finishAe (s : State) (n : Nat) (c : AeCmd) (flags : Nat) : State :=
  let con := inConsumer s n c.pc
  (modBoth (endCmd s n) n fun q => if q.ulimask.getLsbD 1 then { q with ulist := q.ulist ||| 2 } else q).modSeq n (withFlags con (c.flags ||| flags))
/-- A participant writes the 16 bytes of its result and completes; an uncorrectable granule there ends it in a data abort
(spec/12 R238). -/
def finishSum (s : State) (n : Nat) (c : AeCmd) (x y flags : Nat) : State :=
  let t := writeAll s (funcOf s n) c.seg (x + y * 2 ^ 64) n
  match c.seg.find? fun g => poisonPart s (localPa g.pa) g.len with
  | some g => aeAbort t n c g.va
  | none => finishAe t n c flags

/-- A participant whose result is known writes it once its granules answer (spec/12 R244, R245). -/
def writeResult (s : State) (n : Nat) : State := match cmdRuns s n with
  | some c => if c.pass = 2 && segsLive s c.seg && causal s n c.id then finishSum s n c c.sum0 c.sum1 0 else s
  | none => s

/-- Commands of the vector arg 1 of context arg 0 complete. Sums wait for every engine and are combined by the tree of
spec/05 R89, for all participants at once; args 2 and on hold the sums of engines on other modules, S0 and S1 of each in
rising engine id. A participant then writes its result, later where its die is calved (spec/12 R248). -/
def execAeCommandComplete (s : State) : Host.Outcome State Fault Refusal :=
  .next (let l := members s (s.arg 0) (s.arg 1)
  match l.head?.bind fun n => cmdDesc (s.seq n) with
  | none => s
  | some d =>
    let away := (List.range (engineCount d)).filter fun i => (engineAt d i).1 ≠ s.sys.modid
    let cmdAt := fun (i : Nat) => (l.find? fun n => shareOf s d n = some i).bind fun n => cmdRuns s n
    let all := ((localShares s d).all fun i => match cmdAt i with
      | some c => c.ready && c.pass = 0
      | none => false) && !away.any fun i => s.sys.away.contains (engineAt d i).1
    let sumOf := fun (i k : Nat) => match cmdAt i with
      | some c => if k = 0 then c.sum0 else c.sum1
      | none => s.arg (2 + 2 * away.idxOf i + k)
    let tree := fun (k : Nat) => redTree (fun x y => Fp.add .f64 0 x y) 17 ((List.range (engineCount d)).map fun i => sumOf i k, 0)
    let result := fun (s : State) (n x y flags : Nat) => modCmd s n fun c => { c with pass := 2, sum0 := x, sum1 := y, flags := c.flags ||| flags }
    let s := l.foldl (fun s n => match cmdRuns s n with
      | none => s
      | some c => match c.op with
        | .map => if c.pass = 1 then finishAe s n c 0 else s
        | .gate _ | .swap => if c.ready then finishAe s n c 0 else s
        | .meas => if all then result s n ((tree 0).1.headD 0) ((tree 1).1.headD 0) ((tree 0).2 ||| (tree 1).2) else s
        | .norm => if all then result s n ((tree 0).1.headD 0) 0 (tree 0).2 else s
        | .coll o =>
          if c.pass = 1 && c.ready then result s n c.sum0 0 0
          else if !all then s
          else
            let p := (tree o).1.headD 0
            if p % 2 ^ 63 = 0 then result s n p 1 (tree o).2
            else modCmd s n fun c => { c with pass := 1, ready := false, done := 0, sum0 := p, sum1 := 0, flags := c.flags ||| (tree o).2 }) s
    l.foldl writeResult s)

end Sys2Proof.Machine
end

