-- ==== Sys2Proof/Machine/Channel.lean ====
section
/-! DEFINITION. Channels and drift rings (spec/16 R300-R315, spec/18 R350-R352). -/
set_option linter.unusedVariables false
namespace Sys2Proof.Machine
open Sys2Proof

/-! ### Entries and ends -/

def ceDecl (e : BitVec 40) : Bool := bit e.toNat 39
def ceFmt (e : BitVec 40) : Fmt := fmtOf (fld e.toNat 38 35)
def ceDepth (e : BitVec 40) : Nat := fld e.toNat 34 28
/-- Is the end a send end. -/
def ceSend (e : BitVec 40) : Bool := bit e.toNat 27
def cePeerCh (e : BitVec 40) : Nat := fld e.toNat 26 21
def cePeerId (e : BitVec 40) : Nat := fld e.toNat 20 0
def chanOf (q : Seq) (c : Nat) : Chan := q.chans.getD c {}
def modChan (q : Seq) (c : Nat) (f : Chan → Chan) : Seq := { q with chans := q.chans.put c (f (chanOf q c)) }

/-- The launch of a context: its FLID, or the context itself on one module (spec/16 R302). -/
def launchKey (s : State) (c : Nat) : Nat × Bool := let f := (s.ctx c).lr 152 8; if f = 0 then (c, false) else (f, true)
/-- The context of this module that belongs to a launch. -/
def ctxOfLaunch (s : State) (k : Nat × Bool) : Option Nat := (List.find? (fun (e : Nat × Ctx) => launchKey s e.1 = k && e.2.st ≠ .complete && e.2.st ≠ .killed && e.2.st ≠ .lost) s.ctxs).map (·.1)
def localSeq (s : State) (id : Nat) : Option Nat := if id / 2048 = s.sys.modid then some (id % 2048) else none

/-- Do two entries match: the notice's, and the own entry of channel `c` of sequencer id `me` (spec/16 R302). -/
def entriesMatch (me c : Nat) (own : BitVec 40) (key : Nat × Bool) (x : Notice) : Bool :=
  cePeerId own = x.src && cePeerCh own = x.chan && cePeerId x.entry = me && cePeerCh x.entry = c &&
  ceSend own ≠ ceSend x.entry && ceDepth own = ceDepth x.entry && ceFmt own = ceFmt x.entry && key = (x.launch, x.fabric)

def Msg.dst : Msg → Nat × Nat
  | .vector _ _ d dc _ => (d, dc) | .credit d dc _ _ => (d, dc) | .declare d dc _ => (d, dc) | .close d dc _ _ _ => (d, dc)
/-- A channel message of a launch sets out. -/
def post (s : State) (key : Nat × Bool) (m : Msg) (stays : Bool := false) (gen : Nat := 0) : State :=
  let f : Flight := { id := s.nextId, launch := key.1, fabric := key.2, msg := m, stays := stays, gen := gen }
  let f := match s.issue with
    | some k => { f with pc := k.pc, slot := k.pos, held := k.held }
    | none => f
  { s with msgs := s.msgs ++ [f], nextId := s.nextId + 1 }
/-- The declaration that traffic of an end is for, as far as its sender knows it: that of a peer on another module which
its notice told of; for a notice to a sequencer here, that of an end open now (spec/18 R351, log 69). -/
def genFor (s : State) (n : Nat) (x : Chan) (notice : Bool) : Nat := match localSeq s (cePeerId x.entry) with
  | none => if x.pv && !(notice && x.peercl) then x.pgen else 0
  | some m =>
    let y := chanOf (s.seq m) (cePeerCh x.entry)
    if notice && ceDecl y.entry && !y.owncl && (s.seq m).ctx = (s.seq n).ctx then y.gen else 0
/-- Send a channel message of sequencer `n` from its channel `c`. -/
def transmit (s : State) (n c : Nat) (m : Msg) : State :=
  post s (launchKey s (((s.seq n).ctx).getD 0)) m false (genFor s n (chanOf (s.seq n) c) false)
/-- Return `k` credits of channel `c` of sequencer `n` to its peer. -/
def returnCredits (s : State) (n c : Nat) : Nat → State
  | 0 => s
  | k + 1 =>
    let e := (chanOf (s.seq n) c).entry
    returnCredits (transmit s n c (.credit (cePeerId e) (cePeerCh e) (seqId s n) c)) n c k

/-! ### COM slots (spec/16 R303-R308) -/

/-- The channel faults of spec/16 R305 and R303. -/
def chanFault (q : Seq) (c : Nat) (send : Bool) : Option Trap :=
  let x := chanOf q c
  let t : Trap := { cause := .channelFault, addr := x.entry.toNat }
  if !ceDecl x.entry || ceSend x.entry ≠ send || x.owncl then some t
  else if x.pv && !x.pm then some { t with aux := x.peer.toNat }
  else none
/-- Has a drift ring no free slot. -/
def ringFull (x : Drift) : Bool := 1024 ≤ x.tail - x.head
/-- The context whose end a message is for: that of its launch where it holds the sequencer, else the sequencer's. -/
def ctxOfEnd (s : State) (n : Nat) (key : Nat × Bool) : Option Nat := match ctxOfLaunch s key with
  | some c => if (s.ctx c).seqs.contains n then some c else (s.seq n).ctx
  | none => (s.seq n).ctx
/-- Is the drift ring of the peer's context full: one of another module has turned a message of the launch away (spec/16
R314). -/
def driftFull (s : State) (n c : Nat) : Bool :=
  let key := launchKey s (((s.seq n).ctx).getD 0)
  let id := cePeerId (chanOf (s.seq n) c).entry
  match localSeq s id with
  | some m => (ctxOfEnd s m key).any fun d => ringFull (s.ctx d).drift
  | none => s.sys.remote.any fun r => r.full && r.tx.to = id / 2048 && r.tx.launch = key.1 && r.tx.fabric = key.2

def execSend (c a : Reg) (m : BitVec 2) (s : State) : Host.Outcome State Fault Refusal :=
  let w := viewOfM m
  .next (slot s (fun k =>
    let x := chanOf k.before c.toNat
    { names := vnames w [a], reads := vnames w [a]
      ready := portPath s k.n [a] [] && (s.seq k.n).room .cm
      checks := chanFault k.before c.toNat true :: portChecks s k.n [a] []
      wait := if x.pv && 0 < x.cred && !driftFull s k.n c.toNat then none else some .slot }) fun k s =>
    let v := peekVec s k w [a] a
    let s := popVecs s k [a]
    let x := chanOf k.before c.toNat
    if x.peercl then s
    else
      let s := s.modSeq k.n fun q => (modChan q c.toNat fun y => { y with cred := y.cred - 1 }).raise .cm
      transmit s k.n c.toNat (.vector (seqId s k.n) c.toNat (cePeerId x.entry) (cePeerCh x.entry) v))

/-- Take one vector: popped with its credit returned, or zero on a closed channel (spec/16 R306). -/
def takeVec (s : State) (n c : Nat) : State × Vec := match (chanOf (s.seq n) c).buf with
  | [] => (s, 0)
  | v :: t => (returnCredits (s.modSeq n fun q => modChan q c fun y => { y with buf := t }) n c 1, v)
/-- A receive: destination `d`, combined with `b` where there is one. -/
def recvSlot (s : State) (c d : Reg) (src : List Reg) (m : BitVec 2) (fmtOk : Fmt → Bool) (f : Mode → Fmt → Vec → (Reg → Vec) → Vec × Nat) : State :=
  let w := viewOfM m
  slot s (fun k =>
    let x := chanOf k.before c.toNat
    { names := vnames w (d :: src), reads := vnames w src
      ready := portPath s k.n src [d]
      checks := chanFault k.before c.toNat false :: need (fmtOk (ceFmt x.entry)) .illegalInstr :: portChecks s k.n src [d]
      wait := if x.buf ≠ [] || x.peercl then none else some .slot }) fun k s =>
    let vals := fun r => peekVec s k w src r
    let s1 := popVecs s k src
    let t := takeVec s1 k.n c.toNat
    let r := f (modeOf k) (ceFmt (chanOf k.before c.toNat).entry) t.2 vals
    (putVec t.1 k w d r.1).flag r.2

def execRecv (c d : Reg) (m : BitVec 2) (s : State) : Host.Outcome State Fault Refusal :=
  .next (recvSlot s c d [] m (fun _ => true) fun _ _ v _ => (v, 0))
def execRecvadd (c d b : Reg) (m : BitVec 2) (s : State) : Host.Outcome State Fault Refusal :=
  .next (recvSlot s c d [b] m accFI fun md f v vals => elementwise f (eAdd md f) (vals b) v 0)
def execRecvmax (c d b : Reg) (m : BitVec 2) (s : State) : Host.Outcome State Fault Refusal :=
  .next (recvSlot s c d [b] m accFI fun md f v vals => elementwise f (eMinMax true md f) (vals b) v 0)

/-- The state word of a channel (spec/16 R307). -/
def chanWord (x : Chan) : Nat :=
  if !ceDecl x.entry then 0 else
  (if ceSend x.entry then x.cred else x.buf.length) + (ceSend x.entry).toNat * 2 ^ 7 + 2 ^ 8 + x.pv.toNat * 2 ^ 9 + x.pm.toNat * 2 ^ 10 + x.owncl.toNat * 2 ^ 11 + x.peercl.toNat * 2 ^ 12
def execChpoll (c d : Reg) (s : State) : Host.Outcome State Fault Refusal :=
  .next (slot s (fun _ => { names := snames [d] }) fun k s => s.ws k d (BitVec.ofNat 64 (chanWord (chanOf k.before c.toNat))))

/-- Close an end: a receive end returns the credits of what it discards; a close notice follows (spec/16 R308). -/
def closeEnd (s : State) (n c : Nat) : State :=
  let x := chanOf (s.seq n) c
  if !ceDecl x.entry || x.owncl then s
  else
    let s := if ceSend x.entry then s else returnCredits s n c x.buf.length
    let s := s.modSeq n fun q => modChan q c fun y => { y with owncl := true, buf := [] }
    transmit s n c (.close (cePeerId x.entry) (cePeerCh x.entry) (seqId s n) c (ceSend x.entry))
def execChclose (c : Reg) (s : State) : Host.Outcome State Fault Refusal :=
  .next (slot s (fun _ => {}) fun k s => closeEnd s k.n c.toNat)

/-- Receive depth already declared on a core, beside channel `c` of sequencer `n` (spec/16 R301). -/
def depthUsed (s : State) (n c : Nat) : Nat :=
  (((List.range 4).map fun k => let m := 4 * coreOf n + k
    ((s.seq m).chans.filter fun e => ceDecl e.2.entry && !ceSend e.2.entry && !(m = n && e.1 = c)).map fun e => ceDepth e.2.entry).flatten).foldl (· + ·) 0
/-- Is a fabric sequencer id a sequencer of the launch, as far as this module decides it (spec/18 R352). -/
def peerOk (s : State) (c id : Nat) : Bool := match localSeq s id with
  | some n => (s.ctx c).seqs.contains n
  | none => (s.ctx c).lr 152 8 ≠ 0 && (s.ctx c).mask.contains (id / 2048)
/-- Is a message traffic toward an earlier declaration of an end: any but a notice to the declaration that follows
(spec/18 R351, log 69). -/
def Flight.towards (id c : Nat) (f : Flight) : Bool := f.msg.dst = (id, c) && match f.msg with
  | .declare _ _ _ => f.gen ≠ 0
  | _ => true
/-- The CM of the sender of vector `m` falls, in place or in its save (spec/16 R306, R315). -/
def lowerCm (s : State) (key : Nat × Bool) (id m : Nat) : State := match localSeq s id with
  | none => s
  | some n =>
    if (s.seq n).ctx.map (launchKey s) = some key then lowerLate s n m .cm
    else match ctxOfLaunch s key with
      | some c => s.modCtx c fun x => { x with saved := x.saved.map fun v => { v with seqs := v.seqs.map fun e => if e.1 = n then (e.1, e.2.lower .cm) else e } }
      | none => s

def execChdecl (c a : Reg) (s : State) : Host.Outcome State Fault Refusal :=
  .next (slot s (fun k =>
    let v := (k.rs a).toNat
    let e := BitVec.ofNat 40 v
    let me := seqId s k.n
    let bad := fld v 63 39 ≠ 0 || ceDepth e = 0 || 64 < ceDepth e || !peerOk s (k.before.ctx.getD 0) (cePeerId e) ||
      (cePeerId e = me && cePeerCh e = c.toNat) || (ceDecl (chanOf k.before c.toNat).entry && !(chanOf k.before c.toNat).owncl) ||
      (!ceSend e && 512 < depthUsed s k.n c.toNat + ceDepth e)
    { names := snames [a], reads := snames [a], checks := [if bad then some { cause := .channelFault, addr := v } else none] }) fun k s =>
    let n := k.n
    let ctx := k.before.ctx.getD 0
    let e := BitVec.ofNat 40 ((k.rs a).toNat % 2 ^ 39 + 2 ^ 39)
    let me := seqId s n
    let old := s.msgs.filter fun m => m.towards me c.toNat
    let s := old.foldl (fun s m => match m.msg with
      | .vector src _ _ _ _ => lowerCm s (m.launch, m.fabric) src m.id
      | _ => s) { s with msgs := s.msgs.filter fun m => !m.towards me c.toNat }
    let s := s.modCtx ctx fun x => { x with drift := { x.drift with recs := x.drift.recs.filter fun r => !r.2.towards me c.toNat } }
    let kept := (s.seq n).kept.find? c.toNat
    let pm := match kept with
      | some x => entriesMatch me c.toNat e (launchKey s ctx) x
      | none => false
    let x : Chan := { entry := e, cred := if ceSend e then ceDepth e else 0, pv := kept.isSome, pm := pm, peer := (kept.map (·.entry)).getD 0
                      gen := s.nextId, pgen := (kept.map (·.gen)).getD 0 }
    let was := chanOf (s.seq n) c.toNat
    let s := s.modSeq n fun q => { (modChan q c.toNat fun _ => x) with kept := q.kept.del c.toNat }
    let key := launchKey s ctx
    post s key (.declare (cePeerId e) (cePeerCh e) { src := me, chan := c.toNat, entry := e, launch := key.1, fabric := key.2, gen := x.gen }) false
      (genFor s n (if kept.isSome || cePeerId was.entry ≠ cePeerId e || cePeerCh was.entry ≠ cePeerCh e then x else { was with entry := e }) true))

/-! ### Arrivals (spec/16 R302, R308, R309, R312) -/

def Msg.src : Msg → Nat × Nat
  | .vector s c _ _ _ => (s, c) | .credit _ _ s c => (s, c) | .declare _ _ n => (n.src, n.chan) | .close _ _ s c _ => (s, c)
/-- Kind in a drift-ring slot (spec/16 R313). -/
def Msg.kind : Msg → Nat
  | .vector .. => 0 | .close .. => 1 | .declare .. => 2 | .credit .. => 3
/-- The 1,024 bytes of a slot (spec/16 R313). -/
def Msg.slotBytes (m : Msg) : Nat :=
  m.src.1 % 2 ^ 32 + m.dst.2 % 2 ^ 8 * 2 ^ 32 + m.kind * 2 ^ 40 + match m with
    | .vector _ _ _ _ v => v.toNat * 2 ^ 512
    | .declare _ _ n => n.entry.toNat * 2 ^ 48
    | _ => 0
/-- Does a slot hold what a record needs: nothing poisoned in its first 64 bytes, nor for a vector up to byte 575. -/
def slotGood (s : State) (pa : Nat) (m : Msg) : Bool := !poisoned s pa (if m.kind = 0 then 576 else 64)
/-- The message without its vector, which stands in the slot, and with it. -/
def Msg.bare : Msg → Msg
  | .vector s c d dc _ => .vector s c d dc 0
  | m => m
def Msg.withVec (w : Vec) : Msg → Msg
  | .vector s c d dc _ => .vector s c d dc w
  | m => m
/-- Where slot `k` of the ring of context `c` lies (log 103). -/
def driftSlotAt (c k : Nat) : Nat := 0x001FFFF00000 - (c % 65536 + 1) * 0x100000 + k % 1024 * 1024

/-- A message reaches the end of sequencer `n` (spec/16 R302, R303, R308). A vector that the end does not take is dropped
and returns a credit; what is for an earlier declaration is dropped alone (spec/18 R351). -/
def arriveAt (s : State) (n : Nat) (key : Nat × Bool) (m : Msg) (gen : Nat := 0) : State :=
  let c := m.dst.2
  let x := chanOf (s.seq n) c
  let fits := ceDecl x.entry && cePeerId x.entry = m.src.1 && cePeerCh x.entry = m.src.2
  if gen ≠ 0 && x.gen ≠ 0 && x.gen ≠ gen then s else
  match m with
  | .vector _ _ _ _ v =>
    if fits && !ceSend x.entry && !x.owncl then modBoth s n fun q => modChan q c fun y => { y with buf := y.buf ++ [v] }
    else post s key (.credit m.src.1 m.src.2 (seqId s n) c) true
  | .credit .. => if fits && ceSend x.entry then modBoth s n fun q => modChan q c fun y => { y with cred := Nat.min (ceDepth y.entry) (y.cred + 1) } else s
  | .close _ _ _ _ send => if fits && ceSend x.entry ≠ send then modBoth s n fun q => modChan q c fun y => { y with peercl := true } else s
  | .declare _ _ y =>
    if ceDecl x.entry && !x.owncl then modBoth s n fun q =>
      let own := (q.ctx.map (launchKey s)).getD (0, false)
      modChan q c fun z => { z with pv := true, pm := entriesMatch (seqId s n) c z.entry own y, peer := y.entry, pgen := y.gen }
    else modBoth s n fun q => { q with kept := q.kept.put c y }

/-- Must traffic for a sequencer go to its context's drift ring: the sequencer is stopped, on a calved die or frozen, its
context is being saved or is saved, or the ring still holds records for it (spec/16 R314, spec/21 R402, R404). -/
def drifts (s : State) (c n : Nat) : Bool :=
  let x := s.ctx c
  x.seqs.contains n && (((s.seq n).ctx = some c && ([SqState.preempted, .faulted, .calved, .frozen].contains (s.seq n).st || !dieLive s (dieOf (coreOf n)))) ||
    x.st = .saving || x.st = .saved || x.drift.recs.any fun r => r.2.msg.dst.1 = seqId s n)
/-- A record at the tail of a ring. -/
def toRing (s : State) (c : Nat) (f : Flight) : State :=
  let k := (s.ctx c).drift.tail
  (renewed (physWrite s (driftSlotAt c k) 1024 0 f.msg.slotBytes) (driftSlotAt c k) 1024).modCtx c fun x =>
    { x with drift := { x.drift with tail := k + 1, recs := x.drift.recs ++ [(k, { f with msg := f.msg.bare })] } }
/-- A message is placed: at the end of sequencer `n`, or in the drift ring; a full ring takes nothing. A vector that is
placed lowers its sender's CM (spec/16 R306, R314). -/
def place (s : State) (n : Nat) (f : Flight) : Option State :=
  let key := (f.launch, f.fabric)
  let s1 := match f.msg with
    | .vector src _ _ _ _ => lowerCm s key src f.id
    | _ => s
  match ctxOfEnd s n key with
  | some c => if drifts s c n then (if ringFull (s.ctx c).drift then none else some (toRing s1 c f)) else some (arriveAt s1 n key f.msg f.gen)
  | none => some (arriveAt s1 n key f.msg f.gen)

/-- The transaction that carries a message to another module (log 81). -/
def Flight.tx (f : Flight) : Tx :=
  let m := f.msg
  let y : Tx := { kind := txVector, addr := m.dst.1 / 2048 * 2 ^ 46 + m.dst.1 % 2048, src := m.src.1, chan := m.src.2, dchan := m.dst.2, launch := f.launch, fabric := f.fabric, gen := f.gen }
  match m with
  | .vector _ _ _ _ v => { y with len := 512, data := v.toNat }
  | .credit .. => { y with kind := txCredit }
  | .declare _ _ n => { y with kind := txDeclare, len := 16, data := n.entry.toNat + n.gen * 2 ^ 64 }
  | .close _ _ _ _ send => { y with kind := txClose, op := send.toNat }

/-- Message `k` goes on, if nothing of its channel and direction is before it: it is placed, or it leaves for another
module, which acknowledges it once it is placed there (spec/16 R312). -/
def arrive (s : State) (k : Nat) (kind : Nat) : State := match s.msgs[k]? with
  | none => s
  | some f =>
    let m := f.msg
    if m.kind ≠ kind || (s.msgs.take k).any (fun x => x.msg.dst = m.dst && x.msg.src = m.src) then s
    else
      let out := fun (s : State) => match localSeq s m.src.1 with
        | some n => leaves s (coreOf n) f.id
        | none => s
      match localSeq s m.dst.1 with
      | none =>
        if s.sys.remote.any fun r => r.id = f.id then s
        else out (submit s [{ id := f.id, tx := f.tx, seq := m.src.1 % 2048 }])
      | some n => match place (out { s with msgs := s.msgs.eraseIdx k }) n f with
        | some t => t
        | none => s

def execChannelVectorArrival (s : State) : Host.Outcome State Fault Refusal := .next (arrive s (s.arg 0) 0)
def execChannelCloseNotice (s : State) : Host.Outcome State Fault Refusal := .next (arrive s (s.arg 0) 1)
def execChannelDeclarationNotice (s : State) : Host.Outcome State Fault Refusal := .next (arrive s (s.arg 0) 2)
def execChannelCreditReturn (s : State) : Host.Outcome State Fault Refusal := .next (arrive s (s.arg 0) 3)

/-- The oldest drift-ring record for an end of the running sequencer arg 0 is replayed, as space allows (spec/16 R314). A
record that has become unreadable is not delivered; a vector's credit returns (spec/09 R187, log 103). -/
def execDriftRingReplay (s : State) : Host.Outcome State Fault Refusal :=
  .next (let n := s.arg 0
  match (s.seq n).ctx with
  | none => s
  | some c =>
    let x := s.ctx c
    if !(s.seq n).st.live || x.st ≠ .released then s
    else match x.drift.recs.find? fun r => r.2.msg.dst.1 = seqId s n with
      | none => s
      | some (k, f) =>
        let y := chanOf (s.seq n) f.msg.dst.2
        if f.msg.kind = 0 && ceDecl y.entry && !ceSend y.entry && ceDepth y.entry ≤ y.buf.length then s
        else
          let v := BitVec.ofNat 4096 (physRead s (driftSlotAt c k + 64) 512 0)
          let t := s.modCtx c fun x => { x with drift := { x.drift with recs := x.drift.recs.filter fun r => r.1 ≠ k } }
          if slotGood s (driftSlotAt c k) f.msg then arriveAt t n (f.launch, f.fabric) (f.msg.withVec v) f.gen
          else if f.msg.kind = 0 then post t (f.launch, f.fabric) (.credit f.msg.src.1 f.msg.src.2 (seqId s n) f.msg.dst.2) true
          else t)

end Sys2Proof.Machine
end

