-- ==== Sys2Proof/Machine/Wait.lean ====
section
/-! DEFINITION. Waits that end (spec/01 R19, spec/10 R205, spec/11 R224, spec/19 R360-R370), device time (R368), and
throttling (R371-R373). -/
set_option linter.unusedVariables false
namespace Sys2Proof.Machine
open Sys2Proof

/-- A waiting sequencer runs again. -/
def wake (q : Seq) : Seq := { q with st := .running, wait := none }

/-! ### Conditions of wait and COM slots -/

/-- Words of the bundle at an address, up to its stop bit, at most eight. -/
def bundleWords (c : Core) : Nat → Nat → List (BitVec 32)
  | 0, _ => []
  | k + 1, a => let w := instrWord c a; if slotStop w.toNat then [w] else w :: bundleWords c k (a + 4)

/-- Does a slot let its bundle go on: its wait is met, or its channel traps (spec/16 R305, R306). -/
def slotWaitMet (s : State) (n : Nat) (w : BitVec 32) : Bool :=
  let q := s.seq n
  match decodeSlot w.toNat with
  | .ok (.wait ld st xf mt cm) => waitMet q ld st xf mt cm
  | .ok (.send c _ _) => let x := chanOf q c.toNat
    (chanFault q c.toNat true).isSome || (x.pv && 0 < x.cred && !driftFull s n c.toNat)
  | .ok (.recv c _ _) => recvMet q c
  | .ok (.recvadd c _ _ _) => recvMet q c
  | .ok (.recvmax c _ _ _) => recvMet q c
  | _ => true
where
  recvMet (q : Seq) (c : Reg) : Bool := let x := chanOf q c.toNat
    (chanFault q c.toNat false).isSome || x.buf ≠ [] || x.peercl

/-- Are the waits of the bundle at the PC met, those of its kernel's held repeats included (spec/15 R292). -/
def bundleWaitsMet (s : State) (n : Nat) : Bool :=
  let q := s.seq n
  let words := bundleWords (s.core (coreOf n)) 8 q.pc
  let classes := words.map fun w => slotClass w.toNat
  words.all (slotWaitMet s n) &&
    (if inGap s n q.pc then [] else (q.bankOf (inConsumer s n q.pc)).held).all fun e => classes.contains e.1 || slotWaitMet s n e.2.word

/-- Sequencer arg 0 waits in a slot whose condition is met: it runs (spec/01 R19). -/
def execWaitingWake (s : State) : Host.Outcome State Fault Refusal :=
  .next (let n := s.arg 0
  if (s.seq n).st = .waiting && (s.seq n).wait = some .slot && bundleWaitsMet s n then s.modSeq n wake else s)

/-- DTIME has reached T of the `waitt` of sequencer arg 0; the late flag is written as the bundle issues. -/
def execWaittWake (s : State) : Host.Outcome State Fault Refusal :=
  .next (let n := s.arg 0
  match (s.seq n).wait, (s.seq n).pendT with
  | some .waitt, some (_, t, _) => if (s.seq n).st = .waiting && t ≤ s.sys.dtime then s.modSeq n wake else s
  | _, _ => s)

/-- An `mwait` ends with a reason; the watch is disarmed (spec/10 R205, spec/11 R224). -/
def endMwait (s : State) (n code : Nat) : State := match (s.seq n).wait with
  | some (.mwait d _) => (deliver s n d code).modSeq n fun q => { wake q with watch := none }
  | _ => s

/-- The timeout of the `mwait` of sequencer arg 0 has passed: code 1, or 0 where the watch has triggered too. -/
def execMwaitTimeout (s : State) : Host.Outcome State Fault Refusal :=
  .next (let n := s.arg 0
  match (s.seq n).wait with
  | some (.mwait _ (some t)) =>
    if (s.seq n).st = .waiting && t ≤ s.sys.dtime then endMwait s n (if triggered (s.seq n) then 0 else 1) else s
  | _ => s)

/-- The triggered watch of sequencer arg 0 wakes its `mwait`. The trigger itself comes with the write (`notify`) or the
invalidation. -/
def execMonitorTrigger (s : State) : Host.Outcome State Fault Refusal :=
  .next (let n := s.arg 0
  if (s.seq n).st = .waiting && triggered (s.seq n) then endMwait s n 0 else s)

/-- A `tbwait` re-reads PHASE at the home and ends once it differs; an uncorrectable word ends it too, in its bundle's trap. -/
def execTbwaitReread (s : State) : Host.Outcome State Fault Refusal :=
  .next (let n := s.arg 0
  match (s.seq n).wait with
  | some (.tbwait a x key) =>
    let g : Seg := { va := 0, pa := a, len := 16, at_ := 0, key := key }
    if (s.seq n).st = .waiting && segsLive s [g] && (poisoned s a 16 || barrierPhase s g ≠ x) then s.modSeq n wake else s
  | _ => s)

/-! ### Domain barriers (spec/19 R366, R367) -/

/-- Members of the current phase of a domain: sequencers of the launch in the unit with the DMR bit at its begin. -/
def domainMembers (s : State) (c : Nat) (l : Level) (unit : Nat) : List Nat :=
  (s.ctx c).seqs.filter fun n => unitOf l (coreOf n) = unit && !(s.seq n).withdrawn.getLsbD (levelCode l)
/-- Does a member count as arrived, with its release performed: what it covers, and every write causally before it
(spec/10 R195, R198). -/
def memberDone (s : State) (c key n : Nat) : Bool :=
  let q := s.seq n
  q.st = .retired || q.st = .idle || q.halting.isSome ||
    ((s.ctx c).arrived.contains (key, n) && q.st.live && noHalf s 0 && (q.order.filter fun o => o.paths = []).all fun o => depsMet s n o.after)

/-- The phase of context arg 0's domain of level arg 1 and unit arg 2 completes; arg 3 is 1 when, at the fabric level,
the members on other modules have arrived too; those of a module that is away have not (spec/21 R413). Nor have the members
of a context that is saved (spec/19 R366). -/
def execDsyncPhaseComplete (s : State) : Host.Outcome State Fault Refusal :=
  .next (match levelOf (s.arg 1) with
  | none => s
  | some l =>
    let c := s.arg 0
    let unit := s.arg 2
    let key := levelCode l * 16 + unit
    let members := domainMembers s c l unit
    let others := l = .fabric && (s.ctx c).mask.any (· ≠ s.sys.modid)
    if !(s.ctx c).arrived.any (fun e => e.1 = key) || !members.all (memberDone s c key) ||
        (others && (s.arg 3 ≠ 1 || (s.ctx c).mask.any fun m => s.sys.away.contains m)) || (s.ctx c).saved.isSome then s
    else
      let s := s.modCtx c fun x => { x with phases := x.phases.put key (x.phases.getD key 0 + 1), arrived := x.arrived.filter fun e => e.1 ≠ key }
      let units := (s.ctx c).seqs.filter fun n => unitOf l (coreOf n) = unit
      units.foldl (fun s n =>
        let s := leaves s (coreOf n) s.nextId
        s.modSeq n fun q =>
          let b := BitVec.ofNat 4 (2 ^ levelCode l)
          let q := { q with withdrawn := (q.withdrawn &&& ~~~ b) ||| (b &&& ~~~ q.dmr) }
          match q.pendDom with
          | some (l', _) => if l' = l then
              { q with pendDom := none, st := if q.wait = some .dsync && q.st = .waiting then .running else q.st, wait := if q.wait = some .dsync then none else q.wait }
            else q
          | none => q) s)

/-! ### Device time (spec/19 R368) -/

/-- Is any launch running. -/
def anyRunning (s : State) : Bool := s.ctxs.any fun e => e.2.st = .released || e.2.st = .preempted || e.2.st = .stopping
def execDtimeHoldover (s : State) : Host.Outcome State Fault Refusal :=
  .next (s.modSys fun y => { y with dtlock := false })

/-! ### Throttling (spec/19 R371-R373) -/

def windowSum (c : Core) : Nat := (c.weights.take 31).foldl (· + ·) 0
/-- Would a cycle of this weight exceed CWLIM. A cycle too heavy by itself runs after 31 cycles of weight 0. -/
def overLimit (c : Core) (w : Nat) : Bool := c.cwlim.toNat < windowSum c + w && !(windowSum c = 0)
/-- What the core's engines add to the weight of the next cycle (spec/19 R371). -/
def engineWeight (c : Core) : Nat := (if 0 < c.mtxDue then 96 else 0) + (if 0 < c.aeDue then 48 else 0) + (if 0 < c.beats then 4 else 0)
/-- Sequencers of a core that wait. -/
def waitingOn (s : State) (g : Nat) : Nat := ((List.range 4).filter fun i => (s.seq (4 * g + i)).st = .waiting).length
/-- A cycle of a weight is over. -/
def weigh (c : Core) (w : Nat) : Core := { c with weights := (w :: c.weights).take 31 }
def freezeCycle (waits : Nat) (c : Core) : Core :=
  { weigh c 0 with frzcnt := c.frzcnt + 1, droop := c.droop - 1,
                   perf := { c.perf with drpcy := c.perf.drpcy + (if 64 < c.droop then 1 else 0), waitsq := c.perf.waitsq + waits } }
/-- Core arg 0 plans a cycle of weight arg 1 that the limiter does not admit. -/
def execCurrentLimitFreezeCycle (s : State) : Host.Outcome State Fault Refusal :=
  .next (if overLimit (s.core (s.arg 0)) (s.arg 1) then s.modCore (s.arg 0) (freezeCycle (waitingOn s (s.arg 0))) else s)

/-- Cores of a die. -/
def coresOfDie (d : Nat) : List Nat := (List.range 128).map (128 * d + ·)
/-- The droop detector of die arg 0 crosses DRPTH: every core of the die stretches 6 cycles and then runs at half rate
for 64. -/
def execDroopCrossing (s : State) : Host.Outcome State Fault Refusal :=
  .next ((coresOfDie (s.arg 0 % 4)).foldl (fun s g => s.modCore g fun c => { c with droop := 70, perf := { c.perf with drpev := c.perf.drpev + 1 } }) s)

end Sys2Proof.Machine
end

