-- ==== Sys2Proof/Machine/Points.lean ====
section
/-! DEFINITION. Operating points of the dies and the intervals the leader measures (spec/01 R21, spec/18 R355, spec/22 R426,
R429, R430). -/
set_option linter.unusedVariables false
namespace Sys2Proof.Machine
open Sys2Proof

/-! ### Contexts on cores, and energy (spec/22 R430) -/

/-- Contexts that hold a core of a cluster. -/
def CtxSt.onCore (x : CtxSt) : Bool := x = .released || x = .stopping || x = .preempted || x = .saving || x = .faulted
def ctxsOn (s : State) (cl : Nat) : List Nat :=
  (List.filter (fun (e : Nat × Ctx) => e.2.st.onCore && e.2.cores.any fun g => clusterOf g = cl) s.ctxs).map (·.1)
/-- The energy of a cluster since the last sample goes to the context of lowest number on it. -/
def sampleEnergy (s : State) (cl : Nat) : State :=
  let l := sortBy id (ctxsOn s cl)
  let k := s.cluster cl
  let s := s.modCluster cl fun k => { k with sampled := k.energy }
  match l with
  | [] => s
  | c :: rest => s.modCtx c fun x => { x with energy := x.energy + (k.energy - k.sampled), shared := x.shared || rest ≠ [] }
def ctxClusters (x : Ctx) : List Nat := (x.cores.map clusterOf).dedup
def sampleCtx (s : State) (c : Nat) : State := (ctxClusters (s.ctx c)).foldl sampleEnergy s
/-- What the clusters of a launch on a die have counted, in µJ. -/
def energyOn (s : State) (x : Ctx) (d : Nat) : Nat :=
  (((ctxClusters x).filter fun cl => cl / 4 = d).map fun cl => (s.cluster cl).energy).foldl (· + ·) 0

/-! ### The point of a die (spec/01 R21, spec/22 R426, R429) -/

def isDet (x : Ctx) : Bool := bit (x.lr 100 1) 1
def ctxDies (x : Ctx) : List Nat := (x.cores.map dieOf).dedup
/-- Contexts that run on a die. -/
def ctxsOfDie (s : State) (d : Nat) : List Ctx := (List.filter (fun (e : Nat × Ctx) => e.2.st.onCore && (ctxDies e.2).contains d) s.ctxs).map (·.2)
/-- Is this the entry of a key: one with a point code of 13 to 15 is invalid (spec/18 R355). -/
def OpPoint.isKey (e : OpPoint) (f kid ph : Nat) : Bool := e.v && e.func = f && e.kid = kid && e.phase = ph && e.points.all (· ≤ 12)
/-- The point the table gives a key on a die: 2.4 GHz on a miss. -/
def lookupPoint (s : State) (f kid phase d : Nat) : Nat := match s.sys.ops.find? fun e => e.isKey f kid phase with
  | some e => e.points.getD d 12
  | none => 12
/-- The PHASE of a launch's interval on a die. -/
def phaseOn (x : Ctx) (d : Nat) : Option Nat := (x.intervals.find? fun e => e.1 = d).map (·.2.1)
/-- The highest point among the entries of the launches on a die; a deterministic launch keeps its own. -/
def requestedPoint (s : State) (d : Nat) : Nat :=
  let l := ctxsOfDie s d
  match l.findSome? (·.point) with
  | some p => p
  | none => if l = [] then (s.die d).point else (l.map fun x => lookupPoint s x.func x.image.kid ((phaseOn x d).getD 0) d).foldl Nat.max 0
/-- Does a deterministic launch hold the die at its point: neither the table nor the market changes it (spec/01 R21). -/
def fixedDie (s : State) (d : Nat) : Bool := (ctxsOfDie s d).any fun x => x.point.isSome
/-- The points at which deterministic launches other than `c`, and not those of `gone`, hold the dies that `c` names (log
40). -/
def fixedPoints (s : State) (gone : List Nat) (c : Nat) : List Nat :=
  ((List.filter (fun (e : Nat × Ctx) => e.1 ≠ c && e.2.st.onCore && !gone.contains e.1 && (ctxDies e.2).any (ctxDies (s.ctx c)).contains) s.ctxs).filterMap fun e => e.2.point).dedup
/-- Dies that keep one common point: those that deterministic launches link, one after another. -/
def linkedDies (s : State) : Nat → List Nat → List Nat
  | 0, l => l
  | k + 1, l => linkedDies s k ((l ++ l.flatMap fun d => ((ctxsOfDie s d).filter fun x => x.point.isSome).flatMap ctxDies).dedup)
/-- The cap of a thermal level (spec/22 R429). -/
def capOf (level : Nat) : Nat := if level = 0 then 12 else if level = 1 then 8 else 0
/-- The cap on a die: its own, and those of the dies that keep a common point with it. -/
def cappedPoint (s : State) (d : Nat) : Nat := ((linkedDies s 4 [d]).map fun e => capOf (s.die e).level).foldl Nat.min 12
/-- Give a die a point; a change stops its cores for one cycle together. -/
def setPoint (s : State) (d p : Nat) : State :=
  if (s.die d).point = p then s
  else
    let s := s.modDie d fun y => { y with point := p }
    { s with cores := List.map (fun (e : Nat × Core) => if dieOf e.1 = d then (e.1, weigh e.2 0) else e) s.cores }
/-- Dies run at their requested points, within their caps. -/
def settleDies (s : State) (l : List Nat) : State := l.foldl (fun s d => setPoint s d (Nat.min (requestedPoint s d) (cappedPoint s d))) s
def settlePoints (s : State) : State := settleDies s [0, 1, 2, 3]
/-- The dies of a context, and those that keep a common point with them, take their points. -/
def settleCtx (s : State) (c : Nat) : State := settleDies s (linkedDies s 4 (ctxDies (s.ctx c)))

/-! ### Intervals of one key (spec/22 R426) -/

/-- The interval of an entry on die `d` ends with its energy, which is recorded. It ends a trial there: the lower point
stays if the energy is lower, else the one before returns and the entry is settled. -/
def endInterval (e : OpPoint) (d energy : Nat) : OpPoint :=
  if e.tried = some d then
    (if energy < e.ej then { e with ej := energy, tried := none }
     else { e with ej := energy, points := upd e.points d (· + 1), tried := none, settled := true })
  else { e with ej := energy, measured := true }
/-- The next interval of an entry that has been measured at its point tries one step lower on a die. -/
def startInterval (e : OpPoint) (d : Nat) : OpPoint :=
  if e.settled || e.tried.isSome || !e.measured || e.points.getD d 0 = 0 then e else { e with points := upd e.points d (· - 1), tried := some d }
/-- The interval of a launch on a die ends, if it has one: its energy goes into the entry. A deterministic launch only
records. -/
def endOn (s : State) (c d : Nat) : State :=
  let x := s.ctx c
  match x.intervals.find? fun e => e.1 = d with
  | none => s
  | some (_, ph, at_) =>
    let energy := energyOn s x d - at_
    let s := s.modSys fun y => { y with ops := y.ops.map fun (e : OpPoint) => if e.isKey x.func x.image.kid ph then
      (if isDet x then { e with ej := energy } else endInterval e d energy) else e }
    s.modCtx c fun x => { x with intervals := x.intervals.filter fun e => e.1 ≠ d }
def endIntervals (s : State) (c : Nat) : State := (ctxDies (s.ctx c)).foldl (fun s d => endOn s c d) s
/-- An interval of a key begins for a launch on a die: its entry becomes the latest used. A miss creates one. -/
def beginOn (s : State) (c d ph : Nat) : State :=
  let x := s.ctx c
  let kid := x.image.kid
  let rest := s.sys.ops.filter fun (y : OpPoint) => !(y.v && y.func = x.func && y.kid = kid && y.phase = ph)
  let e := match s.sys.ops.find? fun (e : OpPoint) => e.isKey x.func kid ph with
    | some e => if isDet x then e else startInterval e d
    | none => { v := true, func := x.func, kid := kid, phase := ph }
  (s.modSys fun y => { y with ops := e :: rest.take 1023 }).modCtx c fun x => { x with intervals := x.intervals ++ [(d, ph, energyOn s x d)] }

/-- A launch starts: its dies look up its key; a deterministic one fixes one common point for them, that of a die which
another one holds already (spec/01 R21, log 40). -/
def startPoints (s : State) (c : Nat) : State :=
  let x := s.ctx c
  let p := (fixedPoints s [] c).headD (((ctxDies x).map fun d => lookupPoint s x.func x.image.kid 0 d).foldl Nat.min 12)
  let s := if isDet x then s.modCtx c fun x => { x with point := some p } else s
  settleCtx ((ctxDies x).foldl (fun s d => beginOn s c d 0) s) c

end Sys2Proof.Machine
end

