-- ==== Sys2Proof/Machine/Context.lean ====
section
/-! DEFINITION. Contexts as a whole: stops that count, saving and restoring, kill, strike rollback and twins, user-level
interrupt entry (spec/14 R284, R285, spec/20 R376-R395, spec/21 R395). -/
set_option linter.unusedVariables false
namespace Sys2Proof.Machine
open Sys2Proof

/-! ### Precise traps of framing and decoding (spec/02 R41, R42) -/

/-- The bundle being issued is malformed; slot position arg 0 (0 for framing). -/
def execIllegalBundle (s : State) : Host.Outcome State Fault Refusal :=
  .next ((s.modIssue fun k => { k with pos := s.arg 0 }).raise 1 { cause := .illegalBundle })
/-- The slot at position arg 0 of the bundle being issued has an unallocated opcode. -/
def execIllegalInstruction (s : State) : Host.Outcome State Fault Refusal :=
  .next ((s.modIssue fun k => { k with pos := s.arg 0 }).raise 1 { cause := .illegalInstr })

/-! ### Causes taken at a boundary and user-level interrupts (spec/20 R376, R379, R380, R383) -/

/-- The first waiting cause of sequencer arg 0 is taken at its bundle boundary, after a stop that is due there (spec/20
R383); of the sequencers of its context that have one, the lowest is first (spec/01 R17). -/
def execTrapAtBoundary (s : State) : Host.Outcome State Fault Refusal :=
  .next (let n := s.arg 0
  let q := s.seq n
  match q.causes, q.ctx with
  | t :: rest, some c =>
    if q.st.takesCause && (s.ctx c).st = .released && s.issue.isNone && firstFault s n && !stopDue s n && q.redo.isNone then
      let s := s.modSeq n fun q => { q with causes := rest }
      takeTrap s n { t with slot := t.pc.elim t.slot fun p => slotAt s n p t.slot } (t.pc.getD q.pc) q.pc false
    else s
  | _, _ => s)

/-- A pending and enabled user-level interrupt of sequencer arg 0 is taken; a waiting cause comes first. -/
def execUliEntry (s : State) : Host.Outcome State Fault Refusal :=
  .next (let n := s.arg 0
  let q := s.seq n
  match uliPending q with
  | some b => if q.st.live && (q.causes = [] || q.redo.isSome) && q.halting.isNone && s.issue.isNone && !stopDue s n then enterHandler s n b else s
  | none => s)

/-! ### When a stop counts (spec/14 R284, spec/19 R359, spec/10 R206, log 34) -/

/-- Has another module answered a transaction of an operation with calved. -/
def farCalved (s : State) (id : Nat) : Bool := s.sys.remote.any fun r => r.id = id && r.calved
/-- Does an access wait for a calved die or an absent module, or for its turn behind a load that does. -/
def retried (s : State) (n : Nat) (a : Access) : Bool := a.calved || remoteAway s a.segs || farCalved s a.id || (a.home && a.kind.ctr = .ld && !loadTurn (s.seq n) a.id)
/-- Does a started piece of a copy wait for a calved die or an absent module: for its bytes, or for its barrier. -/
def pieceRetried (s : State) (c : Copy) (p : Piece) : Bool :=
  !segsLive s (p.src ++ p.dst) || remoteAway s (p.src ++ p.dst) || farCalved s c.id || !barLive s c
/-- Does a release or fence of sequencer `n` that follows `d` keep a stop from counting. What is left to its record does
not: accesses that a freeze abandons to their retries, engine work at a freeze or behind a trap of the sequencer, and an
AE command, whose partners need not come (spec/10 R206, spec/11 R212, spec/12 R248, spec/21 R404, log 34). -/
def keepsOpen (s : State) (n : Nat) (d : Dep) : Bool :=
  let q := s.seq n
  !depMet s n d && match q.acc.find? fun a => a.id = d.id with
    | some a => !(s.sys.freeze.isSome && retried s n a)
    | none => s.sys.freeze.isNone && q.st ≠ .faulted && q.causes = [] && !(q.ae.cmd.any fun c => c.id = d.id)
/-- Have the releases and fences of a sequencer completed (spec/10 R206). -/
def fencesDone (s : State) (n : Nat) : Bool :=
  let q := s.seq n
  q.acc.all (fun a => !a.rel || (s.sys.freeze.isSome && retried s n a) || a.after.any fun d => !depMet s n d && !keepsOpen s n d) &&
    q.order.all (fun o => !o.after.any (keepsOpen s n)) &&
    !((s.core (coreOf n)).bte.flatten).any fun c => c.seq = n && c.rel && !c.read && c.after.any (keepsOpen s n)
/-- Is nothing of the sequencer on its way: what is left are unissued entries, accesses that a calved die or an absent
module answers with a retry, and accesses that wait for those; a freeze leaves such pieces too (spec/11 R212, R232). -/
def seqQuiet (s : State) (n : Nat) : Bool :=
  let q := s.seq n
  let k := s.core (coreOf n)
  !q.st.live && q.acc.all (fun a => retried s n a || !depsMet s n a.after) && fencesDone s n &&
    q.ports.all (fun x => !(x.v && pdOut x.desc) || x.buf = []) &&
    s.updates.all (fun u => u.mark.writer ≠ n || u.path.isNone || (s.sys.freeze.isSome && !dieAnswers s u.die)) &&
    !(k.bte.flatten).any (fun c => c.seq = n && c.flying.any fun p => !(s.sys.freeze.isSome && pieceRetried s c p)) &&
    !k.mq.any (fun e => e.seq = n && e.isMma && e.begun && dieLive s (dieOf (coreOf n))) && !s.msgs.any (fun m => match m.msg with
      | .vector src _ _ _ _ => localSeq s src = some n
      | _ => false)
def ctxQuiet (s : State) (c : Nat) : Bool := (s.ctx c).seqs.all fun n => (s.seq n).ctx ≠ some c || seqQuiet s n

/-- Buffered input vectors are discarded; the latch stays at the first unpopped element (spec/13 R257). -/
def settlePort (x : Port) : Port := if x.v && !pdOut x.desc then { x with buf := [], asked := x.moved } else x
def settlePorts (q : Seq) : Seq := { q with ports := q.ports.map settlePort }
/-- The reads of the first four vectors from there issue at resume, after its fence (spec/10 R206). -/
def rereadPorts (s : State) (n : Nat) : State := (List.range 8).foldl (fun s p =>
  let x := (s.seq n).ports.getD p {}
  if !x.v || pdOut x.desc || x.exh || (fwdIn (s.seq n) p).isSome then s
  else
    let k := Nat.min 4 (pdVectors x.desc - x.moved)
    let base := s.nextId
    let s := s.modSeq n fun q => { q with ports := upd q.ports p fun y => { y with asked := y.moved + k, buf := (List.range k).map fun i => { id := base + i, after := fencedOn q .p false } } }
    { s with nextId := s.nextId + k }) s

/-! ### Ring faults and completion records (spec/14 R277, R280) -/

def ringVector (r : Nat) : Nat := 3 + r
/-- A fault stops one ring. -/
def ringFault (s : State) (f r code va : Nat) : State :=
  (s.modRing f r fun x => { x with rstat := x.rstat % 8 + (if bit x.rstat 0 then 0 else 1) + code * 256, rfaddr := va }).msix f (ringVector r)
/-- A translation or check that fails for a ring. One of stage 2 is reported to the physical function, with the
intermediate address (spec/17 R326, log 48). -/
def ringXFault (s : State) (f r : Nat) (x : XFault) : State :=
  if x.stage = 2 then
    ((s.modRing f r fun y => { y with rstat := y.rstat % 8 + (if bit y.rstat 0 then 0 else 1) + x.cause.code * 256, rfaddr := x.va }).msix 0 0).out (.management 6 x.ipa)
  else ringFault s f r x.cause.code x.va
/-- The completion record of one packet: status and LATE; then the ring vector if it asks for it. One that lies on a calved
die waits (spec/21 R402). -/
def completionRecord (s : State) (f r : Nat) (packet : BitVec 512) (status : Nat) (late : Bool) : State :=
  let p := packet.toNat
  let at_ := fld p 191 128
  if !feLive s s.sys.leader (s.func f).lasid at_ 16 then s.modSys fun y => { y with records := y.records ++ [(f, r, packet, status, late)] }
  else match feWrite s s.sys.leader f (s.func f).lasid at_ 16 (fld p 63 32 + (status + 256 * late.toNat) * 2 ^ 64) with
  | .error x => ringXFault (feSeen s s.sys.leader (s.func f).lasid at_ 16) f r { x with va := at_ }
  | .ok s => if bit p 16 then s.msix f (ringVector r) else s
/-- The completion records that waited are tried again. -/
def retryRecords (s : State) : State :=
  s.sys.records.foldl (fun s r => completionRecord s r.1 r.2.1 r.2.2.1 r.2.2.2.1 r.2.2.2.2) (s.modSys fun y => { y with records := [] })
/-- The retry of an access that an INVAL has met translates it again, but for what another module has answered; a fault then
waits for its boundary (spec/17 R336). -/
def retryAccess (s : State) (n : Nat) (a : Access) : State :=
  let wh := if a.path = .s || a.path = .b then Which.dtlb else .etlb
  let got := fun (x : Seg) => s.sys.remote.any fun r => r.id = a.id && r.part = 0 && r.at_ = x.at_ && r.answer.isSome
  match retranslate s (coreOf n) wh (asidOf s n) a.path (needsOf a.kind) (a.segs.filter (!got ·)) with
  | .ok l => modAcc (dropRemotes (installSegs s (coreOf n) wh (asidOf s n) l) fun r => r.id = a.id && r.answer.isNone) n a.id fun x =>
      { x with segs := x.segs.filter got ++ l, stale := false, calved := !segsLive s l }
  | .error f => addCause (modBoth (finish (dropRemote s a.id) n a.id) n fun q => dropEntry q a.kind) n
      { f.trap (accessCode a.path a.kind) with pc := some a.pc, slot := a.slot, held := a.held }
/-- An AE command that an INVAL has met while its context stood still is translated again. -/
def retryCmd (s : State) (n : Nat) : State := match (s.seq n).ae.cmd with
  | some x => if !x.stale then s else match retranslate s (coreOf n) .shared (asidOf s n) .a { r := true } x.seg with
    | .ok l => s.modSeq n fun q => { q with ae := { q.ae with cmd := some { x with seg := l, stale := false } } }
    | .error f => addCause (s.modSeq n fun q => { q with ae := { q.ae with cmd := some { x with stale := false } } }) n
        { f.trap 7 with pc := some x.pc, slot := x.slot, held := x.held }
  | none => s
/-- A calved access is tried again: it may be performed once its die is live, and what another module answered calved
goes out again (spec/11 R212). Arg 0 = 2049: the front end tries its completion records (spec/21 R402). -/
def execCalvedRetry (s : State) : Host.Outcome State Fault Refusal :=
  .next (if s.arg 0 = outside then retryRecords s else
  let n := s.arg 0
  let stale := match accOf s n (s.arg 1) with
    | some a => a.stale
    | none => false
  let s := if !stale && s.sys.remote.any (fun r => r.calved && r.id = s.arg 1) then pumpRemotes (s.modSys fun y => { y with remote := y.remote.map fun r => if r.id = s.arg 1 then { r with calved := false } else r })
    else s
  match accOf s n (s.arg 1) with
  | none => s
  | some a => if a.stale then retryAccess s n a else if a.calved && segsLive s a.segs then modAcc s n (s.arg 1) fun x => { x with calved := false } else s)
/-- Completion records of a context: the producer's before the consumer's (spec/15 R296). -/
def completeCtx (s : State) (c : Nat) (status : Nat) : State :=
  let x := s.ctx c
  let s := completionRecord s x.func x.ring x.packet status x.late
  match x.second with
  | some (p, _, _) => completionRecord s x.func x.ring p status x.late
  | none => s

/-! ### A context leaves its cores -/

def scratchBase (g : Nat) : Nat := 0x020000000000 + g * 0x800000
/-- Zero the scratchpad of a core that has lost its last context of function `f` (spec/20 R392). -/
def zeroScratch (s : State) (f g : Nat) : State :=
  if (List.any s.ctxs fun (e : Nat × Ctx) => e.2.st.onCore && e.2.func = f && e.2.cores.contains g) then s
  else renewed { s with mem := s.mem.zero (scratchBase g) 0x800000 } (scratchBase g) 0x800000
/-- Engine entries of the sequencers of a context go; the entry that comes to the head begins (spec/08 R174). -/
def dropEngines (s : State) (l : List Nat) (g : Nat) : State := promote (s.modCore g fun k =>
  { k with mq := k.mq.filter fun e => !l.contains e.seq, bte := k.bte.map fun ch => ch.filter fun x => !l.contains x.seq }) g
/-- The continuation-queue units of a context are free again. -/
def freeClusters (s : State) (c : Nat) : State :=
  { s with clusters := s.clusters.map fun e => if e.2.launch = some c then
      (e.1, { e.2 with levels := List.replicate 4 [], spill := List.replicate 4 (0, 0), overflow := none, launch := none, enrolled := [], pushes := [] })
    else e }
/-- A saved or killed context leaves nothing in a sequencer: its channel ends, counters and AE command are in the save, or
discarded (spec/20 R391, R394). -/
def emptied (q : Seq) : Seq := { q with chans := [], ae := { q.ae with cmd := none }, ld := 0, st_ := 0, xf := 0, mt := 0, cm := 0 }
/-- The cores a context is on: of those a task launch names, the ones where it has sequencers (spec/14 R281). -/
def heldCores (x : Ctx) : List Nat := x.cores.filter fun g => !x.isTask || x.seqs.any fun n => coreOf n = g
/-- Every sequencer of a context becomes idle and its cores are released; with `out`, the context goes unfinished. What its
writes still owe to replicas is nobody's (spec/10 R207). -/
def vacate (s : State) (c : Nat) (out : Bool) : State :=
  let x := s.ctx c
  let mine := x.seqs.filter fun n => (s.seq n).ctx = some c
  let s := endIntervals (sampleCtx s c) c
  let s := x.cores.foldl (fun s g => dropEngines s mine g) s
  let s := dropRemotes s fun r => mine.contains r.seq && !s.msgs.any fun m => m.id = r.id
  let s := mine.foldl (fun s n => (toIdle s n).modSeq n fun q => if out then emptied q else q) s
  let s := { s with updates := s.updates.map fun u => if mine.contains u.mark.writer then { u with path := none } else u }
  freeClusters s c
/-- After the context's state has changed to one that holds no core: its dies take the points of those that stay. -/
def leaveCores (s : State) (c : Nat) : State :=
  let x := s.ctx c
  let s := settleDies s (ctxDies x)
  (heldCores x).foldl (fun s g => zeroScratch ((s.modCore g fun k => { k with owner := if k.owner = some c then none else k.owner }).modCore (g + 1) fun k =>
    { k with twinOf := if k.twinOf = some g then none else k.twinOf }) x.func g) s

/-- A context is out of the way of the launches that wait for it. -/
def dropVictim (s : State) (c : Nat) : State := { s with ctxs := s.ctxs.map fun e => (e.1, { e.2 with victims := e.2.victims.filter (· ≠ c) }) }

/-! ### Kill (spec/20 R394, spec/10 R207) -/

/-- Close notices and credits from every declared end of a sequencer that is not in place. -/
def closeSaved (s : State) (c n : Nat) (q : Seq) : State :=
  let key := launchKey s c
  q.chans.foldl (fun s e =>
    let x := e.2
    if !ceDecl x.entry || x.owncl then s
    else
      let s := if ceSend x.entry then s else x.buf.foldl (fun s _ => post s key (.credit (cePeerId x.entry) (cePeerCh x.entry) (seqId s n) e.1)) s
      post s key (.close (cePeerId x.entry) (cePeerCh x.entry) (seqId s n) e.1 (ceSend x.entry))) s

/-- Is a context one that the table holds and that has not ended. -/
def ctxAlive (s : State) (c : Nat) : Bool := match s.ctxs.find? c with
  | some x => x.st ≠ .complete && x.st ≠ .killed && x.st ≠ .lost
  | none => false

/-- A kill: idle sequencers, nothing saved, close notices, status 3. -/
def killCtx (s : State) (c : Nat) : State :=
  if !ctxAlive s c then s
  else
    let x := s.ctx c
    let mine := x.seqs.filter fun n => (s.seq n).ctx = some c
    let s := match x.saved with
      | some v => v.seqs.foldl (fun s e => closeSaved s c e.1 e.2) s
      | none => mine.foldl (fun s n => ((s.seq n).chans.map (·.1)).foldl (fun s ch => closeEnd s n ch) s) s
    let s := vacate s c true
    let s := s.modCtx c fun x => { x with st := .killed, status := 3, saved := none, drift := {}, splice := none, arrived := [], faulted := [], armed := none }
    let s := if x.st.onCore then leaveCores s c else s
    completeCtx (dropVictim s c) c 3

/-- Does the power state admit a kill (spec/21 R395). -/
def killAdmitted (s : State) (c : Nat) : Bool := match s.sys.power with
  | .run | .warn | .calved => true
  | .thaw => s.sys.thaw.any fun t => t.decided.contains (c, 0) || t.decided.contains (c, 1)
  | .freeze | .dormant => false

/-! ### A stop counts (spec/20 R378) -/

/-- Address of the save area, and the size it must be mapped with (spec/20 R391). -/
def saveAt (x : Ctx) : Nat := x.lr 128 8
def saveLen (x : Ctx) : Nat := 0x80000 + x.cores.length * 9568256

/-- The stop of context arg 0 counts: the record goes to its save area and the fault vector is raised. -/
def execContextStopped (s : State) : Host.Outcome State Fault Refusal :=
  .next (let c := s.arg 0
  let x := s.ctx c
  if x.st ≠ .stopping || !ctxQuiet s c || !feLive s s.sys.leader x.asid (saveAt x) 64 then s
  else
    let s := x.seqs.foldl (fun s n => if (s.seq n).ctx = some c then s.modSeq n settlePorts else s) s
    match feWrite s s.sys.leader x.func x.asid (saveAt x) 64 x.frec.toNat with
    | .error _ => if killAdmitted s c then killCtx s c else s
    | .ok s => (s.modCtx c fun x => { x with st := .faulted }).msix (if x.fromPf then 0 else x.func) 0)

/-! ### Pre-emption: stop, save (spec/14 R284, R285) -/

/-- PREBUD of sequencer arg 0's context has passed since the request: it stops at this bundle boundary. -/
def execPrebudExpiry (s : State) : Host.Outcome State Fault Refusal :=
  .next (let n := s.arg 0
  let q := s.seq n
  if q.stopReq && q.st.live && overBudget s n && s.issue.isNone then stopSeq s n .preempted else s)

/-- Is the launch complete: every sequencer retired, or the root object at zero (spec/01 R23). -/
def launchOver (s : State) (c : Nat) : Bool :=
  let x := s.ctx c
  x.st = .released && if x.isTask then x.rootDone else x.seqs.all fun n => (s.seq n).st = .retired
/-- Every marker of the pre-empted context arg 0 has returned: its save starts. A context that a trap stopped meanwhile
keeps its record (spec/01 R18); one that has completed is not saved (spec/14 R282). -/
def execPreemptStopped (s : State) : Host.Outcome State Fault Refusal :=
  .next (let c := s.arg 0
  let x := s.ctx c
  let mine := x.seqs.filter fun n => (s.seq n).ctx = some c
  if s.sys.freeze.isSome || x.stopAt.isNone || launchOver s c || !(x.st = .released || x.st = .faulted) || mine.any (fun n => (s.seq n).st.live || (s.seq n).st = .calved) || !ctxQuiet s c then s
  else
    let s := mine.foldl (fun s n => s.modSeq n settlePorts) s
    s.modCtx c fun x => { x with st := .saving })

/-- The on-chip records of a task launch go to the heads of its spill rings, in order (spec/13 R268). A fault on the area
is a queue spill fault of its lowest sequencer there; what it did not take stays in the save (R260). -/
def spillHead (s : State) (cl f : Nat) (c : Ctx) (l : Nat) : State :=
  let k := s.cluster cl
  (onChip k l).reverse.foldl (fun s r =>
    let x := spilled (s.cluster cl) l
    let cap := spillCap c
    if cap ≤ x.2 || (onChip (s.cluster cl) l).getLast? ≠ some r then s
    else match feWrite s (cl / 4) f c.asid (spillAddr c l (x.1 + cap - 1)) spillSlot (recNat r + r.tenq * 2 ^ 256) with
      | .error _ => match (sortBy id (c.seqs.filter fun n => clusterOf (coreOf n) = cl)).head? with
        | some n => if (s.seq n).causes.any (fun t => t.cause = .queueSpill) then s else addCause s n { cause := .queueSpill, slot := 7 }
        | none => s
      | .ok s => s.modCluster cl fun k => { k with levels := upd k.levels l fun y => y.dropLast, spill := upd k.spill l fun _ => ((x.1 + cap - 1) % Nat.max 1 cap, x.2 + 1) }) s

/-- What the save area holds of a context. -/
def saveImage (s : State) (c : Nat) : SaveImage :=
  let x := s.ctx c
  let mine := x.seqs.filter fun n => (s.seq n).ctx = some c
  { seqs := mine.map fun n => (n, s.seq n)
    regs := mine.map fun n => (n, (s.core (coreOf n)).regs.slice (s.seq n).winBase (s.seq n).winSize)
    scratch := s.mem.filter fun b => (heldCores x).any fun g => scratchBase g ≤ b.1 && b.1 < scratchBase g + 0x800000
    ls := (heldCores x).map fun g => (g, (s.core g).ls)
    mq := x.cores.map fun g => (g, (s.core g).mq.filter fun e => mine.contains e.seq)
    bte := x.cores.map fun g => (g, (s.core g).bte.map fun ch => ch.filter fun y => mine.contains y.seq)
    clusters := List.filter (fun (e : Nat × Cluster) => e.2.launch = some c) s.clusters }

/-! ### The save area (spec/14 R285, spec/20 R391, log 61) -/

/-- A place in the part of core `g`: register space, then the scratchpad, then engine state. -/
def partAt (x : Ctx) (g off : Nat) : Nat := saveAt x + 0x80000 + (sortBy id x.cores).idxOf g * 9568256 + off
/-- What the parts hold in the open: address, bytes, the memory it is of, and its sparse bytes. -/
def saveParts (x : Ctx) (v : SaveImage) : List (Nat × Nat × Nat × Mem) :=
  v.seqs.map (fun e => (partAt x (coreOf e.1) e.2.winBase, e.2.winSize, State.regPa (coreOf e.1) e.2.winBase, v.regs.getD e.1 [])) ++
  (heldCores x).map (fun g => (partAt x g 0x100000, 0x800000, scratchBase g, v.scratch.slice (scratchBase g) 0x800000))
/-- Lay sparse bytes over a range of a context's address space on path F. -/
def areaPut (s : State) (x : Ctx) (va len : Nat) (m : Mem) : State := match feSegs s s.sys.leader x.asid { w := true } va len with
  | .error _ => s
  | .ok l => (l.filter (!·.fab)).foldl (fun s g =>
      if List.any s.sys.replicas fun e => e.2.v && meet (localPa g.pa) g.len e.2.home (replicaSize e.2.size)
      then writeAll s x.func [g] ((m.slice g.at_ g.len).readNat 0 g.len * 2 ^ (8 * g.at_))
      else physFill s (localPa g.pa) g.len g.key (m.slice g.at_ g.len)) s
/-- Sparse bytes of a range of a context's address space. -/
def areaGet (s : State) (x : Ctx) (va len : Nat) : Mem := match feSegs s s.sys.leader x.asid { r := true } va len with
  | .error _ => []
  | .ok l => ((l.filter (!·.fab)).map fun g => (physSlice s (localPa g.pa) g.len g.key).map fun b => (b.1 + g.at_, b.2)).flatten
/-- Poisoned granules between the area and the memories it is of: saved with `out`, else restored. -/
def carryPoison (s : State) (x : Ctx) (va len at_ : Nat) (out : Bool) : List Nat := match feSegs s s.sys.leader x.asid {} va len with
  | .error _ => []
  | .ok l => if s.poison = [] then [] else ((l.filter (!·.fab)).map fun g =>
      if out then poisonTo s (at_ + g.at_) (localPa g.pa) g.len else poisonTo s (localPa g.pa) (at_ + g.at_) g.len).flatten
/-- The bytes that the firmware arranges: what follows the fault record, and the engine state of every core. -/
def putArranged (s : State) (c : Nat) : State :=
  let x := s.ctx c
  let put := fun (s : State) (k va len : Nat) => match feWrite s s.sys.leader x.func x.asid va len (Config.saveBody k c s.free % 2 ^ (8 * len)) with
    | .error _ => s
    | .ok s => s
  let s := x.cores.foldl (fun s g => put s (g + 1) (partAt x g 0x900000) 0x20000) (put s 0 (saveAt x + 64) (0x80000 - 64))
  { s with free := s.free + 1 }
/-- Write a save image to the area of its context. -/
def storeSave (s : State) (c : Nat) (v : SaveImage) : State :=
  let x := s.ctx c
  let parts := saveParts x v
  let bad := (parts.map fun p => carryPoison s x p.1 p.2.1 p.2.2.1 true).flatten
  let s := parts.foldl (fun s p => areaPut s x p.1 p.2.1 p.2.2.2) (putArranged s c)
  { s with poison := s.poison ++ bad }
/-- What stays beside the area: the engine state, whose arrangement is the firmware's. -/
def SaveImage.bare (v : SaveImage) : SaveImage := { v with regs := [], scratch := [] }
/-- A save image with its windows and scratchpads read from the area. -/
def fetchSave (s : State) (c : Nat) (v : SaveImage) : SaveImage :=
  let x := s.ctx c
  { v with regs := v.seqs.map fun e => (e.1, areaGet s x (partAt x (coreOf e.1) e.2.winBase) e.2.winSize)
           scratch := ((heldCores x).map fun g => (areaGet s x (partAt x g 0x100000) 0x800000).map fun b => (b.1 + scratchBase g, b.2)).flatten }
/-- Poisoned granules of the area, at the places where the restore has put the bytes. -/
def poisonBack (s : State) (c : Nat) (v : SaveImage) : State :=
  let x := s.ctx c
  { s with poison := s.poison ++ (v.seqs.map fun e => carryPoison s x (partAt x (coreOf e.1) e.2.winBase) e.2.winSize (State.regPa (coreOf e.1) (s.seq e.1).winBase) false).flatten ++
      ((heldCores x).map fun g => carryPoison s x (partAt x g 0x100000) 0x800000 (scratchBase g) false).flatten }

/-- The save of context arg 0 is complete and its sequencers are free; a fault on the area kills it (spec/20 R391). -/
def execContextSaveComplete (s : State) : Host.Outcome State Fault Refusal :=
  .next (let c := s.arg 0
  let x := s.ctx c
  if s.sys.freeze.isSome || x.st ≠ .saving || !feLive s s.sys.leader x.asid (saveAt x) (saveLen x) then s
  else match feSegs s s.sys.leader x.asid { r := true, w := true } (saveAt x) (saveLen x) with
    | .error _ => if killAdmitted s c then killCtx s c else s
    | .ok _ =>
      let s := feSeen s s.sys.leader x.asid (saveAt x) (saveLen x)
      let cls := (List.filter (fun (e : Nat × Cluster) => e.2.launch = some c) s.clusters).map (·.1)
      let s := if x.isTask then cls.foldl (fun s cl => (List.range 4).foldl (fun s l => spillHead s cl x.func x l) s) s else s
      let v := saveImage s c
      let s := vacate (storeSave s c v) c true
      let s := s.modCtx c fun x => { x with st := .saved, saved := some v.bare, stopAt := none }
      let s := leaveCores s c
      dropVictim s c)

/-! ### Resume (spec/14 R281, R285, spec/20 R378, log 35) -/

/-- Do windows of these sizes fit beside those in use, in order. -/
def windowsFit (used : List (Nat × Nat)) : List Nat → Bool
  | [] => true
  | n :: t => match placeWindow used n with
    | some a => windowsFit ((a, n) :: used) t
    | none => false
/-- Is no cluster of these cores gated (spec/22 R428). -/
def ungated (s : State) (l : List Nat) : Bool := l.all fun g => !(s.cluster (clusterOf g)).gated
/-- Is a saved context's place free: its sequencers, its landing slots, room in the matrix queues, its windows, its cores'
code, and the point at which its dies were fixed (spec/01 R21). -/
def placeFree (s : State) (c : Nat) (v : SaveImage) : Bool :=
  let x := s.ctx c
  x.cores.all (fun g => dieLive s (dieOf g) && codeFree s c g &&
    (s.core g).mq.length + (v.mq.getD g []).length ≤ 4 && windowsFit (windowsOf s g) ((List.filter (fun (e : Nat × Seq) => coreOf e.1 = g) v.seqs).map fun e => e.2.winSize) &&
    ((v.ls.getD g []).zip (s.core g).ls).all fun p => !(p.1.owner.any fun n => (v.seqs.find? n).isSome) || p.2.owner.isNone) &&
    v.seqs.all (fun e => (s.seq e.1).st = .idle && (s.seq e.1).causes = [] && !s.clusters.any fun k => k.2.enrolled.contains e.1) &&
    v.clusters.all (fun e => (s.cluster e.1).launch.isNone) && ungated s x.cores && (x.point.isNone || (fixedPoints s [] c).all fun p => some p = x.point)

/-- What is ordered before the first bundle after a resume: `fence.full` at module scope (spec/10 R206). -/
def resumeFence (s : State) (n : Nat) : State := s.modSeq n fun q =>
  { q with order := q.order ++ [{ paths := allPaths, after := releaseDeps s n .module }], ordered := true }
/-- The stopped sequencers of a context run again. -/
def resumeSeqs (s : State) (c : Nat) : State :=
  let mine := (s.ctx c).seqs.filter fun n => (s.seq n).ctx = some c
  let s := mine.foldl (fun s n => retryCmd (rereadPorts (returnFromStop (resumeFence s n) n) n) n) s
  let s := s.modCtx c fun x => { x with st := .released, faulted := [], fromPf := false, stopAt := none, saved := none }
  let s := if (s.ctx c).point.isSome then settleCtx s c else s
  (s.ctx c).cores.foldl (fun s g => promote s g true) (sampleCtx s c)
/-- A chunk in the exchange buffer that has no acknowledgement is sent again (spec/12 R248). -/
def resent (a : Ae) : Ae := { a with cmd := a.cmd.map fun c => { c with posted := c.posted && c.acked } }
/-- Bring a saved context back onto its sequencers. -/
def restoreCtx (s : State) (c : Nat) (v : SaveImage) : State :=
  let x := s.ctx c
  let ids := v.seqs.map (·.1)
  let s := v.seqs.foldl (fun s e =>
    let g := coreOf e.1
    let base := (placeWindow (windowsOf s g) e.2.winSize).getD 0
    let s := clearPoison (s.setSeq e.1 { e.2 with winBase := base, ae := resent e.2.ae }) (State.regPa g base) e.2.winSize
    s.modCore g fun k => { k with regs := k.regs.unslice base e.2.winSize (v.regs.getD e.1 []) }) s
  let s := (heldCores x).foldl (fun s g =>
    let s := renewed { s with mem := s.mem.fill (scratchBase g) 0x800000 (v.scratch.slice (scratchBase g) 0x800000) } (scratchBase g) 0x800000
    (s.modCore g fun k =>
      { k with ls := ((v.ls.getD g []).zip k.ls).map fun (p : Landing × Landing) => if p.1.owner.any fun n => ids.contains n then p.1 else p.2
               mq := v.mq.getD g [] ++ k.mq
               bte := ((v.bte.getD g []).zip k.bte).map fun (p : List Copy × List Copy) => p.1 ++ p.2
               owner := some c })) s
  v.clusters.foldl (fun s e => s.modCluster e.1 fun k =>
    { k with levels := e.2.levels, spill := e.2.spill, overflow := e.2.overflow, launch := some c, enrolled := e.2.enrolled, pushes := e.2.pushes }) s

/-- Is a granted launch waiting for a core of this context. -/
def wanted (s : State) (c : Nat) : Bool :=
  List.any s.ctxs fun (e : Nat × Ctx) => e.1 ≠ c && e.2.st = .granted && e.2.cores.any fun g => (s.ctx c).cores.contains g
/-- Resume a context that is stopped in place, or one that is saved; nothing happens while its place is not free. -/
def resumeCtx (s : State) (c : Nat) : Option State :=
  let x := s.ctx c
  let codes := fun (s : State) => x.cores.foldl (fun s g => loadCode s c g) s
  match x.saved with
  | none => if x.cores.all (codeFree s c) && ungated s x.cores then some (resumeSeqs (codes s) c) else none
  | some v =>
    if !placeFree s c v then none
    else match feSegs s s.sys.leader x.asid { r := true, w := true } (saveAt x) (saveLen x) with
      | .error _ => if killAdmitted s c then some (killCtx s c) else none
      | .ok _ =>
        let s := feSeen s s.sys.leader x.asid (saveAt x) (saveLen x)
        some (resumeSeqs (codes (poisonBack (restoreCtx s c (fetchSave s c v)) c v)) c)

/-- Does the leader hold its lease: without it, it issues nothing (spec/14 R269). -/
def leaderOk (s : State) : Bool := s.sys.dtime ≤ s.sys.lease
/-- May the front end place work: not in a freeze, a thaw or without power. -/
def serving (s : State) : Bool := s.sys.freeze.isNone && (s.sys.power = .run || s.sys.power = .warn || s.sys.power = .calved)

/-- The pre-empted context arg 0 is restored once its place is free. -/
def execPreemptedResume (s : State) : Host.Outcome State Fault Refusal :=
  .next (let c := s.arg 0
  let x := s.ctx c
  if x.st = .saved && x.faulted = [] && serving s && leaderOk s && !wanted s c then (resumeCtx s c).getD s else s)

/-! ### Context commands of a function (spec/22 R420) -/

def cstatRefused (reason : Nat) : Nat := 2 + reason * 256
/-- Is a context stopped by a trap. -/
def isFaulted (x : Ctx) : Bool := x.st = .faulted || (x.st = .saved && x.faulted ≠ [])
/-- A command is taken unless an earlier one is busy; a busy one, a dump or a resume, is tried again. -/
def ctxCommand (s : State) (f c : Nat) (dump : Bool) (go : State → State) : State :=
  let x := s.func f
  if x.cstat % 4 = 1 && !(x.cmd = some c && x.dumping = dump) then s
  else if !ctxAlive s c || (s.ctx c).func ≠ f then s.modFunc f fun x => { x with cstat := cstatRefused 1, cmd := none }
  else go s

/-- The effect of a context command: resume. A victim of a pre-emption that is still to be saved waits for that (spec/01
R18, spec/14 R284). -/
def ctxResumeOp (s : State) (f c : Nat) : State :=
  ctxCommand s f c false fun s =>
    let x := s.ctx c
    if !isFaulted x then s.modFunc f fun y => { y with cstat := cstatRefused 2, cmd := none }
    else if x.frec.toNat % 256 = Cause.retentionLoss.code then s.modFunc f fun y => { y with cstat := cstatRefused 3, cmd := none }
    else match (if serving s && x.stopAt.isNone && x.st ≠ .saving && x.cores.all (fun g => dieLive s (dieOf g)) then resumeCtx s c else none) with
      | some s => s.modFunc f fun y => { y with cstat := 0, cmd := none }
      | none => s.modFunc f fun y => { y with cstat := 1, cmd := some c, dumping := false }
/-- CTXCMD 1 of function arg 0 for context arg 1. -/
def execCtxResume (s : State) : Host.Outcome State Fault Refusal := .next (if hostOpen s then ctxResumeOp s (s.arg 0) (s.arg 1) else s)

/-- The effect of a context command: kill. -/
def ctxKillOp (s : State) (f c : Nat) : State :=
  if (s.func f).cstat % 4 = 1 then s
  else ctxCommand s f c false fun s => if killAdmitted s c then (killCtx s c).modFunc f fun y => { y with cstat := 0 } else s
/-- CTXCMD 2 of function arg 0 for context arg 1. -/
def execCtxKill (s : State) : Host.Outcome State Fault Refusal := .next (if hostOpen s then ctxKillOp s (s.arg 0) (s.arg 1) else s)

/-! ### Context dump (spec/22 R420, spec/18 R353, R354) -/

/-- Concatenate byte strings given as values and lengths. -/
def joinBytes : List (Nat × Nat) → Nat × Nat
  | [] => (0, 0)
  | (v, n) :: t => let r := joinBytes t; (v % 2 ^ (8 * n) + r.1 * 2 ^ (8 * n), n + r.2)
/-- A section: type, reserved, length, body. -/
def dumpSection (type : Nat) (body : Nat × Nat) : List (Nat × Nat) := [(type, 4), (0, 4), (body.2, 8), body]
/-- The splice map. -/
def spliceBytes (sp : Splice) : Nat × Nat := joinBytes (
  (sp.pkid + sp.ckid * 2 ^ 32 + sp.bundles.length * 2 ^ 64 + sp.renames.length * 2 ^ 80, 32) ::
  (sp.bundles.map fun (spl, k, orig, gap) => (spl + orig * 2 ^ 18 + k.toNat * 2 ^ 36 + gap.toNat * 2 ^ 37, 8)) ++
  sp.renames.map fun (kind, orig, new) => (kind + orig * 8 + new * 2 ^ 9, 4))
/-- The 48 entries of a map table. -/
def mapBytes (a : Ae) (qubits : Nat) : Nat × Nat := joinBytes ((List.range 48).map fun k =>
  (if k < qubits then a.pos.getD k 0 + a.stamp.getD k 0 * 2 ^ 32 else 0, 8))
/-- The pending exchange beside a map table: gate qubit, L and P in bytes 0 to 2, and 1 in byte 3 where there is one (spec/18
R353, log 36). -/
def exchangeBytes (a : Ae) : Nat × Nat := (match a.cmd.bind (·.exchange) with
  | some (g, l, p) => g + l * 2 ^ 8 + p * 2 ^ 16 + 2 ^ 24
  | none => 0, 8)
/-- A map table with the pending exchange beside it. -/
def aeBytes (q : Seq) : List (Nat × Nat) := match q.ae.reg with
  | some r => [mapBytes q.ae (adN r.desc), exchangeBytes q.ae]
  | none => []
/-- The sequencers of a context as the dump shows them, in place or saved, with their windows. -/
def dumpSeqs (s : State) (c : Nat) : List (Nat × Seq × Mem) := match (s.ctx c).saved with
  | some v => (fetchSave s c v).seqs.map fun e => (e.1, e.2, (fetchSave s c v).regs.getD e.1 [])
  | none => (s.ctx c).seqs.map fun n => (n, s.seq n, (s.core (coreOf n)).regs.slice (s.seq n).winBase (s.seq n).winSize)
/-- The numbers of a kind of register, and the value of one: kinds as spec/18 R354 numbers them. -/
def namesOf (kind : Nat) : List Nat := List.range (match kind with
  | 0 => 64 | 1 => 56 | 2 => 16 | _ => 8)
def namedValue (q : Seq) (m : Mem) (kind k : Nat) : Nat := match kind with
  | 0 => m.readNat (elemOff (viewAt q 0) k 8) 8
  | 1 => m.readNat (elemOff (viewAt q 1) k 512) 512
  | 2 => m.readNat (elemOff (viewAt q 2) k 16384) 16384
  | 3 => m.readNat (elemOff (viewAt q 3) k 64) 64
  | 4 => (q.masks.getD k 0).toNat
  | _ => m.readNat (elemOff (viewAt q 4) k 64) 64
/-- The registers of a kernel under the names of its own image: kernel, kind, number, value (spec/15 R298). -/
def namedRegs (kid : Nat) (ren : List (Nat × Nat × Nat)) (q : Seq) (m : Mem) : List Nat :=
  (List.range 6).flatMap fun kind => (namesOf kind).flatMap fun k =>
    [kid, kind, k, namedValue q m kind (((ren.find? fun r => r.1 = kind && r.2.1 = k).map (·.2.2)).getD k)]
/-- What the dump holds of a sequencer: its saved PC under its kernel, its control state, and its registers under their
original names (spec/22 R420, spec/15 R298). -/
def dumpSeq (s : State) (x : Ctx) (n : Nat) (q : Seq) (m : Mem) : List Nat :=
  let k := kernelAt x q.pc
  [seqId s n, k.1, k.2, q.st.code, q.rank, q.bank.fmt.toNat, (q.cons.map (·.fmt.toNat)).getD 0, q.dmr.toNat, q.ulivec, q.ulimask.toNat, q.inHandler.toNat,
    q.ulist.toNat, q.stepno, q.phase, q.portst.toNat, q.rowprog, q.aeprog, q.ld, q.st_, q.xf, q.mt, q.cm] ++
    q.views.flatMap (fun v => [v.base, v.size]) ++ q.loops.flatMap (fun l => [l.count, (kernelAt x l.stop).2]) ++ q.shadow.map (·.toNat) ++
    q.ports.flatMap (fun p => [p.desc.toNat, p.moved]) ++ q.chans.flatMap (fun e => [e.1, chanWord e.2]) ++
    match x.splice with
    | none => namedRegs x.image.kid [] q m
    | some sp => namedRegs sp.pkid [] q m ++ namedRegs sp.ckid sp.renames q m
/-- A section whose body the spec does not lay out: how its contents are arranged, in less than 64 GiB, is a free value (log
36). -/
def freeBody (type : Nat) (contents : List Nat) : Nat × Nat :=
  let r := Config.dumpBody type contents
  (r.1 % 2 ^ (8 * (r.2 % 2 ^ 36)), r.2 % 2 ^ 36)
def dumpBytes (s : State) (c : Nat) : Nat × Nat :=
  let x := s.ctx c
  let body := joinBytes ((dumpSection 1 (x.frec.toNat, 64) ++ dumpSection 2 (freeBody 2 ((dumpSeqs s c).flatMap fun e => dumpSeq s x e.1 e.2.1 e.2.2)) ++
    dumpSection 3 ((x.splice.map spliceBytes).getD (0, 0)) ++
    dumpSection 4 (joinBytes ((dumpSeqs s c).flatMap fun e => aeBytes e.2.1)) ++
    dumpSection 5 (freeBody 5 [x.energy, x.shared.toNat])))
  joinBytes [(0x504D445A, 4), (1, 2), (0, 2), (64 + body.2, 8), (0, 48), body]

/-- The effect of a context command: dump. One to a calved die waits (spec/21 R402). -/
def ctxDumpOp (s : State) (f c : Nat) : State :=
  ctxCommand s f c true fun s =>
    let x := s.ctx c
    if !(x.st = .faulted || x.st = .saved) then s.modFunc f fun y => { y with cstat := cstatRefused 2, cmd := none }
    else
      let b := dumpBytes s c
      if !feLive s s.sys.leader (s.func f).lasid (s.func f).ctxda b.2 then s.modFunc f fun y => { y with cstat := 1, cmd := some c, dumping := true }
      else match feWrite s s.sys.leader f (s.func f).lasid (s.func f).ctxda b.2 b.1 with
      | .error _ => s.modFunc f fun y => { y with cstat := cstatRefused 4, cmd := none }
      | .ok s => s.modFunc f fun y => { y with cstat := 0, cmd := none }
/-- CTXCMD 3 of function arg 0 for context arg 1. -/
def execCtxDump (s : State) : Host.Outcome State Fault Refusal := .next (if hostOpen s then ctxDumpOp s (s.arg 0) (s.arg 1) else s)

/-! ### Strike rollback (spec/20 R384, R385, spec/19 R374) -/

/-- The vectors that arrived for an input port's entries asked for inside the window, popped or not: they come again with
the same bits (spec/13 R257). -/
def cameBack (cur : Seq) (firstId : Nat) : List (Nat × BitVec 512 × Nat × Vec) :=
  (cur.seen.filter fun e => firstId ≤ e.1).map (·.2) ++
    (cur.ports.zipIdx.map fun (x, p) => if pdOut x.desc then [] else x.buf.zipIdx.filterMap fun (e, k) =>
      if firstId ≤ e.id then e.vec.map fun v => (p, x.desc, x.moved + k, v) else none).flatten
/-- Where a sequencer that has stopped since the boundary stops again, and as what (spec/20 R385): it re-executes the bundles
that it had issued. One that halted does so again by itself. -/
def redoOf (cur old : Seq) : Option (Nat × SqState × SqState × Option SqState) :=
  if cur.redo.isSome then cur.redo
  else if cur.st.live || cur.st = .retired || cur.st = .idle || !old.st.live then none
  else some (cur.issued, cur.st, cur.prev, cur.below)
/-- The sequencer of a snapshot as it stands after the return: causes, watch triggers and stop requests that arrived stand. -/
def rolledSeq (cur old : Seq) (firstId : Nat) : Seq :=
  let ae := match cur.ae.cmd with
    | some x => if firstId ≤ x.id then { cur.ae with cmd := none, seqno := if x.op = .map then cur.ae.seqno else (cur.ae.seqno + (2 ^ 32 - 1)) % 2 ^ 32 } else cur.ae
    | none => cur.ae
  { old with causes := cur.causes, ae := ae, again := cameBack cur firstId ++ cur.again, stopReq := cur.stopReq, redo := redoOf cur old
             st := if old.st.live then old.st else cur.st, prev := if old.st.live then old.prev else cur.prev, below := if old.st.live then old.below else cur.below
             watch := match old.watch, cur.watch with
               | some (l, v, t), some (m, _, u) => some (l, v, t || (l = m && u))
               | w, _ => w }
/-- A tensor table without what core `g` has written since it was `old` (spec/08 R174). -/
def rolledTensors (g : Nat) (cur old : Tab Tensor) : Tab Tensor :=
  let own := fun (t : Nat) => (cur.find? t).any fun x => x.core = g
  let kept := List.filter (fun (e : Nat × Tensor) => !own e.1) cur
  (List.filter (fun (e : Nat × Tensor) => own e.1) old).foldl (fun t e => t.put e.1 e.2) kept
/-- The sequencers of a core that a return to a boundary concerns: nothing but their core has changed them since. -/
def rolled (s : State) (g : Nat) (p : Snap) : List Nat := ((List.range 4).map (4 * g + ·)).filter fun n => (s.seq n).epoch = (p.seqs.getD n {}).epoch
/-- Register space of the boundary, but for the windows of the other sequencers. -/
def rolledRegs (s : State) (g : Nat) (p : Snap) : Mem :=
  (((List.range 4).map (4 * g + ·)).filter fun n => !(rolled s g p).contains n && (s.seq n).ctx.isSome).foldl (fun m n =>
    let q := s.seq n
    m.unslice q.winBase q.winSize ((s.core g).regs.slice q.winBase q.winSize)) p.core.regs
/-- Return a core to a boundary of its history: item `k`, the most recent first. A sequencer that something other than its
core has changed since stays as it is, with what its engines hold. -/
def rollTo (s : State) (g k : Nat) : State :=
  let h := s.hist.getD g []
  match h[k]? with
  | none => s
  | some p =>
    let mine := rolled s g p
    let own := fun (n : Nat) => mine.contains n
    let gone := fun (n id : Nat) => own n && p.firstId ≤ id
    let regs := rolledRegs s g p
    let s := { s with seqs := mine.foldl (fun t n => t.put n (rolledSeq (s.seq n) (p.seqs.getD n {}) p.firstId)) s.seqs
                      ctxs := List.map (fun (e : Nat × Ctx) => (e.1, { e.2 with arrived := e.2.arrived.filter fun a => !(own a.2 && (p.seqs.getD a.2 {}).pendDom.isNone) })) s.ctxs
                      msgs := s.msgs.filter fun m => match localSeq s m.msg.src.1 with
                        | some n => m.stays || !gone n m.id
                        | none => true
                      hist := s.hist.put g (h.drop k) }
    let s := dropRemotes s fun r => gone r.seq r.id
    let s := s.modCluster (clusterOf g) fun c => { c with pushes := c.pushes.filter fun x => x.bau || !gone x.seq x.id }
    let s := p.tensors.foldl (fun s e => s.modCtx e.1 fun x => { x with tensors := rolledTensors g x.tensors e.2 }) s
    s.modCore g fun c =>
      { c with last := p.core.last, regs := regs, scales := p.core.scales
               mq := sortBy (·.id) (p.core.mq.filter (fun e => own e.seq) ++ c.mq.filter fun e => !own e.seq)
               ls := (c.ls.zip p.core.ls).map fun (l : Landing × Landing) => if l.1.owner.any (!own ·) then l.1 else l.2
               bte := c.bte.map fun (ch : List Copy) => ch.filter fun x => !gone x.seq x.id }
def strike (s : State) (g : Nat) : State := s.modCore g fun c => { c with strikes := c.strikes + 1 }

/-- A strike on core arg 0: it returns arg 1 boundaries of its history (log 37). The odd core of a twin pair runs with its
even core, which returns (spec/20 R385). -/
def execStrikeRollback (s : State) : Host.Outcome State Fault Refusal :=
  .next (if s.issue.isSome then s else strike (rollTo s ((s.core (s.arg 0)).twinOf.getD (s.arg 0)) (s.arg 1)) (s.arg 0))

/-! ### Twin cores (spec/20 R387, R388) -/

/-- Index of the boundary before the bundle that produced an effect. -/
def boundaryBefore (s : State) (g id : Nat) : Option Nat := (s.hist.getD g []).findIdx? fun p => p.firstId ≤ id
/-- The outbound effect under an identity: its sequencer, address, data, bundle and slot. Effects are those of spec/20 R384:
writes of every kind, aperture stores, AE commands, spawns, and what goes over channels. -/
def twinEffect (s : State) (g id : Nat) : Option TwinEffect :=
  firstSome [
    (List.range 4).findSome? fun k => let n := 4 * g + k
      ((s.seq n).acc.find? fun a => a.id = id && a.kind.writes).map fun a =>
        { id := id, addr := (a.segs.head?.map (·.va)).getD 0, data := a.data, pc := a.pc, slot := a.slot, held := a.held, seq := n },
    (s.msgs.find? fun m => m.id = id && (localSeq s m.msg.src.1).any fun n => coreOf n = g).map fun m =>
      { id := id, addr := m.msg.dst.1, data := m.msg.slotBytes, pc := m.pc, slot := m.slot, held := m.held, seq := (localSeq s m.msg.src.1).getD 0 },
    ((s.core g).bte.flatten.find? fun c => c.id = id).map fun c =>
      { id := id, addr := 0, data := c.word.toNat, pc := c.pc, slot := c.slot, held := c.held, seq := c.seq },
    (List.range 4).findSome? fun k => let n := 4 * g + k
      match (s.seq n).ae.cmd with
      | some c => if c.id = id then some { id := id, addr := c.addr, data := c.qubits.foldl (fun x y => x * 64 + y) 1, pc := c.pc, slot := c.slot, held := c.held, seq := n } else none
      | none => none,
    ((s.cluster (clusterOf g)).pushes.find? fun p => p.id = id && coreOf p.seq = g).map fun p =>
      { id := id, addr := p.r.code, data := recNat p.r, pc := p.pc, slot := p.slot, held := p.held, seq := p.seq }]
/-- Discard an effect; a counter it raised falls. -/
def dropEffect (s : State) (e : TwinEffect) : State :=
  let g := coreOf e.seq
  let copy := (s.core g).bte.flatten.any fun c => c.id = e.id
  let cmd := (s.seq e.seq).ae.cmd.any fun c => c.id = e.id
  let s := finish (dropRemote s e.id) e.seq e.id
  let s := s.modCore g fun c => { c with bte := c.bte.map fun ch => ch.filter fun x => x.id ≠ e.id }
  let s := s.modSeq e.seq fun q =>
    let q := if cmd then { q with ae := { q.ae with cmd := none } } else q
    if copy || cmd then q.lower .xf else q
  let s := s.modCluster (clusterOf g) fun k => { k with pushes := k.pushes.filter fun p => p.id ≠ e.id }
  { s with msgs := s.msgs.filter fun m => m.id ≠ e.id }

/-- Effect arg 1 of the even core arg 0 is compared with its twin's: address arg 2 and data arg 3. A first difference
rolls both cores back; when the effect differs again on re-execution it is discarded and the context stops; one that agrees
there counts no more. -/
def execTwinCompare (s : State) : Host.Outcome State Fault Refusal :=
  .next (let g := s.arg 0
  let id := s.arg 1
  match twinEffect s g id with
  | none => s
  | some e =>
    let same := fun (t : TwinEffect) => t.pc = e.pc && t.slot = e.slot && t.held = e.held && t.seq = e.seq
    if s.issue.isSome || (s.core (g + 1)).twinOf ≠ some g then s
    else if e.addr = s.arg 2 && e.data = s.arg 3 then s.modCore g fun c => { c with twin := c.twin.filter fun t => !same t }
    else
      let again := (s.core g).twin.any same
      let s := (strike (strike s g) (g + 1)).modCore g fun c => { c with twin := if again then [] else c.twin ++ [{ e with repeated := true }] }
      let s := match boundaryBefore s g id with
        | some k => if again then s else rollTo s g k
        | none => s
      if again then addCause (dropEffect s e) e.seq { cause := .twinMismatch, addr := e.addr, aux := s.arg 2, pc := some e.pc, slot := e.slot, held := e.held }
      else s)

end Sys2Proof.Machine
end

