-- ==== Sys2Proof/Machine/Image.lean ====
section
/-! DEFINITION. Program images as the front end reads and checks them (spec/03 R56-R58). -/
set_option linter.unusedVariables false
namespace Sys2Proof.Machine
open Sys2Proof

/-- A field of `n` bytes at a byte offset. -/
def at8 (x off n : Nat) : Nat := x / 2 ^ (8 * off) % 2 ^ (8 * n)

/-- The header's fields (spec/03 R56). -/
def headerImage (va h : Nat) : Image :=
  { va := va, kid := at8 h 8 4, flags := at8 h 6 2, cov := at8 h 12 1, nseq := at8 h 13 1, win := at8 h 16 4, entry := at8 h 24 4
    thaw := if at8 h 28 4 = 0xFFFFFFFF then none else some (at8 h 28 4)
    fmt := BitVec.ofNat 32 (at8 h 32 4)
    views := (List.range 8).map fun k => { base := at8 h (40 + 8 * k) 4, size := at8 h (44 + 8 * k) 4 }
    wstart := at8 h 104 4, wend := at8 h 108 4, wk := at8 h 112 1, nout := at8 h 113 1, nin := at8 h 114 1 }
/-- Magic, version, CRC, reserved bytes and the ranges of the header's own fields (spec/03 R56, R58). -/
def headerOk (h : Nat) : Bool :=
  let i := headerImage 0 h
  at8 h 0 4 = 0x504E595A && at8 h 4 2 = 1 && at8 h 252 4 = crc32c 252 h &&
    at8 h 14 2 = 0 && at8 h 36 4 = 0 && at8 h 115 5 = 0 && at8 h 126 126 = 0 && i.flags < 8 && i.cov ≤ 3 && 1 ≤ i.nseq && i.nseq ≤ 4 &&
    i.win % 4096 = 0 && 4096 ≤ i.win && i.win ≤ 0x100000 && i.nseq * i.win ≤ 0x100000 && at8 h 20 4 % 4 = 0 && at8 h 20 4 ≤ 0x40000 &&
    i.views.all (fun v => v.base % 64 = 0 && v.size % 64 = 0 && v.base + v.size ≤ i.win) && i.wk ≤ 8 && i.nout ≤ 8 && i.nin ≤ 8 &&
    at8 h 120 4 % 16 = 0 && 1 ≤ at8 h 124 2 && at8 h 124 2 ≤ 64 && (bit i.flags 2 || (i.wstart = 0xFFFFFFFF && i.wend = 0xFFFFFFFF))

/-- The section table (spec/03 R57). -/
def tableSections (n t : Nat) : List Section := (List.range n).map fun k =>
  { kind := at8 t (16 * k) 2, off := at8 t (16 * k + 4) 4, size := at8 t (16 * k + 8) 4, load := at8 t (16 * k + 12) 4 }
/-- No two of these byte ranges meet. -/
def apart : List (Nat × Nat) → Bool
  | [] => true
  | x :: t => t.all (fun y => !meet x.1 x.2 y.1 y.2) && apart t
/-- Types, places and sizes of sections; `isz` is the header's instruction-memory size. No field gives an image's length:
a section runs past it where its last byte's offset does not fit 32 bits (log 94). -/
def sectionsOk (n t isz : Nat) : Bool :=
  let l := tableSections n t
  (List.range n).all (fun k => at8 t (16 * k + 2) 2 = 0) && l.all (fun x => 1 ≤ x.kind && x.kind ≤ 6 && x.off + x.size ≤ 2 ^ 32) &&
    apart ((l.filter (fun x => x.size ≠ 0)).map fun x => (x.off, x.size)) &&
    (match l.filter (fun x => x.kind = 1) with
      | [c] => c.load = 0 && c.size = isz
      | _ => false) && l.all (fun x => x.kind ≠ 6 || x.load = 0)

/-- The 32-bit words of a byte string. -/
def wordsOf (n x : Nat) : List (BitVec 32) := (List.range n).map fun k => BitVec.ofNat 32 (x / 2 ^ (32 * k))
/-- Are the reserved bytes of a type-6 section's first `k` entries zero. Bits [7:3] of byte 4, which spec/15 R286 neither
lists nor calls reserved, may hold anything (DESIGN CHOICE, log 94). -/
def tagsReserved (k : Nat) (x : Section) : Bool := x.kind ≠ 6 || (List.range k).all fun i =>
  at8 x.data (16 * i + 5) 1 < 4 && at8 x.data (16 * i + 6) 2 = 0 && at8 x.data (16 * i + 12) 4 = 0
/-- Is an offset a bundle start of this code (spec/02 R28): not the word just past its last, nor any word of an empty
section (log 94). -/
def codeStart (code : List (BitVec 32)) (a : Nat) : Bool :=
  a % 4 = 0 && a / 4 < code.length && (a = 0 || slotStop (code.getD (a / 4 - 1) 0).toNat)

/-- An image is read with X permission, through the ITLB of a core of its launch (spec/17 R325, R329; DESIGN CHOICE, log
113: the lowest it names, also where its header is read ahead). -/
def imgSegs (s : State) (g asid va len : Nat) : Except XFault (List Seg) := segs s g .itlb asid .f { x := true } va len
/-- Read bytes of an image. -/
def imgRead (s : State) (g asid va len : Nat) : Except XFault Nat := match imgSegs s g asid va len with
  | .error f => .error f
  | .ok l => match loadPoisoned s g .f l with
    | some a => .error { cause := .dataAbort, va := a }
    | none => .ok (loadSegs s g .f l false).2
/-- Sections with their bytes, which are those of the look-ahead also for what is written at a release (DESIGN CHOICE, log
94: spec/03 R57 names no moment). -/
def readSections (s : State) (g asid va : Nat) : List Section → Except XFault (List Section)
  | [] => .ok []
  | x :: t => match (if x.size = 0 then .ok 0 else imgRead s g asid (va + x.off) x.size) with
    | .error f => .error f
    | .ok b => match readSections s g asid va t with
      | .error f => .error f
      | .ok r => .ok ({ x with data := b } :: r)

/-- Read an image: a fault, a refusal (none), or the image. -/
def readImage (s : State) (g asid va : Nat) : Except XFault (Option Image) := match imgRead s g asid va 256 with
  | .error f => .error f
  | .ok h =>
    if !headerOk h then .ok none
    else
      let tab := at8 h 120 4
      let n := at8 h 124 2
      match imgRead s g asid (va + tab) (16 * n) with
      | .error f => .error f
      | .ok t =>
        if !sectionsOk n t (at8 h 20 4) then .ok none
        else match readSections s g asid va (tableSections n t) with
          | .error f => .error f
          | .ok l =>
            let code := ((l.find? fun x => x.kind = 1).map fun x => wordsOf (x.size / 4) x.data).getD []
            let i := { headerImage va h with sections := l, code := code }
            if l.all (tagsReserved (i.nout + i.nin)) && codeStart code i.entry && (i.thaw.all fun a => codeStart code a) then .ok (some i) else .ok none
/-- The ranges that reading an image meets: header, table, sections. -/
def imageSpans (s : State) (g asid va : Nat) : List (Nat × Nat) := (va, 256) :: match imgRead s g asid va 256 with
  | .error _ => []
  | .ok h =>
    if !headerOk h then []
    else
      let tab := (va + at8 h 120 4, 16 * at8 h 124 2)
      tab :: match imgRead s g asid tab.1 tab.2 with
      | .error _ => []
      | .ok t => ((tableSections (at8 h 124 2) t).filter (·.size ≠ 0)).map fun x => (va + x.off, x.size)
/-- Does reading an image meet no calved die (spec/21 R402). -/
def imageLive (s : State) (g asid va : Nat) : Bool := (imageSpans s g asid va).all fun p => match imgSegs s g asid p.1 p.2 with
  | .error _ => true
  | .ok l => segsLive s l
/-- What reading an image finds in no TLB is installed (spec/17 R331). -/
def imageSeen (s : State) (g asid va : Nat) : State :=
  (imageSpans s g asid va).foldl (fun s p => installSegs s g .itlb asid (segsOk (imgSegs s g asid p.1 p.2))) s

end Sys2Proof.Machine
end

