-- ==== Sys2Proof/Machine/Welt.lean ====
section
/-! DEFINITION. The welt splicer: which pairs are eligible and the spliced image (spec/15 R286-R292, spec/18 R354). -/
set_option linter.unusedVariables false
namespace Sys2Proof.Machine
open Sys2Proof

/-! ### Bundles of an image -/

/-- One bundle of an image's code. -/
structure Bundle where
  at_ : Nat
  words : List (BitVec 32)
deriving DecidableEq, Repr

/-- Cut code at its stop bits; words after the last stop bit form a bundle too. -/
def cutBundles : Nat → Nat → List (BitVec 32) → List (BitVec 32) → List Bundle
  | _, _, [], [] => []
  | start, _, acc, [] => [⟨start, acc⟩]
  | start, a, acc, w :: t => if slotStop w.toNat then ⟨start, acc ++ [w]⟩ :: cutBundles (a + 4) (a + 4) [] t else cutBundles start (a + 4) (acc ++ [w]) t
def bundlesOf (code : List (BitVec 32)) : List Bundle := cutBundles 0 0 [] code
def Bundle.stop (b : Bundle) : Nat := b.at_ + 4 * b.words.length

/-- A slot of a bundle: position, class, word, instruction. -/
structure BSlot where
  pos : Nat
  cls : Nat
  word : BitVec 32
  instr : Instr
deriving DecidableEq, Repr
def Bundle.slots (b : Bundle) : List BSlot := (b.words.zipIdx.filterMap fun (w, k) => match decodeSlot w.toNat with
  | .ok i => some ⟨k, slotClass w.toNat, w, i⟩
  | .error _ => none)
/-- The imx extension for a class. -/
def Bundle.ext (b : Bundle) (cls : Nat) : Option Nat := b.slots.findSome? fun x => match x.instr with
  | .imx c e => if c.toNat = cls then some e.toNat else none
  | _ => none

/-! ### Operands a slot names (spec/15 R291) -/

/-- Kinds of items, by the codes of spec/18 R354, with number and lowest bit of the field. -/
structure Item where
  kind : Nat
  num : Nat
  lo : Nat
deriving DecidableEq, Repr

def sc (lo : Nat) (r : Reg) : List Item := if r = 0 then [] else [⟨0, r.toNat, lo⟩]
/-- A vector field: codes 56 to 63 name ports (spec/07 R129). -/
def vc (lo : Nat) (r : Reg) : List Item := if 56 ≤ r.toNat then [⟨5, r.toNat - 56, lo⟩] else [⟨1, r.toNat, lo⟩]
def mk (lo : Nat) (k : Nat) : List Item := [⟨4, k, lo⟩]
def tl (t : BitVec 4) : List Item := [⟨2, t.toNat, 16⟩]

/-- The items a slot names. -/
def items : Instr → List Item
  | .add d a b | .sub d a b | .mul d a b | .mulh d a b | .mulhz d a b | .div d a b | .divz d a b | .rem d a b | .remz d a b
  | .and d a b | .or d a b | .xor d a b | .andn d a b | .shl d a b | .shr d a b | .sra d a b | .slt d a b | .sltz d a b
  | .seq d a b | .min d a b | .max d a b | .minz d a b | .maxz d a b | .sel d a b | .bfx d a b _ | .bfi d a b | .lea d a b _
  | .fadd d a b _ | .fsub d a b _ | .fmul d a b _ | .fma d a b _ | .fdiv d a b _ | .fmin d a b _ | .fmax d a b _ | .fcmp d a b _ _
  | .badd d a b _ | .bmin d a b _ | .bmax d a b _ | .band d a b _ | .bor d a b _ | .bxor d a b _ | .bswp d a b _ | .bcas d a b _
  | .tbwait d a b _ | .lset d a b => sc 14 d ++ sc 8 a ++ sc 2 b
  | .clz d a | .ctz d a | .popc d a | .addi d a _ | .andi d a _ | .ori d a _ | .xori d a _ | .shli d a _ | .shri d a _ | .srai d a _
  | .slti d a _ | .fsqrt d a _ | .fcvt d a _ _ | .waitt d a | .mwait d a | .pseal d a
  | .ld8 _ _ d a _ | .ld16 _ _ d a _ | .ld32 _ _ d a _ | .ld64 _ _ d a _ | .ldz8 _ _ d a _ | .ldz16 _ _ d a _ | .ldz32 _ _ d a _
  | .st8 _ d a _ | .st16 _ d a _ | .st32 _ d a _ | .st64 _ d a _ => sc 14 d ++ sc 8 a
  | .li d _ | .lih d _ | .tnow d | .cyc d | .lidx d _ | .crd d _ => sc 14 d
  | .loop c _ => sc 14 c
  | .anorm a => sc 14 a
  | .jmp a | .callr a | .fmt a | .spawn a | .mon a | .chdecl _ a => sc 8 a
  | .bc _ a _ => sc 11 a
  | .vset _ a => sc 11 a
  | .cwr _ a => sc 0 a
  | .ctrap a b | .jinit a b | .tbarv a b | .tbexp a b | .tbinit a b => sc 8 a ++ sc 2 b
  | .agate a b _ | .amap a b | .ameas a b | .acoll a b => sc 14 a ++ sc 8 b
  | .aswap b => sc 8 b
  | .chpoll _ d => sc 8 d
  | .mstab _ a b => sc 6 a ++ sc 0 b
  | .vadd d a b _ | .vsub d a b _ | .vmul d a b _ | .vfma d a b _ | .vfms d a b _ | .vmin d a b _ | .vmax d a b _ | .vdiv d a b _
  | .vand d a b _ | .vor d a b _ | .vxor d a b _ | .vshl d a b _ | .vshr d a b _ | .vsra d a b _ | .vpack d a b _ | .vdot4 d a b _
  | .vperm d a b _ | .vcmul d a b _ => vc 14 d ++ vc 8 a ++ vc 2 b
  | .vabs d a _ | .vneg d a _ | .vsqrt d a _ | .vrcp d a _ | .vrsq d a _ | .vexp2 d a _ | .vlog2 d a _ | .vunpk d a _
  | .vcvt d a _ _ _ => vc 14 d ++ vc 8 a
  | .vred d a en k _ _ | .vscan d a en k _ _ => vc 14 d ++ vc 8 a ++ if en then mk 4 k.toNat else []
  | .vceq k a b _ | .vclt k a b _ | .vcle k a b _ => mk 14 k.toNat ++ vc 8 a ++ vc 2 b
  | .vsel d a k _ => vc 14 d ++ vc 8 a ++ mk 2 k.toNat
  | .vbcst d a _ | .vidx d a _ => vc 14 d ++ sc 8 a
  | .vslide d a b _ => vc 14 d ++ vc 8 a ++ sc 2 b
  | .vext d a b _ => sc 14 d ++ vc 8 a ++ sc 2 b
  | .vins d a b _ => vc 14 d ++ sc 8 a ++ sc 2 b
  | .vmov d a kind _ => (if kind.getLsbD 0 then mk 14 (d.toNat % 8) else vc 14 d) ++ if kind.getLsbD 1 then mk 8 (a.toNat % 8) else vc 8 a
  | .vctrap q k a b _ => mk 14 k.toNat ++ vc 8 a ++ vc 2 b
  | .mma _ _ t h a b => tl t ++ [⟨3, h.toNat, 13⟩] ++ sc 7 a ++ sc 1 b
  | .mmaD _ _ t h b => tl t ++ [⟨3, h.toNat, 13⟩] ++ sc 1 b
  | .mzero t | .mcommit t => tl t
  | .mshape h a _ => ⟨3, h.toNat, 17⟩ :: vc 11 a
  | .vld _ _ d a _ | .vst _ d a _ => vc 14 d ++ sc 8 a
  | .vgat _ _ d a b _ | .vsct _ d a b _ => vc 14 d ++ sc 8 a ++ vc 2 b
  | .vbred a b _ => sc 8 a ++ vc 2 b
  | .fill a b _ => sc 14 a ++ vc 8 b
  | .pcfg n a _ => ⟨5, n.toNat, 17⟩ :: vc 11 a
  | .pflush n => [⟨5, n.toNat, 17⟩]
  | .send _ a _ => vc 8 a
  | .recv _ d _ => vc 8 d
  | .recvadd _ d b _ | .recvmax _ d b _ => vc 8 d ++ vc 2 b
  | _ => []

/-- Width of an item's field, and the value that stands in it for a number: ports stand in vector fields as 56 + N. -/
def itemWidth (x : Item) : Nat := match x.kind with
  | 0 | 1 => 6
  | 2 => 4
  | 3 | 4 => 3
  | _ => if x.lo = 17 then 3 else 6
def itemCode (x : Item) (n : Nat) : Nat := if x.kind = 5 && x.lo ≠ 17 then 56 + n else n
/-- Put a value in a field of a word. -/
def putField (w : BitVec 32) (lo width v : Nat) : BitVec 32 :=
  BitVec.ofNat 32 (w.toNat - bits w.toNat (lo + width - 1) lo * 2 ^ lo + v % 2 ^ width * 2 ^ lo)

/-- The view operand of a VEC, MEM, XFR or MTX slot that takes one. -/
def viewOperand : Instr → Option (BitVec 2)
  | .vadd _ _ _ m | .vsub _ _ _ m | .vmul _ _ _ m | .vfma _ _ _ m | .vfms _ _ _ m | .vmin _ _ _ m | .vmax _ _ _ m | .vdiv _ _ _ m
  | .vand _ _ _ m | .vor _ _ _ m | .vxor _ _ _ m | .vshl _ _ _ m | .vshr _ _ _ m | .vsra _ _ _ m | .vdot4 _ _ _ m
  | .vperm _ _ _ m | .vcmul _ _ _ m | .vabs _ _ m | .vneg _ _ m | .vsqrt _ _ m | .vrcp _ _ m | .vrsq _ _ m | .vexp2 _ _ m
  | .vlog2 _ _ m | .vcvt _ _ _ _ m | .vred _ _ _ _ _ m | .vscan _ _ _ _ _ m | .vceq _ _ _ m | .vclt _ _ _ m | .vcle _ _ _ m
  | .vsel _ _ _ m | .vbcst _ _ m | .vidx _ _ m | .vslide _ _ _ m | .vext _ _ _ m | .vins _ _ _ m | .vmov _ _ _ m
  | .vctrap _ _ _ _ m | .mshape _ _ m | .vgat _ _ _ _ _ m | .vsct _ _ _ _ m | .pcfg _ _ m => some m
  | _ => none

/-! ### Targets -/

/-- Width and sign of the offset of a slot that has one, its field's width and lowest bit, its encoded value, and
whether an imx extends it. -/
def offsetField : Instr → Option (Bool × Nat × Nat × Nat × Bool)
  | .br o | .call o => some (true, 20, 0, o.toNat, true)
  | .bc _ _ o => some (true, 11, 0, o.toNat, true)
  | .loop _ o => some (false, 14, 0, o.toNat, true)
  | .loopi _ o => some (false, 10, 0, o.toNat, false)
  | .lbrk _ o => some (true, 17, 0, o.toNat, false)
  | _ => none
def isLoop : Instr → Bool
  | .loop _ _ | .loopi _ _ => true
  | _ => false
/-- The address a slot's offset names. -/
def targetOf (b : Bundle) (x : BSlot) : Option Int := (offsetField x.instr).map fun (signed, w, _, v, ext) =>
  let e := if ext then b.ext x.cls else none
  let total := if e.isSome then w + 17 else w
  let raw := e.getD 0 * 2 ^ w + v
  (b.at_ : Int) + 4 * (if signed then toInt total raw else (raw : Int))
def targets (b : Bundle) : List (BSlot × Int) := b.slots.filterMap fun x => (targetOf b x).map fun t => (x, t)

/-! ### Weltloops (spec/15 R288) -/

def isTransfer : Instr → Bool
  | .br _ | .bc _ _ _ | .jmp _ | .call _ | .callr _ | .ret | .lbrk _ _ | .halt | .trap _ | .spawn _ | .retire => true
  | _ => false
def body (i : Image) (l : List Bundle) : List Bundle := l.filter fun b => i.wstart ≤ b.at_ && b.at_ ≤ i.wend
/-- The bundle just before an address. -/
def bundleBefore (l : List Bundle) (a : Nat) : Option Bundle := l.find? fun b => b.stop = a
def hasBundle (l : List Bundle) (a : Nat) : Bool := l.any fun b => b.at_ = a

/-- The loop head of an image whose weltloop is in form. -/
def weltForm (i : Image) (l : List Bundle) : Option Nat :=
  if i.wk = 0 || !hasBundle l i.wstart || !hasBundle l i.wend || i.wend < i.wstart then none
  else match bundleBefore l i.wstart with
    | none => none
    | some h =>
      let headOk := match h.words, h.slots with
        | [_], [x] => (match x.instr with
          | .loop c _ => c.toNat = i.wk && targetOf h x = some (i.wend : Int)
          | _ => false)
        | _, _ => false
      let nested := l.any fun b => (targets b).any fun t => isLoop t.1.instr && b.at_ ≠ h.at_ && (b.stop ≤ h.at_ && (h.at_ : Int) ≤ t.2)
      let shared := (body i l).any fun b => (targets b).any fun t => isLoop t.1.instr && t.2 = (i.wend : Int)
      let before := l.filter fun b => i.entry ≤ b.at_ && b.at_ < h.at_
      if headOk && !nested && !shared && i.entry < h.at_ && hasBundle l i.entry && !before.any (fun b => b.slots.any fun x => isTransfer x.instr)
      then some h.at_ else none

/-! ### Tags (spec/15 R286, R287 item 3) -/

structure Tag where
  id : Nat
  port : Nat
  input : Bool
  keep : Bool
  pat : Nat
deriving DecidableEq, Repr
def tagsOf (i : Image) : List Tag := match i.sections.find? fun x => x.kind = 6 with
  | none => []
  | some x => (List.range (i.nout + i.nin)).map fun k =>
    let e := at8 x.data (16 * k) 16
    { id := fld e 31 0, port := fld e 34 32, input := bit e 40, keep := bit e 41, pat := fld e 95 64 }
/-- The pattern record a tag names. -/
def tagRecord (i : Image) (t : Tag) : Option (BitVec 1024) :=
  (i.sections.find? fun x => x.kind = 3 && t.pat + 128 ≤ x.size).map fun x => BitVec.ofNat 1024 (x.data / 2 ^ (8 * t.pat))
/-- Matched pairs: producer output, consumer input, record; none where a tag stays unmatched. -/
def matchTags (a b : Image) : Option (List (Tag × Tag × BitVec 1024)) :=
  let outs := tagsOf a
  let ins := tagsOf b
  if outs.any (·.input) || ins.any (fun t => !t.input) || !ins.all (fun t => (outs.filter fun o => o.id = t.id).length = 1) then none
  else outs.mapM fun o => match ins.filter fun t => t.id = o.id with
    | [t] => match tagRecord a o, tagRecord b t with
      | some r, some r' => if r = r' then some (o, t, r) else none
      | _, _ => none
    | _ => none

/-! ### Slots that are not allowed (spec/15 R287 items 5 and 6) -/

def badInBody (ports : List Nat) : Instr → Bool
  | .step | .dsync _ | .vset _ _ | .br _ | .bc _ _ _ | .jmp _ | .call _ | .callr _ | .ret | .lbrk _ _ | .halt | .spawn _ | .retire
  | .send _ _ _ | .recv _ _ _ | .recvadd _ _ _ _ | .recvmax _ _ _ _ | .chdecl _ _ | .chpoll _ _ | .chclose _ => true
  | .pcfg n _ _ => ports.contains n.toNat
  | _ => false
def badOutside : Instr → Bool
  | .vset _ _ | .jmp _ | .call _ | .callr _ | .ret | .spawn _ | .retire => true
  | _ => false
def isHalt : Instr → Bool
  | .halt => true
  | _ => false
def inBody (i : Image) (a : Int) : Bool := (i.wstart : Int) ≤ a && a ≤ (i.wend : Int)
def shapeOk (i : Image) (l : List Bundle) (head : Nat) (consumer : Bool) : Bool :=
  let kept := fun (a : Int) => l.any fun b => (b.at_ : Int) = a && i.entry ≤ b.at_ && !(consumer && b.at_ = head)
  let inside := fun (b : Bundle) => inBody i b.at_
  l.all (fun b => b.slots.all fun x => (inside b || !badOutside x.instr) && (!consumer || (viewOperand x.instr).all (· = 0))) &&
    l.all (fun b => b.at_ = head || (targets b).all fun t => inBody i t.2 = inside b && (!kept b.at_ || kept t.2)) &&
    (match (l.filter fun b => b.slots.any fun x => isHalt x.instr) with
      | [b] => (l.getLast?.map (·.at_)) = some b.at_ && (b.slots.filter fun x => isHalt x.instr).length = 1
      | _ => false)

/-! ### Forwarding counts (spec/15 R289) -/

/-- Does a slot pop or push the port. -/
def touches (p : Nat) (i : Instr) : Bool := (items i).any fun x => x.kind = 5 && x.num = p && x.lo ≠ 17
def countBundle (p : Nat) (b : Bundle) (held : Tab Instr) : Nat × Tab Instr :=
  let sl := b.slots
  let n := (sl.filter fun x => touches p x.instr).length + (held.filter fun e => !(sl.any fun x => x.cls = e.1) && touches p e.2).length
  let held := sl.foldl (fun h x => match x.instr with
    | .unhold m => List.filter (fun (e : Nat × Instr) => !bit m.toNat (e.1 - 2)) h
    | _ => h) held
  (n, sl.foldl (fun h x => if x.cls < 2 then h else if slotHold x.word.toNat then h.put x.cls x.instr else h.del x.cls) held)
/-- The `loopi` of a bundle: count and last bundle of its body. -/
def innerLoop (b : Bundle) : Option (Nat × Int) := b.slots.findSome? fun x => match x.instr with
  | .loopi n _ => (targetOf b x).map fun t => ((b.ext x.cls).getD 0 * 2 ^ 10 + n.toNat, t)
  | _ => none
/-- Walk a list of bundles once, inner loops included. -/
def walkCount (p : Nat) : Nat → List Bundle → Tab Instr → Nat × Tab Instr
  | 0, _, h => (0, h)
  | _, [], h => (0, h)
  | fuel + 1, b :: t, h =>
    let r := countBundle p b h
    match innerLoop b with
    | none => let k := walkCount p fuel t r.2; (r.1 + k.1, k.2)
    | some (n, e) =>
      let inner := t.filter fun x => (x.at_ : Int) ≤ e
      let rest := t.filter fun x => e < (x.at_ : Int)
      let one := if n = 0 then (0, r.2) else walkCount p fuel inner r.2
      let more := if n ≤ 1 then (0, one.2) else walkCount p fuel inner one.2
      let k := walkCount p fuel rest more.2
      (r.1 + one.1 + (n - 1) * more.1 + k.1, k.2)
/-- The forwarding count, the held state carried from the end of the body into its start; none where an inner loop's
count is a register's. -/
def forwardCount (i : Image) (l : List Bundle) (p : Nat) : Option Nat :=
  let bl := body i l
  if bl.any fun b => b.slots.any fun x => match x.instr with
    | .loop _ _ => true
    | _ => false then none
  else some (walkCount p (bl.length + 1) bl (walkCount p (bl.length + 1) bl []).2).1

/-! ### Renumbering (spec/15 R291) -/

def itemsOf (l : List Bundle) : List Item := (l.map fun b => (b.slots.map fun x => items x.instr).flatten).flatten
def kindLimit : Nat → Nat
  | 0 => 64 | 1 => 56 | 2 => 16 | _ => 8
def kindSize : Nat → Nat
  | 1 => 512 | 2 => 16384 | _ => 64
/-- Views through which an item of a kind covers window bytes; the first is the template of its kind. -/
def kindViews : Nat → List Nat
  | 1 => [1, 5, 6, 7] | 2 => [2] | 3 => [3] | 5 => [4] | _ => []
/-- Window bytes of an item through a view, where the view covers it. -/
def coverOf (i : Image) (kind num w : Nat) : Option (Nat × Nat) :=
  let v := i.views.getD w {}
  if elemOk v num (kindLimit kind) (kindSize kind) then some (elemOff v num (kindSize kind), kindSize kind) else none
def usedNumbers (l : List Bundle) (kind : Nat) : List Nat :=
  ((itemsOf l).filter (·.kind = kind)).map (·.num) ++ if kind = 0 then (List.range 10).map (· + 1) ++ [62, 63] else []
def usedBytes (i : Image) (l : List Bundle) : List (Nat × Nat) :=
  ([1, 2, 3, 5].map fun k => ((usedNumbers l k).map fun n => (kindViews k).filterMap (coverOf i k n)).flatten).flatten
/-- The lowest number of a kind that a consumer's item may take. -/
def pickNumber (i : Image) (l : List Bundle) (kind : Nat) (given : List Nat) : Option Nat :=
  (List.range (kindLimit kind)).find? fun n =>
    !(kind = 0 && n = 0) && !(usedNumbers l kind).contains n && !given.contains n &&
    match kindViews kind with
    | [] => true
    | w :: _ => match coverOf i kind n w with
      | some r => r.1 + r.2 ≤ i.win && (usedBytes i l).all fun u => !meet r.1 r.2 u.1 u.2
      | none => false
/-- Numbers given to the consumer's items of one kind, in ascending order: original and new. -/
def giveNumbers (i : Image) (l : List Bundle) (kind : Nat) : List Nat → List (Nat × Nat) → Option (List (Nat × Nat))
  | [], acc => some acc
  | o :: t, acc => match pickNumber i l kind (acc.map (·.2)) with
    | some n => giveNumbers i l kind t (acc ++ [(o, n)])
    | none => none
def renumber (a : Image) (la lb : List Bundle) : Option (List (Nat × Nat × Nat)) :=
  ((List.range 6).mapM fun k =>
    (giveNumbers a la k (sortBy id (((itemsOf lb).filter (·.kind = k)).map (·.num)).dedup) []).map fun l => l.map fun p => (k, p.1, p.2)).map List.flatten
def newNumber (ren : List (Nat × Nat × Nat)) (kind num : Nat) : Nat :=
  ((ren.find? fun r => r.1 = kind && r.2.1 = num).map (·.2.2)).getD num

/-! ### The spliced code (spec/15 R290) -/

/-- A bundle of the spliced image: its place, its kernel, its original bundle, its words, whether it is padding. -/
structure Placed where
  at_ : Nat
  consumer : Bool
  orig : Bundle
  words : List (BitVec 32)
  gap : Bool
deriving DecidableEq, Repr
def nopWord : BitVec 32 := 0x90000000#32
/-- Pad with `nop` bundles until the address has a remainder modulo 16; they belong to the bundle before them. -/
def padTo (r : Nat) : Nat → Nat → Bool × Bundle → List Placed
  | 0, _, _ => []
  | k + 1, a, last => if a % 16 = r then [] else ⟨a, last.1, last.2, [nopWord], true⟩ :: padTo r k (a + 4) last
/-- Place bundles one after the other. -/
def placeRun (consumer : Bool) : Nat → List (Bundle × List (BitVec 32)) → List Placed
  | _, [] => []
  | a, (b, w) :: t => ⟨a, consumer, b, w, false⟩ :: placeRun consumer (a + 4 * w.length) t
def placedEnd (a : Nat) (l : List Placed) : Nat := match l.getLast? with
  | some p => p.at_ + 4 * p.words.length
  | none => a
/-- Items in order, each with its alignment. -/
def placeItems : Nat → Bool × Bundle → List (Bool × List (Bundle × List (BitVec 32)) × Option Nat) → List Placed
  | _, _, [] => []
  | a, last, (c, l, al) :: t =>
    let pad := match al with
      | some r => padTo r 4 a last
      | none => []
    let a := placedEnd a pad
    let run := placeRun c a l
    let last := match l.getLast? with
      | some b => (c, b.1)
      | none => last
    pad ++ run ++ placeItems (placedEnd a run) last t
/-- The halt bundle without its `halt` slot, and where that slot stood; 8 when nothing is left. -/
def dropHalt (b : Bundle) : List (BitVec 32) × Nat :=
  let p := ((b.slots.find? fun x => isHalt x.instr).map (·.pos)).getD 8
  match b.words.eraseIdx p with
  | [] => ([nopWord], 8)
  | w => (w.dropLast ++ [(w.getLast?.getD 0) ||| 0x80000000#32], p)

/-- Renumber the fields of a consumer's bundle. -/
def renumberWords (ren : List (Nat × Nat × Nat)) (ws : List (BitVec 32)) : List (BitVec 32) := ws.map fun w => match decodeSlot w.toNat with
  | .ok i => (items i).foldl (fun w x => putField w x.lo (itemWidth x) (itemCode x (newNumber ren x.kind x.num))) w
  | .error _ => w
/-- Write a new offset, in slots, into the slot of a bundle that has one; none where it does not fit. -/
def setOffset (b : Bundle) (ws : List (BitVec 32)) (x : BSlot) (k : Nat) (off : Int) : Option (List (BitVec 32)) := match offsetField x.instr with
  | none => some ws
  | some (signed, w, lo, _, ext) =>
    let wide := ext && (b.ext x.cls).isSome
    let total := if wide then w + 17 else w
    let fits := if signed then -(2 ^ (total - 1) : Nat) ≤ off ∧ off < (2 ^ (total - 1) : Nat) else 0 ≤ off ∧ off < (2 ^ total : Nat)
    if !decide fits then none
    else
      let v := ofInt total off
      let ws := ws.modify k fun y => putField y lo w (v % 2 ^ w)
      some (if !wide then ws else ws.map fun y => match decodeSlot y.toNat with
        | .ok (.imx c _) => if c.toNat = x.cls then putField y 0 17 (v / 2 ^ w) else y
        | _ => y)

/-- Where an original address of a kernel stands in the spliced image. -/
def placeOf (l : List Placed) (consumer : Bool) (a : Int) : Option Nat :=
  (l.find? fun p => !p.gap && p.consumer = consumer && (p.orig.at_ : Int) = a).map (·.at_)
/-- Recompute the offsets of one placed bundle. `haltAt` is the position of a removed slot. -/
def retarget (l : List Placed) (head endAt haltAt : Nat) (halt : Nat) (p : Placed) : Option (List (BitVec 32)) :=
  if p.gap then some p.words
  else (targets p.orig).foldl (fun acc t => acc.bind fun ws =>
    let to_ := if p.at_ = head then some endAt else placeOf l p.consumer t.2
    match to_ with
    | none => none
    | some x =>
      let k := if p.at_ = halt && haltAt < t.1.pos then t.1.pos - 1 else t.1.pos
      setOffset p.orig ws t.1 k (((x : Int) - (p.at_ : Int)) / 4)) (some p.words)

/-- The spliced image and its map. -/
def splice (a b : Image) (la lb : List Bundle) (ha hb : Nat) (ren : List (Nat × Nat × Nat)) (pairs : List (Tag × Tag × BitVec 1024)) : Option (Image × Splice) :=
  let raw := fun (l : List Bundle) => l.map fun x => (x, x.words)
  let new := fun (l : List Bundle) => l.map fun x => (x, renumberWords ren x.words)
  let span := fun (l : List Bundle) (lo hi : Nat) => l.filter fun x => lo ≤ x.at_ && x.at_ < hi
  let after := fun (i : Image) (l : List Bundle) => l.filter fun x => i.wend < x.at_
  let tail := (after a la).map fun x => if x.slots.any (fun y => isHalt y.instr) then (x, (dropHalt x).1) else (x, x.words)
  let l := placeItems 0 (false, ⟨a.entry, []⟩)
    [(false, raw (span la a.entry ha), some 0), (true, new (span lb b.entry hb), some 0), (false, raw (la.filter (·.at_ = ha)), some 12),
     (false, raw (body a la), none), (true, new (body b lb), none), (false, tail, some 0), (true, new (after b lb), some 0)]
  let head := (placeOf l false ha).getD 0
  let endAt := (placeOf l true b.wend).getD 0
  let last := la.getLast?.getD ⟨0, []⟩
  let halt := (placeOf l false last.at_).getD 0
  let haltAt := (dropHalt last).2
  match l.mapM (retarget l head endAt haltAt halt) with
  | none => none
  | some ws =>
    let code := ws.flatten
    if 0x10000 < code.length then none
    else some ({ a with code := code, entry := (placeOf l false a.entry).getD 0, thaw := none },
      { pkid := a.kid, ckid := b.kid, bundles := l.map fun p => (p.at_, p.consumer, p.orig.at_, p.gap)
        renames := ren, headPc := head, haltPc := halt, haltPos := haltAt, consFmt := b.fmt
        pairs := pairs.map fun (o, t, r) => (o.port, newNumber ren 5 t.port, r, o.keep)
        presets := ren.filterMap fun r => if r.1 = 0 && (r.2.1 ≤ 10 || 61 ≤ r.2.1) then some (r.2.2, r.2.1) else none })

/-! ### The checks in order (spec/15 R287) -/

/-- Refusal by reason code, or the spliced image. `ra`, `rb` are the launch records; `gang` says both are gang packets. -/
def examine (gang : Bool) (ra rb : Nat) (a b : Image) : Except Nat (Image × Splice) :=
  let la := bundlesOf a.code
  let lb := bundlesOf b.code
  let arg := fun (r k : Nat) => at8 r (8 * k) 8
  if !gang || at8 ra 192 64 ≠ at8 rb 192 64 || at8 ra 100 3 ≠ at8 rb 100 3 || a.cov ≠ b.cov || at8 rb 80 8 ≠ 0 then .error 1
  else if a.wk ≠ 0 && b.wk ≠ 0 && arg ra a.wk ≠ arg rb b.wk then .error 2
  else match matchTags a b with
  | none => .error 3
  | some pairs => match weltForm a la, weltForm b lb with
    | some ha, some hb =>
      if (body a la).any (fun x => x.slots.any fun y => badInBody (pairs.map (·.1.port)) y.instr) ||
        (body b lb).any (fun x => x.slots.any fun y => badInBody (pairs.map (·.2.1.port)) y.instr) then .error 5
      else if !shapeOk a la ha false || !shapeOk b lb hb true then .error 6
      else if !pairs.all (fun p => match forwardCount a la p.1.port, forwardCount b lb p.2.1.port with
        | some x, some y => x = y && x ≤ 8
        | _, _ => false) then .error 7
      else match renumber a la lb with
      | none => .error 8
      | some ren =>
        let tiles := fun (i : Image) (l : List Bundle) => ((itemsOf ((body i l).map fun x => { x with words := x.words.filter fun w => match decodeSlot w.toNat with
          | .ok (.mma _ _ _ _ _ _) | .ok (.mmaD _ _ _ _ _) => true
          | _ => false })).filter (·.kind = 2)).map (·.num)
        if slotShare a.nseq < (tiles a la ++ (tiles b lb).map (newNumber ren 2)).dedup.length then .error 9
        else match splice a b la lb ha hb ren pairs with
        | none => .error 10
        | some r => if a.thaw.isSome || b.thaw.isSome then .error 11 else .ok r
    | _, _ => .error 4

end Sys2Proof.Machine
end

