-- ==== Sys2Proof/Machine/Front.lean ====
section
/-! DEFINITION. The front end: rings, packets, look-ahead, launch checks and the packets that are not launches (spec/14
R271-R280, spec/15 R287, R296, R297, spec/20 R386). -/
set_option linter.unusedVariables false
namespace Sys2Proof.Machine
open Sys2Proof

/-! ### Packets (spec/14 R273, R274, spec/17 R334) -/

def pkType (p : Nat) : Nat := fld p 7 0
def pkAcq (p : Nat) : Nat := fld p 10 8
def pkRel (p : Nat) : Nat := fld p 13 11
def pkSer (p : Nat) : Bool := bit p 17
/-- Are the reserved bits of a packet of a listed type zero, and its fields in range. -/
def packetReserved (p : Nat) : Bool :=
  fld p 15 14 = 0 && fld p 31 18 = 0 && match pkType p with
  | 1 | 2 => fld p 511 192 = 0
  | 3 => fld p 511 160 = 0 && fld p 127 64 % 4096 = 0 && 1 ≤ fld p 159 128 && fld p 159 128 ≤ 65536
  | 4 | 5 => fld p 511 64 = 0
  | 6 => fld p 511 192 = 0 && fld p 127 64 % 8 = 0
  | 7 => fld p 127 80 = 0 && fld p 77 76 = 0 && fld p 139 128 = 0 && fld p 191 176 = 0 && fld p 511 224 = 0
  | 8 => fld p 511 144 = 0
  | _ => fld p 511 128 = 0
/-- Is an INVAL packet of function `f` refused. -/
def invalRefused (s : State) (f p : Nat) : Bool :=
  (f ≠ 0 && asidFunc s (fld p 75 64) ≠ f) || (bit p 78 && f ≠ 0) || (fld p 223 192 = 0 && !bit p 79)
/-- Refusal code of a packet read at a CALL depth, 0 for none. -/
def packetCode (s : State) (f depth p : Nat) : Nat :=
  if pkType p < 1 || 9 < pkType p then 1
  else if !packetReserved p then 2
  else if 5 < pkAcq p || 5 < pkRel p then 3
  else if (pkType p = 3 && 4 ≤ depth) || (pkType p = 4 && depth = 0) then 4
  else if pkType p = 7 && invalRefused s f p then 5
  else 0

/-! ### Rings (spec/14 R271, R272, R278) -/

def ringN (x : Ring) : Nat := 2 ^ fld x.rctl 5 1
def ringClass (x : Ring) : Nat := fld x.rctl 7 6
/-- The command ASID of a function's rings. -/
def lasidOf (s : State) (f : Nat) : Nat := (s.func f).lasid

/-- Is a ring served. -/
def ringOn (s : State) (f r : Nat) : Bool :=
  bit (s.ring f r).rctl 0 && (s.ring f r).rstat % 8 = 0 && serving s && !s.sys.bootfail && leaderOk s
/-- Buffers whose packets have all been read are left. -/
def popEmpty : List (Nat × Nat) → List (Nat × Nat)
  | (_, 0) :: t => popEmpty t
  | l => l
/-- Where look-ahead reads next. -/
def fetchPos (x : Ring) : Nat × List (Nat × Nat) := match x.ahead.getLast? with
  | some (p, _) => p.next
  | none => (x.head, x.stack)
/-- The next packet's address, and the position after it. -/
def nextPacket (x : Ring) (tail : Nat) : Option (Nat × Nat × List (Nat × Nat)) :=
  let p := fetchPos x
  match popEmpty p.2 with
  | (a, n) :: t => some (a, p.1, (a + 64, n - 1) :: t)
  | [] => if p.1 = tail then none else some (x.rbase + 64 * (p.1 % ringN x), (p.1 + 1) % 2 ^ 32, [])

/-- A packet is refused: the ring stops before it. -/
def refusePacket (s : State) (f r code : Nat) : State :=
  s.modRing f r fun x => { x with rstat := x.rstat % 8 + (if bit x.rstat 1 then 0 else 2) + code * 256 }

/-! ### Launch records (spec/14 R275, R276) -/

/-- Bits of a number below `n` that are set. -/
def bitsOf (n x : Nat) : List Nat := (List.range n).filter (bit x)
/-- Replace `n` bytes at an offset. -/
def setBytes (x off n v : Nat) : Nat := x - at8 x off n * 2 ^ (8 * off) + v % 2 ^ (8 * n) * 2 ^ (8 * off)
/-- Sections that the front end writes at DATA (spec/03 R57). -/
def dataSections (i : Image) : List Section := i.sections.filter fun x => 2 ≤ x.kind && x.kind ≤ 5
/-- The record's own checks. -/
def recordOk (s : State) (f asid type cls rec_ : Nat) (mask : List Nat) (i : Image) : Bool :=
  let fl := at8 rec_ 100 1
  let seqn := at8 rec_ 101 1
  let cores := bitsOf 512 (at8 rec_ 192 64)
  let flid := at8 rec_ 152 8
  let fmask := at8 rec_ 160 8
  bit fl 0 = decide (type = 2) && bit fl 1 = bit i.flags 0 && bit fl 2 = bit i.flags 1 && seqn = i.nseq && !(bit fl 1 && 1 < seqn) &&
    cores ≠ [] && !(bit fl 2 && cores.any fun g => g % 2 = 1) && !(type = 2 && cls = 0) && !(dataSections i ≠ [] && at8 rec_ 144 8 = 0) &&
    at8 rec_ 103 1 = 0 && at8 rec_ 168 24 = 0 && fl / 16 = 0 && at8 rec_ 102 1 / 16 = 0 &&
    at8 rec_ 96 4 ≤ 4096 && 1 ≤ seqn && seqn ≤ 4 && at8 rec_ 128 8 % 4096 = 0 &&
    !(type = 2 && (at8 rec_ 112 8 % 4096 ≠ 0 || at8 rec_ 120 4 % 16384 ≠ 0)) &&
    bit (asidEntry s asid) 0 && asidFunc s asid = f &&
    (if flid = 0 then fmask = 0 else fmask ≠ 0 && fmask % 64 = 0 && mask.contains s.sys.modid)
/-- Status of a launch at look-ahead: 0 accepted, 1 image, 2 record. -/
def launchStatus (s : State) (f asid type cls rec_ : Nat) (mask : List Nat) (i : Option Image) : Nat := match i with
  | none => 1
  | some i =>
    if i.cov < (s.func f).mincov || decide (i.cov = 3) ≠ bit i.flags 1 then 1
    else if recordOk s f asid type cls rec_ mask i then 0 else 2

/-- A context number that is not in use. -/
def freeCtx (s : State) : Nat → Nat → Nat
  | 0, c => c % 65536
  | k + 1, c => if ctxAlive s (c % 65536) then freeCtx s k (c + 1) else c % 65536

/-! ### HIB launches (spec/21 R412) -/

def isHib (x : Ctx) : Bool := bit (x.lr 100 1) 3
/-- Drain budgets of the HIB launches released and not complete. -/
def hibSum (s : State) : Nat := ((List.filter (fun (e : Nat × Ctx) => isHib e.2 && ctxAlive s e.1 && e.2.st ≠ .queued && e.2.st ≠ .granted) s.ctxs).map fun e => e.2.lr 136 8).foldl (· + ·) 0
/-- CHARGE ≥ 150 + 1.3125e-9 (HIBBUD + sum), in units of 1/16 nJ. -/
def hibOk (s : State) (x : Ctx) : Bool := !isHib x || 21 * (x.lr 136 8 + hibSum s) + 16000000000 * 150 ≤ 16000000000 * s.sys.charge
/-- The front end checks the held launch arg 0 again. -/
def execHibRecheck (s : State) : Host.Outcome State Fault Refusal :=
  .next (let c := s.arg 0
  if ctxAlive s c && isHib (s.ctx c) && ((s.ctx c).st = .queued || (s.ctx c).st = .granted) then s.modCtx c fun x => { x with held := !hibOk s x } else s)

/-! ### Look-ahead (spec/14 R278, R280, spec/15 R287, R290, R296, R297) -/

/-- A welt pair is refused. -/
def weltRefused (x : Func) (reason : Nat) : Func :=
  { x with weltref := BitVec.ofNat 64 ((x.weltref.toNat % 2 ^ 48 + 1) % 2 ^ 48 + reason * 2 ^ 56) }
/-- The producer's context becomes that of the spliced launch: the smaller PREBUD, the wider ACQ and REL. -/
def spliceCtx (a b : Ctx) (i : Image) (sp : Splice) : Ctx :=
  let p := a.packet.toNat
  let q := b.packet.toNat
  let p' := p - fld p 13 8 * 2 ^ 8 + (Nat.max (pkAcq p) (pkAcq q) + 8 * Nat.max (pkRel p) (pkRel q)) * 2 ^ 8
  { a with packet := BitVec.ofNat 512 p', image := i, splice := some sp, second := some (b.packet, b.lrec, b.image)
           lrec := setBytes a.lrec 124 4 (Nat.min (prebud a) (prebud b)) }
/-- The launch packet just before this one in ring order, not yet granted and not spliced. -/
def producerOf (s : State) (x : Ring) : Option Nat := match (x.ahead.filter fun e => pkType e.1.raw.toNat ≠ 3 && pkType e.1.raw.toNat ≠ 4).getLast? with
  | some (_, some c) => if (s.ctx c).st = .queued && (s.ctx c).status = 0 && (s.ctx c).second.isNone && bit (s.ctx c).image.flags 2 then some c else none
  | _ => none
/-- A launch packet enters look-ahead: a context of its own, or the consumer of the splice. -/
def lookLaunch (s : State) (f r : Nat) (p : Packet) (x : Ctx) : State :=
  let put := fun (s : State) (c : Nat) => s.modRing f r fun y => { y with ahead := y.ahead ++ [(p, some c)] }
  let single := fun (s : State) =>
    let c := freeCtx s 65536 s.sys.nextCtx
    put ({ s with ctxs := s.ctxs.put c x }.modSys fun y => { y with nextCtx := (c + 1) % 65536 }) c
  match (if x.status = 0 && bit x.image.flags 2 then producerOf s (s.ring f r) else none) with
  | none => single s
  | some c =>
    let a := s.ctx c
    match examine (!a.isTask && !x.isTask) a.lrec x.lrec a.image x.image with
    | .error reason => single (s.modFunc f fun y => weltRefused y reason)
    | .ok (i, sp) => put ((s.modFunc f fun y => { y with weltspl := y.weltspl + 1 }).modCtx c fun a => spliceCtx a x i sp) c

/-- The firmware core that loads a launch: of the lowest die whose cores it names, else the leader (spec/14 R269, log 97). -/
def launchDie (s : State) (cores : List Nat) : Nat := (cores.head?.map dieOf).getD s.sys.leader
/-- The core whose ITLB serves the reading of a launch's image (log 113). -/
def launchCore (s : State) (cores : List Nat) : Nat := cores.headD (128 * s.sys.leader)
/-- Address and length of a launch record's module mask; none where it names one module, or where it is refused. -/
def maskSpan (rec_ : Nat) : Nat × Nat :=
  let m := at8 rec_ 160 8
  if at8 rec_ 152 8 = 0 || m = 0 || m % 64 ≠ 0 then (0, 0) else (m, 128)
/-- Does reading a launch meet no calved die (spec/21 R402). -/
def launchLive (s : State) (f p : Nat) : Bool :=
  let d := s.sys.leader
  let at_ := fld p 127 64
  at_ % 64 ≠ 0 || (feLive s d (lasidOf s f) at_ 256 && match feRead s d (lasidOf s f) at_ 256 with
    | .error _ => true
    | .ok rec_ => feLive s d (lasidOf s f) (maskSpan rec_).1 (maskSpan rec_).2 &&
      imageLive s (launchCore s (bitsOf 512 (at8 rec_ 192 64))) (lasidOf s f) (at8 rec_ 0 8))
/-- What reading a launch finds in no TLB is installed. -/
def launchSeen (s : State) (f p : Nat) : State :=
  let d := s.sys.leader
  let at_ := fld p 127 64
  if at_ % 64 ≠ 0 then s
  else
    let s := feSeen s d (lasidOf s f) at_ 256
    match feRead s d (lasidOf s f) at_ 256 with
    | .error _ => s
    | .ok rec_ => imageSeen (feSeen s d (lasidOf s f) (maskSpan rec_).1 (maskSpan rec_).2) (launchCore s (bitsOf 512 (at8 rec_ 192 64))) (lasidOf s f) (at8 rec_ 0 8)
/-- What reading a launch gives: its context, or a fault. -/
def readLaunch (s : State) (f r p : Nat) : Except XFault Ctx :=
  let d := s.sys.leader
  let asid := lasidOf s f
  let cls := ringClass (s.ring f r)
  let base : Ctx := { func := f, ring := r, asid := asid, packet := BitVec.ofNat 512 p, cls := cls }
  let at_ := fld p 127 64
  if at_ % 64 ≠ 0 then .ok { base with status := 2 }
  else match feRead s d asid at_ 256 with
  | .error e => .error e
  | .ok rec_ =>
    let m := maskSpan rec_
    match (if m.2 = 0 then .ok 0 else feRead s d asid m.1 m.2) with
    | .error e => .error e
    | .ok mask => match readImage s (launchCore s (bitsOf 512 (at8 rec_ 192 64))) asid (at8 rec_ 0 8) with
      | .error e => .error e
      | .ok i =>
        let mask := bitsOf 1024 mask
        let x := { base with lrec := rec_, mask := mask, image := i.getD {}, cores := bitsOf 512 (at8 rec_ 192 64), twin := bit (at8 rec_ 100 1) 2
                             status := launchStatus s f asid (pkType p) cls rec_ mask i }
        .ok { x with held := !hibOk s x }

/-- Look-ahead reads one packet; a fault or a refusal counts once the packet is the next to issue. -/
def lookOne (s : State) (f r tail : Nat) : State :=
  let x := s.ring f r
  let d := s.sys.leader
  let asid := lasidOf s f
  if !ringOn s f r || 16 ≤ x.ahead.length || x.ahead.any (fun e => pkType e.1.raw.toNat = 5) then s
  else match nextPacket x tail with
  | none => s
  | some (a, after) =>
    if !feLive s d asid a 64 then s
    else
    let s := feSeen s d asid a 64
    let stop := fun (t : State) => if x.ahead = [] then t else s
    match feRead s d asid a 64 with
    | .error e => stop (ringXFault s f r e)
    | .ok p =>
      match packetCode s f after.2.length p with
      | 0 =>
        let next := if pkType p = 3 then (after.1, (fld p 127 64, fld p 159 128) :: after.2) else if pkType p = 4 then (after.1, after.2.drop 1) else after
        let pk : Packet := { raw := BitVec.ofNat 512 p, at_ := a, next := next }
        if pkType p = 1 || pkType p = 2 then
          if !launchLive s f p then s
          else match readLaunch s f r p with
          | .error e => stop (ringXFault (launchSeen s f p) f r e)
          | .ok c => lookLaunch (launchSeen s f p) f r pk c
        else s.modRing f r fun y => { y with ahead := y.ahead ++ [(pk, none)] }
      | code => stop (refusePacket s f r code)

/-- One fetch pass over ring arg 1 of function arg 0: TAIL is read once. -/
def execRingFetch (s : State) : Host.Outcome State Fault Refusal :=
  .next (let f := s.arg 0
  let r := s.arg 1
  let x := s.ring f r
  if !ringOn s f r then s
  else if ringN x < (x.tail + 2 ^ 32 - x.head) % 2 ^ 32 then s.modRing f r fun y => { y with rstat := y.rstat + 4 }
  else (List.range 16).foldl (fun s _ => lookOne s f r x.tail) s)

/-! ### Issue (spec/14 R270, R278) -/

/-- The packet at HEAD, ready to be taken. -/
def headPacket (s : State) (f r : Nat) : Option (Packet × Option Nat) :=
  if ringOn s f r && (s.ring f r).hold.isNone then (s.ring f r).ahead.head? else none
/-- ISSUED of a ring in the front-end state area. -/
def issuedAddr (f r : Nat) : Nat := 0x1FFFF00000 + 8 * (64 * f + r)
/-- A packet that is no launch completes as it passes: it raises the ring's vector if its IRQ bit is set (spec/14 R273,
R277). -/
def packetDone (s : State) (f r p : Nat) : State := if 3 ≤ pkType p && bit p 16 then s.msix f (ringVector r) else s
/-- HEAD passes `k` packets; ISSUED is written to HBM. -/
def passHead (s : State) (f r k : Nat) : State :=
  let l := (s.ring f r).ahead.take k
  match l.getLast? with
  | none => s
  | some (p, _) =>
    let s := s.modRing f r fun x => { x with head := p.next.1, stack := p.next.2, issued := p.next.1, ahead := x.ahead.drop k, hold := none }
    l.foldl (fun s e => packetDone s f r e.1.raw.toNat) (homeWrite s 0 (issuedAddr f r) 8 0 p.next.1)
/-- Is a launch of this ring that has issued still out. -/
def launchOut (s : State) (f r : Nat) : Bool := List.any s.ctxs fun (e : Nat × Ctx) => e.2.issued && e.2.func = f && e.2.ring = r && ctxAlive s e.1

/-- Has RELT passed. -/
def lateNow (s : State) (x : Ctx) : Bool := x.lr 80 8 ≠ 0 && x.lr 80 8 < s.sys.dtime
/-- The launch at HEAD of ring arg 1 of function arg 0 issues: granted, or refused with its record. -/
def issueLaunch (s : State) (type : Nat) : State :=
  let f := s.arg 0
  let r := s.arg 1
  match headPacket s f r with
  | some (p, some c) =>
    let x := s.ctx c
    let n := if x.second.isSome then ((s.ring f r).ahead.drop 1).findIdx (fun e => e.2 = some c) + 2 else 1
    if pkType p.raw.toNat ≠ type || (pkSer p.raw.toNat && launchOut s f r) then s
    else if x.status ≠ 0 then
      let s := passHead (s.modCtx c fun y => { y with issued := true, st := .complete }) f r n
      completeCtx s c x.status
    else if x.st = .granted then
      let s := s.modCtx c fun y => { y with issued := true, issueNo := s.sys.issues, late := lateNow s y }
      passHead (s.modSys fun y => { y with issues := y.issues + 1 }) f r n
    else s
  | _ => s
def execGang (s : State) : Host.Outcome State Fault Refusal := .next (issueLaunch s 1)
def execTask (s : State) : Host.Outcome State Fault Refusal := .next (issueLaunch s 2)

/-- A packet of a type at HEAD of ring arg 1 of function arg 0. -/
def atHead (s : State) (type : Nat) (go : Nat → Nat → Nat → State) : State :=
  match headPacket s (s.arg 0) (s.arg 1) with
  | some (p, none) => if pkType p.raw.toNat = type then go (s.arg 0) (s.arg 1) p.raw.toNat else s
  | _ => s
/-- CALL and RET have had their effect at look-ahead. -/
def execCallPacket (s : State) : Host.Outcome State Fault Refusal := .next (atHead s 3 fun f r _ => passHead s f r 1)
def execRetPacket (s : State) : Host.Outcome State Fault Refusal := .next (atHead s 4 fun f r _ => passHead s f r 1)
def execJoinPacket (s : State) : Host.Outcome State Fault Refusal :=
  .next (atHead s 5 fun f r _ => if launchOut s f r then s else passHead s f r 1)

/-- The FENCE word is read: the packet issues, holds for 1 µs, or faults the ring. -/
def fenceRead (s : State) (f r addr v : Nat) : State :=
  let d := s.sys.leader
  let again := fun (s : State) => s.modRing f r fun x => { x with hold := some (.fence addr v (s.sys.dtime + 1000)) }
  if !feLive s d (lasidOf s f) addr 8 then again s
  else
  let s := feSeen s d (lasidOf s f) addr 8
  match feRead s d (lasidOf s f) addr 8 with
  | .error e => ringXFault (s.modRing f r fun x => { x with hold := none }) f r { e with va := addr }
  | .ok w => if v ≤ w then passHead s f r 1 else again s
def execFencePacket (s : State) : Host.Outcome State Fault Refusal :=
  .next (atHead s 6 fun f r p => fenceRead s f r (fld p 127 64) (fld p 191 128))
def execFenceReread (s : State) : Host.Outcome State Fault Refusal :=
  .next (let f := s.arg 0
  let r := s.arg 1
  match (s.ring f r).hold with
  | some (.fence a v t) => if ringOn s f r && t ≤ s.sys.dtime then fenceRead s f r a v else s
  | _ => s)

def execWakeAt (s : State) : Host.Outcome State Fault Refusal :=
  .next (atHead s 9 fun f r p => if fld p 127 64 ≤ s.sys.dtime then passHead s f r 1 else s.modRing f r fun x => { x with hold := some (.wakeAt (fld p 127 64)) })
def execWakeAtRelease (s : State) : Host.Outcome State Fault Refusal :=
  .next (let f := s.arg 0
  let r := s.arg 1
  match (s.ring f r).hold with
  | some (.wakeAt t) => if ringOn s f r && t ≤ s.sys.dtime then passHead s f r 1 else s
  | _ => s)

/-! ### Ring registers (spec/14 R271, R272) -/

/-- Writes of a ring's registers: function arg 0, ring arg 1, value arg 2. -/
def writeTail (s : State) (f r v : Nat) : State := s.modRing f r fun x => { x with tail := v % 2 ^ 32 }
/-- Launches read ahead and not granted are dropped; the ring is read again from HEAD. -/
def dropAhead (s : State) (f r : Nat) : State :=
  let l := (s.ring f r).ahead.filterMap (·.2)
  let s := { s with ctxs := List.filter (fun (e : Nat × Ctx) => !(l.contains e.1 && !e.2.issued)) s.ctxs }
  s.modRing f r fun x => { x with ahead := [] }
/-- HEAD := TAIL. -/
def headToTail (s : State) (f r : Nat) : State := (dropAhead s f r).modRing f r fun x => { x with head := x.tail, stack := [], hold := none }
def writeRbase (s : State) (f r v : Nat) : State :=
  if bit (s.ring f r).rctl 0 then s else headToTail (s.modRing f r fun x => { x with rbase := fld v 47 12 * 4096 }) f r
def writeRctl (s : State) (f r v : Nat) : State :=
  if fld v 5 1 < 6 || 16 < fld v 5 1 then s
  else if bit (s.ring f r).rctl 0 then s
  else headToTail (s.modRing f r fun x => { x with rctl := v % 256 }) f r
/-- RSTAT is write-one-to-clear, its code too (spec/14 R271). -/
def clearRstat (s : State) (f r v : Nat) : State := s.modRing f r fun x =>
  { x with rstat := (BitVec.ofNat 16 x.rstat &&& ~~~ BitVec.ofNat 16 v).toNat }
def execTailDoorbell (s : State) : Host.Outcome State Fault Refusal := .next (if hostOpen s then writeTail s (s.arg 0 % 64) (s.arg 1 % 64) (s.arg 2) else s)
def execRbaseWrite (s : State) : Host.Outcome State Fault Refusal := .next (if hostOpen s then writeRbase s (s.arg 0 % 64) (s.arg 1 % 64) (s.arg 2) else s)
def execRctlWrite (s : State) : Host.Outcome State Fault Refusal := .next (if hostOpen s then writeRctl s (s.arg 0 % 64) (s.arg 1 % 64) (s.arg 2) else s)
def execRstatClear (s : State) : Host.Outcome State Fault Refusal := .next (if hostOpen s then clearRstat s (s.arg 0 % 64) (s.arg 1 % 64) (s.arg 2) else s)

end Sys2Proof.Machine
end

