-- ==== Sys2Proof/Machine/Launch.lean ====
section
/-! DEFINITION. Arbitration, release and completion of launches, and the leader's lease (spec/01 R20-R27, spec/14 R269,
R270, R279-R284, spec/20 R387). -/
set_option linter.unusedVariables false
namespace Sys2Proof.Machine
open Sys2Proof

/-! ### What a launch needs (spec/14 R281) -/

def seqnOf (x : Ctx) : Nat := x.lr 101 1
/-- Every core a launch reserves: a twin launch has the odd cores too (spec/20 R387). -/
def reservedCores (x : Ctx) : List Nat := if x.twin then (x.cores.map fun g => [g, g + 1]).flatten else x.cores
/-- Other granted launches that name a core. -/
def grantedOn (s : State) (c g : Nat) : List Ctx :=
  (List.filter (fun (e : Nat × Ctx) => e.1 ≠ c && e.2.st = .granted && (reservedCores e.2).contains g) s.ctxs).map (·.2)
/-- Does a context hold a core: by a sequencer of its own, by one enrolled in it, or as a twin. -/
def holdsCore (s : State) (v g : Nat) : Bool :=
  (s.ctx v).st.onCore && ((s.ctx v).seqs.any (fun n => coreOf n = g && (s.seq n).ctx = some v) ||
    ((s.cluster (clusterOf g)).launch = some v && (s.cluster (clusterOf g)).enrolled.any fun n => coreOf n = g) ||
    (s.core g).twinOf.any fun e => (s.ctx v).seqs.any fun n => coreOf n = e)
def isGone (gone : List Nat) (x : Option Nat) : Bool := match x with
  | some v => gone.contains v
  | none => false
/-- Is the core held by a deterministic launch: its other sequencers stay idle (spec/01 R15). -/
def soloCore (s : State) (gone : List Nat) (g : Nat) : Bool :=
  List.any s.ctxs fun (e : Nat × Ctx) => isDet e.2 && !gone.contains e.1 && holdsCore s e.1 g
/-- Sequencers of a core that are idle and belong to no task launch, once the contexts `gone` have left. -/
def freeSeqs (s : State) (gone : List Nat) (g : Nat) : List Nat :=
  if soloCore s gone g || (s.core g).twinOf.any fun e => !((List.range 4).any fun k => isGone gone (s.seq (4 * e + k)).ctx) then []
  else ((List.range 4).map (4 * g + ·)).filter fun n =>
    let q := s.seq n
    let k := s.cluster (clusterOf g)
    (isGone gone q.ctx || (q.st = .idle && q.causes = [])) && !(k.enrolled.contains n && !isGone gone k.launch)
/-- Is the core's code free for a launch. -/
def codeFits (s : State) (gone : List Nat) (c g : Nat) : Bool :=
  ((List.range 4).all fun k => let q := s.seq (4 * g + k)
    !(q.st.holdsCode && q.ctx ≠ some c && !isGone gone q.ctx) || (s.core g).img = some (imgKey (s.ctx c))) &&
    (grantedOn s c g).all fun x => imgKey x = imgKey (s.ctx c)
/-- Windows of a core that stay in use: those of its sequencers, and one for each idle sequencer enrolled there. -/
def usedWindows (s : State) (gone : List Nat) (g : Nat) : List (Nat × Nat) :=
  ((List.range 4).filter fun k => !isGone gone (s.seq (4 * g + k)).ctx && (s.seq (4 * g + k)).st ≠ .idle).map fun k =>
    ((s.seq (4 * g + k)).winBase, (s.seq (4 * g + k)).winSize)
/-- Sizes of the windows that a core's idle enrolled sequencers will take as they pop. -/
def enrolledWindows (s : State) (gone : List Nat) (g : Nat) : List Nat :=
  let k := s.cluster (clusterOf g)
  if isGone gone k.launch then []
  else (k.enrolled.filter fun n => coreOf n = g && (s.seq n).st = .idle).map fun _ => (s.ctx (k.launch.getD 0)).image.win
/-- Do windows of a launch fit a core beside what it holds (spec/04 R61, spec/14 R281). -/
def roomFor (s : State) (gone : List Nat) (c g : Nat) : Bool :=
  windowsFit (usedWindows s gone g) (enrolledWindows s gone g ++ ((grantedOn s c g).map fun y => List.replicate (seqnOf y) y.image.win).flatten ++
    List.replicate (seqnOf (s.ctx c)) (s.ctx c).image.win)
/-- Does a named core of a gang launch have what the launch needs. -/
def coreFits (s : State) (gone : List Nat) (c g : Nat) : Bool :=
  let x := s.ctx c
  let others := grantedOn s c g
  let slots := ((s.core g).ls.filter fun l => match l.owner with
    | some n => isGone gone (s.seq n).ctx
    | none => true).length
  dieLive s (dieOf g) && codeFits s gone c g &&
    (others.map seqnOf).foldl (· + ·) (seqnOf x) ≤ (freeSeqs s gone g).length &&
    (others.map fun y => seqnOf y * slotShare y.image.nseq).foldl (· + ·) (seqnOf x * slotShare x.image.nseq) ≤ slots &&
    roomFor s gone c g &&
    (!(isDet x || x.twin) || ((freeSeqs s gone g).length = 4 && others = [])) && !others.any (fun y => isDet y || y.twin) &&
    (!x.twin || ((freeSeqs s gone (g + 1)).length = 4 && (grantedOn s c (g + 1)) = []))
/-- May the core be enrolled in a task launch (spec/13 R260): a deterministic one needs the whole core. -/
def mayEnrol (s : State) (gone : List Nat) (c g : Nat) : Bool :=
  let k := s.cluster (clusterOf g)
  dieLive s (dieOf g) && codeFits s gone c g && grantedOn s c g = [] && (k.launch.isNone || k.launch = some c || isGone gone k.launch) &&
    (if isDet (s.ctx c) then 4 else seqnOf (s.ctx c)) ≤ (freeSeqs s gone g).length && roomFor s gone c g && !k.enrolled.any fun n => coreOf n = g && k.launch = some c
/-- Has a launch what it needs; none that names a core of a calved die has (spec/21 R400). -/
def launchFits (s : State) (gone : List Nat) (c : Nat) : Bool :=
  (!isDet (s.ctx c) || (fixedPoints s gone c).length ≤ 1) &&
    if (s.ctx c).isTask then (s.ctx c).cores.all (fun g => dieLive s (dieOf g)) && (s.ctx c).cores.any (mayEnrol s gone c) else (s.ctx c).cores.all (coreFits s gone c)

/-! ### Victims (spec/14 R282, spec/21 R400) -/

/-- Contexts that a launch may pre-empt: lowest class first, latest released first. -/
def victimOrder (s : State) (c : Nat) : List Nat :=
  sortBy (fun v => (3 - (s.ctx v).cls) * 2 ^ 48 + (2 ^ 48 - 1 - (s.ctx v).order))
    ((List.filter (fun (e : Nat × Ctx) => e.2.st.onCore && (s.ctx c).cls < e.2.cls && !e.2.seqs.any fun n => (s.seq n).ctx = some e.1 && (s.seq n).st = .calved) s.ctxs).map (·.1))
/-- Does a context hold what a launch needs of a core: the core, or for a task launch its cluster's queue unit (spec/13
R260). -/
def standsIn (s : State) (c v g : Nat) : Bool := holdsCore s v g || ((s.ctx c).isTask && (s.ctx v).st.onCore && (s.cluster (clusterOf g)).launch = some v)
/-- The victims a launch needs: none where it cannot be granted. -/
def findVictims (s : State) (c : Nat) : Nat → List Nat → List Nat → Option (List Nat)
  | 0, _, _ => none
  | k + 1, cand, gone =>
    if launchFits s gone c then some gone
    else
      let short := (reservedCores (s.ctx c)).filter fun g => if (s.ctx c).isTask then !mayEnrol s gone c g else !coreFits s gone c g || (s.ctx c).twin
      match cand.find? fun v => short.any fun g => standsIn s c v g with
      | none => none
      | some v => findVictims s c k (cand.filter (· ≠ v)) (gone ++ [v])
def victimsFor (s : State) (c : Nat) : Option (List Nat) := findVictims s c ((victimOrder s c).length + 1) (victimOrder s c) []

/-- A stop request to a context: a sequencer that waits stops at once (spec/14 R284, spec/20 R390). -/
def requestStop (s : State) (v : Nat) : State :=
  if (s.ctx v).st = .saving || (s.ctx v).stopAt.isSome then s
  else
    let s := (s.ctx v).seqs.foldl (fun s n =>
      if (s.seq n).ctx ≠ some v then s
      else match (s.seq n).st with
      | .waiting => stopSeq s n .preempted
      | .running => s.modSeq n fun q => { q with stopReq := true }
      | _ => s) s
    s.modCtx v fun x => { x with stopAt := some s.sys.dtime }

/-! ### Grant (spec/14 R281, R278, spec/21 R412) -/

/-- The launch at HEAD of a ring, if it may be granted as far as the ring is concerned. -/
def waiting (s : State) (f r : Nat) : Option Nat := match headPacket s f r with
  | some (p, some c) =>
    let x := s.ctx c
    if x.st = .queued && x.status = 0 && !x.held && hibOk s x && !(pkSer p.raw.toNat && launchOut s f r) && (victimsFor s c).isSome then some c else none
  | _ => none
/-- Launches that could be granted now: class, function, ring, context. -/
def grantable (s : State) : List (Nat × Nat × Nat × Nat) :=
  s.rings.filterMap fun e => (waiting s (e.1 / 64) (e.1 % 64)).map fun c => ((s.ctx c).cls, e.1 / 64, e.1 % 64, c)
/-- The weight of a function; 0 reads as 1. -/
def weightOf (s : State) (f : Nat) : Nat := Nat.max 1 ((s.func f).weight % 256)
/-- The launch the leader grants next. -/
def grantChoice (s : State) : Option (Nat × Nat × Nat × Nat) :=
  let all := grantable s
  match (List.range 4).find? fun k => all.any fun e => e.1 = k with
  | none => none
  | some k =>
    let l := all.filter fun e => e.1 = k
    let turn := s.sys.round.getD k (0, 0)
    let start := if turn.2 < weightOf s turn.1 then turn.1 else turn.1 + 1
    match ((List.range 64).map fun i => (start + i) % 64).find? fun f => l.any fun e => e.2.1 = f with
    | none => none
    | some f =>
      let last := (s.func f).lastRing.getD k 63
      (((List.range 64).map fun i => (last + 1 + i) % 64).find? fun r => l.any fun e => e.2.1 = f && e.2.2.1 = r).bind fun r =>
        l.find? fun e => e.2.1 = f && e.2.2.1 = r
/-- The leader grants launch arg 0, if it is the next. -/
def execLaunchGrant (s : State) : Host.Outcome State Fault Refusal :=
  .next (match grantChoice s with
  | none => s
  | some (k, f, r, c) =>
    if c ≠ s.arg 0 || !leaderOk s then s
    else
      let gone := (victimsFor s c).getD []
      let turn := s.sys.round.getD k (0, 0)
      let n := if turn.1 = f && turn.2 < weightOf s f then turn.2 + 1 else 1
      let s := s.modSys fun y => { y with round := y.round.set k (f, n) }
      let s := s.modFunc f fun y => { y with lastRing := y.lastRing.set k r }
      let s := s.modCtx c fun x => { x with st := .granted, victims := gone }
      gone.foldl requestStop s)

/-! ### Code (spec/14 R281, R283) -/

/-- Load a core, unless a live sequencer of the same image runs there. -/
def loadCore (s : State) (c g : Nat) : State :=
  if (List.range 4).any fun k => (s.seq (4 * g + k)).st.holdsCode then keepCode s (s.ctx c) (dieOf g) else putCode s c g

/-! ### Release (spec/01 R20, R21, R26, spec/03 R57, spec/14 R279, R283) -/

/-- Write sections at their data base, until a write is refused: those before it stay written (spec/01 R20). -/
def writeSections (s : State) (d f asid data : Nat) : List Section → State × Bool
  | [] => (s, true)
  | x :: t => match (if x.size = 0 then .ok s else feWrite s d f asid (data + x.load) x.size x.data) with
    | .error _ => (s, false)
    | .ok s => writeSections s d f asid data t
/-- Write the words of a synchronisation list in its order, until an access is refused. -/
def writeSync (s : State) (d f asid l : Nat) : Nat → State × Bool
  | 0 => (s, true)
  | n + 1 =>
    let r := writeSync s d f asid l n
    if !r.2 then r
    else match feRead r.1 d asid (l + 16 * n) 16 with
      | .error _ => (r.1, false)
      | .ok v => match feWrite (feSeen r.1 d asid (l + 16 * n) 16) d f asid (v % 2 ^ 64) 8 (v / 2 ^ 64) with
        | .error _ => (r.1, false)
        | .ok s => (s, true)
/-- The records of a launch: its own, and its consumer's where it is spliced. -/
def launchRecords (x : Ctx) : List (Nat × Image) := match x.second with
  | some (_, r, i) => [(x.lrec, x.image), (r, i)]
  | none => [(x.lrec, x.image)]
/-- Do the accesses that a release makes for a launch meet no calved die (spec/21 R402). -/
def prepareLive (s : State) (c : Nat) : Bool :=
  let x := s.ctx c
  let d := launchDie s x.cores
  (!x.isTask || x.lr 104 8 = 0 || feLive s d x.asid (x.lr 104 8 + 8) 8) && (launchRecords x).all fun e =>
    let n := at8 e.1 96 4
    (dataSections e.2).all (fun y => feLive s d x.asid (at8 e.1 144 8 + y.load) y.size) && feLive s d x.asid (at8 e.1 88 8) (16 * n) &&
    match feRead s d x.asid (at8 e.1 88 8) (16 * n) with
    | .error _ => true
    | .ok v => (List.range n).all fun k => feLive s d x.asid (at8 v (16 * k) 8) 8
/-- Sections and words of a launch, in this order (DESIGN CHOICE, log 94: spec/01 R20 and spec/03 R57 name none); a thaw restart writes the words only (spec/21 R416). -/
def prepare (s : State) (c : Nat) (thaw : Bool) : State × Bool :=
  let x := s.ctx c
  let d := launchDie s x.cores
  let l := launchRecords x
  let secs := if thaw then (s, true) else l.foldl (fun (r : State × Bool) e =>
    if r.2 then writeSections r.1 d x.func x.asid (at8 e.1 144 8) (dataSections e.2) else r) (s, true)
  l.foldl (fun (r : State × Bool) e =>
    if r.2 then writeSync r.1 d x.func x.asid (at8 e.1 88 8) (at8 e.1 96 4) else r) secs

/-- Preset scalars of a gang sequencer (spec/01 R26, spec/15 R290); `s1` is the recorded superstep at a thaw entry. -/
def gangPresets (x : Ctx) (n rank : Nat) (s1 : Option Nat) : List (Nat × Word) :=
  let value := fun (rec_ k : Nat) =>
    if 1 ≤ k && k ≤ 8 then at8 rec_ (8 * k) 8 else if k = 9 then n else if k = 10 then rank else if k = 62 then at8 rec_ 72 8 else if k = 63 then exitLink else 0
  let own := ([1, 2, 3, 4, 5, 6, 7, 8, 9, 10, 61, 62, 63] : List Nat).map fun k => (k, BitVec.ofNat 64 (if k = 1 then s1.getD (value x.lrec 1) else value x.lrec k))
  own ++ match x.splice, x.second with
    | some sp, some (_, r, _) => sp.presets.map fun p => (p.1, BitVec.ofNat 64 (value r p.2))
    | _, _ => []

/-- Release every named sequencer of a gang launch whose code is loaded. -/
def startGang (s : State) (c : Nat) (s1 : Option Nat) : State :=
  let x := s.ctx c
  let pc := if s1.isSome then x.image.thaw.getD x.image.entry else x.image.entry
  let l := (x.cores.map fun g => (freeSeqs s [] g).take (seqnOf x)).flatten
  let mixed := pkAcq x.packet.toNat ≠ 0 && s.updates ≠ []
  let s := l.zipIdx.foldl (fun s e => startSeq s c e.1 pc e.2 (gangPresets x e.1 e.2 s1) none) s
  let s := l.foldl (fun s n => s.modSeq n fun q => { q with ordered := mixed }) s
  let s := x.cores.foldl (fun s g => s.modCore g fun k => { k with owner := some c }) s
  let s := if x.twin then x.cores.foldl (fun s g => s.modCore (g + 1) fun k => { k with twinOf := some g }) s else s
  s.modCtx c fun x => { x with seqs := l }

/-- A sequencer that a task launch enrols: its launch sets the control registers and ends the registration of an earlier one
(spec/04 R74, spec/12 R233). -/
def enrolled (q : Seq) (c : Nat) (x : Ctx) : Seq :=
  { q with ae := { q.ae with reg := none, cmd := none }, phase := 0, stepno := 0, ctxid := c, asidReg := x.asid, kernid := x.image.kid, prebud := prebud x }
/-- Enrol the free named cores of a task launch (spec/13 R260, spec/14 R281). -/
def enrol (s : State) (c : Nat) : State := (s.ctx c).cores.foldl (fun s g =>
  if !mayEnrol s [] c g then s
  else
    let l := (freeSeqs s [] g).take (seqnOf (s.ctx c))
    let s := (loadCore s c g).modCluster (clusterOf g) fun k => { k with launch := some c, enrolled := k.enrolled ++ l }
    let s := l.foldl (fun s n => s.modSeq n fun q => enrolled q c (s.ctx c)) s
    (s.modCore g fun k => { k with owner := some c }).modCtx c fun x => { x with seqs := x.seqs ++ l.filter fun n => !x.seqs.contains n }) s
/-- A task launch starts: its cores are enrolled, its root object is marked, and its first record enters the lowest
cluster's unit (spec/13 R264; log 41). -/
def startTasks (s : State) (c : Nat) : Except XFault State :=
  let x := s.ctx c
  let j := x.lr 104 8
  let d := launchDie s x.cores
  let root : Except XFault State := if j = 0 then .ok s else match feRead s d x.asid (j + 8) 8 with
    | .error e => .error e
    | .ok w => feWrite s d x.func x.asid (j + 8) 8 (if bit w 0 then w else w + 1)
  match root with
  | .error e => .error e
  | .ok s =>
    let s := enrol s c
    match ((s.ctx c).seqs.map fun n => clusterOf (coreOf n)).head? with
    | none => .ok s
    | some cl => .ok (s.modCluster cl fun k => { k with levels := upd k.levels 0 fun l => l ++ [{ code := x.image.entry, frame := x.lr 72 8, join := j, flags := 0, tenq := s.sys.dtime }] })

/-- What every release does once its words are written (spec/14 R279, spec/21 R415, spec/22 R430). -/
def released (s : State) (c : Nat) : State :=
  let s := s.modCtx c fun x => { x with st := .released, order := s.sys.releases }
  let s := s.modSys fun y => { y with releases := y.releases + 1, seenRelease := true }
  sampleCtx (startPoints s c) c
/-- Release a launch, in the order of spec/01 R20: its code, its words, its sequencers. A fault on a section or a
synchronisation word refuses it with status 2. -/
def releaseLaunch (s : State) (c : Nat) (s1 : Option Nat) : State :=
  let x := s.ctx c
  let s := if x.isTask then s else x.cores.foldl (fun s g => loadCore s c g) s
  let refuse := fun (s : State) => completeCtx (s.modCtx c fun x => { x with st := .complete, status := 2 }) c 2
  match prepare s c s1.isSome with
  | (s, false) => refuse s
  | (s, true) =>
    let s := if pkAcq x.packet.toNat = 0 then s else x.cores.foldl (fun s g => s.modCore g fun k => { k with l1 := [] }) s
    if x.isTask then match startTasks s c with
      | .error _ => refuse s
      | .ok s => released s c
    else released (startGang s c s1) c

/-- Is a granted launch ready but for its RELT. -/
def readyNow (s : State) (c : Nat) : Bool :=
  let x := s.ctx c
  s.sys.power = .run && leaderOk s && s.sys.freeze.isNone && x.st = .granted && x.issued && x.victims = [] && ungated s (reservedCores x) && launchFits s [] c
/-- Device time passes to `t`: a granted launch that is not ready as its RELT passes is late (spec/14 R283). -/
def passTime (s : State) (t : Nat) : State :=
  let late := fun (e : Nat × Ctx) => e.2.st = .granted && e.2.lr 80 8 ≠ 0 && s.sys.dtime ≤ e.2.lr 80 8 && decide (e.2.lr 80 8 < t) && !readyNow s e.1
  { s with sys := { s.sys with dtime := t }
           ctxs := List.map (fun (e : Nat × Ctx) => if late e then (e.1, { e.2 with late := true }) else e) s.ctxs }
/-- The timing port locks to a grandmaster that reads arg 0: a correction by rate while a launch runs, else a step
forward (spec/19 R368). -/
def execPtpSync (s : State) : Host.Outcome State Fault Refusal :=
  .next (let s := s.modSys fun y => { y with dtlock := true }
  if anyRunning s then s else passTime s (Nat.max s.sys.dtime (s.arg 0)))

/-- Launch arg 0 is released, one that a thaw restarts without its RELT (spec/21 R416); a task launch that runs already enrols the cores that have become free. -/
def execLaunchRelease (s : State) : Host.Outcome State Fault Refusal :=
  .next (let c := s.arg 0
  let x := s.ctx c
  if x.isTask && x.st = .released && x.stopAt.isNone then (if s.sys.power = .run && leaderOk s && s.sys.freeze.isNone then enrol s c else s)
  else if readyNow s c && prepareLive s c && (x.again.isSome || x.lr 80 8 ≤ s.sys.dtime) then releaseLaunch s c x.again
  else s)

/-! ### Completion (spec/01 R23, spec/14 R277, R279) -/

/-- Has every access of a context been performed, on every path: the release of its completion covers them all (spec/10
R196, spec/14 R279), and so has every vector it has sent arrived. With REL it orders what its sequencers have seen of others'
writes too (R195). -/
def allPerformed (s : State) (c : Nat) : Bool :=
  let x := s.ctx c
  let covered := fun (i : Nat) => !x.isTask || i < x.doneAt
  let rel : Bool := pkRel x.packet.toNat ≠ 0
  (!rel || noHalf s 0) && x.seqs.all fun n => (s.seq n).ctx ≠ some c ||
    (!(((.f :: allPaths).map (if rel then openOn s n else idsOn s n)).flatten.any covered) && !s.msgs.any fun m => covered m.id && match m.msg with
      | .vector src _ _ _ _ => localSeq s src = some n
      | _ => false)
/-- Launch arg 0 completes, with status 0; not while the front end is halted by a freeze (spec/21 R404). -/
def execLaunchCompletion (s : State) : Host.Outcome State Fault Refusal :=
  .next (let c := s.arg 0
  let x := s.ctx c
  if !launchOver s c || !allPerformed s c || s.sys.freeze.isSome then s
  else
    let s := vacate s c false
    let s := s.modCtx c fun x => { x with st := .complete, stopAt := none, splice := none, armed := none }
    completeCtx (dropVictim (leaveCores s c) c) c 0)

/-! ### The leader (spec/14 R269, R270) -/

def execLeaseRenewal (s : State) : Host.Outcome State Fault Refusal :=
  .next (if leaderOk s && serving s then s.modSys fun y => { y with lease := y.dtime + 10000000 } else s)
/-- Every ring goes on from its ISSUED index: what was read ahead and not issued is read again. -/
def resumeRings (s : State) : State := s.rings.foldl (fun s e => if e.2.hold.isSome then s else dropAhead s (e.1 / 64) (e.1 % 64)) s
/-- A new leader. -/
def newLeader (s : State) (d : Nat) : State := resumeRings (s.modSys fun y => { y with leader := d, lease := y.dtime + 10000000 })
/-- The lease has run out: of the followers whose own checks pass (mask arg 0), the lowest takes it. -/
def execLeaseExpiry (s : State) : Host.Outcome State Fault Refusal :=
  .next (if leaderOk s then s
  else match (List.range 4).find? fun d => d ≠ s.sys.leader && bit (s.arg 0) d && dieLive s d with
    | some d => newLeader s d
    | none => s)

end Sys2Proof.Machine
end

