-- ==== Sys2Proof/Machine/Tables.lean ====
section
/-! DEFINITION. Invalidation (spec/17 R334-R336), the ASID and function tables (R321), and the replica directory (R328). -/
set_option linter.unusedVariables false
namespace Sys2Proof.Machine
open Sys2Proof

/-! ### What an invalidation covers -/

/-- Bytes of an address space, or intermediate addresses of a function. -/
structure Cover where
  asid : Nat := 0
  func : Option Nat := none      -- stage 2 of this function
  va : Nat := 0
  len : Nat := 0
  all : Bool := true
deriving DecidableEq, Repr

/-- Is a cached translation covered: any of its bytes lies in the range. -/
def Cover.tlb (s : State) (c : Cover) (t : Tlb) : Bool := match c.func with
  | none => t.asid = c.asid && (c.all || meet t.va t.size c.va c.len)
  | some f => asidFunc s t.asid = f && (c.all || (t.lvl2 ≠ 0 && meet t.ipa t.size c.va c.len))
/-- Do bytes of an address space lie on a covered page. A page whose walk fails counts as covered. -/
def Cover.bytes (s : State) (c : Cover) (asid va len : Nat) : Bool := match c.func with
  | none => asid = c.asid && (c.all || meet va len c.va c.len)
  | some f => asidFunc s asid = f && (c.all || (List.range ((va + len - 1) / 4096 - va / 4096 + 1)).any fun k =>
      match translate s asid ((va / 4096 + k) * 4096) with
      | .ok t => c.tlb s t
      | .error _ => true)
def Cover.segs (s : State) (c : Cover) (asid : Nat) (l : List Seg) : Bool := l.any fun x => c.bytes s asid x.va x.len

/-! ### Purging (spec/17 R335, R336) -/

/-- Is an access being retried: it counts as not translated (spec/17 R336). -/
def parked (s : State) (a : Access) : Bool := a.calved || farCalved s a.id
/-- A stopped sequencer's access, or an unstarted AE command, is to be translated again. -/
def restale (hit : List Seg → Bool) (q : Seq) : Seq :=
  { q with acc := q.acc.map fun a => if !a.home && hit a.segs then { a with calved := true, stale := true } else a
           ae := { q.ae with cmd := q.ae.cmd.map fun x => if !x.started && hit x.seg then { x with stale := true } else x } }
/-- What counts as not translated is to be translated again: accesses and pieces being retried, and what a stopped context
still holds, in place or saved (spec/17 R336). -/
def staleSeq (s : State) (c : Cover) (n : Nat) (q : Seq) : Seq :=
  let hit := c.segs s (asidOf s n)
  if q.ctx.isSome && (s.ctxOf n).st = .faulted then restale hit q
  else { q with acc := q.acc.map fun a => if parked s a && !a.home && hit a.segs then { a with stale := true } else a }
def staleSaved (s : State) (c : Cover) (x : Ctx) : Ctx :=
  { x with saved := x.saved.map fun v => { v with seqs := List.map (fun (e : Nat × Seq) => (e.1, restale (c.segs s x.asid) e.2)) v.seqs } }
/-- A piece being retried that lies on a covered page. -/
def stalePiece (s : State) (c : Cover) (x : Copy) (p : Piece) : Bool := pieceRetried s x p && c.segs s (s.ctx x.ctx).asid (p.src ++ p.dst)
def staleCopy (s : State) (c : Cover) (x : Copy) : Copy := { x with flying := x.flying.map fun p => if stalePiece s c x p then { p with stale := true } else p }

/-- Is a line of core `g`'s L1 on a covered page: by the address that filled it, or by a covered translation. -/
def lineCovered (s : State) (c : Cover) (tl : List Tlb) (asid : Nat) (l : Line) : Bool :=
  c.bytes s asid l.va 128 || tl.any fun t => c.tlb s t && t.key = l.key && meet t.pa t.size l.pa 128
/-- Is a cached scale on a covered page: by the tensor entries of its address space. -/
def scaleCovered (s : State) (c : Cover) (e : Nat × Nat × Nat × BitVec 16) : Bool :=
  let l := List.filterMap (fun (x : Nat × Ctx) => if x.2.asid = e.1 then x.2.tensors.find? e.2.1 else none) s.ctxs
  l = [] || l.any fun t => c.bytes s e.1 (t.saddr + 2 * e.2.2.1) 2
/-- Every covered entry leaves the caches, the covered monitors trigger, and what counts as not translated is to be
translated again. -/
def purge (s : State) (c : Cover) : State :=
  let keep := fun (l : List Tlb) => l.filter fun t => !c.tlb s t
  let every := (s.cores.map fun e => e.2.itlb ++ e.2.dtlb ++ e.2.etlb).flatten ++ (s.dies.map fun e => e.2.tlb).flatten
  let core := fun (k : Core) => { k with
    itlb := keep k.itlb, dtlb := keep k.dtlb, etlb := keep k.etlb
    l1 := match k.img with
      | some (asid, _) => k.l1.filter fun l => !lineCovered s c every asid l
      | none => k.l1
    bte := k.bte.map fun (l : List Copy) => l.map (staleCopy s c)
    scales := k.scales.filter fun e => !scaleCovered s c e }
  let die := fun (d : Die) => { d with tlb := keep d.tlb, prog := d.prog.filter fun e => !c.bytes s e.1 e.2.1 (Nat.max 1 e.2.2.1) }
  let watch := fun (n : Nat) (q : Seq) => match q.watch with
    | some (l, v, _) => if c.bytes s (asidOf s n) v 128 then { q with watch := some (l, v, true) } else q
    | none => q
  let again := (s.cores.flatMap fun e => e.2.bte.flatten).flatMap fun x => (x.flying.filter (stalePiece s c x)).flatMap fun p =>
    [(x.id, pieceRead p.no), (x.id, pieceWrite p.no), (x.id, pieceOld p.no)]
  dropRemotes { s with
    cores := List.map (fun (e : Nat × Core) => (e.1, core e.2)) s.cores
    dies := List.map (fun (e : Nat × Die) => (e.1, die e.2)) s.dies
    ctxs := List.map (fun (e : Nat × Ctx) => (e.1, staleSaved s c e.2)) s.ctxs
    seqs := List.map (fun (e : Nat × Seq) => (e.1, watch e.1 (staleSeq s c e.1 e.2))) s.seqs } fun r => again.contains (r.id, r.part)
/-- Is an access that was translated through a covered entry still to be performed: of identity below `upto`. An output
port's entry was translated as it was pushed (spec/13 R253); a copy keeps its translation of BAR until it has made every
update, saved or not (spec/11 R227). A stopped context holds no other access open (spec/17 R336). -/
def coverBusy (s : State) (c : Cover) (upto : Nat) : Bool :=
  let bar := fun (x : Copy) => x.read && c.bytes s (s.ctx x.ctx).asid x.barVa 32
  s.seqs.any (fun e =>
    let hit := c.segs s (asidOf s e.1)
    !(e.2.ctx.isSome && (s.ctxOf e.1).st = .faulted) &&
      (e.2.acc.any (fun a => a.id < upto && !a.home && !parked s a && hit a.segs) ||
        e.2.ports.any (fun p => p.buf.any fun y => y.id < upto && hit y.segs) || e.2.ae.cmd.any fun x => x.id < upto && hit x.seg)) ||
  (s.cores.any fun e => e.2.bte.any fun l => l.any fun x => x.id < upto &&
    (bar x || x.flying.any fun p => !pieceRetried s x p && c.segs s (s.ctx x.ctx).asid (p.src ++ p.dst))) ||
  s.ctxs.any fun e => e.2.saved.any fun v => v.bte.any fun y => y.2.any fun l => l.any fun x => x.id < upto && bar x

/-! ### INVAL (spec/17 R334, R335) -/

/-- What an INVAL names. -/
def coverArgs (s : State) (asid va len : Nat) (s2 all : Bool) : Cover :=
  { asid := asid, func := if s2 then some (asidFunc s asid) else none, va := va, len := len, all := all }
def execInval (s : State) : Host.Outcome State Fault Refusal :=
  .next (atHead s 7 fun f r p =>
    let asid := fld p 75 64
    let va := fld p 175 140 * 4096
    let len := fld p 223 192 * 4096
    let s := purge s (coverArgs s asid va len (bit p 78) (bit p 79))
    s.modRing f r fun x => { x with hold := some (.inval asid va len (bit p 78) (bit p 79) s.nextId) })
/-- Is a load that was translated before a change of the replica directory still to be performed in the frame, on path A too
(spec/17 R328). -/
def replicaBusy (s : State) (home size upto : Nat) : Bool := s.seqs.any fun e =>
  let hit := fun (l : List Seg) => l.any fun x => !x.fab && meet (localPa x.pa) x.len home size
  e.2.acc.any (fun a => a.id < upto && !a.home && !parked s a && !a.kind.writes && hit a.segs) || e.2.ae.cmd.any fun x => x.id < upto && hit x.seg
/-- The INVAL of ring arg 1 of function arg 0 completes; with arg 0 = 64, the oldest write of a table is acknowledged. -/
def execInvalComplete (s : State) : Host.Outcome State Fault Refusal :=
  .next (let f := s.arg 0
  let r := s.arg 1
  if f = 64 then match s.sys.acks with
    | (table, i, upto) :: rest =>
      if (if 2 ≤ table then replicaBusy s i (replicaSize (table - 2)) upto else coverBusy s (if table = 0 then { asid := i } else { func := some i }) upto) then s
      else (s.modSys fun y => { y with acks := rest }).out (.reply true i)
    | [] => s
  else match (s.ring f r).hold with
    | some (.inval asid va len s2 all upto) => if ringOn s f r && !coverBusy s (coverArgs s asid va len s2 all) upto then passHead s f r 1 else s
    | _ => s)

/-! ### ASID and function tables (spec/17 R321, R335) -/

/-- Bits of a table entry that can be written. -/
def asidMask (v : Nat) : Nat := fld v 6 0 + fld v 55 12 * 2 ^ 12
def funcMask (v : Nat) : Nat := fld v 0 0 + fld v 55 12 * 2 ^ 12 + fld v 127 64 * 2 ^ 64
/-- A write of entry `i` of the ASID table (0) or the function table: an INVAL of everything under it. -/
def writeTable (s : State) (table i v : Nat) : State :=
  let c : Cover := if table = 0 then { asid := i } else { func := some i }
  let set := fun (s : State) => s.modSys fun y => if table = 0 then { y with asids := y.asids.put i (BitVec.ofNat 128 (asidMask v)) }
    else { y with funcs := y.funcs.put i (BitVec.ofNat 128 (funcMask v)) }
  let s := set s
  let s := purge s c
  s.modSys fun y => { y with acks := y.acks ++ [(table, i, s.nextId)] }
/-- The physical function or firmware writes entry arg 1 of table arg 0 (0 ASID, 1 function); arg 2 its value. -/
def execAsidTableWrite (s : State) : Host.Outcome State Fault Refusal :=
  .next (if !hostOpen s then s else if s.arg 0 = 0 then writeTable s 0 (s.arg 1 % 4096) (s.arg 2) else writeTable s 1 (s.arg 1 % 64) (s.arg 2))

/-! ### The replica directory (spec/17 R328) -/

/-- Fields of an entry's 64 bytes. -/
def replicaOf (v : Nat) : Replica :=
  { v := bit v 0, size := fld v 11 10, home := fld v 55 12 * 4096, dmask := fld v 7 4
    frames := (List.range 4).map fun d => fld v (64 + 64 * d + 55) (64 + 64 * d + 12) * 4096 }
/-- Frames of an entry: home, and each replica. -/
def framesOf (r : Replica) : List (Nat × Nat) :=
  (r.home, replicaSize r.size) :: ((List.range 4).filter (bit r.dmask)).map fun d => (r.frames.getD d 0, replicaSize r.size)
def dieMemory (pa : Nat) : Option Nat := match regionOf pa with
  | .hbm d | .staging d _ => some d
  | _ => none
/-- The die in whose memory a range lies. -/
def dieHolding (pa n : Nat) : Option Nat := if dieMemory pa = dieMemory (pa + n - 1) then dieMemory pa else none
/-- Is a write that leaves V = 1 refused. A frame that is not aligned to SIZE is no listed case (spec/17 R328). -/
def replicaRefused (s : State) (i : Nat) (r : Replica) : Bool :=
  let n := replicaSize r.size
  r.size = 3 || (dieHolding r.home n).isNone || (dieHolding r.home n).any (fun d => bit r.dmask d) ||
    ((List.range 4).filter (bit r.dmask)).any (fun d => dieHolding (r.frames.getD d 0) n ≠ some d) ||
    s.sys.replicas.any fun e => e.1 ≠ i && e.2.v && (framesOf e.2).any fun x => (framesOf r).any fun y => meet x.1 x.2 y.1 y.2
/-- The 64 bytes of an entry as they read. -/
def replicaNat (r : Replica) : Nat :=
  r.v.toNat + r.dmask * 2 ^ 4 + r.rdy.toNat * 2 ^ 8 + r.err.toNat * 2 ^ 9 + r.size * 2 ^ 10 + r.home +
    (((List.range 4).map fun d => r.frames.getD d 0 * 2 ^ (64 + 64 * d)).foldl (· + ·) 0)
/-- A write of the 64 bytes of entry `i`. A change of a valid entry is acknowledged once no load is left that may have been
translated under it; any other write at once (spec/17 R328). -/
def writeReplica (s : State) (i v : Nat) : State :=
  let r := replicaOf v
  let r := if r.v && replicaRefused s i r then { r with v := false, err := true, rdy := false } else r
  let old := (s.sys.replicas.find? i).filter (·.v)
  let s := s.modSys fun y => { y with replicas := y.replicas.put i r }
  match old with
  | none => s.out (.reply true i)
  | some o => if o = { r with rdy := o.rdy } then s.out (.reply true i) else s.modSys fun y => { y with acks := y.acks ++ [(2 + o.size, o.home, s.nextId)] }
/-- The physical function or firmware writes entry arg 1; arg 2 its 64 bytes. -/
def execReplicaEntryWrite (s : State) : Host.Outcome State Fault Refusal :=
  .next (if hostOpen s then writeReplica s (s.arg 1 % 1024) (s.arg 2) else s)
/-- Move a frame's bytes to another frame, with the keys they were written under. -/
def copyFrame (s : State) (src dst n : Nat) : State :=
  let within := fun (a : Nat) (e : Nat × Nat) => a / 32 ≤ e.1 && e.1 < (a + n) / 32
  let keys := (List.filter (within src) s.keyOf).foldl (fun (t : Tab Nat) e => t.put (dst / 32 + (e.1 - src / 32)) e.2) (List.filter (fun e => !within dst e) s.keyOf)
  movedFrom { s with mem := s.mem.unslice dst n (s.mem.slice src n), keyOf := keys } src dst n
/-- Every replica of entry arg 1 holds the frame, with what the home has applied to it meanwhile (spec/10 R191). -/
def execReplicaSeedingDone (s : State) : Host.Outcome State Fault Refusal :=
  .next (let i := s.arg 1 % 1024
  match s.sys.replicas.find? i with
  | some r =>
    if !r.v || r.rdy then s
    else
      let s := updateWhere s fun u => meet u.pa u.len r.home (replicaSize r.size)
      let s := ((List.range 4).filter (bit r.dmask)).foldl (fun s d => copyFrame s r.home (r.frames.getD d 0) (replicaSize r.size)) s
      s.modSys fun y => { y with replicas := y.replicas.put i { r with rdy := true } }
  | none => s)

end Sys2Proof.Machine
end

