-- ==== Sys2Proof/Machine/Links.lean ====
section
/-! DEFINITION. Akvin links: flits that arrive, replay, lane failures, rerouting, and transactions that arrive (spec/16
R311, R316-R319, spec/21 R402, R404, R413, spec/23 R433). -/
set_option linter.unusedVariables false
namespace Sys2Proof.Machine
open Sys2Proof

/-! ### Flits (spec/16 R316, R317, spec/23 R433) -/

/-- Flits after the one of sequence number `q`; all of them where none has it. -/
def afterSeq (l : List (Nat × Nat)) (q : Nat) : List (Nat × Nat) := match l.findIdx? fun e => e.1 = q with
  | some i => l.drop (i + 1)
  | none => l
/-- Send kept flits again, unless the link is down or training. -/
def resend (s : State) (p : Nat) (l : List (Nat × Nat)) : State :=
  if !(linkOf s p).up || (linkOf s p).training then s else l.foldl (fun s e => emit s p flitData e.1 e.2) s
/-- Ask once for a replay after the last good flit. -/
def askReplay (s : State) (p : Nat) : State :=
  if (linkOf s p).asked then s else emitControl (modLink s p fun y => { y with asked := true }) p flitReplay
/-- The payload of an accepted data flit joins its transaction, which is whole once all its flits are there. -/
def joinFlit (x : Link) (payload : Nat) : Link :=
  let l := x.partial_ ++ [payload]
  let v := l.zipIdx.foldl (fun v (y, i) => v + y * 2 ^ (1920 * i)) 0
  if flitsOf (Tx.ofImage v).bytes ≤ l.length then { x with partial_ := [], whole := x.whole ++ [v] } else { x with partial_ := l }
/-- A flit of 256 bytes, arg 1, arrives at port arg 0. A reserved kind does nothing (log 81). -/
def execFlitReceive (s : State) : Host.Outcome State Fault Refusal :=
  .next (let p := s.arg 0
  let w := s.arg 1
  let x := linkOf s p
  let q := fld w 11 0
  let kind := fld w 31 28
  if !x.up || x.training then s
  else if !hopOk w then askReplay s p
  else if q ≠ x.rxSeq then
    (if kind = flitData && x.degraded && (x.rxSeq + 4096 - q) % 4096 ≤ 2048 then emitControl s p flitAck else askReplay s p)
  else
    let ack := fld w 23 12
    let s := modLink s p fun y => { y with credit := y.credit + fld w 47 32 }
    let s := if bit w 24 && x.replay.any (fun e => e.1 = ack) then pumpRemotes (modLink s p fun y => { y with replay := afterSeq y.replay ack }) else s
    if kind = flitData then emitControl (modLink s p fun y => { joinFlit y (fld w 1983 64) with rxSeq := (q + 1) % 4096, asked := false }) p flitAck
    else if kind = flitReplay then modLink s p fun y => { y with again := some ack }
    else s)
/-- The replay that the peer of port arg 0 has asked for. -/
def execReplayRequest (s : State) : Host.Outcome State Fault Refusal :=
  .next (match (linkOf s (s.arg 0)).again with
  | some q => resend (modLink s (s.arg 0) fun y => { y with again := none }) (s.arg 0) (afterSeq (linkOf s (s.arg 0)).replay q)
  | none => s)
/-- A flit of port arg 0 has been kept 100 µs without an acknowledgement. -/
def execAckTimeout (s : State) : Host.Outcome State Fault Refusal := .next (resend s (s.arg 0) (linkOf s (s.arg 0)).replay)

/-! ### Transactions that fail (spec/16 R318, R319) -/

/-- The channel of core `g` whose head copy has an identity. -/
def copyChannel (s : State) (g id : Nat) : Option (Nat × Copy) :=
  (List.range 16).findSome? fun ch => match headCopy s g ch with
    | some c => if c.id = id then some (ch, c) else none
    | none => none
/-- Does a part hold a fabric address; the virtual address of one among some parts. -/
def holds (a : Nat) (x : Seg) : Bool := x.fab && x.pa ≤ a && a < x.pa + x.len
def vaIn (l : List Seg) (a : Nat) : Nat := match l.find? (holds a) with
  | some x => x.va + (a - x.pa)
  | none => (l.map (·.va)).headD 0
/-- What the checkpoint copies of context `c` go under, apart from every operation's identity (spec/21 R418). -/
def ckptMark (c : Nat) : Nat := 2 ^ 64 + c
/-- A cause of sequencer `n` as a part of context `c`, in place or in its save. -/
def causeIn (s : State) (c n : Nat) (t : Trap) : State :=
  if (s.seq n).ctx = some c then addCause s n t
  else s.modCtx c fun x => { x with saved := x.saved.map fun v => { v with seqs := v.seqs.map fun e => if e.1 = n then (n, { e.2 with causes := e.2.causes ++ [t] }) else e } }
/-- A transaction completes with an abort: a channel message's goes to the context that sent it. -/
def abortRemote (s : State) (r : Remote) : State :=
  let n := r.seq
  -- an aborted piece counts its sectors down, which waits for the barrier's die
  if (copyChannel s (coreOf n) r.id).any fun p => p.2.read && !barLive s p.2 then
    s.modSys fun y => { y with remote := y.remote.map fun x => if x = r then { x with port := none, calved := true } else x }
  else
  let s := dropRemotes s fun x => x = r
  if r.tx.isAnswer then s
  else match s.msgs.find? fun m => m.id = r.id with
  | some m =>
    let s := { s with msgs := s.msgs.filter fun x => x.id ≠ r.id }
    let s := match m.msg with
      | .vector src _ _ _ _ => lowerCm s (m.launch, m.fabric) src m.id
      | _ => s
    match ctxOfLaunch s (m.launch, m.fabric) with
    | none => s
    | some c =>
      let q := if (s.seq n).ctx = some c then s.seq n else ((s.ctx c).saved.bind fun v => v.seqs.find? n).getD {}
      causeIn s c n { cause := .channelFault, addr := (chanOf q m.msg.src.2).entry.toNat, pc := some m.pc, slot := m.slot, held := m.held }
  | none => match accOf s n r.id with
    | some a =>
      (match (a.segs.find? (holds r.tx.addr)).orElse (fun _ => a.segs.head?), a.kind with
        | some x, .portOut _ _ => portAbort s n a x
        | _, _ => abortAccess s n a (vaIn a.segs r.tx.addr))
    | none => match copyChannel s (coreOf n) r.id with
      | some (ch, c) =>
        (match c.flying.find? fun p => [pieceRead p.no, pieceWrite p.no, pieceOld p.no].contains r.part with
          | some p => pieceEnd s (coreOf n) ch c p (some (vaIn (if r.part = pieceRead p.no then p.src else p.dst) r.tx.addr))
          | none =>
            -- a record of the copy cannot be read
            let e := (c.entry.getD 0).toNat
            refuseCopy (dropRemotes s fun x => x.id = c.id) (coreOf n) ch c { cause := .dataAbort, addr := if r.part = 1 then lastSrc e else lastDst e, flags := flagDescriptor })
      | none => if r.id < ckptMark 0 then s else
        let x := s.ctx (r.id - ckptMark 0)
        ringFault (s.modRing x.func x.ring fun y => { y with hold := none }) x.func x.ring Cause.dataAbort.code r.tx.addr
/-- The transactions on a link that is down look for another port. -/
def loseLink (s : State) (p : Nat) : State :=
  pumpRemotes ((modLink s p fun y => { y with up := false, training := false, replay := [], partial_ := [], again := none }).modSys fun y =>
    { y with remote := y.remote.map fun r => if r.port = some p && r.answer.isNone then { r with port := none } else r })
/-- Lanes 0-7 or 8-15. -/
def halfWithout (lane : Nat) : Nat := if lane < 8 then 0xFF00 else 0x00FF
/-- Lane arg 1 of port arg 0 fails. -/
def execLaneFailure (s : State) : Host.Outcome State Fault Refusal :=
  .next (let p := s.arg 0
  let lane := s.arg 1 % 16
  let x := linkOf s p
  if !x.up || !bit x.lanes lane then s
  else if x.degraded then loseLink s p
  else modLink s p fun y => { y with lanes := halfWithout lane, degraded := true, training := true })
/-- The link of port arg 0 runs on its remaining lanes and replays. -/
def execLinkRetrainComplete (s : State) : Host.Outcome State Fault Refusal :=
  .next (let p := s.arg 0
  if !(linkOf s p).training then s
  else pumpRemotes (resend (modLink s p fun y => { y with training := false, asked := false }) p (linkOf s p).replay))
/-- Is there a route to a module. -/
def routed (s : State) (m : Nat) : Bool := s.sys.links.any fun x => x.up && x.peer = some m
/-- 10 µs without a route: the transactions to a module that none leads to abort, unless it is away. -/
def execRerouteTimeout (s : State) : Host.Outcome State Fault Refusal :=
  .next ((s.sys.remote.filter fun r => r.port.isNone && r.answer.isNone && !routed s r.tx.to && !s.sys.away.contains r.tx.to).foldl abortRemote s)
/-- Firmware resets port arg 0: full width, SEQ 0, and the peer module arg 1. -/
def execAkvinLinkFirmwareReset (s : State) : Host.Outcome State Fault Refusal :=
  .next (let p := s.arg 0
  let s := s.modSys fun y => { y with remote := y.remote.map fun r => if r.port = some p && r.answer.isNone then { r with port := none } else r }
  pumpRemotes (modLink s p fun _ => { peer := some (s.arg 1 % 1024) }))

/-! ### Transactions that arrive (spec/16 R311, R319, spec/21 R402, R404) -/

/-- A demand or a receipt for module `m`: it leaves once a port has room. -/
def sendLoose (s : State) (m kind num : Nat) : State :=
  pumpRemotes (s.modSys fun y => { y with loose := y.loose ++ [(m, kind, num)] })
/-- Answer a transaction; the answer is kept until its receipt. -/
def answer (s : State) (x : Tx) (kind : Nat) (len data : Nat) (op : Nat := 0) : State :=
  pumpRemotes (s.modSys fun y => { y with remote := y.remote ++ [{ id := 0, seq := noSeq, tx := { kind := kind, addr := x.from_ * 2 ^ 46, src := s.sys.modid * 2048, num := x.num, len := len, data := data, op := op } }] })
/-- The function that a key belongs to (spec/17 R321). -/
def keyOwner (s : State) (k : Nat) : Nat := ((List.range 64).find? fun f => bit (funcEntry s f) (64 + k)).getD 0
def bankOpOf (k : Nat) : BankOp := match k with
  | 0 => .add | 1 => .min | 2 => .max | 3 => .and | 4 => .or | 5 => .xor | 6 => .swap | _ => .cas
def tbOf (k v : Nat) : TbUpdate := match k with
  | 0 => .init v | 1 => .expect v | 2 => .arrive v | _ => .countdown v
/-- A write of another module carries a release at fabric scope, which its source has made good before it sent it, at its
home and at every replica (spec/10 R195, R200). -/
def writeFar (s : State) (x : Tx) (seg : Seg) (v : Nat) : State :=
  writeMarked s (keyOwner s x.key) { writer := outside, rel := some .fabric } [seg] v
/-- A part of a copy piece is written: the bytes it has of a sector that the next part goes on in wait for that part
(spec/10 R190, spec/23 R432, log 81). -/
def putPart (s : State) (x : Tx) (seg : Seg) : State :=
  let h := if bit x.op 1 then s.sys.halves.find? fun h => h.src = x.from_ && h.next = x.addr else none
  let b := (h.map (·.len)).getD 0
  let v := (h.map (·.data)).getD 0 + x.data % 2 ^ (8 * x.len) * 2 ^ (8 * b)
  let n := b + seg.len
  let t := if bit x.op 0 then (seg.pa + seg.len) % 32 else 0
  let s := s.modSys fun y => { y with halves := (y.halves.filter fun e => some e ≠ h && !(e.src = x.from_ && e.next = x.addr + x.len)) ++
    if t = 0 then [] else [{ src := x.from_, next := x.addr + x.len, len := t, data := v / 2 ^ (8 * (n - t)) }] }
  if n = t then s else writeFar s x { seg with pa := seg.pa - b, len := n - t } (v % 2 ^ (8 * (n - t)))
/-- A memory request of another module. A load that fills lines asks for whole ones (arg: its own bytes among them): poison
beside its bytes is told with bit 0 of the answer's operation, and fills nothing (spec/09 R181). -/
def serveMemory (s : State) (x : Tx) : State :=
  let pa := localPa x.addr
  let len := if x.kind = txBarrier then 16 else if x.kind = txJinit then 16 else Nat.max 1 x.len
  let seg : Seg := { va := 0, pa := pa, len := len, at_ := 0, key := x.key }
  let ok := match regionOf pa with
    | .hbm _ | .staging _ _ | .scratch _ => true
    | _ => false
  if !ok then answer s x txAbort 0 0
  else if s.sys.told || !segsLive s [seg] then answer s x txCalved 0 0
  else if x.kind ≠ txWrite && (if x.kind = txRead && x.arg ≠ 0 then poisoned s (pa + x.arg % 2 ^ 16) (x.arg / 2 ^ 16) else poisoned s pa len) then answer s x txAbort 0 0
  else
    let old := physRead s pa len seg.key
    let put := fun (n v : Nat) => writeFar s x { seg with len := n } v
    let done := fun (s : State) => answer s x txDone 0 0
    if x.kind = txRead then answer s x txDone len old (poisoned s pa len).toNat
    else if x.kind = txWrite then done (putPart s x seg)
    else if x.kind = txBank then answer (put len (bankNew (bankOpOf x.op) (bankTyOf x.ty) old x.data x.arg)) x txDone len old
    else if x.kind = txVbred then done (put len (vbredNew ((redOf x.op).getD .max) (fmtOf x.ty) old x.data))
    else if x.kind = txBarrier then let r := barrierNew (tbOf x.op x.data) old; done (put r.1 r.2)
    else let w := old / 2 ^ 64; done (put 16 (x.data % 2 ^ 64 + (if bit w 1 then w - 2 else w) * 2 ^ 64))
/-- Channel traffic of another module is placed at its end or in its drift ring, or waits for room in the ring. -/
def serveChannel (s : State) (x : Tx) : State :=
  let n := x.addr % 2048
  let dst := seqId s n
  let m : Msg := if x.kind = txVector then .vector x.src x.chan dst x.dchan (BitVec.ofNat 4096 x.data)
    else if x.kind = txCredit then .credit dst x.dchan x.src x.chan
    else if x.kind = txDeclare then .declare dst x.dchan { src := x.src, chan := x.chan, entry := BitVec.ofNat 40 x.data, launch := x.launch, fabric := x.fabric, gen := x.data / 2 ^ 64 }
    else .close dst x.dchan x.src x.chan (x.op = 1)
  match place s n { id := 0, launch := x.launch, fabric := x.fabric, msg := m, gen := x.gen } with
  | some t => answer t x txDone 0 0
  | none => answer s x txFull 0 0

/-- Our transaction under a number, or our answer to module `m` under its number. -/
def ownRemote (s : State) (ans : Bool) (m num : Nat) : Option Remote :=
  s.sys.remote.find? fun r => r.tx.isAnswer = ans && r.tx.num = num && r.tx.to = m
/-- Send a transaction again from the copy kept. -/
def sendAgain (s : State) (r : Remote) (f : Remote → Remote) : State :=
  pumpRemotes (s.modSys fun y => { y with remote := y.remote.map fun x => if x = r then f { x with port := none } else x })
/-- Change one of our transactions. -/
def setRemote (s : State) (r : Remote) (f : Remote → Remote) : State :=
  s.modSys fun y => { y with remote := y.remote.map fun x => if x = r then f x else x }
/-- Our transaction is done: its bytes are kept for the access; a channel message has been placed, and lowers its
sender's CM (spec/16 R306). -/
def remoteAnswered (s : State) (r : Remote) (data : Nat) : State := match s.msgs.find? fun m => m.id = r.id with
  | some m =>
    let s := dropRemotes { s with msgs := s.msgs.filter fun x => x.id ≠ r.id } fun x => x = r
    pumpRemotes (match m.msg with
      | .vector src _ _ _ _ => lowerCm s (m.launch, m.fabric) src m.id
      | _ => s)
  | none => pumpRemotes (setRemote s r fun x => { x with answer := some data })
/-- A whole transaction received intact. -/
def serve (s : State) (x : Tx) : State :=
  let m := x.from_
  if x.kind = txReceipt then match ownRemote s true m x.num with
    | some r => pumpRemotes (dropRemotes s fun y => y = r)
    | none => s
  else if x.kind = txAnswerAgain then match ownRemote s true m x.num with
    | some r => sendAgain s r id
    | none => s
  else if x.kind = txAgain then match ownRemote s false m x.num with
    | some r => if 2 ≤ r.tries then abortRemote s r else sendAgain s r fun y => { y with tries := y.tries + 1 }
    | none => s
  else if x.isAnswer then
    let s := sendLoose s m txReceipt x.num
    match ownRemote s false m x.num with
    | none => s
    | some r =>
      if r.answer.isSome then s
      else if x.kind = txDone then remoteAnswered s r (x.data % 2 ^ (8 * r.tx.len) + x.op * 2 ^ (8 * r.tx.len))
      else if x.kind = txAbort then abortRemote s r
      else setRemote s r fun y => { y with port := none, calved := true, full := x.kind = txFull }
  else match ownRemote s true m x.num with
    | some r => sendAgain s r id
    | none =>
      if txVector ≤ x.kind && x.kind ≤ txClose then (if s.sys.told then answer s x txCalved 0 0 else serveChannel s x)
      else serveMemory s x
/-- A transfer between slices of this module, part `part` of operation `id` of sequencer `n`, fails its end-to-end check:
nothing of it is committed and it is sent again; the third time it aborts (spec/16 R319). -/
def slicesDiffer (s : State) (n id part : Nat) : State :=
  let others := s.sys.inbound.filter fun e => !(e.1 = s.sys.modid && e.2.1 = id)
  let k := ((s.sys.inbound.find? fun e => e.1 = s.sys.modid && e.2.1 = id).map (·.2.2)).getD 0
  if 2 ≤ k then abortRemote (s.modSys fun y => { y with inbound := others }) { id := id, part := part, seq := n, tx := { kind := txRead, addr := 0, src := seqId s n } }
  else s.modSys fun y => { y with inbound := others ++ [(s.sys.modid, id, k + 1)] }
/-- The oldest transaction that port arg 0 has received whole reaches its slice, which checks it end to end. Arg 0 = 16:
the transfer of args 1 to 3 inside the module fails that check. -/
def execTransactionArrival (s : State) : Host.Outcome State Fault Refusal :=
  .next (let p := s.arg 0
  if p = 16 then slicesDiffer s (s.arg 1) (s.arg 2) (s.arg 3) else
  match (linkOf s p).whole with
  | [] => s
  | v :: rest =>
    let x := Tx.ofImage v
    let s := modLink s p fun y => { y with whole := rest, freed := y.freed + flitsOf x.bytes }
    let m := x.from_
    let others := s.sys.inbound.filter fun e => !(e.1 = m && e.2.1 = x.num)
    if imageOk v then serve (s.modSys fun y => { y with inbound := others }) x
    else if x.isAnswer then sendLoose s m txAnswerAgain x.num
    else if txDone < x.kind then s
    else
      let k := ((s.sys.inbound.find? fun e => e.1 = m && e.2.1 = x.num).map (·.2.2)).getD 0
      if 2 ≤ k then answer (s.modSys fun y => { y with inbound := others }) x txAbort 0 0
      else sendLoose (s.modSys fun y => { y with inbound := others ++ [(m, x.num, k + 1)] }) m txAgain x.num)

end Sys2Proof.Machine
end

