-- ==== Sys2Proof/Machine/Power.lean ====
section
/-! DEFINITION. Power states, calving and un-calving, entry to freeze, and module-wide resets (spec/21 R395-R404, spec/20
R393, spec/09 R175, spec/22 R422, R428). -/
set_option linter.unusedVariables false
namespace Sys2Proof.Machine
open Sys2Proof

/-! ### Stopping in place and returning (spec/01 R16, spec/21 R399, R404) -/

/-- A sequencer enters calved or frozen; the state it is in is kept, and an `mwait` has ended with reason 3. -/
def putUnder (s : State) (n : Nat) (dest : SqState) : State :=
  let q := s.seq n
  let s := match q.wait with
    | some (.mwait d u) => deliver s n d (mwaitCode s (s.seq n) u 3)
    | _ => s
  s.modSeq n fun q => match q.below, q.wait with
    | some _, _ => { q with st := dest }
    | none, some (.mwait _ _) => { q with below := some .running, wait := none, watch := none, st := dest, stopReq := false }
    | none, _ => { q with below := some q.st, watch := none, st := dest, stopReq := false }
/-- A calved sequencer returns to the state it held. Where its context has stopped meanwhile it stops too, and a deferred
stop request proceeds (spec/21 R401). -/
def liftSeq (s : State) (n : Nat) : State :=
  let q := s.seq n
  let x := s.ctxOf n
  let q := { q with st := q.below.getD .idle, below := none, stopReq := x.stopAt.isSome && (q.below.getD .idle).live }
  let s := settleSeq (s.setSeq n q) n
  if q.st.live && x.st ≠ .released then stopSeq s n .preempted else s

/-! ### STATE (spec/21 R396-R398) -/

def powerCode : Power → Nat
  | .run => 0 | .warn => 1 | .calved => 2 | .freeze => 3 | .thaw => 4 | .dormant => 5
/-- Functions with a released launch. -/
def runningFuncs (s : State) : List Nat :=
  ((List.filter (fun (e : Nat × Ctx) => e.2.st ≠ .queued && e.2.st ≠ .granted && ctxAlive s e.1) s.ctxs).map fun e => e.2.func).dedup
/-- A change of STATE: the physical function's power vector, a management event, and the functions' event vectors. -/
def setPower (s : State) (p : Power) : State :=
  if s.sys.power = p then s
  else
    let s := ((s.modSys fun y => { y with power := p }).msix 0 67).out (.management 1 (powerCode p))
    if p = .warn || p = .calved || p = .freeze then (runningFuncs s).foldl (fun s f => s.msix f 1) s else s

/-! ### Calving (spec/21 R399-R402) -/

/-- Dies in calving order. -/
def calveOrder (y : Sys) : List Nat := [fld y.calvord 1 0, fld y.calvord 3 2, fld y.calvord 5 4]
/-- The decision to calve a die: the leader hands over first. -/
def calveDie (s : State) (d : Nat) : State :=
  let s := if s.sys.leader = d then newLeader s 0 else s
  let s := s.modDie d fun y => { y with calv := .stopping, before := y.point }
  s.modSys fun y => { y with calvd := y.calvd + (if bit y.calvd d then 0 else 2 ^ d), calvedOrder := d :: y.calvedOrder, calvedAt := y.dtime, series := true }
/-- The next die of the order. -/
def nextToCalve (s : State) : Option Nat := (calveOrder s.sys).find? fun d => d ≠ 0 && dieLive s d
def enterCalved (s : State) : State :=
  let s := setPower s .calved
  match nextToCalve s with
  | some d => calveDie s d
  | none => s
/-- While the input has stayed below 44 V since the last calving, another die is calved 1 ms after it. -/
def execCalveNextDie (s : State) : Host.Outcome State Fault Refusal :=
  .next (if s.sys.power ≠ .calved || !s.sys.series || 3 ≤ s.sys.calvedOrder.length || s.sys.dtime < s.sys.calvedAt + 1000000 then s
  else match nextToCalve s with
    | some d => calveDie s d
    | none => s)

/-- Sequencers of a die that the machine lists. -/
def seqsOfDie (s : State) (d : Nat) : List Nat := (s.seqs.map (·.1)).filter fun n => dieOf (coreOf n) = d
/-- A sequencer of a calving die stops at its bundle boundary. -/
def execCalvedSeqStop (s : State) : Host.Outcome State Fault Refusal :=
  .next (let n := s.arg 0
  if (s.die (dieOf (coreOf n))).calv = .stopping && s.issue.isNone && ((s.seq n).st.live || (s.seq n).st = .faulted) then putUnder s n .calved else s)
/-- The die's memories go to retention. -/
def retainDie (s : State) (d : Nat) : State :=
  let s := (coresOfDie d).foldl (fun s g => s.modCore g fun k => { k with l1 := [], itlb := [], dtlb := [], etlb := [] }) s
  s.modDie d fun y => { y with calv := .retained, tlb := [] }
/-- Die arg 0: its sequencers have stopped and what was in flight has completed. -/
def execDieRetention (s : State) : Host.Outcome State Fault Refusal :=
  .next (let d := s.arg 0
  if (s.die d).calv ≠ .stopping || !(seqsOfDie s d).all (seqQuiet s) || (seqsOfDie s d).any (fun n => (s.seq n).st = .faulted) then s else retainDie s d)

/-- The die calved last is un-calved after 5 ms at 46 V or more. -/
def execUncalve (s : State) : Host.Outcome State Fault Refusal :=
  .next (match s.sys.calvedOrder with
  | d :: _ => if s.sys.power = .calved && 5000 ≤ s.sys.above46 && (s.die d).calv = .retained then
      (s.modDie d fun y => { y with calv := .waking }).modSys fun y => { y with above46 := 0, series := false } else s
  | [] => s)

/-- A cluster's retention or scheduler parity fails: its contexts stop with retention loss, and its register spaces,
scratchpads and queue unit are zeroed (spec/22 R428). -/
def loseCluster (s : State) (cl : Nat) : State :=
  let on := List.filter (fun (e : Nat × Ctx) => e.2.seqs.any fun n => clusterOf (coreOf n) = cl && (s.seq n).ctx = some e.1) s.ctxs
  let s := on.foldl (fun s e => match (sortBy id (e.2.seqs.filter fun n => clusterOf (coreOf n) = cl && (s.seq n).ctx = some e.1)).head? with
    | some n => addCause s n { cause := .retentionLoss, slot := 7 }
    | none => s) s
  let cores := (List.range 32).map (32 * cl + ·)
  let s := cores.foldl (fun s g => renewed (renewed { s.modCore g (fun k => { k with regs := [] }) with mem := s.mem.zero (scratchBase g) 0x800000 }
    (scratchBase g) 0x800000) (State.regPa g 0) 0x100000) s
  s.modCluster cl fun k => { k with levels := List.replicate 4 [], spill := List.replicate 4 (0, 0), overflow := none, pushes := [] }
/-- The un-calving die is live; arg 0 masks its clusters whose retention parity failed. -/
def execUncalveComplete (s : State) : Host.Outcome State Fault Refusal :=
  .next (match s.sys.calvedOrder with
  | d :: rest =>
    if (s.die d).calv ≠ .waking then s
    else
      let s := s.modDie d fun y => { y with calv := .live, tlb := [], point := y.before }
      let s := (coresOfDie d).foldl (fun s g => s.modCore g fun k => { k with l1 := [], itlb := [], dtlb := [], etlb := [] }) s
      let s := ((List.range 4).filter (bit (s.arg 0))).foldl (fun s i => loseCluster s (4 * d + i)) s
      let s := ((seqsOfDie s d).filter fun n => (s.seq n).st = .calved).foldl liftSeq s
      let s := (s.cores.map (·.1)).foldl (fun s g => if dieOf g = d then promote s g else s) s
      let s := s.modSys fun y => { y with calvd := y.calvd - (if bit y.calvd d then 2 ^ d else 0), calvedOrder := rest }
      let s := retryRecords s
      if rest = [] then setPower s (if s.sys.pf then .warn else .run) else s
  | [] => s)

/-! ### Entry to freeze (spec/21 R404, R406, R407, R410, R415) -/

def slotBase (k : Nat) : Nat := if k = 0 then 0x101F80000000 else 0x101FC0000000
def areaBase (k : Nat) : Nat := if k = 0 then 0x102000000000 else 0x109000000000
def areaSize : Nat := 448 * 2 ^ 30
/-- Header fields of a moraine slot. -/
def moraineField (s : State) (k off n : Nat) : Nat := s.mem.readNat (slotBase k + off) n
/-- Does a signature verify: it is the one the identity key gives, or the fixed method accepts it. -/
def signed (digest : BitVec 256) (sig : Nat) : Bool := sig = Config.sign digest % 2 ^ 26472 || Config.verify digest sig
/-- Is a moraine valid (spec/21 R410): none that has an uncorrectable error in what is read of it (spec/09 R187). -/
def moraineValid (s : State) (k : Nat) : Bool :=
  let body := moraineField s k 40 8
  moraineField s k 0 4 = 0x4E524F4D && moraineField s k 4 2 = 1 && moraineField s k 24 2 = s.sys.modid &&
    !poisoned s (slotBase k) body && !poisoned s (slotBase k + 0x3FFFF000) 0x1000 && moraineField s k 0x3FFFFFC0 8 = 1 && moraineField s k 0x3FFFFFC8 8 = moraineField s k 8 8 &&
    signed (sha3 body (moraineField s k 0 body)) (moraineField s k 0x3FFFF000 3309)
/-- The valid moraine of higher SEQ. -/
def validMoraine (s : State) : Option Nat := match moraineValid s 0, moraineValid s 1 with
  | true, true => some (if moraineField s 0 8 8 < moraineField s 1 8 8 then 1 else 0)
  | true, false => some 0
  | false, true => some 1
  | false, false => none

/-- Every sequencer of the module enters frozen, from any state, those that the machine does not list among them (spec/01
R16). -/
def freezeAll (s : State) : State :=
  let s := (s.seqs.map (·.1)).foldl (fun s n => putUnder s n .frozen) s
  { s with seqs := (List.range 2048).map fun n => (n, (s.seqs.find? n).getD { st := .frozen, below := some .idle }) }
/-- Contexts released and not complete, in ascending number. -/
def openContexts (s : State) : List Nat :=
  sortBy id ((List.filter (fun (e : Nat × Ctx) => e.2.st ≠ .queued && e.2.st ≠ .granted && e.2.st ≠ .complete && e.2.st ≠ .lost && e.2.st ≠ .split && e.2.issued && e.2.seqs ≠ []) s.ctxs).map (·.1))
/-- Entry to FREEZE: a calving in progress completes first; every sequencer enters frozen; the drain list and the quotas
are latched, and which contexts are open. -/
def enterFreeze (s : State) : State :=
  let thawing := s.sys.power = .thaw && !s.sys.seenRelease
  let s := setPower s .freeze
  let s := ([0, 1, 2, 3] : List Nat).foldl (fun s d => if (s.die d).calv = .stopping then
    retainDie (((seqsOfDie s d).filter fun n => (s.seq n).st.live || (s.seq n).st = .faulted).foldl (fun s n => putUnder s n .calved) s) d else s) s
  let s := freezeAll s
  let m := validMoraine s
  let todo := sortBy (fun e : Nat × Drain => (255 - e.2.pri) * 256 + e.1) (List.filter (fun (e : Nat × Drain) => e.2.v) s.sys.drain)
  let y := s.sys
  let f : Freeze :=
    { tfrz := y.dtime, calvd := y.calvd, stage := 0, todo := if thawing then [] else todo, quotas := y.quotas, released := !thawing, ctxs := openContexts s,
      gen := m.elim 0 fun k => 1 - moraineField s k 6 1 % 2,
      slot := m.elim 0 fun k => 1 - k,
      seqno := m.elim 1 fun k => moraineField s k 8 8 + 1 }
  s.modSys fun y => { y with freeze := some f }

/-! ### The input supply (spec/21 R396, R397) -/

/-- A count of samples in a row. -/
def runOf (hit : Bool) (k : Nat) : Nat := if hit then k + 1 else 0
/-- The transition that the samples call for. -/
def supply (s : State) : State :=
  let y := s.sys
  let p := y.power
  if (p = .run || p = .warn || p = .calved || p = .thaw) && (10 ≤ y.below40 || y.vin < 38000) then enterFreeze s
  else if (p = .run || p = .warn) && 2000 ≤ y.band then enterCalved s
  else if p = .run && (50 ≤ y.below42 || y.pf) then setPower s .warn
  else if p = .warn && 10000 ≤ y.above44 && !y.pf then setPower s .run
  else s
/-- A sample of the input voltage: arg 0 in mV. -/
def execVinSample (s : State) : Host.Outcome State Fault Refusal :=
  .next (let v := s.arg 0
  if s.sys.power = .dormant then s
  else supply (s.modSys fun y => { y with
    vin := v, series := y.series && decide (v < 44000), below42 := runOf (v < 42000) y.below42, below40 := runOf (v < 40000) y.below40
    band := runOf (40000 ≤ v && v < 44000) y.band, above44 := runOf (44000 ≤ v) y.above44, above46 := runOf (46000 ≤ v) y.above46 }))
def execPfAssert (s : State) : Host.Outcome State Fault Refusal :=
  .next (let s := s.modSys fun y => { y with pf := true }
  if s.sys.power = .run then setPower s .warn else s)
def execPfDeassert (s : State) : Host.Outcome State Fault Refusal :=
  .next (let s := s.modSys fun y => { y with pf := false }
  if s.sys.power = .warn && 10000 ≤ s.sys.above44 then setPower s .run else s)
/-- The reserve's charge is measured: arg 0 in J. -/
def execChargeMeasure (s : State) : Host.Outcome State Fault Refusal :=
  .next (if s.sys.power = .dormant then s else s.modSys fun y => { y with charge := s.arg 0 % 65536 })
/-- A write of CALVORD by the physical function: it names neither CD0 nor one die twice (spec/21 R397). -/
def writeCalvord (s : State) (v : Nat) : State :=
  let a := fld v 1 0
  let b := fld v 3 2
  let c := fld v 5 4
  if a = 0 || b = 0 || c = 0 || a = b || a = c || b = c then s else s.modSys fun y => { y with calvord := v % 64 }
/-- CALVORD := arg 1, by function arg 0. -/
def execCalvordWrite (s : State) : Host.Outcome State Fault Refusal :=
  .next (if hostOpen s && s.arg 0 = 0 then writeCalvord s (s.arg 1) else s)

/-! ### Power off and on, cold reset (spec/21 R396, R415, spec/22 R422, spec/09 R175, R186) -/

def inFirn (a : Nat) : Bool := 0x100000000000 ≤ a && a < 0x110000000000
/-- What lasts without power: the firn tier, the boot flash and the fuses, and what the module's place gives it. -/
def powerOff (s : State) : State :=
  { ({} : State) with
    mem := s.mem.filter fun c => inFirn c.1
    keyOf := List.filter (fun (e : Nat × Nat) => inFirn (32 * e.1)) s.keyOf
    poison := s.poison.filter inFirn
    sys := { modid := s.sys.modid, keyLoads := s.sys.keyLoads, firn := s.sys.firn, slots := s.sys.slots, fuse := s.sys.fuse, power := .dormant, bootSlot := none }
    schedule := s.schedule, free := s.free, nextId := s.nextId, args := s.args, outbox := s.outbox }
/-- The boot slot accepted (spec/22 R422). -/
def acceptSlot (y : Sys) : Option Nat := (List.range 2).find? fun k => match y.slots[k]? with
  | some (ok, v, _) => ok && y.fuse ≤ v
  | none => false
/-- Boot: a slot is accepted, HBM stands zeroed, and a moraine that is not consumed is to be thawed. -/
def bootUp (s : State) : State := match acceptSlot s.sys with
  | none => s.modSys fun y => { y with power := .run, bootfail := true, bootSlot := none }
  | some k =>
    let v := ((s.sys.slots[k]?).map (·.2.1)).getD 0
    let s := s.modSys fun y => { y with power := .run, bootSlot := some k, fuse := Nat.max y.fuse v }
    match validMoraine s with
    | some m => if moraineField s m 0x3FFFFFD0 8 = 0 then setPower (s.modSys fun y => { y with thaw := some { slot := m } }) .thaw else s
    | none => s
def execColdReset (s : State) : Host.Outcome State Fault Refusal := .next (bootUp (powerOff s))
/-- Supply returns to a module without power. -/
def execPowerUp (s : State) : Host.Outcome State Fault Refusal :=
  .next (if s.sys.power = .dormant then bootUp (powerOff s) else s)
/-- The reserve runs out during a freeze. -/
def execPowerLost (s : State) : Host.Outcome State Fault Refusal := .next (if s.sys.power = .freeze then powerOff s else s)

/-! ### Function-level reset (spec/20 R393, spec/09 R175, R181, spec/14 R271) -/

/-- Nonzero words of a table page: index and entry. -/
def tableWords (m : Mem) (p : Nat) : List (Nat × Nat) :=
  (((m.filter fun c => p ≤ c.1 && c.1 < p + 4096).map fun c => (c.1 - p) / 8).dedup).map fun k => (k, m.readNat (p + 8 * k) 8)
/-- Leaves below a table: virtual address and leaf. -/
def leavesAt (m : Mem) (modid : Nat) (tab : Nat → Option Nat) : List Nat → Nat → Nat → List (Nat × Leaf)
  | [], _, _ => []
  | lv :: more, t, base => match tab t with
    | none => []
    | some p => ((tableWords m p).map fun (k, e) => match readEntry e modid lv with
        | .bad => []
        | .leaf l => [(base + k * 2 ^ (12 + 9 * (lv - 1)), l)]
        | .table a => if lv = 1 then [] else leavesAt m modid tab more a (base + k * 2 ^ (12 + 9 * (lv - 1)))).flatten
/-- Physical ranges that an address space maps. -/
def mappedRanges (s : State) (asid : Nat) : List (Nat × Nat) :=
  let e := asidEntry s asid
  let f := fld e 6 1
  let modid := s.sys.modid
  let s2 := bit (funcEntry s f) 0
  let two := if s2 then leavesAt s.mem modid some [4, 3, 2, 1] (fld (funcEntry s f) 55 12 * 4096 % 2 ^ 46) 0 else []
  let tab := fun a => if s2 then (match stage2 s f 0 a with
      | .ok l => some (l.frame % 2 ^ 46 + a % l.size)
      | .error _ => none) else some (a % 2 ^ 46)
  let one := leavesAt s.mem modid tab [4, 3, 2, 1] (fld e 55 12 * 4096) 0
  if !bit e 0 then []
  else if !s2 then (one.filter fun l => isLocal s l.2.fab l.2.frame).map fun l => (localPa l.2.frame, l.2.size)
  else (one.map fun l => ((two.filter fun m => isLocal s m.2.fab m.2.frame && meet l.2.frame l.2.size m.1 m.2.size).map fun m =>
    let lo := Nat.max l.2.frame m.1
    (localPa m.2.frame + (lo - m.1), Nat.min (l.2.frame + l.2.size) (m.1 + m.2.size) - lo))).flatten
/-- Zero a range, but for front-end state and the firmware's part of the firn tier. -/
def scrub (s : State) (r : Nat × Nat) : State :=
  let hit := fun (a : Nat) => r.1 ≤ a && a < r.1 + r.2 && regionOf a ≠ .feState && regionOf a ≠ .firnFw
  notify (unmark { s with mem := s.mem.filter (fun c => !hit c.1), poison := s.poison.filter fun a => !hit a } r.1 r.2) r.1 r.2
/-- ASIDs of a function, in use or not (spec/17 R321). -/
def asidsOf (s : State) (f : Nat) : List Nat := (List.filter (fun (e : Nat × BitVec 128) => fld e.2.toNat 6 1 = f) s.sys.asids).map (·.1)
/-- A drain-list entry keeps only its owner. -/
def clearDrain (e : Drain) : Drain := { func := e.func }
/-- Function arg 0 is reset: its rings, its contexts, the channel state of sequencers where its programs ended, its address
spaces, its pages, its registers (spec/20 R393, spec/16 R315). A launch that has issued ends with its record. -/
def resetFunction (s : State) (f : Nat) : State :=
  let s := { s with rings := List.map (fun (e : Nat × Ring) => if e.1 / 64 = f then (e.1, { e.2 with rctl := 0, hold := none }) else e) s.rings }
  let own := (List.filter (fun (e : Nat × Ctx) => e.2.func = f && ctxAlive s e.1) s.ctxs).map (·.1)
  let s := own.foldl (fun s c => if !(s.ctx c).issued && ((s.ctx c).st = .queued || (s.ctx c).st = .granted) then s.modCtx c fun x => { x with st := .killed, victims := [] }
    else if killAdmitted s c then killCtx s c else s) s
  let gone := fun (q : Seq) => q.ctx.isNone && q.lastFunc = some f
  let ran := fun (g : Nat) => (List.range 4).any fun k => (s.seq (4 * g + k)).lastFunc = some f
  let s := { s with seqs := List.map (fun (e : Nat × Seq) => if gone e.2 then (e.1, { e.2 with chans := [], kept := [] }) else e) s.seqs }
  let asids := asidsOf s f
  let windows := mappedRanges s (s.func f).lasid
  let firn := ((asids.map (mappedRanges s)).flatten).filter fun r => regionOf r.1 = .firnUser
  let s := if asidFunc s (s.func f).lasid = f then (windows ++ firn).foldl scrub s else firn.foldl scrub s
  let s := { s with cores := List.map (fun (e : Nat × Core) => if ran e.1 || (e.2.img.map (·.1)).any asids.contains then (e.1, { e.2 with l1 := [] }) else e) s.cores }
  let s := asids.foldl (fun s a => purge (s.modSys fun y => { y with asids := y.asids.put a 0 }) { asid := a }) s
  let s := s.modSys fun y => { y with
    funcs := y.funcs.put f (BitVec.ofNat 128 (funcEntry s f % 2 ^ 64))
    ops := y.ops.map fun e => if e.func = f then { e with v := false } else e
    drain := List.map (fun (e : Nat × Drain) => if e.2.func = f then (e.1, clearDrain e.2) else e) y.drain
    records := y.records.filter fun r => r.1 ≠ f
    mboxStat := if f = 0 then 0 else y.mboxStat }
  let s := { s with rings := List.filter (fun (e : Nat × Ring) => e.1 / 64 ≠ f) s.rings }
  let s := (List.range 64).foldl (fun s r => homeWrite s 0 (issuedAddr f r) 8 0 0) s
  { s with funcs := s.funcs.put f {} }
def execFunctionLevelReset (s : State) : Host.Outcome State Fault Refusal := .next (resetFunction s (s.arg 0 % 64))

end Sys2Proof.Machine
end

