-- ==== Sys2Proof/Machine/Freeze.lean ====
section
/-! DEFINITION. The freeze sequence, peers that are away, thaw, and checkpoints (spec/21 R404-R418). -/
set_option linter.unusedVariables false
namespace Sys2Proof.Machine
open Sys2Proof

/-! ### Engines and peers (spec/21 R404, steps 2 and 3) -/

/-- Tell the peer on every Akvin port. -/
def tellPeers (s : State) (kind data : Nat) : State :=
  (List.range 16).foldl (fun s p => if (s.sys.links.getD p {}).up && (s.sys.links.getD p {}).peer.isSome then s.out (.link p kind data) else s) s
def freezeNotice : Nat := 64
def rejoinNotice : Nat := 65
/-- The sequencers of a context, live or in its save area. -/
def seqsOfCtx (s : State) (c : Nat) : List Seq :=
  let x := s.ctx c
  match x.saved with
  | some v => v.seqs.map fun (e : Nat × Seq) => e.2
  | none => (x.seqs.filter fun n => (s.seq n).ctx = some c).map s.seq
/-- The recorded superstep: the smallest STEPNO of its sequencers (spec/21 R411). -/
def recordedStep (s : State) (c : Nat) : Nat :=
  let l := (seqsOfCtx s c).map fun (q : Seq) => q.stepno
  l.foldl Nat.min (l.headD 0)
/-- Accesses not performed, and pieces that were started and are not. -/
def unperformed (s : State) (c : Nat) : Nat :=
  ((seqsOfCtx s c).map fun (q : Seq) => q.acc.length).foldl (· + ·) 0 +
    (((s.ctx c).cores.map fun g => (((s.core g).bte.flatten).filter fun x => x.ctx = c).map fun x => x.flying.length).flatten).foldl (· + ·) 0
/-- A freeze abandons the pieces that wait for a calved die or an absent module: they have not been started (spec/11
R212, R232). -/
def abandonPieces (k : Core) : Core := { k with bte := k.bte.map fun l => l.map fun c =>
  { c with runs := c.flying.map (fun p => (p.a, p.b, p.len)) ++ c.runs, flying := [] } }
/-- Every engine has stopped: what is left is recorded, and every peer is told. -/
def execFreezeEnginesStopped (s : State) : Host.Outcome State Fault Refusal :=
  .next (match s.sys.freeze with
  | some z =>
    if z.stage ≠ 0 || !(s.seqs.map (·.1)).all (seqQuiet s) then s
    else
      let s := (s.seqs.map (·.1)).foldl (fun s n => s.modSeq n settlePorts) s
      let s := z.ctxs.foldl (fun s c => s.modCtx c fun x => { x with stepRec := recordedStep s c, unperf := unperformed s c }) s
      let s := dropRemotes { s with cores := List.map (fun (e : Nat × Core) => (e.1, abandonPieces e.2)) s.cores } fun r => pieceRead 0 ≤ r.part
      let s := tellPeers (s.modSys fun y => { y with told := true }) freezeNotice s.sys.modid
      s.modSys fun y => { y with freeze := some { z with stage := 1 } }
  | none => s)

/-! ### Drain (spec/18 R357, spec/21 R405, R406) -/

/-- Bytes of a whole-context entry: the save-area image, the last table, the drift ring, the spill rings, the tensor
table and the AE map tables. -/
def contextSize (s : State) (c : Nat) : Nat :=
  let x := s.ctx c
  saveLen x + 4096 * 64 + 0x100000 + (if x.isTask then x.lr 120 4 else 0) + 256 * 16 +
    384 * ((seqsOfCtx s c).filter fun q => q.ae.reg.isSome).length
/-- Does a whole-context entry name a context of its function that can be drained. -/
def drainCtx (s : State) (z : Freeze) (e : Drain) : Bool := z.ctxs.contains e.ctx && (s.ctx e.ctx).func = e.func && (s.ctx e.ctx).st ≠ .killed
def drainSize (s : State) (z : Freeze) (e : Drain) : Nat := if e.wc then (if drainCtx s z e then contextSize s e.ctx else 0) else e.len
/-- Is an entry skipped. -/
def drainSkipped (s : State) (z : Freeze) (e : Drain) : Bool :=
  e.malformed || !bit (asidEntry s e.asid) 0 || asidFunc s e.asid ≠ e.func || (e.wc && !drainCtx s z e) ||
    z.quotas.getD e.func 0 < z.used.getD e.func 0 + drainSize s z e
/-- The allowance in bytes: (E - 150 J) / 1.3125 nJ, at most a generation area. -/
def allowance (e : Nat) : Nat := Nat.min ((e - 150) * 16000000000 / 21) areaSize
/-- Where the next region goes: the next 4 KiB boundary. -/
def pageUp (x : Nat) : Nat := (x + 4095) / 4096 * 4096
/-- What a whole-context entry reads through translations: the save area where the context is saved, and the spill rings of
a task launch. -/
def wholeSpans (x : Ctx) : List (Nat × Nat) :=
  (if x.saved.isSome then [(saveAt x, saveLen x)] else [(saveAt x, 64)]) ++ (if x.isTask then [(x.lr 112 8, x.lr 120 4)] else [])
/-- What it reads where it stands: windows and scratchpads of a context in place, and the drift ring. -/
def wholePlaces (s : State) (c : Nat) : List (Nat × Nat) :=
  let x := s.ctx c
  (if x.saved.isSome then [] else (x.seqs.filter fun n => (s.seq n).ctx = some c).map (fun n => (State.regPa (coreOf n) (s.seq n).winBase, (s.seq n).winSize)) ++
    (heldCores x).map fun g => (scratchBase g, 0x800000)) ++ (if x.drift.recs = [] then [] else [(driftSlotAt c 0, 0x100000)])
/-- The first fault or uncorrectable error among them (spec/21 R406). -/
def wholeFault (s : State) (c : Nat) : Option XFault :=
  let x := s.ctx c
  firstSome [(wholeSpans x).findSome? fun p => match feSegs s 0 x.asid { r := true } p.1 p.2 with
      | .error f => some f
      | .ok l => (loadPoisoned s 0 .f l).map fun a => { cause := .dataAbort, va := a },
    if (wholePlaces s c).any (fun p => poisoned s p.1 p.2) then some { cause := .dataAbort, va := 0 } else none]
/-- What a whole-context entry holds beside the save image: the last table, the drift ring, the spill rings, the tensor table
and the map tables with their pending exchanges (spec/21 R405, spec/18 R353). -/
def wholeContents (s : State) (c : Nat) : List Nat :=
  let x := s.ctx c
  x.frec.toNat :: (dumpSeqs s c).flatMap (fun e => dumpSeq s x e.1 e.2.1 e.2.2 ++ (aeBytes e.2.1).map (·.1)) ++
    x.lasts.flatMap (fun e => [e.1, e.2.toNat]) ++ x.tensors.flatMap (fun e => [e.1, e.2.bpr, e.2.dbase, e.2.saddr]) ++
    x.drift.recs.map (fun r => r.2.msg.slotBytes) ++ (if x.isTask then [(areaGet s x (x.lr 112 8) (x.lr 120 4)).readNat 0 (x.lr 120 4)] else [])
/-- The bytes of an entry: a region through its translations, or a whole context, whose bytes the spec does not lay out
(log 36). The memories of calved dies are read as well (spec/21 R404). -/
def drainBytes (s : State) (z : Freeze) (e : Drain) : Except XFault Nat :=
  if !e.wc then feRead s 0 e.asid e.va e.len
  else match wholeFault s e.ctx with
    | some f => .error f
    | none => .ok ((Config.dumpBody 0x57 (wholeContents s e.ctx)).1 % 2 ^ (8 * drainSize s z e))
/-- Take one entry. -/
def drainOne (s : State) (z : Freeze) (i : Nat) (e : Drain) : State :=
  let keep := fun (z : Freeze) (stat off : Nat) (dig : BitVec 256) => { z with todo := z.todo.drop 1, regions := z.regions ++ [(i, if e.wc then { e with len := drainSize s z e } else e, stat, off, dig)] }
  let put := fun (s : State) (z : Freeze) => s.modSys fun y => { y with freeze := some z }
  let n := drainSize s z e
  if drainSkipped s z e then put s (keep z 1 0 0)
  else if z.trunc ≠ 0xFFFFFFFF || allowance z.e < z.summed + n then put s (keep { z with trunc := if z.trunc = 0xFFFFFFFF then i else z.trunc } 2 0 0)
  else
    let z := { z with summed := z.summed + n, used := z.used.put e.func (z.used.getD e.func 0 + n) }
    match drainBytes s z e with
    | .error _ => put s (keep z 3 0 0)
    | .ok v =>
      let off := pageUp z.placed
      let s := if n = 0 then s else homeWrite s 0 (areaBase z.gen + off) n 0 v
      put s (keep { z with placed := off + n } 0 off (sha3 n v))
/-- The drain reads CHARGE, then takes one entry after another. -/
def execFreezeDrain (s : State) : Host.Outcome State Fault Refusal :=
  .next (match s.sys.freeze with
  | some z =>
    let step := fun (z : Freeze) => match z.todo with
      | (i, e) :: _ => drainOne s z i e
      | [] => s.modSys fun y => { y with freeze := some { z with stage := 3 } }
    if !z.released then s
    else if z.stage = 1 then step { z with stage := 2, e := s.sys.charge }
    else if z.stage = 2 then step z
    else s
  | none => s)

/-! ### The moraine (spec/21 R407-R411) -/

/-- Put fields (offset, bytes, value) together. -/
def layout (l : List (Nat × Nat × Nat)) : Nat := l.foldl (fun x f => x + f.2.2 % 2 ^ (8 * f.2.1) * 2 ^ (8 * f.1)) 0
def regionEntry (r : Nat × Drain × Nat × Nat × BitVec 256) : Nat :=
  let (i, e, stat, off, dig) := r
  layout [(0, 8, e.va), (8, 8, e.len), (16, 2, e.asid), (18, 1, e.pri), (19, 1, stat + 64 * e.wc.toNat), (20, 2, e.ctx), (22, 2, i), (24, 8, off), (32, 32, dig.toNat)]
/-- Was the context drained whole. -/
def drainedWhole (z : Freeze) (c : Nat) : Bool := z.regions.any fun r => r.2.1.wc && r.2.1.ctx = c && r.2.2.1 = 0
def contextRecord (s : State) (z : Freeze) (c : Nat) : Nat :=
  let x := s.ctx c
  let peers := if x.lr 152 8 = 0 then 2 ^ s.sys.modid else (x.mask.map (2 ^ ·)).foldl (· + ·) 0
  layout [(0, 256, x.lrec), (256, 2, c), (258, 2, x.asid), (260, 1, x.func),
    (261, 1, (drainedWhole z c).toNat + 2 * (decide (x.st = .killed)).toNat + 4 * x.isTask.toNat + 8 * x.image.thaw.isSome.toNat),
    (264, 4, x.stepRec), (268, 4, x.ckptStep), (272, 2, x.buddy), (276, 4, x.unperf), (280, 128, peers)]
/-- The body: header, region table, context records. -/
def moraineBody (s : State) (z : Freeze) : Nat × Nat :=
  let l := z.ctxs
  let n := 0x8000 + 1024 * l.length
  let head := layout [(0, 4, 0x4E524F4D), (4, 2, 1), (6, 1, z.gen), (8, 8, z.seqno), (16, 8, z.tfrz), (24, 2, s.sys.modid), (26, 1, z.calvd), (28, 4, z.e), (32, 4, z.trunc),
    (36, 2, z.regions.length), (38, 2, l.length), (40, 8, n)]
  (n, head + layout (z.regions.zipIdx.map fun r => (0x1000 + 64 * r.2, 64, regionEntry r.1)) + layout (l.zipIdx.map fun c => (0x8000 + 1024 * c.2, 1024, contextRecord s z c.1)))
/-- What the firn tier keeps of the contexts beside the record's fields (log 38). -/
def firnOf (s : State) (z : Freeze) (t : Tab (Ctx × Option SaveImage)) : Tab (Ctx × Option SaveImage) :=
  z.ctxs.foldl (fun t c =>
    let x := s.ctx c
    let x := { x with drift := { x.drift with bytes := if x.drift.recs = [] then [] else physSlice s (driftSlotAt c 0) 0x100000 0 } }
    let v := (x.saved.map (fetchSave s c)).getD (saveImage s c)
    t.put (z.slot * 65536 + c) (x, if drainedWhole z c then some { v with rings := if x.isTask then areaGet s x (x.lr 112 8) (x.lr 120 4) else [] } else none))
    (List.filter (fun (e : Nat × (Ctx × Option SaveImage)) => e.1 / 65536 ≠ z.slot) t)
/-- The body and its signature are written; the seal of the slot is gone. -/
def execMoraineWrite (s : State) : Host.Outcome State Fault Refusal :=
  .next (match s.sys.freeze with
  | some z =>
    if z.stage ≠ 3 then s
    else
      let b := moraineBody s z
      let base := slotBase z.slot
      let s := homeWrite (homeWrite s 0 (base + 0x3FFFFFC0) 64 0 0) 0 base b.1 0 b.2
      let s := homeWrite s 0 (base + 0x3FFFF000) 3309 0 (Config.sign (sha3 b.1 b.2) % 2 ^ 26472)
      s.modSys fun y => { y with firn := firnOf s z y.firn, freeze := some { z with stage := 4 } }
  | none => s)
/-- The seal is written last; then the module has no power. -/
def execMoraineSeal (s : State) : Host.Outcome State Fault Refusal :=
  .next (match s.sys.freeze with
  | some z =>
    if z.stage = 4 then powerOff (homeWrite s 0 (slotBase z.slot + 0x3FFFFFC0) 16 0 (1 + z.seqno * 2 ^ 64))
    else if !z.released && z.stage = 1 then powerOff s
    else s
  | none => s)

/-! ### Peers (spec/21 R413, R416) -/

/-- Module arg 0 freezes: it is away. -/
def execPeerFreezeNotice (s : State) : Host.Outcome State Fault Refusal :=
  .next (s.modSys fun y => { y with away := if y.away.contains (s.arg 0) then y.away else y.away ++ [s.arg 0] })
/-- Module arg 0 is back; for the launch of FLID arg 1 it announces STEPREC arg 2 and CKPTSTEP arg 3. -/
def execPeerRejoin (s : State) : Host.Outcome State Fault Refusal :=
  .next (let m := s.arg 0
  let heard := fun (l : List (Nat × Nat × Nat × Nat)) => if s.arg 1 = 0 then l
    else l.filter (fun e => !(e.1 = s.arg 1 && e.2.1 = m)) ++ [(s.arg 1, m, s.arg 2, s.arg 3)]
  let s := s.modSys fun y => { y with away := y.away.filter (· ≠ m), rejoins := heard y.rejoins }
  let s := { s with ctxs := List.map (fun (e : Nat × Ctx) => if s.arg 1 ≠ 0 && e.2.lr 152 8 = s.arg 1 then
    (e.1, { e.2 with peers := e.2.peers.filter (fun p => p.1 ≠ m) ++ [(m, s.arg 2, s.arg 3)] }) else e) s.ctxs }
  pumpRemotes s)

/-! ### Thaw (spec/21 R415-R417) -/

def thawNow (s : State) : Option Thaw := if s.sys.power = .thaw then s.sys.thaw else none
def setThaw (s : State) (t : Thaw) : State := s.modSys fun y => { y with thaw := some t }
/-- The physical function's THAW command. -/
def execThawCommand (s : State) : Host.Outcome State Fault Refusal :=
  .next (match thawNow s with
  | some t => if t.stage = 0 then setThaw s { t with stage := 1 } else s
  | none => s)
/-- Field of region `i`, and of context record `i`, of a slot. -/
def regionField (s : State) (k i off n : Nat) : Nat := moraineField s k (0x1000 + 64 * i + off) n
def recordField (s : State) (k i off n : Nat) : Nat := moraineField s k (0x8000 + 1024 * i + off) n
/-- Read back region `i`; a mismatch, a fault or an uncorrectable error marks it failed (spec/09 R187). -/
def restoreRegion (s : State) (t : Thaw) (i : Nat) : State × Bool :=
  let k := t.slot
  let n := regionField s k i 8 8
  let at_ := areaBase (moraineField s k 6 1 % 2) + regionField s k i 24 8
  let v := s.mem.readNat at_ n
  if poisoned s at_ n || sha3 n v ≠ BitVec.ofNat 256 (regionField s k i 32 32) then (s, false)
  else if regionField s k i 19 1 / 64 % 2 = 1 || n = 0 then (s, true)
  else
    let asid := regionField s k i 16 2
    match feWrite s s.sys.leader (asidFunc s asid) asid (regionField s k i 0 8) n v with
    | .error _ => (s, false)
    | .ok s => (s, true)
/-- DTIME is set, from the grandmaster's time arg 1 where it is locked (arg 0), and every drained region is restored. -/
def execThawDtimeLock (s : State) : Host.Outcome State Fault Refusal :=
  .next (match thawNow s with
  | some t =>
    if t.stage ≠ 1 then s
    else
      let k := t.slot
      let least := moraineField s k 16 8 + 1
      let locked : Bool := s.arg 0 = 1
      let s := s.modSys fun y => { y with dtime := if locked then Nat.max (s.arg 1) least else least, dtlock := locked, lease := (if locked then Nat.max (s.arg 1) least else least) + 10000000 }
      let r := (List.range (moraineField s k 36 2)).foldl (fun (acc : State × List Nat) i =>
        if regionField acc.1 k i 19 1 % 8 ≠ 0 then acc
        else let x := restoreRegion acc.1 t i; (x.1, if x.2 then acc.2 else acc.2 ++ [i])) (s, [])
      setThaw r.1 { t with stage := 2, failed := r.2 }
  | none => s)

/-- Number of the record of a context. -/
def recordOf (s : State) (k c : Nat) : Option Nat := (List.range (moraineField s k 38 2)).find? fun i => recordField s k i 256 2 = c
/-- May a context resume exactly. -/
def exactOk (s : State) (t : Thaw) (i : Nat) : Bool :=
  let k := t.slot
  let fl := recordField s k i 261 1
  bit fl 0 && !bit fl 1 && (List.range (moraineField s k 36 2)).all fun r =>
    regionField s k r 16 2 ≠ recordField s k i 258 2 || (regionField s k r 19 1 % 8 ≤ 1 && !t.failed.contains r)
/-- Outcomes of a context: 0 exact, 1 restart, 2 lost, 3 awaiting peers, 4 killed, 5 STEPSPLIT. -/
def decided (s : State) (t : Thaw) (c o : Nat) : State := setThaw s { t with decided := t.decided.filter (fun e => e.1 ≠ c) ++ [(c, o)] }
def loseCtx (s : State) (t : Thaw) (c : Nat) (x : Ctx) : State := decided { s with ctxs := s.ctxs.put c { x with st := .lost } } t c 2
/-- Bring back a context from its image, and its spill rings (spec/13 R268): each sequencer in the state it had before the freeze or a calving. -/
def resumeExact (s : State) (t : Thaw) (c : Nat) (x : Ctx) (v : SaveImage) : State :=
  let lift := fun (q : Seq) => match q.below with
    | some b => { q with st := b, below := none }
    | none => q
  let s := { s with ctxs := s.ctxs.put c { x with drift := { x.drift with bytes := [] } } }
  let s := if x.isTask then areaPut s x (x.lr 112 8) (x.lr 120 4) v.rings else s
  let s := if x.drift.recs = [] then s else physFill s (driftSlotAt c 0) 0x100000 0 x.drift.bytes
  let s := s.modSys fun y => { y with seenRelease := true }
  if x.saved.isSome then decided (storeSave (s.modCtx c fun x => { x with saved := some v.bare }) c v) t c 0
  else
    let s := restoreCtx s c v
    let s := x.cores.foldl (fun s g => loadCode s c g) s
    let s := v.seqs.foldl (fun s e => (rereadPorts (resumeFence s e.1) e.1).modSeq e.1 lift) s
    decided (sampleCtx s c) t c 0
/-- Release a gang launch again at its thaw entry, from its record; where another launch holds its cores, it stays granted
until they are free. One whose words cannot be written is lost. -/
def restart (s : State) (t : Thaw) (c s1 : Nat) (x : Ctx) : State :=
  match readImage s (launchCore s x.cores) x.asid (x.lr 0 8) with
  | .ok (some i) =>
    if i.thaw.isNone || x.isTask then loseCtx s t c x
    else
      let y : Ctx := { func := x.func, ring := x.ring, asid := x.asid, packet := x.packet, lrec := x.lrec, mask := x.mask, image := i, cls := x.cls
                       cores := x.cores, twin := x.twin, issued := true, late := x.late, st := .granted, ckptStep := x.ckptStep, buddy := x.buddy, regions := x.regions, again := some s1 }
      let s := { imageSeen s (launchCore s x.cores) x.asid (x.lr 0 8) with ctxs := s.ctxs.put c y }
      let words := prepare s c true
      if !words.2 then loseCtx words.1 t c x
      else decided (if launchFits s [] c then releaseLaunch s c (some s1) else s) t c 1
  | _ => loseCtx s t c x
/-- Modules of a launch. -/
def recordPeers (s : State) (k i : Nat) : List Nat := bitsOf 1024 (recordField s k i 280 128)
/-- What becomes of a context that waits for nobody. -/
def settleThaw (s : State) (t : Thaw) (i c : Nat) (x : Ctx) (v : Option SaveImage) : State :=
  let fl := recordField s t.slot i 261 1
  match exactOk s t i, v with
  | true, some v => resumeExact s t c x v
  | _, _ => if bit fl 3 && !bit fl 2 then restart s t c (recordField s t.slot i 264 4) x else loseCtx s t c x
/-- When every context is decided, CONSUMED is written, the module runs, and the physical function gets the thaw report:
the STAT of each region, 4 where its restore failed, and the outcome of each context. -/
def finishThaw (s : State) : State := match thawNow s with
  | some t =>
    let all := (List.range (moraineField s t.slot 38 2)).all fun i => t.decided.any fun e => e.1 = recordField s t.slot i 256 2 && e.2 ≠ 3
    if t.stage = 2 && all then
      let regions := (List.range (moraineField s t.slot 36 2)).map fun r => (r, if t.failed.contains r then 4 else regionField s t.slot r 19 1 % 8)
      let s := homeWrite s 0 (slotBase t.slot + 0x3FFFFFD0) 8 0 1
      let s := s.out (.thawReport s.sys.dtlock regions t.decided)
      setPower (s.modSys fun y => { y with thaw := none }) .run
    else s
  | none => s
/-- Context arg 0 of the moraine is decided; a fabric launch announces its rejoin and waits for its peers. With arg 1 = 1,
there is no context left and the thaw ends. -/
def execThawContextDecide (s : State) : Host.Outcome State Fault Refusal :=
  .next (match thawNow s with
  | some t =>
    let c := s.arg 0
    let k := t.slot
    if t.stage ≠ 2 then s
    else if s.arg 1 = 1 then finishThaw s
    else match recordOf s k c, s.sys.firn.find? (k * 65536 + c) with
      | some i, some (x, v) =>
        let others := (recordPeers s k i).filter (· ≠ s.sys.modid)
        let x := { x with asid := recordField s k i 258 2, lrec := recordField s k i 0 256 }
        if t.decided.any fun e => e.1 = c then s
        else if bit (recordField s k i 261 1) 1 then decided { s with ctxs := s.ctxs.put c { x with st := .killed } } t c 4
        else if !bit (asidEntry s x.asid) 0 || asidFunc s x.asid ≠ x.func then loseCtx s t c x
        else if others ≠ [] then
          let come := (s.sys.rejoins.filter fun e => e.1 = x.lr 152 8).map (·.2)
          decided (tellPeers { s with ctxs := s.ctxs.put c { x with st := .split, peers := come } } rejoinNotice (x.lr 152 8 + recordField s k i 264 4 * 2 ^ 64 + recordField s k i 268 4 * 2 ^ 96)) t c 3
        else settleThaw s t i c x v
      | _, _ => s
  | none => s)
/-- Write a checkpointed region's bytes, as the buddy's copy holds them. -/
def restoreCkpt (s : State) (x : Ctx) : List ((Nat × Nat × Nat) × Nat) → State
  | [] => s
  | (r, v) :: t => match feWrite s s.sys.leader x.func x.asid r.1 r.2.2 v with
    | .error _ => restoreCkpt s x t
    | .ok s => restoreCkpt s x t
/-- Every peer of the waiting context arg 0 has announced: it goes on, restarts together with them, or is split. The
further args hold the bytes of the buddy's copy, region by region. -/
def execFabricRejoin (s : State) : Host.Outcome State Fault Refusal :=
  .next (match thawNow s with
  | some t =>
    let c := s.arg 0
    let k := t.slot
    match recordOf s k c, s.sys.firn.find? (k * 65536 + c) with
    | some i, some (x, v) =>
      let peers := (s.ctx c).peers
      let others := (recordPeers s k i).filter (· ≠ s.sys.modid)
      let own := recordField s k i 264 4
      let steps := own :: (others.filterMap fun m => (peers.find? fun p => p.1 = m).map (·.2.1))
      let lo := steps.foldl Nat.min own
      let hi := steps.foldl Nat.max own
      let aboveOk := (own = lo || recordField s k i 268 4 = lo) && others.all fun m => (peers.find? fun p => p.1 = m).all fun p => p.2.1 = lo || p.2.2 = lo
      let x := { x with asid := recordField s k i 258 2, lrec := recordField s k i 0 256 }
      if !(t.decided.contains (c, 3)) || !others.all (fun m => peers.any fun p => p.1 = m) then s
      else if hi = lo then finishThaw (settleThaw s t i c x v)
      else if hi ≤ lo + 2 && aboveOk then
        let s := if own = lo then s else restoreCkpt s x (x.regions.zip (s.args.drop 1))
        finishThaw (if bit (recordField s k i 261 1) 3 then restart s t c lo x else loseCtx s t c x)
      else finishThaw (decided (s.out (.management 5 c)) t c 5)
    | _, _ => s
  | none => s)

/-! ### Checkpoints (spec/21 R414, R418) -/

/-- The most recently issued launch of a ring that is not complete. -/
def lastLaunch (s : State) (f r : Nat) : Option Nat :=
  ((sortBy (fun e : Nat × Ctx => e.2.issueNo) (List.filter (fun (e : Nat × Ctx) => e.2.issued && e.2.func = f && e.2.ring = r && ctxAlive s e.1) s.ctxs)).getLast?).map (·.1)
/-- Do the reads of a region list meet no calved die (spec/21 R402). -/
def regionsLive (s : State) (asid a : Nat) : Bool := feLive s s.sys.leader asid a 16 && match feRead s s.sys.leader asid a 16 with
  | .error _ => true
  | .ok h => 256 < h % 2 ^ 32 || feLive s s.sys.leader asid (a + 16) (24 * (h % 2 ^ 32))
/-- The entries of a region list. -/
def readRegions (s : State) (asid a : Nat) : Except XFault (Option (List (Nat × Nat × Nat))) := match feRead s s.sys.leader asid a 16 with
  | .error e => .error e
  | .ok h =>
    let n := h % 2 ^ 32
    if n = 0 || 256 < n || h / 2 ^ 32 ≠ 0 then .ok none
    else match feRead s s.sys.leader asid (a + 16) (24 * n) with
      | .error e => .error e
      | .ok v =>
        let l := (List.range n).map fun i => (at8 v (24 * i) 8, at8 v (24 * i + 8) 8, at8 v (24 * i + 16) 8)
        .ok (if l.all fun r => r.2.2 % 4096 = 0 then some l else none)
/-- A CKPT packet arms a checkpoint, or is refused where the ring has no launch out. -/
def execCkpt (s : State) : Host.Outcome State Fault Refusal :=
  .next (atHead s 8 fun f r p => match lastLaunch s f r with
    | none => refusePacket s f r 6
    | some c => if !regionsLive s (s.ctx c).asid (fld p 127 64) then s
      else match readRegions s (s.ctx c).asid (fld p 127 64) with
      | .error e => ringXFault s f r e
      | .ok none => refusePacket s f r 2
      | .ok (some l) => ((feSeen s s.sys.leader (s.ctx c).asid (fld p 127 64) (16 + 24 * l.length)).modCtx c fun x => { x with armed := some (fld p 143 128 % 1024, l, false) }).modRing f r fun x => { x with hold := some (.ckpt c) })
/-- Members of the module domain, each waiting in `step` with its releases performed. -/
def stepsIn (s : State) (c : Nat) : Bool :=
  let l := (s.ctx c).seqs.filter fun n => (s.seq n).ctx = some c && (s.seq n).dmr.getLsbD 2 && (s.seq n).st ≠ .retired
  l ≠ [] && l.all fun n => (s.seq n).st = .waiting && (s.seq n).wait = some .step && (s.seq n).order.all fun o => depsMet s n o.after
/-- The bytes of one region go to their copy on path X. -/
def copyRegion (s : State) (c : Nat) (r : Nat × Nat × Nat) : Except XFault State :=
  let x := s.ctx c
  let g := 128 * s.sys.leader
  match segs s g .shared x.asid .x { r := true } r.1 r.2.2, segs s g .shared x.asid .x { w := true } r.2.1 r.2.2 with
  | .error e, _ => .error e
  | _, .error e => .error e
  | .ok a, .ok b => match loadPoisoned s g .x a with
    | some va => .error { cause := .dataAbort, va := va }
    | none =>
      let v := (loadSegs s g .x (a.filter (!·.fab)) false).2
      .ok (putFar (writeAll s x.func b v) (4 * g) (ckptMark c) 0 b v)
/-- Do the regions of a checkpoint lie on no calved die (spec/11 R212). -/
def copyLive (s : State) (c : Nat) (l : List (Nat × Nat × Nat)) : Bool := l.all fun r =>
  let ok := fun (va : Nat) (n : Needs) => segsLive s (segsOk (segs s (128 * s.sys.leader) .shared (s.ctx c).asid .x n va r.2.2))
  ok r.1 { r := true } && ok r.2.1 { w := true }
def copyRegions (s : State) (c : Nat) : List (Nat × Nat × Nat) → Except XFault State
  | [] => .ok s
  | r :: t => match copyRegion s c r with
    | .error e => .error e
    | .ok s => copyRegions s c t
/-- At the launch's `step` the armed checkpoint of context arg 0 is copied. -/
def execCkptCopy (s : State) : Host.Outcome State Fault Refusal :=
  .next (let c := s.arg 0
  let x := s.ctx c
  match x.armed with
  | some (m, l, false) =>
    if x.st ≠ .released || !stepsIn s c || s.sys.away.contains m || !copyLive s c l then s
    else match copyRegions s c l with
      | .error e => ringXFault (s.modRing x.func x.ring fun y => { y with hold := none }) x.func x.ring e
      | .ok s => s.modCtx c fun x => { x with armed := some (m, l, true) }
  | _ => s)
/-- A sequencer's wait in `step` is over, in whatever state it is. -/
def endStep (q : Seq) : Seq :=
  let q := { q with saved := q.saved.map fun v => if v.wait = some .step then { v with wait := none } else v }
  let go := fun (x : SqState) => if x = .waiting then .running else x
  if q.wait = some .step then { q with wait := none, st := go q.st, prev := go q.prev, below := q.below.map go } else q
/-- Release the ring that a checkpoint holds. -/
def endCkpt (s : State) (c : Nat) : State :=
  let x := s.ctx c
  if (s.ring x.func x.ring).hold = some (.ckpt c) then passHead s x.func x.ring 1 else s
/-- The buddy has acknowledged every byte: the waiting `step`s complete. A launch that has ended needs no checkpoint. -/
def execCkptComplete (s : State) : Host.Outcome State Fault Refusal :=
  .next (let c := s.arg 0
  let x := s.ctx c
  match x.armed with
  | some (m, l, true) =>
    if s.sys.remote.any fun r => r.id = ckptMark c && r.answer.isNone then s
    else
    let s := dropRemote s (ckptMark c)
    let l' := x.seqs.filter fun n => (s.seq n).ctx = some c
    let s := s.modCtx c fun x => { x with armed := none, ckptStep := recordedStep s c, buddy := m, regions := l }
    let s := l'.foldl (fun s n => (settleSeq s n).modSeq n endStep) s
    let s := s.modCtx c fun x => { x with saved := x.saved.map fun v => { v with seqs := List.map (fun (e : Nat × Seq) => (e.1, endStep e.2)) v.seqs } }
    endCkpt s c
  | _ => if ctxAlive s c then s else endCkpt s c)

end Sys2Proof.Machine
end

