-- ==== Sys2Proof/Machine/Host.lean ====
section
/-! DEFINITION. The host port and the management port: registers, memory windows, interrupts, attestation, operating
points, the power-token market, cluster gating and thermal limits (spec/22 R419-R430, spec/19 R375, spec/18 R355, R356). -/
set_option linter.unusedVariables false
namespace Sys2Proof.Machine
open Sys2Proof

/-! ### Context commands through CTXCMD (spec/22 R420) -/

/-- A write of CTXCMD: a command while one is busy is ignored. -/
def ctxCmd (s : State) (f v : Nat) : State :=
  if (s.func f).cstat % 4 = 1 then s
  else match fld v 17 16 with
    | 1 => ctxResumeOp s f (fld v 15 0)
    | 2 => ctxKillOp s f (fld v 15 0)
    | 3 => ctxDumpOp s f (fld v 15 0)
    | _ => s

/-! ### MSI-X (spec/22 R421) -/

def unmask (s : State) (f v : Nat) : State :=
  let x := s.func f
  let s := s.modFunc f fun y => { y with msixMask := y.msixMask.filter (· ≠ v), msixPba := y.msixPba.filter (· ≠ v) }
  if x.msixPba.contains v then s.out (.msix f v) else s
/-- Vector arg 1 of function arg 0 is unmasked. -/
def execMsixUnmask (s : State) : Host.Outcome State Fault Refusal := .next (if hostOpen s then unmask s (s.arg 0) (s.arg 1) else s)
/-- A write of 8 bytes of the MSI-X table. -/
def writeMsix (s : State) (f off v : Nat) : State :=
  let k := off / 16
  let s := s.modFunc f fun y => { y with msixTab := y.msixTab.write (off / 8 * 8) 8 (v % 2 ^ 64) }
  if off % 16 < 8 then s
  else if bit v 32 then s.modFunc f fun y => { y with msixMask := if y.msixMask.contains k then y.msixMask else y.msixMask ++ [k] }
  else unmask s f k

/-! ### The drain list and quotas (spec/18 R356) -/

/-- The reserved bits of a drain entry's 32 bytes: they are held as written, and an entry with one set is skipped (spec/18
R357, log 98). -/
def drainReserved : Nat := (2 ^ 16 - 1) * 2 ^ 48 + (2 ^ 16 - 1) * 2 ^ 112 + 15 * 2 ^ 140 + (2 ^ 80 - 1) * 2 ^ 176
/-- The 32 bytes of a drain entry. -/
def drainNat (e : Drain) : Nat := e.rsv + layout [(0, 8, e.va), (8, 8, e.len), (16, 2, e.asid), (18, 1, e.pri), (19, 1, e.func + 64 * e.wc.toNat + 128 * e.v.toNat), (20, 2, e.ctx)]
def drainOf (x func : Nat) : Drain :=
  { va := fld x 47 0, len := fld x 111 64, asid := fld x 139 128, pri := fld x 151 144, v := bit x 159, wc := bit x 158, func := func, ctx := fld x 175 160
    rsv := x &&& drainReserved }
/-- A write of 8 bytes of entry `i` at byte offset `o`: by a tenant to its own entries, without FUNC; by the physical
function, FUNC alone. During a freeze a write has no effect (spec/18 R357). -/
def writeDrain (s : State) (f i o v : Nat) (pf : Bool) : State :=
  let e := s.sys.drain.getD i {}
  let x := setBytes (drainNat e) o 8 (v % 2 ^ 64)
  if s.sys.freeze.isSome then s
  else if pf then s.modSys fun y => { y with drain := y.drain.put i (if o = 16 then { e with func := fld x 157 152 } else e) }
  else if e.func ≠ f then s
  else s.modSys fun y => { y with drain := y.drain.put i (drainOf x e.func) }

/-! ### The mailbox and attestation (spec/22 R423) -/

def mboxCommand (s : State) (cmd : Nat) : State :=
  if s.sys.mboxStat = 1 then s else s.modSys fun y => { y with mboxCmd := cmd % 256, mboxStat := if cmd % 256 = 1 then 1 else 3 }
/-- CMD := arg 0, by the physical function. -/
def execMailboxAttest (s : State) : Host.Outcome State Fault Refusal := .next (if hostOpen s then mboxCommand s (s.arg 0) else s)
/-- The report: 128 signed bytes and the signature. -/
def attestReport (s : State) (nonce : BitVec 256) : Nat :=
  let slot := s.sys.bootSlot.getD 0
  let image := s.sys.slots[slot]?.getD (false, 0, 0)
  let body := layout [(0, 4, 0x5454415A), (4, 2, 1), (6, 2, s.sys.modid), (8, 4, Config.bootRomVersion.toNat), (12, 1, slot), (16, 4, image.2.1),
    (20, 32, (Config.firmwareDigest image.2.2).toNat), (52, 32, Config.fuseDigest.toNat), (84, 32, nonce.toNat), (116, 8, s.sys.dtime)]
  body + Config.sign (sha3 128 body) % 2 ^ 26472 * 2 ^ 1024
def reportLength : Nat := 3437
/-- The report is complete: it stands in the mailbox and vector 68 is raised. -/
def execAttestReportDone (s : State) : Host.Outcome State Fault Refusal :=
  .next (if s.sys.mboxStat ≠ 1 then s
  else (s.modSys fun y => { y with mboxStat := 2, mboxLen := reportLength, mboxReport := attestReport s y.mboxNonce }).msix 0 68)

/-! ### Registers (spec/00 R6, spec/22 R419, R420, spec/21 R397, spec/22 R428) -/

/-- LCFG: LASID by the function, MINCOV by the physical function (spec/22 R420). -/
def writeLcfg (s : State) (f v : Nat) (pf : Bool) : State :=
  s.modFunc f fun y => { y with lasid := fld v 11 0, mincov := if pf then Nat.min 3 (fld v 19 16) else y.mincov }
/-- An 8-byte write of the register block of function `f`. -/
def writeBlock (s : State) (f off v : Nat) : State :=
  if off < 0x1000 then
    let r := off / 0x40
    match off % 0x40 with
    | 0x00 => writeRbase s f r v
    | 0x08 => writeRctl s f r v
    | 0x10 => writeTail s f r v
    | 0x20 => clearRstat s f r v
    | _ => s
  else if off = 0x1000 then (if f = 0 then s.modFunc 0 fun y => { y with weight := fld v 7 0 } else s)
  else if off = 0x1008 then writeLcfg s f v (f = 0)
  else if off = 0x1010 then ctxCmd s f v
  else if off = 0x1018 then s.modFunc f fun y => { y with ctxda := fld v 47 12 * 4096 }
  else if 0x2000 ≤ off && off < 0x4000 then writeDrain s f ((off - 0x2000) / 32) (off % 32) v false
  else if 0x8000 ≤ off && off < 0x8000 + 16 * 69 then writeMsix s f (off - 0x8000) v
  else s
/-- An 8-byte read of the register block of function `f` (spec/14 R271, spec/22 R420, R421). FWEIGHT is the physical
function's alone; a weight of 0 reads as 1. -/
def readBlock (s : State) (f off : Nat) : Nat :=
  if off < 0x1000 then
    let x := s.ring f (off / 0x40)
    match off % 0x40 with
    | 0x00 => x.rbase
    | 0x08 => x.rctl
    | 0x10 => x.tail
    | 0x18 => x.head
    | 0x20 => x.rstat
    | 0x28 => x.rfaddr
    | 0x30 => x.issued
    | _ => 0
  else if off = 0x1000 then (if f = 0 then weightOf s 0 else 0)
  else if off = 0x1008 then (s.func f).lasid + (s.func f).mincov * 2 ^ 16
  else if off = 0x1018 then (s.func f).ctxda
  else if off = 0x1020 then (s.func f).cstat
  else if 0x2000 ≤ off && off < 0x4000 then
    let e := s.sys.drain.getD ((off - 0x2000) / 32) {}
    if e.func = f then at8 (drainNat e) (off % 32) 8 else 0
  else if 0x8000 ≤ off && off < 0x8000 + 16 * 69 then (s.func f).msixTab.readNat (off - 0x8000) 8
  else if 0x9000 ≤ off && off < 0x9010 then (((s.func f).msixPba.map fun v => 2 ^ v).foldl (· + ·) 0) / 2 ^ (8 * (off - 0x9000)) % 2 ^ 64
  else 0
/-- An 8-byte write of the physical function's control range. -/
def writeControl (s : State) (off v : Nat) : State :=
  if off = 0x1000 then writeCalvord s (fld v 13 8)
  else if 0x1100 ≤ off && off < 0x1120 then s.modDie ((off - 0x1100) / 8) fun y => { y with gatecfg := BitVec.ofNat 64 v }
  else if off = 0x2000 then mboxCommand s v
  else if 0x2020 ≤ off && off < 0x2040 then s.modSys fun y => { y with mboxNonce := BitVec.ofNat 256 (setBytes y.mboxNonce.toNat (off - 0x2020) 8 v) }
  else if 0x100000 ≤ off && off < 0x110000 then writeTable s 0 ((off - 0x100000) / 16) (setBytes (asidEntry s ((off - 0x100000) / 16)) (off % 16) 8 v)
  else if 0x110000 ≤ off && off < 0x110400 then writeTable s 1 ((off - 0x110000) / 16) (setBytes (funcEntry s ((off - 0x110000) / 16)) (off % 16) 8 v)
  else if 0x120000 ≤ off && off < 0x122000 then writeDrain s 0 ((off - 0x120000) / 32) (off % 32) v true
  else if 0x122000 ≤ off && off < 0x122200 then if s.sys.freeze.isSome then s else s.modSys fun y => { y with quotas := y.quotas.put ((off - 0x122000) / 8) (fld v 47 0) }
  else if 0x130000 ≤ off && off < 0x140000 then
    writeReplica s ((off - 0x130000) / 64) (setBytes (replicaNat (s.sys.replicas.getD ((off - 0x130000) / 64) {})) (off % 64) 8 v)
  else if 0x200000 ≤ off && off < 0x204000 then
    let f := (off - 0x200000) / 0x100
    match off % 0x100 with
    | 0x00 => s.modFunc f fun y => { y with weight := fld v 7 0 }
    | 0x08 => writeLcfg s f v true
    | _ => s
  else s
/-- The 16 bytes of an operating-point entry (spec/18 R355). -/
def pointOf (v : Nat) : OpPoint :=
  { v := bit v 55, func := fld v 53 48, kid := fld v 31 0, phase := fld v 47 32, points := (List.range 4).map fun d => fld v (64 + 4 * d + 3) (64 + 4 * d), ej := fld v 127 80 }
def pointNat (e : OpPoint) : Nat :=
  layout [(0, 4, e.kid), (4, 2, e.phase), (6, 1, e.func + 128 * e.v.toNat), (8, 2, ((List.range 4).map fun d => e.points.getD d 0 * 2 ^ (4 * d)).foldl (· + ·) 0), (10, 6, e.ej)]
/-- What function `f` reads of the entry of a key: a tenant only its own; zero where there is none (log 112). -/
def readPoint (s : State) (f key : Nat) : Nat :=
  match s.sys.ops.find? fun e => e.v && e.func = fld key 53 48 && e.kid = fld key 31 0 && e.phase = fld key 47 32 with
  | some e => if f = 0 || f = e.func then pointNat e else 0
  | none => 0
/-- A key is loaded into slot `k`: what was written under the slot's key before is now under another, which nothing names
(spec/17 R327, log 21). Slot 0 stands for no encryption and takes none (R323). -/
def loadKey (s : State) (k : Nat) : State :=
  if k = 0 then s
  else ({ s with keyOf := List.map (fun (e : Nat × Nat) => if e.2 = k then (e.1, 64 + s.sys.keyLoads) else e) s.keyOf } : State).modSys fun y => { y with keyLoads := y.keyLoads + 1 }
/-- Registers that firmware writes and that have no address: CWLIM of a core, DRPTH of a die, PREBUD of a sequencer, the
module id before any launch, a key, and an operating-point entry (spec/04 R74, R75, spec/17 R327, spec/18 R355). -/
def writeFirmware (s : State) (kind i v : Nat) : State := match kind with
  | 0 => s.modCore (i % 512) fun k => { k with cwlim := BitVec.ofNat 64 v }
  | 1 => s.modDie (i % 4) fun y => { y with drpth := BitVec.ofNat 64 v }
  | 2 => s.modSeq (i % 2048) fun q => { q with prebud := v % 2 ^ 64 }
  | 3 => if s.sys.seenRelease then s else s.modSys fun y => { y with modid := v % 1024 }
  | 5 => loadKey s (i % 64)
  | _ => s.modSys fun y => { y with ops := pointOf v :: (y.ops.filter fun e => !(e.func = fld v 53 48 && e.kid = fld v 31 0 && e.phase = fld v 47 32)).take 1023 }

/-- MPWR (spec/21 R397). -/
def mpwr (y : Sys) : Nat := y.vin % 65536 * 2 ^ 32 + y.charge * 2 ^ 16 + y.calvord * 2 ^ 8 + y.calvd * 2 ^ 4 + powerCode y.power % 8
/-- A performance counter of a core (spec/19 R375). -/
def perfRead (c : Core) (off : Nat) : Nat := match off with
  | 0x00 => c.cycle.toNat
  | 0x08 => c.perf.issue
  | 0x10 => c.frzcnt.toNat
  | 0x18 => c.perf.drpev
  | 0x20 => c.perf.drpcy
  | 0x28 => c.strikes.toNat
  | 0x30 => c.perf.mtxcy
  | 0x38 => c.perf.vecsl
  | 0x40 => c.perf.l1hit
  | 0x48 => c.perf.l1miss
  | 0x50 => c.perf.tlbmiss
  | 0x58 => c.perf.waitsq
  | _ => 0
/-- An 8-byte read of the control range. -/
def readControl (s : State) (off : Nat) : Nat :=
  if off = 0x1000 then mpwr s.sys
  else if 0x1100 ≤ off && off < 0x1120 then (s.die ((off - 0x1100) / 8)).gatecfg.toNat
  else if off = 0x2000 then s.sys.mboxCmd + s.sys.mboxStat * 2 ^ 32
  else if off = 0x2008 then s.sys.mboxLen
  else if 0x2020 ≤ off && off < 0x2040 then at8 s.sys.mboxNonce.toNat (off - 0x2020) 8
  else if 0x3000 ≤ off && off < 0x4000 then at8 s.sys.mboxReport (off - 0x3000) 8
  else if 0x100000 ≤ off && off < 0x110000 then at8 (asidEntry s ((off - 0x100000) / 16)) (off % 16) 8
  else if 0x110000 ≤ off && off < 0x110400 then at8 (funcEntry s ((off - 0x110000) / 16)) (off % 16) 8
  else if 0x120000 ≤ off && off < 0x122000 then at8 (drainNat (s.sys.drain.getD ((off - 0x120000) / 32) {})) (off % 32) 8
  else if 0x122000 ≤ off && off < 0x122200 then s.sys.quotas.getD ((off - 0x122000) / 8) 0
  else if 0x130000 ≤ off && off < 0x140000 then at8 (replicaNat (s.sys.replicas.getD ((off - 0x130000) / 64) {})) (off % 64) 8
  else if 0x1000000 ≤ off && off < 0x1020000 then perfRead (s.core ((off - 0x1000000) / 0x100)) (off % 0x100) % 2 ^ 64
  else if 0x200000 ≤ off && off < 0x204000 then
    let f := (off - 0x200000) / 0x100
    match off % 0x100 with
    | 0x00 => weightOf s f
    | 0x08 => (s.func f).lasid + (s.func f).mincov * 2 ^ 16
    | _ => 0
  else 0

/-- The firmware core reads control register `r` of sequencer `n` (spec/04 R75). Of a spliced sequencer's two FMT banks it is
given the producer's (DESIGN CHOICE, log 111). -/
def readFirmware (s : State) (n r : Nat) : Nat := cregOf s n (s.seq n) (s.seq n).bank.fmt (s.seq n).pc r

/-! ### Accesses of registers (spec/22 R419, R420, R423) -/

/-- Registers whose writes act, or clear: all that they take lies in their low bytes, and a write of the others does
nothing. -/
def blockActs (off : Nat) : Bool := (off < 0x1000 && (off % 0x40 = 0x08 || off % 0x40 = 0x10 || off % 0x40 = 0x20)) || off = 0x1010
def controlActs (off : Nat) : Bool := off = 0x1000 || off = 0x2000
/-- The 8-byte registers that a range of bytes meets: offset, first byte there, how many, and where they lie in the data. -/
def registerParts : Nat → Nat → Nat → Nat → List (Nat × Nat × Nat × Nat)
  | 0, _, _, _ => []
  | fuel + 1, off, n, at_ => if n = 0 then [] else
    let k := Nat.min n (8 - off % 8)
    (off / 8 * 8, off % 8, k, at_) :: registerParts fuel (off + k) (n - k) (at_ + k)
def partsAt (off n : Nat) : List (Nat × Nat × Nat × Nat) := registerParts (n / 8 + 2) off n 0
/-- Bytes of a space of registers, which are read and written by eights. -/
def getRegs (read : Nat → Nat) (off n : Nat) : Nat := ((partsAt off n).map fun p => at8 (read p.1) p.2.1 p.2.2.1 * 2 ^ (8 * p.2.2.2)).foldl (· + ·) 0
def putRegs (read : State → Nat → Nat) (write : State → Nat → Nat → State) (acts : Nat → Bool) (s : State) (off n v : Nat) : State :=
  (partsAt off n).foldl (fun s p =>
    let x := at8 v p.2.2.2 p.2.2.1
    if acts p.1 then (if p.2.1 = 0 then write s p.1 x else s) else write s p.1 (setBytes (read s p.1) p.2.1 p.2.2.1 x)) s
def getControl (s : State) (off n : Nat) : Nat := getRegs (readControl s) off n
def putControl (s : State) (off n v : Nat) : State := putRegs readControl writeControl controlActs s off n v
def getBlock (s : State) (f off n : Nat) : Nat := getRegs (readBlock s f) off n
def putBlock (s : State) (f off n v : Nat) : State := putRegs (fun s => readBlock s f) (fun s => writeBlock s f) blockActs s off n v
/-- A register access: space arg 0 (a function's block, 64 the control range, 65 firmware, 66 the operating points), offset
arg 1, of 4 bytes where arg 5 = 4, else of 8; a write of arg 2, or with arg 4 = 1 a read. For firmware the offset is the
kind of a write or the number of a control register, and arg 3 names the unit; for the operating points it is a key, and
arg 3 the function that reads (spec/18 R355). -/
def execRegisterWrite (s : State) : Host.Outcome State Fault Refusal :=
  .next (let n := if s.arg 5 = 4 then 4 else 8
  let off := s.arg 1 / n * n
  if !hostOpen s then s
  else if s.arg 4 = 1 then s.out (.reply true (
    if s.arg 0 < 64 then getBlock s (s.arg 0) off n
    else if s.arg 0 = 64 then getControl s off n
    else if s.arg 0 = 65 then readFirmware s (s.arg 3 % 2048) (s.arg 1)
    else readPoint s (s.arg 3) (s.arg 1)))
  else if s.arg 0 < 64 then putBlock s (s.arg 0) off n (s.arg 2)
  else if s.arg 0 = 64 then putControl s off n (s.arg 2)
  else if s.arg 0 = 65 then writeFirmware s (s.arg 1) (s.arg 3) (s.arg 2)
  else s)

/-! ### Memory windows and register space (spec/22 R419, spec/09 R177, spec/21 R402) -/

/-- How a host access ends: done with data, aborted, calved. -/
def hostDone (s : State) (v : Nat) : State := s.out (.reply true v)
def hostAbort (s : State) : State := s.out (.reply false 0)
def hostCalved (s : State) : State := s.out (.reply false 1)
/-- Function arg 0 accesses arg 2 bytes at offset arg 1 of its memory window; arg 3 the data, arg 4 = 1 for a write. -/
def execHostWindowAccess (s : State) : Host.Outcome State Fault Refusal :=
  .next (let f := s.arg 0
  let va := s.arg 1
  let n := s.arg 2
  let write : Bool := s.arg 4 = 1
  if !hostOpen s || 2 ^ 36 < va + n then hostAbort s
  else match feSegs s s.sys.leader (lasidOf s f) { r := !write, w := write } va n with
    | .error _ => hostAbort s
    | .ok l =>
      if !segsLive s l then hostCalved s
      else match l with
        | x :: _ =>
          if regionOf (localPa x.pa) = .control && !x.fab && f ≠ 0 then hostAbort s
          else if regionOf (localPa x.pa) = .control && !x.fab then
            (let off := localPa x.pa - 0x050000000000
            let s := feSeen s s.sys.leader (lasidOf s f) va n
            if write then hostDone (putControl s off n (s.arg 3)) 0 else hostDone s (getControl s off n))
          else if write then match feWrite s s.sys.leader f (lasidOf s f) va n (s.arg 3) with
            | .error _ => hostAbort s
            | .ok s => hostDone s 0
          else match feRead s s.sys.leader (lasidOf s f) va n with
            | .error _ => hostAbort s
            | .ok v => hostDone (feSeen s s.sys.leader (lasidOf s f) va n) v
        | [] => hostDone s 0)
/-- An F access to register space: address arg 0, bytes arg 1, data arg 2, arg 3 = 1 for a write. -/
def execHostRegspaceAccess (s : State) : Host.Outcome State Fault Refusal :=
  .next (let pa := s.arg 0
  let n := s.arg 1
  let x : Seg := { va := pa, pa := pa, len := n, at_ := 0 }
  match regionOf pa with
  | .regspace g =>
    if !hostOpen s || regBusy s [x] || 0x030020000000 < pa + n then hostAbort s
    else if !((regParts (n / 0x100000 + 2) pa n 0).all fun p => dieAnswers s (dieOf p.1)) then hostCalved s
    else if s.arg 3 = 1 then hostDone (homeWrite s 0 pa n 0 (s.arg 2)) 0
    else if poisoned s pa n then hostAbort s
    else hostDone s (physRead s pa n 0)
  | _ => hostAbort s)

/-! ### Management port (spec/22 R424, R423) -/

/-- A message whose PEC fails is dropped. -/
def withPec (s : State) (go : State → State) : State := if s.arg 0 = 1 then go s else s
def execMctpSetEndpointId (s : State) : Host.Outcome State Fault Refusal :=
  .next (withPec s fun s => (s.modSys fun y => { y with eid := s.arg 1 % 256 }).out (.management 0x101 (s.arg 1 % 256)))
def execMctpGetEndpointId (s : State) : Host.Outcome State Fault Refusal := .next (withPec s fun s => s.out (.management 0x102 s.sys.eid))
/-- DSP0236 1.3. -/
def execMctpGetVersionSupport (s : State) : Host.Outcome State Fault Refusal := .next (withPec s fun s => s.out (.management 0x104 0x0103))
/-- Message types: MCTP control and the vendor-defined type. -/
def execMctpGetMessageTypeSupport (s : State) : Host.Outcome State Fault Refusal := .next (withPec s fun s => s.out (.management 0x105 0x7E00))
/-- Every other control command is answered with an unsupported-command completion. -/
def execMctpUnsupportedCommand (s : State) : Host.Outcome State Fault Refusal := .next (withPec s fun s => s.out (.management 0x1FF (s.arg 1)))
/-- A request with its nonce in arg 1; the response carries the report. -/
def execMgmtAttestationRequest (s : State) : Host.Outcome State Fault Refusal :=
  .next (withPec s fun s => s.out (.management 0x200 (attestReport s (BitVec.ofNat 256 (s.arg 1)))))
/-- Every 1 ms the report takes the module's values, and from the sensors each die's power (args 0 to 3) and the coolant
inlet and outlet temperature (args 4, 5). -/
def execMgmtReportRefresh (s : State) : Host.Outcome State Fault Refusal :=
  .next (let dies := (List.range 4).map fun d => [(s.die d).temp, s.arg d, (s.die d).point]
  s.modSys fun y => { y with mgmt := [y.vin, y.charge, powerCode y.power] ++ dies.flatten ++ [s.arg 4, s.arg 5, y.dtlock.toNat, y.bootfail.toNat] })

/-! ### Operating points (spec/22 R426, R429, spec/01 R21) -/

/-- Every running sequencer of launch arg 0 on die arg 1 holds one PHASE value, another than that of its interval there:
that one ends, and the leader applies the entry of the new key. -/
def execOpPointApply (s : State) : Host.Outcome State Fault Refusal :=
  .next (let c := s.arg 0
  let d := s.arg 1 % 4
  let x := s.ctx c
  match x.seqs.filter fun n => dieOf (coreOf n) = d && (s.seq n).ctx = some c && (s.seq n).st = .running with
  | [] => s
  | n :: l =>
    let ph := (s.seq n).phase
    if x.st ≠ .released || !l.all (fun m => (s.seq m).phase = ph) || !leaderOk s || phaseOn x d = some ph then s
    else settleDies (beginOn (endOn s c d) c d ph) [d])

/-! ### Power-token market (spec/22 R427) -/

/-- Weight of a cluster by the highest class of a context on it. -/
def clusterWeight (s : State) (cl : Nat) : Nat :=
  match ((ctxsOn s cl).map fun c => (s.ctx c).cls) with
  | [] => 1
  | l => match l.foldl Nat.min 3 with
    | 0 => 8 | 1 => 4 | 2 => 2 | _ => 1
/-- Clusters whose full demand is granted, in descending weight. -/
def grantTokens (demand : Nat → Nat) : Nat → List Nat → List Nat
  | _, [] => []
  | left, c :: t => if demand c ≤ left then c :: grantTokens demand (left - demand c) t else grantTokens demand left t
/-- The market clears: arg 0 is the other measured draw in W, args 1 to 16 the clusters' demands. -/
def execPowerTokenMarket (s : State) : Host.Outcome State Fault Refusal :=
  .next (if !(s.sys.power = .thaw || (s.sys.power = .run && !s.sys.seenRelease)) || !leaderOk s then s
  else
    let demand := fun (c : Nat) => s.arg (1 + c)
    let s := (List.range 16).foldl (fun s c => s.modCluster c fun k => { k with bid := demand c }) s
    let order := sortBy (fun c => (8 - clusterWeight s c) * 16 + c) (List.range 16)
    let won := grantTokens demand (3000 - s.arg 0) order
    ([0, 1, 2, 3] : List Nat).foldl (fun s d =>
      setPoint s d (if fixedDie s d || (List.range 4).all fun i => won.contains (4 * d + i) then Nat.min (requestedPoint s d) (cappedPoint s d) else 0)) s)

/-! ### Cluster gating (spec/22 R428) -/

/-- The live windows of a cluster's cores: core, base, size, and where each lies in the spill area. -/
def gateWindows (s : State) (cl : Nat) : List (Nat × Nat × Nat × Nat) :=
  let l := ((List.range 32).map fun i => (windowsOf s (32 * cl + i)).map fun w => (32 * cl + i, w.1, w.2)).flatten
  (l.foldl (fun (acc : List (Nat × Nat × Nat × Nat) × Nat) w => (acc.1 ++ [(w.1, w.2.1, w.2.2, acc.2)], acc.2 + w.2.2)) ([], 0)).1
def gateBytes (s : State) (cl : Nat) : Nat := ((gateWindows s cl).map fun w => w.2.2.1).foldl (· + ·) 0
def gateArea (s : State) (cl : Nat) : Nat := fld (s.die (cl / 4)).gatecfg.toNat 47 0
def gateSize (s : State) (cl : Nat) : Nat := fld (s.die (cl / 4)).gatecfg.toNat 63 48 * 0x100000
/-- What the other gated clusters of the die hold of the area: address and size. -/
def gateTaken (s : State) (cl : Nat) : List (Nat × Nat) :=
  ((([0, 1, 2, 3] : List Nat).filter fun i => i ≠ cl % 4).map fun i => (s.cluster (cl / 4 * 4 + i)).parked.map fun w => (w.2.2.2, w.2.2.1)).flatten
/-- The lowest place of the area that holds the cluster's live windows (log 86). -/
def gatePlace (s : State) (cl : Nat) : Option Nat :=
  let taken := gateTaken s cl
  (sortBy id (gateArea s cl :: taken.map fun w => w.1 + w.2)).find? fun a =>
    gateArea s cl ≤ a && a + gateBytes s cl ≤ gateArea s cl + gateSize s cl && taken.all fun w => !meet a (gateBytes s cl) w.1 w.2
/-- Sequencers of a cluster. -/
def seqsOfCluster (cl : Nat) : List Nat := (List.range 128).map (128 * cl + ·)
/-- Cluster arg 0 has had no running sequencer for 50 µs: its windows are spilled and it is gated. -/
def execClusterGate (s : State) : Host.Outcome State Fault Refusal :=
  .next (let cl := s.arg 0
  let k := s.cluster cl
  let quiet := (seqsOfCluster cl).all fun n => (s.seq n).st ≠ .running && (s.seq n).acc = [] && !(isDet (s.ctxOf n) && (s.seq n).st.live)
  match gatePlace s cl with
  | none => s
  | some a =>
    if 16 ≤ cl || k.gated || k.quiet < 50000 || !quiet || gateSize s cl = 0 then s
    else
      let s := (gateWindows s cl).foldl (fun s w =>
        movedFrom (physWrite s (a + w.2.2.2) w.2.2.1 0 ((s.core w.1).regs.readNat w.2.1 w.2.2.1)) (State.regPa w.1 w.2.1) (a + w.2.2.2) w.2.2.1) s
      s.modCluster cl fun k => { k with gated := true, parked := (gateWindows s cl).map fun w => (w.1, w.2.1, w.2.2.1, a + w.2.2.2) })
/-- Cluster arg 0 wakes: its windows are refilled; a scheduler parity failure (arg 1 = 0) is retention loss. -/
def execClusterUngate (s : State) : Host.Outcome State Fault Refusal :=
  .next (let cl := s.arg 0
  if !(s.cluster cl).gated then s
  else
    let s := (s.cluster cl).parked.foldl (fun s w =>
      movedFrom (s.modCore w.1 fun c => { c with regs := c.regs.write w.2.1 w.2.2.1 (s.mem.readNat w.2.2.2 w.2.2.1) }) w.2.2.2 (State.regPa w.1 w.2.1) w.2.2.1) s
    let s := s.modCluster cl fun k => { k with gated := false, quiet := 0, parked := [] }
    if s.arg 1 = 1 then s else loseCluster s cl)

/-! ### Thermal limits (spec/22 R429) -/

/-- The level after a sample, in tenths of a degree. -/
def levelAfter (level t : Nat) : Nat :=
  if 1050 ≤ t then 2
  else if level = 2 then (if 1010 < t then 2 else if t ≤ 910 then 0 else 1)
  else if 950 ≤ t then 1
  else if level = 1 && 910 < t then 1
  else 0
/-- Die arg 0 is sampled: arg 1 in tenths of a degree. -/
def execThermalSample (s : State) : Host.Outcome State Fault Refusal :=
  .next (let d := s.arg 0 % 4
  let t := s.arg 1
  let s := s.modDie d fun y => { y with temp := t }
  let p := s.sys.power
  if 1150 ≤ t && (p = .run || p = .warn || p = .calved || p = .thaw) then enterFreeze s
  else
    let y := s.die d
    let next := levelAfter y.level t
    let soon := match y.levelAt with
      | some a => decide (s.sys.dtime < a + 1000000)
      | none => false
    if next = y.level || soon then s
    else settlePoints (s.modDie d fun y => { y with level := next, levelAt := some s.sys.dtime }))

end Sys2Proof.Machine
end

