-- ==== Sys2Proof/Machine/Prefix.lean ====
section
/-! DEFINITION. The two prefixes (spec/06 R96, R97). -/
set_option linter.unusedVariables false
namespace Sys2Proof.Machine
open Sys2Proof

/-- Gives the MEM slot encoded in the bundle its scope (spec/02 R37, spec/06 R96). -/
def execScope (l : Scope) (s : State) : Host.Outcome State Fault Refusal :=
  .next (slot s (fun _ => {}) fun _ s => s.modIssue fun k => { k with memScope := l })

/-- Extends the immediate of the slot of the class it names (spec/02 R34, spec/06 R97). -/
def execImx (cls : BitVec 3) (ext : BitVec 17) (s : State) : Host.Outcome State Fault Refusal :=
  .next (slot s (fun _ => {}) fun _ s => s.modIssue fun k => { k with imx := some (cls, ext) })

end Sys2Proof.Machine
end

