-- ==== Sys2Proof/Machine/Scalar.lean ====
section
/-! DEFINITION. Scalar integer instructions (spec/06 R115-R120) and the time and cycle reads (spec/19 R369). -/
set_option linter.unusedVariables false
namespace Sys2Proof.Machine
open Sys2Proof

/-! ### Integer functions of spec/06 R115-R118 -/

def boolWord (p : Bool) : Word := if p then 1 else 0
/-- Bits [127:64] of the signed product. -/
def mulHigh (x y : Word) : Word := BitVec.ofInt 64 (x.toInt * y.toInt / 2 ^ 64)
/-- Bits [127:64] of the unsigned product. -/
def mulHighZ (x y : Word) : Word := BitVec.ofNat 64 (x.toNat * y.toNat / 2 ^ 64)
/-- Signed quotient, truncated toward zero; a zero divisor gives -1 (spec/06 R116). -/
def divS (x y : Word) : Word := if y = 0 then BitVec.allOnes 64 else BitVec.ofInt 64 (x.toInt.tdiv y.toInt)
def divZ (x y : Word) : Word := if y = 0 then BitVec.allOnes 64 else BitVec.ofNat 64 (x.toNat / y.toNat)
/-- Signed remainder, with the sign of x; a zero divisor gives x. -/
def remS (x y : Word) : Word := if y = 0 then x else BitVec.ofInt 64 (x.toInt.tmod y.toInt)
def remZ (x y : Word) : Word := if y = 0 then x else BitVec.ofNat 64 (x.toNat % y.toNat)
def shiftL (x y : Word) : Word := x <<< (y.toNat % 64)
def shiftR (x y : Word) : Word := x >>> (y.toNat % 64)
def shiftA (x y : Word) : Word := x.sshiftRight (y.toNat % 64)
def leadingZeros (x : Word) : Nat := ((List.range 64).takeWhile fun k => !x.getLsbD (63 - k)).length
def trailingZeros (x : Word) : Nat := ((List.range 64).takeWhile fun k => !x.getLsbD k).length
def oneBits (x : Word) : Nat := ((List.range 64).filter fun k => x.getLsbD k).length
def fieldPos (y : Word) : Nat := fld y.toNat 5 0
def fieldLen (y : Word) : Nat := fld y.toNat 13 8 + 1
/-- Extract a bit field (spec/06 R118). -/
def bitFieldGet (signed : Bool) (x y : Word) : Word :=
  let have_ := Nat.min (fieldLen y) (64 - fieldPos y)
  let f := x.toNat / 2 ^ fieldPos y % 2 ^ fieldLen y
  BitVec.ofNat 64 (if signed && f / 2 ^ (have_ - 1) % 2 = 1 then f + (2 ^ 64 - 2 ^ have_) else f)
/-- Insert a bit field into `old` (spec/06 R118). -/
def bitFieldPut (old x y : Word) : Word :=
  let m := BitVec.ofNat 64 ((2 ^ fieldLen y - 1) * 2 ^ fieldPos y)
  (old &&& ~~~ m) ||| ((x <<< fieldPos y) &&& m)

/-! ### Forms -/

/-- s[d] := f(s[a], s[b], old s[d]), everything read before the bundle (spec/06 R115, spec/02 R29). `old`: the
instruction reads s[d]. -/
def scalarRRR (s : State) (d a b : Reg) (f : Word → Word → Word → Word) (old : Bool := false) : State :=
  slot s (fun _ => { names := snames [d, a, b], reads := snames (if old then [d, a, b] else [a, b]) }) fun k s => s.ws k d (f (k.rs a) (k.rs b) (k.rs d))
/-- s[d] := f(s[a]). -/
def scalarRR (s : State) (d a : Reg) (f : Word → Word) : State :=
  slot s (fun _ => { names := snames [d, a], reads := snames [a] }) fun k s => s.ws k d (f (k.rs a))
/-- s[d] := f(s[a], imm) with the immediate as the bundle extends it (spec/06 R119). -/
def scalarRRI (s : State) (d a : Reg) (imm : Issue → Word) (f : Word → Word → Word) : State :=
  slot s (fun _ => { names := snames [d, a], reads := snames [a] }) fun k s => s.ws k d (f (k.rs a) (imm k))

def execAdd (d a b : Reg) (s : State) : Host.Outcome State Fault Refusal := .next (scalarRRR s d a b fun x y _ => x + y)
def execSub (d a b : Reg) (s : State) : Host.Outcome State Fault Refusal := .next (scalarRRR s d a b fun x y _ => x - y)
def execMul (d a b : Reg) (s : State) : Host.Outcome State Fault Refusal := .next (scalarRRR s d a b fun x y _ => x * y)
def execMulh (d a b : Reg) (s : State) : Host.Outcome State Fault Refusal := .next (scalarRRR s d a b fun x y _ => mulHigh x y)
def execMulhz (d a b : Reg) (s : State) : Host.Outcome State Fault Refusal := .next (scalarRRR s d a b fun x y _ => mulHighZ x y)
def execDiv (d a b : Reg) (s : State) : Host.Outcome State Fault Refusal := .next (scalarRRR s d a b fun x y _ => divS x y)
def execDivz (d a b : Reg) (s : State) : Host.Outcome State Fault Refusal := .next (scalarRRR s d a b fun x y _ => divZ x y)
def execRem (d a b : Reg) (s : State) : Host.Outcome State Fault Refusal := .next (scalarRRR s d a b fun x y _ => remS x y)
def execRemz (d a b : Reg) (s : State) : Host.Outcome State Fault Refusal := .next (scalarRRR s d a b fun x y _ => remZ x y)
def execAnd (d a b : Reg) (s : State) : Host.Outcome State Fault Refusal := .next (scalarRRR s d a b fun x y _ => x &&& y)
def execOr (d a b : Reg) (s : State) : Host.Outcome State Fault Refusal := .next (scalarRRR s d a b fun x y _ => x ||| y)
def execXor (d a b : Reg) (s : State) : Host.Outcome State Fault Refusal := .next (scalarRRR s d a b fun x y _ => x ^^^ y)
def execAndn (d a b : Reg) (s : State) : Host.Outcome State Fault Refusal := .next (scalarRRR s d a b fun x y _ => x &&& ~~~ y)
def execShl (d a b : Reg) (s : State) : Host.Outcome State Fault Refusal := .next (scalarRRR s d a b fun x y _ => shiftL x y)
def execShr (d a b : Reg) (s : State) : Host.Outcome State Fault Refusal := .next (scalarRRR s d a b fun x y _ => shiftR x y)
def execSra (d a b : Reg) (s : State) : Host.Outcome State Fault Refusal := .next (scalarRRR s d a b fun x y _ => shiftA x y)
def execSlt (d a b : Reg) (s : State) : Host.Outcome State Fault Refusal := .next (scalarRRR s d a b fun x y _ => boolWord (x.slt y))
def execSltz (d a b : Reg) (s : State) : Host.Outcome State Fault Refusal := .next (scalarRRR s d a b fun x y _ => boolWord (x.ult y))
def execSeq (d a b : Reg) (s : State) : Host.Outcome State Fault Refusal := .next (scalarRRR s d a b fun x y _ => boolWord (x == y))
def execMin (d a b : Reg) (s : State) : Host.Outcome State Fault Refusal := .next (scalarRRR s d a b fun x y _ => if y.slt x then y else x)
def execMax (d a b : Reg) (s : State) : Host.Outcome State Fault Refusal := .next (scalarRRR s d a b fun x y _ => if x.slt y then y else x)
def execMinz (d a b : Reg) (s : State) : Host.Outcome State Fault Refusal := .next (scalarRRR s d a b fun x y _ => if y.ult x then y else x)
def execMaxz (d a b : Reg) (s : State) : Host.Outcome State Fault Refusal := .next (scalarRRR s d a b fun x y _ => if x.ult y then y else x)
/-- The condition is the old s[d] (spec/06 R117). -/
def execSel (d a b : Reg) (s : State) : Host.Outcome State Fault Refusal :=
  .next (scalarRRR s d a b (fun x y old => if old = 0 then y else x) true)
def execClz (d a : Reg) (s : State) : Host.Outcome State Fault Refusal := .next (scalarRR s d a fun x => BitVec.ofNat 64 (leadingZeros x))
def execCtz (d a : Reg) (s : State) : Host.Outcome State Fault Refusal := .next (scalarRR s d a fun x => BitVec.ofNat 64 (trailingZeros x))
def execPopc (d a : Reg) (s : State) : Host.Outcome State Fault Refusal := .next (scalarRR s d a fun x => BitVec.ofNat 64 (oneBits x))
def execBfx (d a b : Reg) (x : Bool) (s : State) : Host.Outcome State Fault Refusal :=
  .next (scalarRRR s d a b fun u v _ => bitFieldGet x u v)
def execBfi (d a b : Reg) (s : State) : Host.Outcome State Fault Refusal :=
  .next (scalarRRR s d a b (fun x y old => bitFieldPut old x y) true)
def execLea (d a b : Reg) (m : BitVec 2) (s : State) : Host.Outcome State Fault Refusal :=
  .next (scalarRRR s d a b fun x y _ => x + (y <<< m.toNat))

def execAddi (d a : Reg) (imm : BitVec 8) (s : State) : Host.Outcome State Fault Refusal :=
  .next (scalarRRI s d a (fun k => immS k 8 imm.toNat) fun x y => x + y)
def execAndi (d a : Reg) (imm : BitVec 8) (s : State) : Host.Outcome State Fault Refusal :=
  .next (scalarRRI s d a (fun k => immS k 8 imm.toNat) fun x y => x &&& y)
def execOri (d a : Reg) (imm : BitVec 8) (s : State) : Host.Outcome State Fault Refusal :=
  .next (scalarRRI s d a (fun k => immZ k 8 imm.toNat) fun x y => x ||| y)
def execXori (d a : Reg) (imm : BitVec 8) (s : State) : Host.Outcome State Fault Refusal :=
  .next (scalarRRI s d a (fun k => immZ k 8 imm.toNat) fun x y => x ^^^ y)
def execShli (d a : Reg) (imm : BitVec 8) (s : State) : Host.Outcome State Fault Refusal :=
  .next (scalarRRI s d a (fun k => immZ k 8 imm.toNat) shiftL)
def execShri (d a : Reg) (imm : BitVec 8) (s : State) : Host.Outcome State Fault Refusal :=
  .next (scalarRRI s d a (fun k => immZ k 8 imm.toNat) shiftR)
def execSrai (d a : Reg) (imm : BitVec 8) (s : State) : Host.Outcome State Fault Refusal :=
  .next (scalarRRI s d a (fun k => immZ k 8 imm.toNat) shiftA)
def execSlti (d a : Reg) (imm : BitVec 8) (s : State) : Host.Outcome State Fault Refusal :=
  .next (scalarRRI s d a (fun k => immS k 8 imm.toNat) fun x y => boolWord (x.slt y))
def execLi (d : Reg) (imm : BitVec 14) (s : State) : Host.Outcome State Fault Refusal :=
  .next (slot s (fun _ => { names := snames [d] }) fun k s => s.ws k d (immS k 14 imm.toNat))
def execLih (d : Reg) (imm : BitVec 14) (s : State) : Host.Outcome State Fault Refusal :=
  .next (slot s (fun _ => { names := snames [d], reads := snames [d] }) fun k s => s.ws k d ((k.rs d <<< 31) ||| immZ k 14 imm.toNat))
/-- DTIME at the cycle of issue (spec/19 R369). -/
def execTnow (d : Reg) (s : State) : Host.Outcome State Fault Refusal :=
  .next (slot s (fun _ => { names := snames [d] }) fun k s => s.ws k d (BitVec.ofNat 64 s.sys.dtime))
/-- The cycles the core has run before this one (spec/19 R369). -/
def execCyc (d : Reg) (s : State) : Host.Outcome State Fault Refusal :=
  .next (slot s (fun _ => { names := snames [d] }) fun k s => s.ws k d (s.core (coreOf k.n)).cycle)

end Sys2Proof.Machine
end

