-- ==== Sys2Proof/Machine/ScalarFloat.lean ====
section
/-! DEFINITION. Scalar floating-point instructions (spec/06 R121-R124). -/
set_option linter.unusedVariables false
namespace Sys2Proof.Machine
open Sys2Proof

/-- The format m selects: f32 or f64. -/
def scalarFmt (dbl : Bool) : Fmt := if dbl then .f64 else .f32
/-- Bits of a scalar that hold an operand of a format. -/
def lowBits (f : Fmt) (x : Word) : Nat := x.toNat % 2 ^ Fp.width f

/-- s[d] := g(rounding mode, s[a], s[b], old s[d]) on patterns of the format, raising the flags; an f32
result zeroes the bits above (spec/06 R121). -/
def floatRRR (s : State) (d a b : Reg) (dbl : Bool) (g : Fmt → Nat → Nat → Nat → Nat → Nat × Nat) (old : Bool := false) : State :=
  slot s (fun _ => { names := snames [d, a, b], reads := snames (if old then [d, a, b] else [a, b]) }) fun k s =>
    let f := scalarFmt dbl
    let r := g f (fmtRM k.fmt) (lowBits f (k.rs a)) (lowBits f (k.rs b)) (lowBits f (k.rs d))
    (s.ws k d (BitVec.ofNat 64 r.1)).flag r.2

def execFadd (d a b : Reg) (dbl : Bool) (s : State) : Host.Outcome State Fault Refusal :=
  .next (floatRRR s d a b dbl fun f rm x y _ => Fp.add f rm x y)
def execFsub (d a b : Reg) (dbl : Bool) (s : State) : Host.Outcome State Fault Refusal :=
  .next (floatRRR s d a b dbl fun f rm x y _ => Fp.sub f rm x y)
def execFmul (d a b : Reg) (dbl : Bool) (s : State) : Host.Outcome State Fault Refusal :=
  .next (floatRRR s d a b dbl fun f rm x y _ => Fp.mul f rm x y)
def execFma (d a b : Reg) (dbl : Bool) (s : State) : Host.Outcome State Fault Refusal :=
  .next (floatRRR s d a b dbl (fun f rm x y z => Fp.fma f rm false x y z) true)
def execFdiv (d a b : Reg) (dbl : Bool) (s : State) : Host.Outcome State Fault Refusal :=
  .next (floatRRR s d a b dbl fun f rm x y _ => Fp.div f rm x y)
def execFsqrt (d a : Reg) (dbl : Bool) (s : State) : Host.Outcome State Fault Refusal :=
  .next (slot s (fun _ => { names := snames [d, a], reads := snames [a] }) fun k s =>
    let f := scalarFmt dbl
    let r := Fp.sqrt f (fmtRM k.fmt) (lowBits f (k.rs a))
    (s.ws k d (BitVec.ofNat 64 r.1)).flag r.2)
def execFmin (d a b : Reg) (dbl : Bool) (s : State) : Host.Outcome State Fault Refusal :=
  .next (floatRRR s d a b dbl fun f _ x y _ => Fp.minmax f false x y)
def execFmax (d a b : Reg) (dbl : Bool) (s : State) : Host.Outcome State Fault Refusal :=
  .next (floatRRR s d a b dbl fun f _ x y _ => Fp.minmax f true x y)
/-- The ordering code; with S every NaN raises NV (spec/06 R123). -/
def execFcmp (d a b : Reg) (dbl x : Bool) (s : State) : Host.Outcome State Fault Refusal :=
  .next (floatRRR s d a b dbl fun f _ u v _ => Fp.compareCode f x u v)

/-- A converted element as a scalar: signed integers sign-extend, the rest zero-extend (spec/06 R124). -/
def asScalar (t : Fmt) (x : Nat) : Word :=
  if Fp.isSigned t then BitVec.ofInt 64 (toInt (Fp.width t) x) else BitVec.ofNat 64 x
def execFcvt (d a : Reg) (dst src : Fmt) (s : State) : Host.Outcome State Fault Refusal :=
  .next (slot s (fun _ => { names := snames [d, a], reads := snames [a] }) fun k s =>
    let r := Fp.convert dst src (fmtRM k.fmt) (fmtSE k.fmt) (lowBits src (k.rs a))
    (s.ws k d (asScalar dst r.1)).flag r.2)

end Sys2Proof.Machine
end

