-- ==== Sys2Proof/Machine/Dispatch.lean ====
section
/-! DEFINITION. The one dispatch: every constructor of Instr goes to its meaning. -/
namespace Sys2Proof.Machine
open Sys2Proof

/-- The effect of an instruction of the opcode table on the module. -/
def exec (i : Instr) (s : State) : Host.Outcome State Fault Refusal :=
  match i with
  | .scope l => Sys2Proof.Machine.execScope l s
  | .imx cls ext => Sys2Proof.Machine.execImx cls ext s
  | .nop => Sys2Proof.Machine.execNop s
  | .br off => Sys2Proof.Machine.execBr off s
  | .bc cond a off => Sys2Proof.Machine.execBc cond a off s
  | .jmp a => Sys2Proof.Machine.execJmp a s
  | .call off => Sys2Proof.Machine.execCall off s
  | .callr a => Sys2Proof.Machine.execCallr a s
  | .ret => Sys2Proof.Machine.execRet s
  | .loop c off => Sys2Proof.Machine.execLoop c off s
  | .loopi n off => Sys2Proof.Machine.execLoopi n off s
  | .lbrk n off => Sys2Proof.Machine.execLbrk n off s
  | .lidx d j => Sys2Proof.Machine.execLidx d j s
  | .wait ld st xf mt cm => Sys2Proof.Machine.execWait ld st xf mt cm s
  | .waitt d a => Sys2Proof.Machine.execWaitt d a s
  | .mwait d a => Sys2Proof.Machine.execMwait d a s
  | .dsync lvl => Sys2Proof.Machine.execDsync lvl s
  | .fmt a => Sys2Proof.Machine.execFmt a s
  | .fmti imm => Sys2Proof.Machine.execFmti imm s
  | .vset w a => Sys2Proof.Machine.execVset w a s
  | .unhold m => Sys2Proof.Machine.execUnhold m s
  | .phase imm => Sys2Proof.Machine.execPhase imm s
  | .step => Sys2Proof.Machine.execStep s
  | .ctrap a b => Sys2Proof.Machine.execCtrap a b s
  | .trap imm => Sys2Proof.Machine.execTrap imm s
  | .uret => Sys2Proof.Machine.execUret s
  | .ulimask op bits => Sys2Proof.Machine.execUlimask op bits s
  | .spawn a => Sys2Proof.Machine.execSpawn a s
  | .retire => Sys2Proof.Machine.execRetire s
  | .jinit a b => Sys2Proof.Machine.execJinit a b s
  | .halt => Sys2Proof.Machine.execHalt s
  | .crd d n => Sys2Proof.Machine.execCrd d n s
  | .cwr n a => Sys2Proof.Machine.execCwr n a s
  | .tbwait d a b p => Sys2Proof.Machine.execTbwait d a b p s
  | .add d a b => Sys2Proof.Machine.execAdd d a b s
  | .sub d a b => Sys2Proof.Machine.execSub d a b s
  | .mul d a b => Sys2Proof.Machine.execMul d a b s
  | .mulh d a b => Sys2Proof.Machine.execMulh d a b s
  | .mulhz d a b => Sys2Proof.Machine.execMulhz d a b s
  | .div d a b => Sys2Proof.Machine.execDiv d a b s
  | .divz d a b => Sys2Proof.Machine.execDivz d a b s
  | .rem d a b => Sys2Proof.Machine.execRem d a b s
  | .remz d a b => Sys2Proof.Machine.execRemz d a b s
  | .and d a b => Sys2Proof.Machine.execAnd d a b s
  | .or d a b => Sys2Proof.Machine.execOr d a b s
  | .xor d a b => Sys2Proof.Machine.execXor d a b s
  | .andn d a b => Sys2Proof.Machine.execAndn d a b s
  | .shl d a b => Sys2Proof.Machine.execShl d a b s
  | .shr d a b => Sys2Proof.Machine.execShr d a b s
  | .sra d a b => Sys2Proof.Machine.execSra d a b s
  | .slt d a b => Sys2Proof.Machine.execSlt d a b s
  | .sltz d a b => Sys2Proof.Machine.execSltz d a b s
  | .seq d a b => Sys2Proof.Machine.execSeq d a b s
  | .min d a b => Sys2Proof.Machine.execMin d a b s
  | .max d a b => Sys2Proof.Machine.execMax d a b s
  | .minz d a b => Sys2Proof.Machine.execMinz d a b s
  | .maxz d a b => Sys2Proof.Machine.execMaxz d a b s
  | .sel d a b => Sys2Proof.Machine.execSel d a b s
  | .clz d a => Sys2Proof.Machine.execClz d a s
  | .ctz d a => Sys2Proof.Machine.execCtz d a s
  | .popc d a => Sys2Proof.Machine.execPopc d a s
  | .bfx d a b x => Sys2Proof.Machine.execBfx d a b x s
  | .bfi d a b => Sys2Proof.Machine.execBfi d a b s
  | .lea d a b m => Sys2Proof.Machine.execLea d a b m s
  | .addi d a imm => Sys2Proof.Machine.execAddi d a imm s
  | .andi d a imm => Sys2Proof.Machine.execAndi d a imm s
  | .ori d a imm => Sys2Proof.Machine.execOri d a imm s
  | .xori d a imm => Sys2Proof.Machine.execXori d a imm s
  | .shli d a imm => Sys2Proof.Machine.execShli d a imm s
  | .shri d a imm => Sys2Proof.Machine.execShri d a imm s
  | .srai d a imm => Sys2Proof.Machine.execSrai d a imm s
  | .slti d a imm => Sys2Proof.Machine.execSlti d a imm s
  | .li d imm => Sys2Proof.Machine.execLi d imm s
  | .lih d imm => Sys2Proof.Machine.execLih d imm s
  | .fadd d a b dbl => Sys2Proof.Machine.execFadd d a b dbl s
  | .fsub d a b dbl => Sys2Proof.Machine.execFsub d a b dbl s
  | .fmul d a b dbl => Sys2Proof.Machine.execFmul d a b dbl s
  | .fma d a b dbl => Sys2Proof.Machine.execFma d a b dbl s
  | .fdiv d a b dbl => Sys2Proof.Machine.execFdiv d a b dbl s
  | .fsqrt d a dbl => Sys2Proof.Machine.execFsqrt d a dbl s
  | .fmin d a b dbl => Sys2Proof.Machine.execFmin d a b dbl s
  | .fmax d a b dbl => Sys2Proof.Machine.execFmax d a b dbl s
  | .fcmp d a b dbl sg => Sys2Proof.Machine.execFcmp d a b dbl sg s
  | .fcvt d a dst src => Sys2Proof.Machine.execFcvt d a dst src s
  | .tnow d => Sys2Proof.Machine.execTnow d s
  | .cyc d => Sys2Proof.Machine.execCyc d s
  | .vadd d a b m => Sys2Proof.Machine.execVadd d a b m s
  | .vsub d a b m => Sys2Proof.Machine.execVsub d a b m s
  | .vmul d a b m => Sys2Proof.Machine.execVmul d a b m s
  | .vfma d a b m => Sys2Proof.Machine.execVfma d a b m s
  | .vfms d a b m => Sys2Proof.Machine.execVfms d a b m s
  | .vmin d a b m => Sys2Proof.Machine.execVmin d a b m s
  | .vmax d a b m => Sys2Proof.Machine.execVmax d a b m s
  | .vabs d a m => Sys2Proof.Machine.execVabs d a m s
  | .vneg d a m => Sys2Proof.Machine.execVneg d a m s
  | .vdiv d a b m => Sys2Proof.Machine.execVdiv d a b m s
  | .vsqrt d a m => Sys2Proof.Machine.execVsqrt d a m s
  | .vrcp d a m => Sys2Proof.Machine.execVrcp d a m s
  | .vrsq d a m => Sys2Proof.Machine.execVrsq d a m s
  | .vexp2 d a m => Sys2Proof.Machine.execVexp2 d a m s
  | .vlog2 d a m => Sys2Proof.Machine.execVlog2 d a m s
  | .vand d a b m => Sys2Proof.Machine.execVand d a b m s
  | .vor d a b m => Sys2Proof.Machine.execVor d a b m s
  | .vxor d a b m => Sys2Proof.Machine.execVxor d a b m s
  | .vshl d a b m => Sys2Proof.Machine.execVshl d a b m s
  | .vshr d a b m => Sys2Proof.Machine.execVshr d a b m s
  | .vsra d a b m => Sys2Proof.Machine.execVsra d a b m s
  | .vceq k a b m => Sys2Proof.Machine.execVceq k a b m s
  | .vclt k a b m => Sys2Proof.Machine.execVclt k a b m s
  | .vcle k a b m => Sys2Proof.Machine.execVcle k a b m s
  | .vsel d a k m => Sys2Proof.Machine.execVsel d a k m s
  | .vcvt d a p dst m => Sys2Proof.Machine.execVcvt d a p dst m s
  | .vpack d a b z => Sys2Proof.Machine.execVpack d a b z s
  | .vunpk d a hi => Sys2Proof.Machine.execVunpk d a hi s
  | .vdot4 d a b m => Sys2Proof.Machine.execVdot4 d a b m s
  | .vred d a en k op m => Sys2Proof.Machine.execVred d a en k op m s
  | .vscan d a en k op m => Sys2Proof.Machine.execVscan d a en k op m s
  | .vperm d a b m => Sys2Proof.Machine.execVperm d a b m s
  | .vbcst d a m => Sys2Proof.Machine.execVbcst d a m s
  | .vslide d a b m => Sys2Proof.Machine.execVslide d a b m s
  | .vmov d a kind m => Sys2Proof.Machine.execVmov d a kind m s
  | .vctrap q k a b m => Sys2Proof.Machine.execVctrap q k a b m s
  | .vcmul d a b m => Sys2Proof.Machine.execVcmul d a b m s
  | .vidx d a m => Sys2Proof.Machine.execVidx d a m s
  | .vext d a b m => Sys2Proof.Machine.execVext d a b m s
  | .vins d a b m => Sys2Proof.Machine.execVins d a b m s
  | .mma z neg t h a b => Sys2Proof.Machine.execMma z neg t h a b s
  | .mmaD z neg t h b => Sys2Proof.Machine.execMmaD z neg t h b s
  | .mzero t => Sys2Proof.Machine.execMzero t s
  | .mcommit t => Sys2Proof.Machine.execMcommit t s
  | .mshape h a m => Sys2Proof.Machine.execMshape h a m s
  | .mstab t a b => Sys2Proof.Machine.execMstab t a b s
  | .ld8 f o d a imm => Sys2Proof.Machine.execLd8 f o d a imm s
  | .ld16 f o d a imm => Sys2Proof.Machine.execLd16 f o d a imm s
  | .ld32 f o d a imm => Sys2Proof.Machine.execLd32 f o d a imm s
  | .ld64 f o d a imm => Sys2Proof.Machine.execLd64 f o d a imm s
  | .ldz8 f o d a imm => Sys2Proof.Machine.execLdz8 f o d a imm s
  | .ldz16 f o d a imm => Sys2Proof.Machine.execLdz16 f o d a imm s
  | .ldz32 f o d a imm => Sys2Proof.Machine.execLdz32 f o d a imm s
  | .st8 o d a imm => Sys2Proof.Machine.execSt8 o d a imm s
  | .st16 o d a imm => Sys2Proof.Machine.execSt16 o d a imm s
  | .st32 o d a imm => Sys2Proof.Machine.execSt32 o d a imm s
  | .st64 o d a imm => Sys2Proof.Machine.execSt64 o d a imm s
  | .vld f o d a imm => Sys2Proof.Machine.execVld f o d a imm s
  | .vst o d a imm => Sys2Proof.Machine.execVst o d a imm s
  | .vgat f o d a b m => Sys2Proof.Machine.execVgat f o d a b m s
  | .vsct o d a b m => Sys2Proof.Machine.execVsct o d a b m s
  | .badd d a b ty => Sys2Proof.Machine.execBadd d a b ty s
  | .bmin d a b ty => Sys2Proof.Machine.execBmin d a b ty s
  | .bmax d a b ty => Sys2Proof.Machine.execBmax d a b ty s
  | .band d a b ty => Sys2Proof.Machine.execBand d a b ty s
  | .bor d a b ty => Sys2Proof.Machine.execBor d a b ty s
  | .bxor d a b ty => Sys2Proof.Machine.execBxor d a b ty s
  | .bswp d a b ty => Sys2Proof.Machine.execBswp d a b ty s
  | .bcas d a b ty => Sys2Proof.Machine.execBcas d a b ty s
  | .vbred a b op => Sys2Proof.Machine.execVbred a b op s
  | .fence k => Sys2Proof.Machine.execFence k s
  | .xfence p q => Sys2Proof.Machine.execXfence p q s
  | .mon a => Sys2Proof.Machine.execMon a s
  | .tbarv a b => Sys2Proof.Machine.execTbarv a b s
  | .tbexp a b => Sys2Proof.Machine.execTbexp a b s
  | .tbinit a b => Sys2Proof.Machine.execTbinit a b s
  | .fill a b p => Sys2Proof.Machine.execFill a b p s
  | .pcfg n a m => Sys2Proof.Machine.execPcfg n a m s
  | .pflush n => Sys2Proof.Machine.execPflush n s
  | .pseal d a => Sys2Proof.Machine.execPseal d a s
  | .lset d a b => Sys2Proof.Machine.execLset d a b s
  | .agate a b m => Sys2Proof.Machine.execAgate a b m s
  | .amap a b => Sys2Proof.Machine.execAmap a b s
  | .ameas a b => Sys2Proof.Machine.execAmeas a b s
  | .acoll a b => Sys2Proof.Machine.execAcoll a b s
  | .anorm a => Sys2Proof.Machine.execAnorm a s
  | .aswap b => Sys2Proof.Machine.execAswap b s
  | .send c a m => Sys2Proof.Machine.execSend c a m s
  | .recv c d m => Sys2Proof.Machine.execRecv c d m s
  | .recvadd c d b m => Sys2Proof.Machine.execRecvadd c d b m s
  | .recvmax c d b m => Sys2Proof.Machine.execRecvmax c d b m s
  | .chdecl c a => Sys2Proof.Machine.execChdecl c a s
  | .chpoll c d => Sys2Proof.Machine.execChpoll c d s
  | .chclose c => Sys2Proof.Machine.execChclose c s
  | .coldReset => Sys2Proof.Machine.execColdReset s
  | .functionLevelReset => Sys2Proof.Machine.execFunctionLevelReset s
  | .powerUp => Sys2Proof.Machine.execPowerUp s
  | .illegalBundle => Sys2Proof.Machine.execIllegalBundle s
  | .illegalInstruction => Sys2Proof.Machine.execIllegalInstruction s
  | .trapAtBoundary => Sys2Proof.Machine.execTrapAtBoundary s
  | .contextStopped => Sys2Proof.Machine.execContextStopped s
  | .uliEntry => Sys2Proof.Machine.execUliEntry s
  | .strikeRollback => Sys2Proof.Machine.execStrikeRollback s
  | .twinCompare => Sys2Proof.Machine.execTwinCompare s
  | .currentLimitFreezeCycle => Sys2Proof.Machine.execCurrentLimitFreezeCycle s
  | .droopCrossing => Sys2Proof.Machine.execDroopCrossing s
  | .waitingWake => Sys2Proof.Machine.execWaitingWake s
  | .waittWake => Sys2Proof.Machine.execWaittWake s
  | .mwaitTimeout => Sys2Proof.Machine.execMwaitTimeout s
  | .monitorTrigger => Sys2Proof.Machine.execMonitorTrigger s
  | .tbwaitReread => Sys2Proof.Machine.execTbwaitReread s
  | .dsyncPhaseComplete => Sys2Proof.Machine.execDsyncPhaseComplete s
  | .loadComplete => Sys2Proof.Machine.execLoadComplete s
  | .storeApplied => Sys2Proof.Machine.execStoreApplied s
  | .bauOperation => Sys2Proof.Machine.execBauOperation s
  | .uncorrectableError => Sys2Proof.Machine.execUncorrectableError s
  | .patrolScrub => Sys2Proof.Machine.execPatrolScrub s
  | .calvedRetry => Sys2Proof.Machine.execCalvedRetry s
  | .pageWalk => Sys2Proof.Machine.execPageWalk s
  | .invalComplete => Sys2Proof.Machine.execInvalComplete s
  | .copyHead => Sys2Proof.Machine.execCopyHead s
  | .copyPieceStart => Sys2Proof.Machine.execCopyPieceStart s
  | .copyPieceComplete => Sys2Proof.Machine.execCopyPieceComplete s
  | .fillComplete => Sys2Proof.Machine.execFillComplete s
  | .mmaExecute => Sys2Proof.Machine.execMmaExecute s
  | .mmaComplete => Sys2Proof.Machine.execMmaComplete s
  | .mcommitDrain => Sys2Proof.Machine.execMcommitDrain s
  | .mzeroExecute => Sys2Proof.Machine.execMzeroExecute s
  | .mstabApply => Sys2Proof.Machine.execMstabApply s
  | .aeDigestExchange => Sys2Proof.Machine.execAeDigestExchange s
  | .amapRegister => Sys2Proof.Machine.execAmapRegister s
  | .aeExchangeChunk => Sys2Proof.Machine.execAeExchangeChunk s
  | .aeGateChunk => Sys2Proof.Machine.execAeGateChunk s
  | .aeCommandComplete => Sys2Proof.Machine.execAeCommandComplete s
  | .portGeneratorCycle => Sys2Proof.Machine.execPortGeneratorCycle s
  | .portInputArrival => Sys2Proof.Machine.execPortInputArrival s
  | .pflushComplete => Sys2Proof.Machine.execPflushComplete s
  | .cqAgeing => Sys2Proof.Machine.execCqAgeing s
  | .cqPop => Sys2Proof.Machine.execCqPop s
  | .cqWorkTake => Sys2Proof.Machine.execCqWorkTake s
  | .cqPushAccept => Sys2Proof.Machine.execCqPushAccept s
  | .cqSpillRefill => Sys2Proof.Machine.execCqSpillRefill s
  | .retireJoinUpdate => Sys2Proof.Machine.execRetireJoinUpdate s
  | .haltRetire => Sys2Proof.Machine.execHaltRetire s
  | .channelVectorArrival => Sys2Proof.Machine.execChannelVectorArrival s
  | .channelCreditReturn => Sys2Proof.Machine.execChannelCreditReturn s
  | .channelDeclarationNotice => Sys2Proof.Machine.execChannelDeclarationNotice s
  | .channelCloseNotice => Sys2Proof.Machine.execChannelCloseNotice s
  | .driftRingReplay => Sys2Proof.Machine.execDriftRingReplay s
  | .flitReceive => Sys2Proof.Machine.execFlitReceive s
  | .replayRequest => Sys2Proof.Machine.execReplayRequest s
  | .ackTimeout => Sys2Proof.Machine.execAckTimeout s
  | .transactionArrival => Sys2Proof.Machine.execTransactionArrival s
  | .laneFailure => Sys2Proof.Machine.execLaneFailure s
  | .linkRetrainComplete => Sys2Proof.Machine.execLinkRetrainComplete s
  | .rerouteTimeout => Sys2Proof.Machine.execRerouteTimeout s
  | .ptpSync => Sys2Proof.Machine.execPtpSync s
  | .tailDoorbell => Sys2Proof.Machine.execTailDoorbell s
  | .rbaseWrite => Sys2Proof.Machine.execRbaseWrite s
  | .rctlWrite => Sys2Proof.Machine.execRctlWrite s
  | .rstatClear => Sys2Proof.Machine.execRstatClear s
  | .ringFetch => Sys2Proof.Machine.execRingFetch s
  | .gang => Sys2Proof.Machine.execGang s
  | .task => Sys2Proof.Machine.execTask s
  | .callPacket => Sys2Proof.Machine.execCallPacket s
  | .retPacket => Sys2Proof.Machine.execRetPacket s
  | .joinPacket => Sys2Proof.Machine.execJoinPacket s
  | .fencePacket => Sys2Proof.Machine.execFencePacket s
  | .fenceReread => Sys2Proof.Machine.execFenceReread s
  | .wakeAt => Sys2Proof.Machine.execWakeAt s
  | .wakeAtRelease => Sys2Proof.Machine.execWakeAtRelease s
  | .inval => Sys2Proof.Machine.execInval s
  | .ckpt => Sys2Proof.Machine.execCkpt s
  | .ckptCopy => Sys2Proof.Machine.execCkptCopy s
  | .ckptComplete => Sys2Proof.Machine.execCkptComplete s
  | .launchGrant => Sys2Proof.Machine.execLaunchGrant s
  | .prebudExpiry => Sys2Proof.Machine.execPrebudExpiry s
  | .preemptStopped => Sys2Proof.Machine.execPreemptStopped s
  | .contextSaveComplete => Sys2Proof.Machine.execContextSaveComplete s
  | .preemptedResume => Sys2Proof.Machine.execPreemptedResume s
  | .launchRelease => Sys2Proof.Machine.execLaunchRelease s
  | .launchCompletion => Sys2Proof.Machine.execLaunchCompletion s
  | .leaseRenewal => Sys2Proof.Machine.execLeaseRenewal s
  | .leaseExpiry => Sys2Proof.Machine.execLeaseExpiry s
  | .ctxResume => Sys2Proof.Machine.execCtxResume s
  | .ctxKill => Sys2Proof.Machine.execCtxKill s
  | .ctxDump => Sys2Proof.Machine.execCtxDump s
  | .mailboxAttest => Sys2Proof.Machine.execMailboxAttest s
  | .attestReportDone => Sys2Proof.Machine.execAttestReportDone s
  | .calvordWrite => Sys2Proof.Machine.execCalvordWrite s
  | .replicaEntryWrite => Sys2Proof.Machine.execReplicaEntryWrite s
  | .replicaSeedingDone => Sys2Proof.Machine.execReplicaSeedingDone s
  | .asidTableWrite => Sys2Proof.Machine.execAsidTableWrite s
  | .msixUnmask => Sys2Proof.Machine.execMsixUnmask s
  | .registerWrite => Sys2Proof.Machine.execRegisterWrite s
  | .hostWindowAccess => Sys2Proof.Machine.execHostWindowAccess s
  | .hostRegspaceAccess => Sys2Proof.Machine.execHostRegspaceAccess s
  | .mctpSetEndpointId => Sys2Proof.Machine.execMctpSetEndpointId s
  | .mctpGetEndpointId => Sys2Proof.Machine.execMctpGetEndpointId s
  | .mctpGetVersionSupport => Sys2Proof.Machine.execMctpGetVersionSupport s
  | .mctpGetMessageTypeSupport => Sys2Proof.Machine.execMctpGetMessageTypeSupport s
  | .mctpUnsupportedCommand => Sys2Proof.Machine.execMctpUnsupportedCommand s
  | .mgmtAttestationRequest => Sys2Proof.Machine.execMgmtAttestationRequest s
  | .mgmtReportRefresh => Sys2Proof.Machine.execMgmtReportRefresh s
  | .vinSample => Sys2Proof.Machine.execVinSample s
  | .pfAssert => Sys2Proof.Machine.execPfAssert s
  | .pfDeassert => Sys2Proof.Machine.execPfDeassert s
  | .calveNextDie => Sys2Proof.Machine.execCalveNextDie s
  | .calvedSeqStop => Sys2Proof.Machine.execCalvedSeqStop s
  | .dieRetention => Sys2Proof.Machine.execDieRetention s
  | .uncalve => Sys2Proof.Machine.execUncalve s
  | .uncalveComplete => Sys2Proof.Machine.execUncalveComplete s
  | .freezeEnginesStopped => Sys2Proof.Machine.execFreezeEnginesStopped s
  | .freezeDrain => Sys2Proof.Machine.execFreezeDrain s
  | .moraineWrite => Sys2Proof.Machine.execMoraineWrite s
  | .moraineSeal => Sys2Proof.Machine.execMoraineSeal s
  | .peerFreezeNotice => Sys2Proof.Machine.execPeerFreezeNotice s
  | .peerRejoin => Sys2Proof.Machine.execPeerRejoin s
  | .thawCommand => Sys2Proof.Machine.execThawCommand s
  | .thawDtimeLock => Sys2Proof.Machine.execThawDtimeLock s
  | .thawContextDecide => Sys2Proof.Machine.execThawContextDecide s
  | .fabricRejoin => Sys2Proof.Machine.execFabricRejoin s
  | .chargeMeasure => Sys2Proof.Machine.execChargeMeasure s
  | .hibRecheck => Sys2Proof.Machine.execHibRecheck s
  | .thermalSample => Sys2Proof.Machine.execThermalSample s
  | .powerTokenMarket => Sys2Proof.Machine.execPowerTokenMarket s
  | .opPointApply => Sys2Proof.Machine.execOpPointApply s
  | .clusterGate => Sys2Proof.Machine.execClusterGate s
  | .clusterUngate => Sys2Proof.Machine.execClusterUngate s
  | .descriptorUnitComplete => Sys2Proof.Machine.execDescriptorUnitComplete s
  | .akvinLinkFirmwareReset => Sys2Proof.Machine.execAkvinLinkFirmwareReset s
  | .dtimeHoldover => Sys2Proof.Machine.execDtimeHoldover s
  | .powerLost => Sys2Proof.Machine.execPowerLost s

end Sys2Proof.Machine
end

