-- ==== Sys2Proof/Machine/Bundle.lean ====
section
/-! DEFINITION. Issue of one bundle: fetch, the checks of spec/02 R45, the slots and held repeats in class order, and the
close of the bundle (spec/01 R13, R14, spec/02 R28-R45, R442, spec/04 R69, R72, spec/06 R104, spec/19 R370-R373, spec/20
R376, R383, R384); and one cycle of a core. -/
set_option linter.unusedVariables false
namespace Sys2Proof.Machine
open Sys2Proof

/-! ### Phase 1 of the checks: framing, structure, allocation, immediates, reserved fields (spec/02 R41-R45) -/

/-- Positions of a list's items, from 0. -/
def places {α : Type} (l : List α) : List (Nat × α) := l.zipIdx.map fun x => (x.2, x.1)
def isPfx (w : BitVec 32) : Bool := slotClass w.toNat = 0
def isScope (w : BitVec 32) : Bool := isPfx w && slotOp w.toNat = 0
def isImx (w : BitVec 32) : Bool := isPfx w && slotOp w.toNat = 1
/-- Target class of an `imx`. -/
def imxTarget (w : BitVec 32) : Nat := bits w.toNat 19 17
def imxExt (w : BitVec 32) : BitVec 17 := BitVec.ofNat 17 (bits w.toNat 16 0)
/-- The extension that the bundle's `imx` gives a class. -/
def extFor (words : List (BitVec 32)) (cls : Nat) : Option (BitVec 17) :=
  (words.find? fun w => isImx w && imxTarget w = cls && cls ≠ 0).map imxExt
/-- Does the bundle encode a slot of a class. -/
def encodes (words : List (BitVec 32)) (cls : Nat) : Bool := words.any fun w => slotClass w.toNat = cls
/-- Cases 1 and 2: no stop bit within eight slots or before the end of instruction memory; the fall-through to 0x4_0000. -/
def framed (pc : Nat) (words : List (BitVec 32)) : Bool :=
  pc < 0x40000 && (match words.getLast? with
    | some w => slotStop w.toNat
    | none => false)
/-- Cases 3 to 7 at one slot: class order, a second slot of a class or of a prefix, H on PFX or CTL, `scope` without MEM,
`imx` without its target. `prev` holds the slots before it. R41 and R45 name no position for two slots that break cases 3
and 4 together: that the later of them is the one reported is the model's choice (log 52). -/
def slotMisplaced (words prev : List (BitVec 32)) (w : BitVec 32) : Bool :=
  let c := slotClass w.toNat
  prev.any (fun p => c < slotClass p.toNat || (c ≠ 0 && slotClass p.toNat = c)) ||
  (isScope w && prev.any isScope) || (isImx w && prev.any isImx) ||
  (c ≤ 1 && slotHold w.toNat) || (isScope w && !encodes words 5) ||
  (isImx w && (imxTarget w = 0 || !encodes words (imxTarget w)))
/-- First slot that breaks the structure; case 9 is reported at position 0. -/
def structureFault (words : List (BitVec 32)) : Option Nat :=
  if words.all isPfx then some 0
  else (places words).findSome? fun e => if slotMisplaced words (words.take e.1) e.2 then some e.1 else none
/-- Has the slot's form an immediate (spec/02 R35): its operand field does not matter. -/
def takesImx (w : BitVec 32) : Bool := match decodeSlot (w.toNat / 2 ^ 20 * 2 ^ 20) with
  | .ok i => hasImm i
  | .error _ => false
/-- An `imx` whose target has no immediate (case 8): that the prefix's position is reported, and not its target's, is the
model's choice (log 52). -/
def imxFault (words : List (BitVec 32)) : Option Nat := (places words).findSome? fun e =>
  if isImx e.2 && !(words.any fun w => slotClass w.toNat = imxTarget e.2 && takesImx w) then some e.1 else none
/-- Reserved bits and codes of a slot with its extension (spec/02 R43). -/
def slotReserved (words : List (BitVec 32)) (w : BitVec 32) : Bool := match decodeSlot w.toNat with
  | .ok i => (extFor words (slotClass w.toNat)).any (extReserved i)
  | .error _ => true
/-- The first of these checks that fails: slot position and cause. -/
def decodeFault (pc : Nat) (words : List (BitVec 32)) : Option (Nat × Cause) :=
  if !framed pc words then some (0, .illegalBundle)
  else match structureFault words with
  | some k => some (k, .illegalBundle)
  | none => match (places words).findSome? fun e => if allocated e.2.toNat then none else some e.1 with
    | some k => some (k, .illegalInstr)
    | none => match imxFault words with
      | some k => some (k, .illegalBundle)
      | none => ((places words).findSome? fun e => if slotReserved words e.2 then some e.1 else none).map fun k => (k, .reservedField)

/-- What phase 1 finds at a PC. Only a ULIVEC can bring a PC that is no bundle start: spec/02 R28 excludes it, and a
transfer there is a bad target (R44, spec/20 R380, log 59). -/
def fetchFault (c : Core) (pc : Nat) (words : List (BitVec 32)) : Option (Nat × Cause) :=
  if pc < 0x40000 && !bundleStart c pc then some (0, .badTarget) else decodeFault pc words

/-! ### The slots of a bundle (spec/02 R29, R37, R38) -/

/-- A slot that issues: encoded, or a held repeat at its class's place. -/
structure SlotItem where
  pos : Nat
  held : Bool := false
  word : BitVec 32
  ext : Option (BitVec 17) := none
  scope : Option Scope := none
deriving DecidableEq, Repr

def SlotItem.cls (x : SlotItem) : Nat := slotClass x.word.toNat
/-- Encoded slots, and repeats of the held classes the bundle does not encode, in class order. -/
def slotItems (words : List (BitVec 32)) (held : Tab Held) : List SlotItem :=
  let coded := (places words).map fun e => ({ pos := e.1, word := e.2, ext := extFor words (slotClass e.2.toNat) } : SlotItem)
  let again := (held.filter fun e => !encodes words e.1).map fun e =>
    ({ pos := (words.filter fun w => slotClass w.toNat < e.1).length, held := true, word := e.2.word, ext := e.2.ext,
       scope := some e.2.scope } : SlotItem)
  again.foldl (fun l x => insertBy SlotItem.cls x l) coded

/-- What `exec` makes of the state. -/
def stateOf (s : State) : Host.Outcome State Fault Refusal → State
  | .next t => t
  | _ => s
/-- Run an event with operands. -/
def run (i : Instr) (a : List Nat) (s : State) : State := stateOf s (exec i { s with args := a })

/-- The slot takes its place in the bundle. -/
def atSlot (x : SlotItem) (b : Issue) : Issue :=
  { b with pos := x.pos, held := x.held, cls := x.cls, word := x.word, ext := x.ext,
           scope := x.scope.getD (if x.cls = 5 then b.memScope else .core) }
/-- One slot issues. -/
def runSlot (s : State) (x : SlotItem) : State := match decodeSlot x.word.toNat with
  | .ok i => let t := s.modIssue (atSlot x); stateOf t (exec i t)
  | .error _ => s

/-! ### Beginning a bundle -/

/-- Is the pending domain the running code's own: in a handler it may belong to the interrupted program. -/
def ownsDomain (q : Seq) : Bool := !q.inHandler || (q.saved.bind (·.wait)) ≠ some .dsync
/-- The wait that a running sequencer still owes: kept over a stop or a return from a handler (spec/19 R365, R370). -/
def owedWait (s : State) (n : Nat) : Option Wait :=
  let q := s.seq n
  if q.pendDom.isSome && ownsDomain q then some .dsync
  else match q.pendT with
    | some (_, t, _) => if s.sys.dtime < t then some .waitt else other s n
    | none => other s n
where
  other (s : State) (n : Nat) : Option Wait :=
    if (s.seq n).wait = some .step && !(s.seq n).inHandler && (s.ctxOf n).armed.isSome then some .step else none
/-- The late flag of a `waitt` is written as the next bundle issues: 0 within 2 ns after T (spec/19 R370). -/
def settleT (s : State) (n : Nat) : State := match (s.seq n).pendT with
  | some (d, t, past) =>
    (deliver s n d (if past || t + 2 < s.sys.dtime then 1 else 0)).modSeq n fun q => { q with pendT := none }
  | none => s
/-- The bundle of `words` at the PC, before any slot. -/
def beginIssue (s : State) (n : Nat) (words : List (BitVec 32)) : State :=
  let q := s.seq n
  let b : Issue := { n := n, pc := q.pc, next := q.pc + 4 * words.length, before := q, regs := (s.core (coreOf n)).regs,
                     mq := (s.core (coreOf n)).mq, consumer := inConsumer s n q.pc, firstId := s.nextId }
  { s with issue := some b }

/-! ### Closing a bundle -/

/-- The end check (spec/06 R104): where control goes on, and the stack. -/
def loopEnd (pc : Nat) : List Loop → Option Nat × List Loop
  | [] => (none, [])
  | l :: t =>
    if l.stop ≠ pc then (none, l :: t)
    else if 1 < l.count then (some l.start, { l with count := l.count - 1 } :: t)
    else loopEnd pc t

/-- Record the held state after the clears of the bundle (spec/02 R39, spec/04 R69). -/
def recordHeld (b : Issue) (held : Tab Held) (x : SlotItem) : Tab Held :=
  if x.held || x.cls < 2 then held
  else if slotHold x.word.toNat then held.put x.cls { scope := if x.cls = 5 then b.memScope else .core, ext := x.ext, word := x.word }
  else held.del x.cls
/-- The producer's kept halt bundle clears its held bank (spec/15 R292). -/
def clearsHeld (s : State) (b : Issue) : Bool := match (s.ctxOf b.n).splice with
  | some sp => sp.haltPc = b.pc && sp.bundles.any (fun e => e.1 = b.pc && !e.2.1)
  | none => false
/-- The bank of the bundle's kernel after it: held slots, then the FMT shadow. -/
def closeBank (s : State) (b : Issue) (items : List SlotItem) (k : Bank) : Bank :=
  let held := if clearsHeld s b then [] else k.held
  shadowTick { k with held := items.foldl (recordHeld b) held } b.fmtWrite b.flags

/-- A trap of the bundle at the PC is taken precisely: nothing of the bundle has happened. A late one is an abort at the
boundary before it (spec/09 R187). -/
def trapHere (s : State) (n : Nat) (t : Trap) : State :=
  let pc := (s.seq n).pc
  let s := missTrap s (coreOf n) (asidOf s n) t
  takeTrap s n { t with slot := slotAt s n pc t.slot } pc pc (!t.late)

/-- The sequencer stops issuing and waits. -/
def nowWaits (s : State) (n : Nat) (w : Wait) : State := s.modSeq n fun q => { q with st := .waiting, wait := some w }
/-- A handler that waits in its own `dsync` has replaced the interrupted program's (log 55). -/
def replacesWait (q : Seq) (w : Wait) : Seq := match q.saved with
  | some v => if v.wait = some w then { q with saved := some { v with wait := none } } else q
  | none => q
/-- PC and loop stack after the bundle; a taken transfer leaves the stack (spec/06 R104). -/
def advance (s : State) (b : Issue) : State :=
  let e := loopEnd b.pc (s.seq b.n).loops
  s.modSeq b.n fun q => match b.target with
    | some t => { q with pc := t }
    | none => if b.exits then { q with pc := b.next } else { q with pc := e.1.getD b.next, loops := e.2 }
/-- Has the bundle ended an iteration of the innermost loop (spec/14 R284). -/
def endsIteration (q : Seq) (b : Issue) : Bool := b.target.isNone && !b.exits && (q.loops.head?.any fun l => l.stop = b.pc)
/-- What the bundle's CTL slot does once every slot has had its effect. -/
def thenDo (s : State) (b : Issue) : State :=
  let n := b.n
  match b.after with
  | .none => s
  | .uret => s.modSeq n leaveHandler
  | .trap t => takeTrap s n { t with slot := slotAt s n b.pc t.slot } b.pc (s.seq n).pc false
  | .halt => s.modSeq n fun q => { q with halting := some .halt }
  | .retire => s.modSeq n fun q => { q with halting := some .retire, pc := b.pc }
  | .waits w => nowWaits (s.modSeq n fun q => replacesWait q w) n w

/-- Results that the bundle's slots bring later, by class. -/
def lateClass (a : Access) : Nat := if a.path = .x then 6 else 5
def lateResults (q : Seq) (b : Issue) : List (Nat × Dest) := q.acc.filterMap fun a =>
  if a.id < b.firstId then none else a.kind.dest.map fun d => (lateClass a, d)
/-- What the slots of higher class leave of a result (spec/02 R29). -/
def Dest.under (d : Dest) (c : Nat) (l : List (Nat × Dest)) : Dest := ((l.filter fun e => c < e.1).map (·.2)).foldl Dest.less d
/-- The part of each range that lies in a tile. -/
def inTile (off : Nat) (l : List (Nat × Nat)) : List (Nat × Nat) := l.filterMap fun r =>
  if meet off 16384 r.1 r.2 then some (Nat.max off r.1, Nat.min (off + 16384) (r.1 + r.2) - Nat.max off r.1) else none
/-- An operation of the matrix queue reads its tile as it stood before its bundle, and does not write over slots of higher
class (spec/02 R29, spec/08 R161). -/
def MtxEntry.under (e : MtxEntry) (b : Issue) (l : List (Nat × Dest)) : MtxEntry :=
  { e with keep := (inTile e.off (l.map fun x => x.2.ranges).flatten).map fun r => (r.1, r.2, b.regs.readNat (b.before.winBase + r.1) r.2)
           skip := inTile e.off ((l.filter fun x => 4 < x.1).map fun x => x.2.ranges).flatten }
/-- Where slots of the bundle write the same bytes, they end with the value of the slot of higher class, whichever comes
later (spec/02 R29). -/
def classOrder (s : State) (b : Issue) : State :=
  let l := b.wrote ++ lateResults (s.seq b.n) b
  let s := s.modSeq b.n fun q =>
    { q with acc := q.acc.map fun a => if a.id < b.firstId then a else match a.kind.dest with
               | some d => { a with kind := a.kind.to (d.under (lateClass a) l) }
               | none => a
             pendT := q.pendT.map fun p => (p.1.under 1 l, p.2) }
  s.modCore (coreOf b.n) fun c => { c with mq := c.mq.map fun e => if e.seq = b.n && b.firstId ≤ e.id then e.under b l else e }
/-- An `mwait` writes no byte that another slot of its bundle wrote. -/
def After.under (a : After) (l : List (Nat × Dest)) : After := match a with
  | .waits (.mwait d u) => .waits (.mwait (d.under 1 l) u)
  | a => a

/-- Close a bundle that issues. -/
def closeIssued (s : State) (b : Issue) (items : List SlotItem) : State :=
  let n := b.n
  let b := { b with after := b.after.under (b.wrote ++ lateResults (s.seq n) b) }
  let s := classOrder { s with issue := none } b
  let s := if inGap s n b.pc then s else s.modSeq n fun q => q.setBank b.consumer (closeBank s b items (q.bankOf b.consumer))
  let s := s.modSeq n fun q => { q with order := q.order ++ b.orders, wait := none, issued := q.issued + 1 }
  let s := b.pcfgs.foldl (fun s e => loadPort s n b.pc e.1 e.2) s
  let edge := endsIteration (s.seq n) b
  let s := thenDo (advance s b) b
  if edge && (s.seq n).stopReq && (s.seq n).st.live then stopSeq s n .preempted else s

/-! ### Weights (spec/19 R371) -/

/-- Weight of a slot by class and opcode; a vector slot by its latency (spec/07 R130). -/
def slotWeight (vf : Fmt) (w : BitVec 32) : Nat :=
  let op := slotOp w.toNat
  match slotClass w.toNat with
  | 1 => 1
  | 2 => if 0x30 ≤ op && op ≤ 0x39 then 2 else 1
  | 3 =>
    if op = 0x09 || (0x0A ≤ op && op ≤ 0x0E) || op = 0x1D || op = 0x1E then 20
    else if op = 2 || op = 3 || op = 4 || (0x19 ≤ op && op ≤ 0x1C) || op = 0x24 then 16
    else if (op = 0 || op = 1 || op = 5 || op = 6) && Fp.isFloat vf then 16
    else 8
  | 5 | 6 | 7 => 4
  | _ => 0
/-- Vectors that the bundle moved through ports. -/
def portMoves (a b : Seq) : Nat := ((a.ports.zip b.ports).map fun p => p.2.moved - p.1.moved).foldl (· + ·) 0

/-! ### One sequencer's turn (spec/20 R383) -/

/-- How a turn ends. -/
inductive Turn where
  | idle                            -- not ready
  | waits (s : State)               -- it waits from now on
  | taken (s : State)               -- a stop, a cause or an interrupt at the boundary; no bundle is selected
  | trapped (s : State)             -- its bundle is selected and traps precisely
  | issued (s : State) (weight vec : Nat)

/-- Close what the slots have made of the bundle that `s` began. -/
def closeTurn (s t : State) (n : Nat) (items : List SlotItem) : Turn :=
  match t.issue with
  | none => .idle
  | some b =>
    match firstRaised (b.raised.filter fun r => r.phase = 1) with
    | some r => .trapped (trapHere s n r.trap)
    | none => match b.stall with
      | some .notReady => .idle
      | some (.wait w) => .waits (nowWaits s n w)
      | none => match firstRaised b.raised with
        | some r => .trapped (trapHere s n r.trap)
        | none => .issued (closeIssued t b items)
            ((items.map fun x => slotWeight (fmtVF b.fmt) x.word).foldl (· + ·) 0 + 4 * portMoves (s.seq n) (t.seq n))
            (if items.any fun x => x.cls = 3 then 1 else 0)

/-- The bundle at the PC of a running sequencer. -/
def tryBundle (s : State) (n : Nat) : Turn :=
  let q := s.seq n
  let words := if q.pc < 0x40000 then bundleWords (s.core (coreOf n)) 8 q.pc else []
  let t := beginIssue s n words
  match fetchFault (s.core (coreOf n)) q.pc words with
  | some (k, c) =>
    let u := match c with
      | .illegalBundle => run .illegalBundle [k] t
      | .illegalInstr => run .illegalInstruction [k] t
      | .badTarget => (t.modIssue fun b => { b with pos := k }).raise 1 { cause := c, addr := q.pc }
      | _ => (t.modIssue fun b => { b with pos := k }).raise 1 { cause := c }
    closeTurn s u n []
  | none =>
    let items := slotItems words (if inGap s n q.pc then [] else (q.bankOf (inConsumer s n q.pc)).held)
    closeTurn s (items.foldl runSlot (settleT t n)) n items

/-- A sequencer that a strike has returned past its stop has come to that point again, and stops as it had (spec/20 R385). -/
def stopAgain (s : State) (n : Nat) (x : SqState × SqState × Option SqState) : State :=
  (stopSeq s n x.1).modSeq n fun q => { q with prev := x.2.1, below := x.2.2, redo := none }
/-- A sequencer's boundary: stops, causes, interrupts, then its next bundle. The second core of a twin pair runs with
the first (spec/20 R387); a gated cluster runs nothing. A sequencer that runs towards the point of its stop again takes no
cause before it. -/
def turnOf (s : State) (n : Nat) : Turn :=
  let q := s.seq n
  if !q.st.live || q.ctx.isNone || (s.core (coreOf n)).twinOf.isSome then .idle
  else if q.redo.any (·.1 ≤ q.issued) then .taken (stopAgain s n ((q.redo.map (·.2)).getD (.preempted, .running, none)))
  else if stopDue s n then .taken (stopSeq s n .preempted)
  else if (s.cluster (clusterOf (coreOf n))).gated then .idle
  else if q.causes ≠ [] && q.redo.isNone then (if (s.ctxOf n).st = .released && firstFault s n then .taken (run .trapAtBoundary [n] s) else .idle)
  else if q.halting.isSome then .idle
  else if (uliPending q).isSome then .taken (run .uliEntry [n] s)
  else if q.st = .waiting then .idle
  else match owedWait s n with
    | some w => .waits (nowWaits s n w)
    | none => match tryBundle s n, q.redo with
      | .trapped _, some x => .taken (stopAgain s n x.2)
      | r, _ => r

/-! ### One cycle of a core -/

/-- The first of the sequencers whose bundle issues (spec/01 R14). One that takes what is at its boundary is not ready, so
the next is considered; one whose bundle traps has been selected (spec/02 R442), and no other issues. DESIGN CHOICE: `last`
stays as it is then, being the sequencer that issued most recently (log 93). -/
def pick (s : State) : List Nat → State × Option (Nat × Nat × Nat)
  | [] => (s, none)
  | n :: t => match turnOf s n with
    | .idle => pick s t
    | .waits s' => pick s' t
    | .taken s' => pick s' t
    | .trapped s' => if firstFault s n then (s', none) else pick s t
    | .issued s' w v => (s', some (n, w, v))
/-- The core's sequencers in the order of spec/01 R14. -/
def issueOrder (s : State) (g : Nat) : List Nat := ([1, 2, 3, 4] : List Nat).map fun i => 4 * g + ((s.core g).last + i) % 4
/-- The boundary before a bundle, for a strike within 48 cycles (spec/20 R384). -/
def snapshot (s : State) (g : Nat) : Snap :=
  { cycle := (s.core g).cycle, core := s.core g, seqs := (List.range 4).map (fun i => (4 * g + i, s.seq (4 * g + i))), firstId := s.nextId
    tensors := ((List.range 4).filterMap fun i => (s.seq (4 * g + i)).ctx).dedup.map fun c => (c, (s.ctx c).tensors) }
/-- Add the boundary to the core's history. -/
def remember (before s : State) (g : Nat) : State :=
  { s with hist := s.hist.put g ((snapshot before g :: s.hist.getD g []).take 48) }
/-- The core's counters over one cycle run, its engines' activity with the bundle's (spec/19 R371, R374, R375). -/
def runCycle (w issue vec waits stretched : Nat) (c : Core) : Core :=
  let c := weigh c (w + engineWeight c)
  { c with cycle := c.cycle + 1, droop := c.droop - 1, mtxDue := c.mtxDue - 1, aeDue := c.aeDue - 1, beats := c.beats - 1,
           perf := { c.perf with issue := c.perf.issue + issue, vecsl := c.perf.vecsl + vec, waitsq := c.perf.waitsq + waits,
                                 drpcy := c.perf.drpcy + stretched } }
/-- A cycle that the droop rule pauses (spec/19 R373). -/
def pausedCycle (waits : Nat) (c : Core) : Core :=
  let c := weigh c 0
  { c with droop := c.droop - 1, perf := { c.perf with drpcy := c.perf.drpcy + 1, waitsq := c.perf.waitsq + waits } }
def isPaused (c : Core) : Bool := 0 < c.droop && c.droop ≤ 64 && c.droop % 2 = 0

/-- One cycle of core `g`. -/
def coreCycle (s : State) (g : Nat) : State :=
  let c := s.core g
  if isPaused c then s.modCore g (pausedCycle (waitingOn s g))
  else
    let stretched := if 64 < c.droop then 1 else 0
    match pick s (issueOrder s g) with
    | (t, none) =>
      if overLimit c (engineWeight c) then run .currentLimitFreezeCycle [g, engineWeight c] s
      else t.modCore g (runCycle 0 0 0 (waitingOn t g) stretched)
    | (t, some (n, w, v)) =>
      if overLimit c (w + engineWeight c) then run .currentLimitFreezeCycle [g, w + engineWeight c] s
      else (remember s t g).modCore g fun c =>
        runCycle w 1 v (waitingOn t g) stretched { c with last := sqOf n }

end Sys2Proof.Machine
end

