-- ==== Sys2Proof/Machine/Auto.lean ====
section
/-! DEFINITION. What the module does next when the environment has chosen no move: its cores in turn, then its own events
in a fixed order, then a nanosecond. Which enabled event comes first is no rule of the spec (log 15). -/
set_option linter.unusedVariables false
namespace Sys2Proof.Machine
open Sys2Proof

/-- An event with its operands. -/
abbrev Try := Instr × List Nat

/-- Events of one access in flight. -/
def accessTries (n id : Nat) : List Try :=
  [(.loadComplete, [n, id]), (.storeApplied, [n, id, 0]), (.storeApplied, [n, id, 1]), (.storeApplied, [n, id, 2]),
   (.storeApplied, [n, id, 3]), (.storeApplied, [n, id, 4]), (.bauOperation, [n, id]), (.fillComplete, [n, id]),
   (.pflushComplete, [n, id]), (.descriptorUnitComplete, [n, id]), (.calvedRetry, [n, id])]
/-- Events of one sequencer. -/
def seqTries (n : Nat) (q : Seq) : List Try :=
  (q.acc.map fun a => accessTries n a.id).flatten ++
  (List.range 8).map (fun p => (Instr.portInputArrival, [n, p])) ++
  [(.waitingWake, [n]), (.waittWake, [n]), (.mwaitTimeout, [n]), (.monitorTrigger, [n]), (.tbwaitReread, [n]),
   (.haltRetire, [n]), (.retireJoinUpdate, [n]), (.driftRingReplay, [n]), (.aeGateChunk, [n]), (.aeExchangeChunk, [n]),
   (.prebudExpiry, [n])]
/-- Events of one core. -/
def coreTries (g : Nat) (c : Core) : List Try :=
  [(.mmaExecute, [g]), (.mmaComplete, [g]), (.mcommitDrain, [g]), (.mzeroExecute, [g]), (.mstabApply, [g])] ++
  ((List.range 8).map fun p => (Instr.portGeneratorCycle, [g, p])) ++
  ((places c.bte).map fun e => match e.2 with
    | [] => []
    | x :: _ => [(Instr.copyHead, [g, e.1]), (.copyPieceStart, [g, e.1]), (.calvedRetry, [x.seq, x.id])] ++ x.flying.map fun f => (Instr.copyPieceComplete, [g, e.1, f.no])).flatten
/-- Events of one cluster's queue unit, in the order of its cycle (spec/13 R261). -/
def clusterTries (k : Nat) : List Try :=
  [(.cqAgeing, [k]), (.cqSpillRefill, [k, 0]), (.cqSpillRefill, [k, 1]), (.cqSpillRefill, [k, 2]), (.cqSpillRefill, [k, 3]),
   (.cqPop, [k]), (.cqWorkTake, [k]), (.cqPushAccept, [k])]
/-- Events of one context; those of its amplitude vectors by their tags. -/
def ctxTries (s : State) (c : Nat) (x : Ctx) : List Try :=
  [(.contextStopped, [c]), (.preemptStopped, [c]), (.contextSaveComplete, [c]), (.launchGrant, [c]), (.launchRelease, [c]),
   (.launchCompletion, [c]), (.preemptedResume, [c])] ++
  ((ctxDies x).map fun d => (Instr.opPointApply, [c, d])) ++
  (x.arrived.map fun e => (Instr.dsyncPhaseComplete, [c, e.1 / 16, e.1 % 16])) ++
  (x.seqs.map fun n => match (s.seq n).ae.cmd with
    | some _ =>
      let tag := ((cmdDesc (s.seq n)).map adTag).getD 0
      [(Instr.aeDigestExchange, [c, tag]), (.amapRegister, [c, tag]), (.aeCommandComplete, [c, tag])]
    | none => []).flatten
/-- Events of one ring. -/
def ringTries (f r : Nat) : List Try :=
  [(.ringFetch, [f, r]), (.gang, [f, r]), (.task, [f, r]), (.callPacket, [f, r]), (.retPacket, [f, r]), (.joinPacket, [f, r]),
   (.fencePacket, [f, r]), (.fenceReread, [f, r]), (.wakeAt, [f, r]), (.wakeAtRelease, [f, r]), (.inval, [f, r]),
   (.invalComplete, [f, r]), (.ckpt, [f, r]), (.ckptCopy, [f, r]), (.ckptComplete, [f, r])]
/-- The module's own events, in the order they are tried. -/
def tries (s : State) : List Try :=
  ((List.map (fun (e : Nat × Seq) => seqTries e.1 e.2) s.seqs).flatten) ++
  ((List.map (fun (e : Nat × Core) => coreTries e.1 e.2) s.cores).flatten) ++
  ((places s.msgs).map fun e => [(Instr.channelVectorArrival, [e.1]), (.channelCloseNotice, [e.1]), (.channelDeclarationNotice, [e.1]),
    (.channelCreditReturn, [e.1])]).flatten ++
  ((List.map (fun (e : Nat × Cluster) => clusterTries e.1) s.clusters).flatten) ++
  ((List.map (fun (e : Nat × Ctx) => ctxTries s e.1 e.2) s.ctxs).flatten) ++
  ((List.map (fun (e : Nat × Ring) => ringTries (e.1 / 64) (e.1 % 64)) s.rings).flatten) ++
  [(Instr.calvedRetry, [outside, 0])] ++
  ((List.range 16).map fun p => [(Instr.replayRequest, [p]), (.transactionArrival, [p])]).flatten

/-- The first event of a list that changes the state. -/
def firstMove (s : State) : List Try → Option State
  | [] => none
  | e :: t => let u := run e.1 e.2 s; if u = { s with args := e.2 } then firstMove s t else some u

/-- `ns` nanoseconds of device time pass (spec/19 R368); every cluster counts its energy (spec/22 R430), and one of a die
with a spill area the time without a running sequencer (R428). -/
def tick (s : State) (ns : Nat) : State :=
  let s := passTime s ((s.sys.dtime + ns) % 2 ^ 64)
  { s with clusters := (List.range 16).foldl (fun t k =>
      let c := t.getD k {}
      let busy := fld (s.die (k / 4)).gatecfg.toNat 63 48 = 0 || (List.range 128).any fun i => (s.seq (128 * k + i)).st = .running
      t.put k { c with energy := c.energy + Config.clusterEnergy k s.sys.dtime ns, quiet := if busy then 0 else c.quiet + ns }) s.clusters }

/-- Has a core cycles to run that no sequencer asks for: its engines' activity, and those that a droop of its die counts
(spec/19 R371, R373). -/
def Core.owes (c : Core) : Bool := 0 < c.mtxDue || 0 < c.aeDue || 0 < c.beats || 0 < c.droop
/-- Cores with a sequencer that runs or waits, or with such cycles, ascending. -/
def busyCores (s : State) : List Nat := sortBy id (((List.filter (fun (e : Nat × Seq) => e.2.st.live) s.seqs).map fun e => coreOf e.1) ++
  (List.filter (fun (e : Nat × Core) => e.2.owes) s.cores).map (·.1)).dedup
/-- The next move of a module left to itself: a cycle of the next busy core; after the last of them one event, or a
nanosecond where none is enabled. -/
def selfMove (s : State) : State :=
  match (busyCores s).find? fun g => decide (s.turn ≤ g) with
  | some g => coreCycle { s with turn := g + 1 } g
  | none =>
    let s := { s with turn := 0 }
    match firstMove s (tries s) with
    | some t => t
    | none => tick s 1

end Sys2Proof.Machine
end

