-- ==== Sys2Proof/Machine/Step.lean ====
section
/-! DEFINITION. One step of the module, and the placing of an instruction where the next step fetches it. -/
set_option linter.unusedVariables false
namespace Sys2Proof.Machine
open Sys2Proof

/-- One move: an event, a cycle of a core, or time. -/
def moveOnce (m : Move) (s : State) : Host.Outcome State Fault Refusal := match m with
  | .event i a => exec i { s with args := a }
  | .issue g => .next (coreCycle s g)
  | .tick ns => .next (tick s ns)

/-- Is the move the return of supply. -/
def Move.isPowerUp : Move → Bool
  | .event .powerUp _ => true
  | _ => false

/-- One step: the next move of the schedule; without one, what the module does by itself (log 15). A module without power
makes no step but its power-up (spec/21 R396). -/
def step (s : State) : Host.Outcome State Fault Refusal :=
  match s.schedule with
  | m :: rest =>
    if s.sys.power = .dormant && !m.isPowerUp then .fault .noPower else moveOnce m { s with schedule := rest }
  | [] => if s.sys.power = .dormant then .fault .noPower else .next (selfMove s)

/-! ### Placing one instruction (log 1) -/

/-- The slots of a bundle that holds a word: what a prefix needs stands after it (spec/02 R41 cases 6, 7 and 9). A
`scope` gets `fence.rel`; an `imx` gets `phase`, `addi`, or `ld.8` by its target class, where that class has immediates. -/
def bundleFor (w : BitVec 32) : List (BitVec 32) :=
  let alone := BitVec.ofNat 32 (w.toNat % 2 ^ 31)
  if isScope w then [alone, 0xD1900000#32]
  else if isImx w then match imxTarget w with
    | 1 => [alone, 0x91300000#32]
    | 2 => [alone, 0xA2000000#32]
    | 5 => [alone, 0xD0000000#32]
    | _ => [BitVec.ofNat 32 (w.toNat % 2 ^ 31 + 2 ^ 31)]
  else [BitVec.ofNat 32 (w.toNat % 2 ^ 31 + 2 ^ 31)]
/-- A list of words as instruction memory from address 0; zero words are not listed. -/
def imemOf (l : List (BitVec 32)) : Tab (BitVec 32) := (places l).filter fun e => e.2 ≠ 0

/-- Views that leave every register field accessible. -/
def wideViews : List View :=
  [⟨0, 512⟩, ⟨0x1000, 28672⟩, ⟨0x10000, 262144⟩, ⟨512, 512⟩, ⟨1024, 512⟩, ⟨0x1000, 28672⟩, ⟨0x1000, 28672⟩, ⟨0x1000, 28672⟩]
/-- SQ0 of core 0 as a gang launch releases it (spec/01 R26, R27), its code being `l`. -/
def State.placed (s : State) (l : List (BitVec 32)) : State :=
  let regs := ((s.core 0).regs.zero 0 0x80000).write (63 * 8) 8 0x40000
  { s with
    cores := s.cores.put 0 { s.core 0 with imem := imemOf l, owner := some 0, last := 3, regs := regs, droop := 0, twinOf := none }
    seqs := s.seqs.put 0 { st := .running, ctx := some 0, winSize := 0x80000, views := wideViews, dmr := 0xF, dmr0 := 0xF, withdrawn := 0 }
    ctxs := s.ctxs.put 0 { st := .released, packet := 1, asid := 1, mask := [s.sys.modid], seqs := [0], cores := [0], issued := true }
    clusters := s.clusters.put 0 { s.cluster 0 with gated := false }
    sys := { s.sys with power := .run }
    schedule := [], turn := 0, issue := none }
/-- The instruction stored where `step` fetches next: at the PC of a sequencer that a launch has just released (log 1). A
slot is one word of 32 bits, so nothing lies above it. -/
def State.withFetchWord (s : State) (nbits w : Nat) : State := s.placed (bundleFor (BitVec.ofNat 32 w))

end Sys2Proof.Machine
end

