-- ==== Sys2Proof/Safety.lean ====
section
/-! DEFINITION. What statements speak of: registers a slot may use, a slot's outcome, the memory invariant. -/
set_option linter.unusedVariables false
namespace Sys2Proof.Machine
open Sys2Proof

/-- A bundle is being issued whose slot names these registers and reads those: each named register is accessible
(spec/04 R64) and awaited by nothing (spec/01 R13), and none that is read holds an uncorrectable word (spec/09 R178). -/
def Operable (s : State) (k : Issue) (names reads : List Name) : Prop :=
  s.issue = some k ∧ (∀ x ∈ names, x.ok k.before = true ∧ x.ready k = true) ∧
    regAbort s k reads = none

/-- No check of a list fails. -/
def AllPass (l : List (Option Trap)) : Prop := ∀ c ∈ l, c = none

/-- A running sequencer with nothing at its boundary before its next bundle (spec/20 R383). -/
def Free (s : State) (n : Nat) : Prop :=
  (s.seq n).st = .running ∧ (s.seq n).ctx.isSome = true ∧ (s.cluster (clusterOf (coreOf n))).gated = false ∧
  (s.core (coreOf n)).twinOf = none ∧ (s.seq n).stopReq = false ∧ (s.seq n).causes = [] ∧ (s.seq n).halting = none ∧
  (s.seq n).redo = none ∧ uliPending (s.seq n) = none ∧ owedWait s n = none

/-- The words of the bundle at the PC of a sequencer. -/
def wordsAt (s : State) (n : Nat) : List (BitVec 32) :=
  if (s.seq n).pc < 0x40000 then bundleWords (s.core (coreOf n)) 8 (s.seq n).pc else []
/-- The slots that issue with the bundle at the PC: those encoded and the held repeats (spec/02 R38). -/
def itemsAt (s : State) (n : Nat) : List SlotItem := slotItems (wordsAt s n)
  (if inGap s n (s.seq n).pc then [] else ((s.seq n).bankOf (inConsumer s n (s.seq n).pc)).held)

/-- An event whose operands stand in the state answers a next state of which something holds. -/
def EventGives (i : Instr) (args : List Nat) (s : State) (p : State → Prop) : Prop :=
  s.args = args → ∃ t, exec i s = .next t ∧ p t
/-- The same for an event that reads none of its operands. -/
def Gives (i : Instr) (s : State) (p : State → Prop) : Prop := ∃ t, exec i s = .next t ∧ p t

/-- A three-operand scalar instruction completes with s[d] := f(s[a], s[b], s[d]); `old` says that it reads s[d]. -/
def ThreeOperand (i : Reg → Reg → Reg → Instr) (old : Bool) (f : Word → Word → Word → Word) : Prop :=
  ∀ s k d a b, Operable s k (snames [d, a, b]) (snames (if old then [d, a, b] else [a, b])) →
    exec (i d a b) s = .next (s.ws k d (f (k.rs a) (k.rs b) (k.rs d)))
/-- An instruction with an i8 immediate completes with s[d] := f(s[a], imm sign-extended, imm zero-extended). -/
def Immediate (i : Reg → Reg → BitVec 8 → Instr) (f : Word → Word → Word → Word) : Prop :=
  ∀ s k d a imm, Operable s k (snames [d, a]) (snames [a]) →
    exec (i d a imm) s = .next (s.ws k d (match k.ext with
      | none => f (k.rs a) (imm.signExtend 64) (imm.setWidth 64)
      | some x => f (k.rs a) ((x ++ imm).signExtend 64) ((x ++ imm).setWidth 64)))
/-- A shift by an immediate completes; its immediate is below 64 and an extension of it is zero. -/
def ShiftImmediate (i : Reg → Reg → BitVec 8 → Instr) (f : Word → Nat → Word) : Prop :=
  ∀ s k d a imm, Operable s k (snames [d, a]) (snames [a]) → (i d a imm).wf = true → (∀ x, k.ext = some x → x = 0) →
    exec (i d a imm) s = .next (s.ws k d (f (k.rs a) imm.toNat))
/-- A scalar float instruction completes with the pattern and flags of an operation on the patterns of its format. -/
def FloatOperand (i : Reg → Reg → Reg → Bool → Instr) (old : Bool) (g : Fmt → Nat → Bool → Nat → Nat → Nat → Nat × Nat) : Prop :=
  ∀ s k d a b p, Operable s k (snames [d, a, b]) (snames (if old then [d, a, b] else [a, b])) →
    exec (i d a b p) s = .next
      (let low := fun (x : Word) => if p then x.toNat else x.toNat % 2 ^ 32
       let r := g (if p then .f64 else .f32) (k.fmt.toNat / 2 ^ 15 % 4) (decide (k.fmt.toNat / 2 ^ 17 % 2 = 1))
         (low (k.rs a)) (low (k.rs b)) (low (k.rs d))
       (s.ws k d (BitVec.ofNat 64 r.1)).flag r.2)

/-! ### Vector slots -/

/-- Element `e` of a vector. -/
def elemAt (f : Fmt) (v : Vec) (e : Nat) : Nat := v.toNat / 2 ^ (Fp.width f * e) % 2 ^ Fp.width f
/-- The vector of `n` elements of `w` bits. -/
def vecFn (w n : Nat) (h : Nat → Nat) : Vec := BitVec.ofNat 4096 ((List.range n).map fun e => h e % 2 ^ w * 2 ^ (w * e)).sum
/-- The flags that `n` elements raise together. -/
def flagsOf (n : Nat) (h : Nat → Nat) : Nat := ((List.range n).map h).foldl (· ||| ·) 0

/-- A vector slot may run (spec/07 R127-R129): its registers are operable, every port it pops or pushes is ready and meets
no fault, no fence holds its port accesses back, and FMT.VF is a format it accepts. -/
def VecRuns (s : State) (k : Issue) (w : Nat) (dst src : List Reg) (old : Bool) (other reads : List Name) (formats : List Fmt) : Prop :=
  Operable s k (vnames w (dst ++ src) ++ other) (vnames w (src ++ if old then dst else []) ++ reads) ∧
  portPath s k.n src dst = true ∧ fmtVF k.fmt ∈ formats ∧ AllPass (portChecks s k.n src dst)

/-- The formats F and I of spec/07 R127. -/
def floats : List Fmt := [.f64, .f32, .f16, .bf16]
def ints : List Fmt := [.i8, .i16, .i32, .i64, .z8, .z16, .z32, .z64]
def anyFmt : List Fmt := floats ++ ints ++ [.f8e4, .f8e5, .i4, .i4x]
def notX : List Fmt := floats ++ ints ++ [.f8e4, .f8e5, .i4]

/-- After the pops of the source fields: the state, and the value of a source field. -/
def popped (s : State) (k : Issue) (src : List Reg) : State := (popAll s k.n (portsOf src)).1
def operand (s : State) (k : Issue) (w : Nat) (src : List Reg) (r : Reg) : Vec := srcVal k w (popAll s k.n (portsOf src)).2 r

/-- A vector instruction of three operands completes: element e of its destination is the first part of
g(format, RM, SE, vA[e], vB[e], old vD[e]), and the second parts are raised as flags. -/
def VecThree (i : Reg → Reg → Reg → BitVec 2 → Instr) (formats : List Fmt) (old : Bool)
    (g : Fmt → Nat → Bool → Nat → Nat → Nat → Nat × Nat) : Prop :=
  ∀ s k d a b m, VecRuns s k (viewOfM m) [d] [a, b] old [] [] formats →
    exec (i d a b m) s = .next
      (let w := viewOfM m
       let f := fmtVF k.fmt
       let h := fun e => g f (fmtRM k.fmt) (fmtSE k.fmt) (elemAt f (operand s k w [a, b] a) e) (elemAt f (operand s k w [a, b] b) e)
         (elemAt f (oldVal k w d) e)
       (putVec (popped s k [a, b]) k w d (vecFn (Fp.width f) (count f) fun e => (h e).1)).flag (flagsOf (count f) fun e => (h e).2))
/-- The same for one operand. -/
def VecTwo (i : Reg → Reg → BitVec 2 → Instr) (formats : List Fmt) (g : Fmt → Nat → Bool → Nat → Nat × Nat) : Prop :=
  ∀ s k d a m, VecRuns s k (viewOfM m) [d] [a] false [] [] formats →
    exec (i d a m) s = .next
      (let w := viewOfM m
       let f := fmtVF k.fmt
       let h := fun e => g f (fmtRM k.fmt) (fmtSE k.fmt) (elemAt f (operand s k w [a] a) e)
       (putVec (popped s k [a]) k w d (vecFn (Fp.width f) (count f) fun e => (h e).1)).flag (flagsOf (count f) fun e => (h e).2))
/-- A compare completes: bit i of kD is p of element i, or of every element of lane i; bits past the elements are zero. -/
def VecCompare (i : BitVec 3 → Reg → Reg → BitVec 2 → Instr) (p : Fmt → Nat → Nat → Bool) (fl : Fmt → Nat → Nat → Nat) : Prop :=
  ∀ s k kd a b m, VecRuns s k (viewOfM m) [] [a, b] false [] [] (floats ++ ints) →
    ∃ mask : Mask,
      exec (i kd a b m) s = .next
        (let w := viewOfM m
         let f := fmtVF k.fmt
         ((popped s k [a, b]).wk k kd mask).flag
           (flagsOf (count f) fun e => fl f (elemAt f (operand s k w [a, b] a) e) (elemAt f (operand s k w [a, b] b) e))) ∧
      ∀ j < 128, mask.getLsbD j =
        (let w := viewOfM m
         let f := fmtVF k.fmt
         let q := fun e => p f (elemAt f (operand s k w [a, b] a) e) (elemAt f (operand s k w [a, b] b) e)
         if 32 ≤ Fp.width f then decide (j < count f) && q j
         else (List.range (32 / Fp.width f)).all fun x => q (j * (32 / Fp.width f) + x))

/-- Node `i` of level `l` of the reduction tree of spec/05 R89 over positions `x`: its value, and the flags raised below it. -/
def treeOf (g : Nat → Nat → Nat × Nat) (x : Nat → Nat) : Nat → Nat → Nat × Nat
  | 0, i => (x i, 0)
  | l + 1, i =>
    let a := treeOf g x l (2 * i); let b := treeOf g x l (2 * i + 1); let r := g a.1 b.1
    (r.1, a.2 ||| b.2 ||| r.2)
/-- The combination of the first `c` nodes of level `l` by the down-sweep of spec/05 R90, and the flags of its last node. -/
def prefixOf (g : Nat → Nat → Nat × Nat) (x : Nat → Nat) : Nat → Nat → Nat → Nat × Nat
  | 0, _, _ => (0, 0)
  | fuel + 1, l, c =>
    if c % 2 = 0 then prefixOf g x fuel (l + 1) (c / 2)
    else if c = 1 then ((treeOf g x l 0).1, 0)
    else g (prefixOf g x fuel (l + 1) (c / 2)).1 (treeOf g x l (c - 1)).1

/-! ### Control -/

/-- The address `off` slots from the bundle's start, with an `imx` extension above the field (spec/06 R98). -/
def offsetTarget {w : Nat} (k : Issue) (off : BitVec w) : Word := BitVec.ofNat 64 k.pc + 4 * (match k.ext with
  | none => off.signExtend 64
  | some x => (x ++ off).signExtend 64)
/-- Control goes to an address after the bundle. -/
def goesTo (s : State) (t : Word) : State := s.modIssue fun k => { k with target := some t.toNat }
/-- Every held slot of the bundle's kernel is cleared. -/
def noHeld (s : State) (k : Issue) : State := s.modSeq k.n fun q =>
  q.setBank k.consumer { q.bankOf k.consumer with held := (q.bankOf k.consumer).held.filter fun e => 63 / 2 ^ (e.1 - 2) % 2 ≠ 1 }
/-- What the bundle does after its slots. -/
def thenAfter (s : State) (a : After) : State := s.modIssue fun k => { k with after := a }

/-! ### Accesses that a slot starts -/

/-- s[a] plus the sign-extended immediate of an RRI form (spec/11 R209). -/
def rriAddr (k : Issue) (a : Reg) (imm : BitVec 8) : Word := k.rs a + (match k.ext with
  | none => imm.signExtend 64
  | some x => (x ++ imm).signExtend 64)
/-- From `s` to `t` the sequencer of the bundle has put one access in flight: `a` with the bundle's place and scope under
a fresh identity. No other access, register, mask, byte of memory, sequencer or context changes, and the bundle goes on. -/
def Starts (s : State) (k : Issue) (a : Access) (t : State) : Prop :=
  (∃ id after wide, s.nextId ≤ id ∧ (t.seq k.n).acc = (s.seq k.n).acc ++
    [{ a with id := id, scope := k.scope, after := after, pc := k.pc, slot := k.pos, held := k.held, wide := wide }]) ∧
  t.mem = s.mem ∧ t.keyOf = s.keyOf ∧ t.issue = s.issue ∧ t.ctxs = s.ctxs ∧ (∀ g, (t.core g).regs = (s.core g).regs) ∧
  (t.seq k.n).masks = (s.seq k.n).masks ∧ (t.seq k.n).pc = (s.seq k.n).pc ∧ (t.seq k.n).st = (s.seq k.n).st ∧
  (∀ m, m ≠ k.n → t.seq m = s.seq m)
/-- Where a vector load delivers (spec/11 R215, spec/13 R253, R254, spec/15 R295): a register, or a port; a port whose pushes
write memory takes its entry, still without a vector, as the load issues, a forwarded one without KEEP takes none, and an
exhausted or absent one discards the vector. `s` is the state in which the load issues, `t` the one it leaves. -/
def VectorGoes (s t : State) (k : Issue) (w : Nat) (d : Reg) (dst : Dest) : Prop :=
  (portOf d = none → dst = .bytes ((viewAt k.before w).base + 512 * d.toNat) 512) ∧
  ∀ p, portOf d = some p → let x := (s.seq k.n).ports.getD p {}
    (portLive x true = false → dst = .discard ∧ (t.seq k.n).portst = (s.seq k.n).portst ||| BitVec.ofNat 16 (2 ^ (8 + p))) ∧
    (portLive x true = true → ∃ id, dst = .port p id ∧ s.nextId ≤ id ∧
      (pushWrites s k.n p = true → ∃ e, ((t.seq k.n).ports.getD p {}).buf.getLast? = some e ∧
        ((t.seq k.n).ports.getD p {}).buf.length = x.buf.length + 1 ∧ e.id = id ∧ e.vec = none) ∧
      (pushWrites s k.n p = false → ((t.seq k.n).ports.getD p {}).buf.length = x.buf.length))
/-- A scalar load of `n` bytes starts (spec/11 R209-R211, R214). -/
def LoadStarts (i : Bool → Bool → Reg → Reg → BitVec 8 → Instr) (n : Nat) (signed : Bool) : Prop :=
  ∀ s k f o d a imm l, Operable s k (snames [d, a]) (snames [a]) → (s.seq k.n).ld < 63 → heldBack s k.n .s false = false →
    (rriAddr k a imm).toNat % n = 0 → dataSegs s k.n .s { r := true } (rriAddr k a imm) n = .ok l →
    ∃ t, exec (i f o d a imm) s = .next t ∧ (t.seq k.n).ld = (s.seq k.n).ld + 1 ∧
      Starts s k { id := 0, path := .s, kind := .load (scalarDest k d) n signed, fresh := f, acq := o, segs := l } t
/-- A scalar store of `n` bytes starts; a 64-bit one only outside the core's own aperture (spec/11 R226). -/
def StoreStarts (i : Bool → Reg → Reg → BitVec 8 → Instr) (n : Nat) : Prop :=
  ∀ s k o d a imm l, Operable s k (snames [d, a]) (snames [d, a]) → (s.seq k.n).st_ < 63 → heldBack s k.n .s true = false →
    (rriAddr k a imm).toNat % n = 0 → dataSegs s k.n .s { w := true } (rriAddr k a imm) n = .ok l →
    (n = 8 → apertureOf s k.n (rriAddr k a imm) = none) →
    ∃ t, exec (i o d a imm) s = .next t ∧ (t.seq k.n).st_ = (s.seq k.n).st_ + 1 ∧
      Starts s k { id := 0, path := .s, kind := .store, rel := o, data := (k.rs d).toNat % 2 ^ (8 * n), segs := l } t
/-- A load or store whose address is misaligned, or whose bytes do not translate, raises that trap in phase 4. -/
def LoadTraps (i : Bool → Bool → Reg → Reg → BitVec 8 → Instr) (n : Nat) : Prop :=
  ∀ s k f o d a imm, Operable s k (snames [d, a]) (snames [a]) → (s.seq k.n).ld < 63 → heldBack s k.n .s false = false →
    ((rriAddr k a imm).toNat % n ≠ 0 → exec (i f o d a imm) s = .next (s.raise 4 { cause := .misaligned, addr := (rriAddr k a imm).toNat })) ∧
    (∀ e, (rriAddr k a imm).toNat % n = 0 → dataSegs s k.n .s { r := true } (rriAddr k a imm) n = .error e →
      exec (i f o d a imm) s = .next (s.raise 4 (e.trap 0)))
def StoreTraps (i : Bool → Reg → Reg → BitVec 8 → Instr) (n : Nat) : Prop :=
  ∀ s k o d a imm, Operable s k (snames [d, a]) (snames [d, a]) → (s.seq k.n).st_ < 63 → heldBack s k.n .s true = false →
    (n = 8 → apertureOf s k.n (rriAddr k a imm) = none) →
    ((rriAddr k a imm).toNat % n ≠ 0 → exec (i o d a imm) s = .next (s.raise 4 { cause := .misaligned, addr := (rriAddr k a imm).toNat })) ∧
    (∀ e, (rriAddr k a imm).toNat % n = 0 → dataSegs s k.n .s { w := true } (rriAddr k a imm) n = .error e →
      exec (i o d a imm) s = .next (s.raise 4 (e.trap 1)))
/-- A bank atomic starts (spec/11 R217-R219): it acquires and releases, and its old value comes back to s[d]. -/
def BankStarts (i : Reg → Reg → Reg → BankTy → Instr) (op : BankOp) : Prop :=
  ∀ s k d a b ty l, Operable s k (snames [d, a, b]) (snames (if op = .cas then [d, a, b] else [a, b])) → (s.seq k.n).ld < 63 →
    heldBack s k.n .b true = false → (k.rs a).toNat % (if ty = .i64 then 8 else 4) = 0 →
    dataSegs s k.n .b { r := true, w := true } (k.rs a) (if ty = .i64 then 8 else 4) = .ok l →
    (∀ x ∈ l, bauHomed (localPa x.pa) = true) →
    ∃ t, exec (i d a b ty) s = .next t ∧ (t.seq k.n).ld = (s.seq k.n).ld + 1 ∧
      Starts s k { id := 0, path := .b, kind := .bank op ty (k.rs b) (k.rs d) (scalarDest k d), acq := true, rel := true, segs := l } t
/-- A barrier or join update starts (spec/19 R362, R363, spec/13 R267): on path B, acquiring and releasing. -/
def UpdateStarts (i : Reg → Reg → Instr) (al : Nat) (ok : Issue → Reg → Reg → Prop) (kind : Issue → Reg → Reg → AccKind)
    (sc : Issue → Scope) : Prop :=
  ∀ s k a b l, Operable s k (snames [a, b]) (snames [a, b]) → (s.seq k.n).st_ < 63 → heldBack s k.n .b true = false → ok k a b →
    (k.rs a).toNat % al = 0 → barrierSegs s k.n { r := true, w := true } (k.rs a) al = .ok l →
    (∀ x ∈ l, x.fab = false ∧ bauHomed (localPa x.pa) = true) →
    ∃ t, exec (i a b) s = .next t ∧ (t.seq k.n).st_ = (s.seq k.n).st_ + 1 ∧
      Starts s { k with scope := sc k } { id := 0, path := .b, kind := kind k a b, acq := true, rel := true, segs := l } t

/-! ### Engines that a slot starts -/

/-- The module's memory, its registers, every other sequencer, the contexts and the bundle are as they were. -/
def OnlyUnits (s t : State) (n : Nat) : Prop :=
  t.mem = s.mem ∧ t.keyOf = s.keyOf ∧ t.poison = s.poison ∧ t.issue = s.issue ∧ t.ctxs = s.ctxs ∧ t.clusters = s.clusters ∧
  (∀ g, (t.core g).regs = (s.core g).regs) ∧ (∀ m, m ≠ n → t.seq m = s.seq m) ∧ (t.seq n).masks = (s.seq n).masks ∧
  (t.seq n).pc = (s.seq n).pc ∧ (t.seq n).st = (s.seq n).st ∧ (t.seq n).chans = (s.seq n).chans
/-- Two matrix queues hold the same operations; which of them have begun may differ. -/
def SameQueue (l m : List MtxEntry) : Prop := l.map (fun e => { e with begun := false }) = m.map fun e => { e with begun := false }
/-- One entry joins the end of the matrix queue under a fresh identity and raises MT; `ls` is what becomes of the slots. -/
def Queues (s : State) (k : Issue) (e : MtxEntry) (ls : List Landing) (t : State) : Prop :=
  (∃ id after, s.nextId ≤ id ∧ SameQueue (t.core (coreOf k.n)).mq ((s.core (coreOf k.n)).mq ++
    [{ e with id := id, seq := k.n, fmt := k.fmt, after := after, pc := k.pc, slot := k.pos, held := k.held }])) ∧
  (t.core (coreOf k.n)).ls = ls ∧ (t.seq k.n).mt = (s.seq k.n).mt + 1 ∧ (t.seq k.n).acc = (s.seq k.n).acc ∧
  OnlyUnits s t k.n ∧ (∀ g, g ≠ coreOf k.n → t.core g = s.core g)
/-- Room in the queue of the core and in MT, and no fence in the way. -/
def MatrixRoom (s : State) (k : Issue) : Prop :=
  (s.core (coreOf k.n)).mq.length < 4 ∧ (s.seq k.n).mt < 63 ∧ heldBack s k.n .m false = false
/-- An `mma` starts (spec/08 R155-R160): its formats and its record are those the engine accepts, it has a slot of the
accumulator format, its addresses are aligned, and under FMT.SC the scales of its operands are in the table. `dr` says that
A comes from the drain latch. -/
def MmaStarts (i : Bool → Bool → BitVec 4 → BitVec 3 → Reg → Reg → Instr) (dr : Bool) : Prop :=
  ∀ (s : State) (k : Issue) (z neg : Bool) (r : BitVec 4) (h : BitVec 3) (a b : Reg) (fa fb : Fmt) (p : Nat),
    Operable s k ([.tile r.toNat, .shape h.toNat] ++ snames (if dr then [b] else [a, b])) ([.shape h.toNat] ++ snames (if dr then [b] else [a, b])) →
    MatrixRoom s k → mtxFmts (shapeAt k h.toNat) k.fmt = (fa, fb) → mtxFmtOk fa fb k.fmt dr = true →
    shapeValid (shapeAt k h.toNat) fa fb (fmtSC k.fmt) dr = true →
    (slotOf (s.core (coreOf k.n)) k.n r.toNat = some p ∧ (landingAt (s.core (coreOf k.n)) p).int_ = fmtACC k.fmt ∨
      slotOf (s.core (coreOf k.n)) k.n r.toNat = none ∧ slotFree (s.core (coreOf k.n)) k.n = some p) →
    (dr = false → Fp.width fa = 16 → (k.rs a).toNat % 2 = 0) → (Fp.width fb = 16 → (k.rs b).toNat % 2 = 0) →
    let x := shapeAt k h.toNat
    let tensor := fun id => tensorIssued s (k.before.ctx.getD 0) id
    let sa := fmtSC k.fmt && shSA x && !dr
    let sb := fmtSC k.fmt && shSB x
    (sa = true → scaleOk (tensor (shTidA x)) (k.rs a).toNat (shRSA x) (shESA x) (shK x) (shM x) (Fp.width fa = 4) = true) →
    (sb = true → scaleOk (tensor (shTidB x)) (k.rs b).toNat (shRSB x) (shESB x) (shK x) (shN x) (Fp.width fb = 4) = true) →
    ∃ t, exec (i z neg r h a b) s = .next t ∧
      Queues s k { id := 0, seq := 0, tile := r.toNat, ls := some p, opens := (slotOf (s.core (coreOf k.n)) k.n r.toNat).isNone
                   off := (viewAt k.before 2).base + 16384 * r.toNat
                   op := .mma z neg dr x fa fb (if sa then tensor (shTidA x) else none) (if sb then tensor (shTidB x) else none)
                     (if dr then 0 else (k.rs a).toNat) (k.rs b).toNat }
        (if (slotOf (s.core (coreOf k.n)) k.n r.toNat).isNone then upd (s.core (coreOf k.n)).ls p fun l =>
            { l with tile := some r.toNat, int_ := fmtACC k.fmt, partial_ := false } else (s.core (coreOf k.n)).ls) t
/-- An `mcommit` or `mzero` starts: the slot that holds the tile, if one does, holds it no more (spec/08 R160). -/
def TileFreed (i : BitVec 4 → Instr) (op : Bool → MtxOp) : Prop :=
  ∀ (s : State) (k : Issue) (r : BitVec 4), Operable s k [.tile r.toNat] [] → MatrixRoom s k →
    let held := slotOf (s.core (coreOf k.n)) k.n r.toNat
    ∃ t acc, exec (i r) s = .next t ∧
      (held = none → acc = fmtACC k.fmt) ∧ (∀ p, held = some p → acc = (landingAt (s.core (coreOf k.n)) p).int_) ∧
      Queues s k { id := 0, seq := 0, op := op held.isSome, tile := r.toNat, ls := held, opens := acc, off := (viewAt k.before 2).base + 16384 * r.toNat }
        (match held with
          | some p => upd (s.core (coreOf k.n)).ls p fun l => { l with tile := none }
          | none => (s.core (coreOf k.n)).ls) t
/-- A command of the amplitude engine starts (spec/12 R237, R238): the engine is idle, the qubits are below N, the address
is aligned and its bytes translate on path A. -/
def AmplitudeStarts (i : Instr) (regs : List Reg) (op : AeOp) (s : State) (k : Issue) (addr : Nat) (qubits : List Nat) (al len base : Nat) (nd : Needs) : Prop :=
  ∀ (r : AeReg) (l : List Seg), Operable s k (snames regs) (snames regs) → (s.seq k.n).ae.cmd = none → (s.seq k.n).xf < 63 →
    heldBack s k.n .a true = false → (op ≠ .map → (s.seq k.n).ae.reg = some r) → (op ≠ .map → ∀ q ∈ qubits, q < adN r.desc) →
    (∀ m, op = .gate m → qubits.Nodup ∧ m ≤ adL r.desc) → addr % al = 0 → (op = .map → base % 4096 = 0) →
    (len = 0 → l = []) → (len ≠ 0 → segs s (coreOf k.n) .shared (asidOf s k.n) .a nd addr len = .ok l) →
    ∃ t c, exec i s = .next t ∧ (t.seq k.n).ae = { (s.seq k.n).ae with cmd := some c, seqno := if op = .map then (s.seq k.n).ae.seqno else ((s.seq k.n).ae.seqno + 1) % 2 ^ 32 } ∧
      c.op = op ∧ c.addr = addr ∧ c.qubits = qubits ∧ c.seg = l ∧ c.matrix = base ∧ c.started = false ∧ c.done = 0 ∧ c.flags = 0 ∧ c.pc = k.pc ∧ c.slot = k.pos ∧
      (t.seq k.n).aeprog = op.code * 2 ^ 32 ∧ (t.seq k.n).xf = (s.seq k.n).xf + 1 ∧ (t.seq k.n).acc = (s.seq k.n).acc ∧ OnlyUnits s t k.n
/-- A receive completes (spec/16 R306): the oldest vector leaves the end's buffer and its credit goes back; on an end that
the peer has closed and that holds nothing, the vector reads zero. `two` says that it combines the vector with vB. -/
def Receives (i : Reg → Reg → Reg → BitVec 2 → Instr) (two : Bool) (formats : List Fmt) (g : Fmt → Nat → Bool → Nat → Nat → Nat)
    (fl : Fmt → Nat → Bool → Nat → Nat → Nat) : Prop :=
  ∀ (s : State) (k : Issue) (c d b : Reg) (m : BitVec 2), let src := if two then [b] else []
    Operable s k (vnames (viewOfM m) (d :: src)) (vnames (viewOfM m) src) → portPath s k.n src [d] = true → AllPass (portChecks s k.n src [d]) →
    let x := chanOf k.before c.toNat
    let f := ceFmt x.entry
    let y := fun e => elemAt f (operand s k (viewOfM m) src b) e
    let u := popped s k src
    let give := fun (u : State) (v : Vec) => Host.Outcome.next (φ := Fault) (ρ := Refusal) ((putVec u k (viewOfM m) d
      (vecFn (Fp.width f) (count f) fun e => g f (fmtRM k.fmt) (fmtSE k.fmt) (y e) (elemAt f v e))).flag
      (flagsOf (count f) fun e => fl f (fmtRM k.fmt) (fmtSE k.fmt) (y e) (elemAt f v e)))
    chanFault k.before c.toNat false = none → f ∈ formats → (chanOf (u.seq k.n) c.toNat).buf = x.buf →
    (∀ v l, x.buf = v :: l → exec (i c d b m) s = give (returnCredits (u.modSeq k.n fun q => modChan q c.toNat fun z => { z with buf := l }) k.n c.toNat 1) v) ∧
    (x.buf = [] → x.peercl = true → exec (i c d b m) s = give u 0)

/-! ### Accesses that end -/

/-- The bundle being issued notes a slot's result at `d`, and nothing else of it differs (spec/02 R29). -/
def Notes (s t : State) (k : Issue) (d : Dest) : Prop := t.issue = s.issue.map fun b => { b with wrote := b.wrote ++ [(k.cls, d)] }
/-- The operation `id` of a sequencer is over: it is in flight no more, nothing else of its list is lost or added, and its
counter has fallen by one (spec/19 R358). -/
def Over (s t : State) (n id : Nat) (c : Ctr) : Prop :=
  (∀ x ∈ (t.seq n).acc, x.id ≠ id ∧ x ∈ (s.seq n).acc) ∧ (∀ x ∈ (s.seq n).acc, x.id ≠ id → x ∈ (t.seq n).acc) ∧ (t.seq n).ctr c = (s.seq n).ctr c - 1
/-- The same of one that acquired: later loads of its list may be read again. -/
def OverAcq (s t : State) (n id : Nat) (c : Ctr) : Prop :=
  (∀ x ∈ (t.seq n).acc, x.id ≠ id ∧ ∃ y ∈ (s.seq n).acc, { y with home := x.home } = x) ∧
  (∀ y ∈ (s.seq n).acc, y.id ≠ id → ∃ x ∈ (t.seq n).acc, { y with home := x.home } = x) ∧ (t.seq n).ctr c = (s.seq n).ctr c - 1
/-- A segment of a memory of this module without replica, with nothing on its way to one, without an uncorrectable granule,
and whose sectors are stored under its key. -/
def PlainSeg (s : State) (x : Seg) : Prop :=
  x.fab = false ∧ x.at_ = 0 ∧ 0 < x.len ∧ localPa x.pa + x.len ≤ 0x030000000000 ∧
  (∀ i < x.len, replicaEntry s (localPa x.pa + i) = none) ∧
  (∀ u ∈ s.updates, meet u.pa u.len (localPa x.pa) x.len = false) ∧ poisoned s (localPa x.pa) x.len = false ∧
  (∀ i < x.len, encrypted (localPa x.pa + i) = true → s.keyOf.getD ((localPa x.pa + i) / 32) 0 = x.key)
/-- `len` bytes at an address hold a number, and every other byte of memory is as it was. -/
def Stored (s t : State) (a len v : Nat) : Prop :=
  t.mem.readNat a len = v % 2 ^ (8 * len) ∧ ∀ b, b < a ∨ a + len ≤ b → t.mem.get b = s.mem.get b
/-- A segment whose bytes are the first of its datum. -/
def firstBytes (x : Seg) : Seg := { x with at_ := 0 }
/-- `k` pieces of `b` bytes, each a plain segment, no two of which meet. -/
def Pieces (s : State) (k b : Nat) (y : Nat → Seg) : Prop := ∀ j < k, PlainSeg s (firstBytes (y j)) ∧ (y j).at_ = j * b ∧ (y j).len = b ∧
  ∀ i < j, localPa (y i).pa + b ≤ localPa (y j).pa ∨ localPa (y j).pa + b ≤ localPa (y i).pa
/-- What a piece holds. -/
def pieceValue (s : State) (x : Seg) : Nat := physRead s (localPa x.pa) x.len x.key
/-- Every byte outside the pieces is as it was. -/
def ElseSame (s t : State) (k : Nat) (y : Nat → Seg) : Prop :=
  ∀ a, (∀ j < k, a < localPa (y j).pa ∨ localPa (y j).pa + (y j).len ≤ a) → t.mem.get a = s.mem.get a
/-- No register of a core, and no byte of memory, has changed. -/
def SameBytes (s t : State) : Prop := t.mem = s.mem ∧ t.keyOf = s.keyOf ∧ ∀ g, (t.core g).regs = (s.core g).regs
/-- What a load of one line reads on path S (spec/09 R181): the L1's copy, unless it is fresh or not cacheable. -/
def lineValue (s : State) (g : Nat) (x : Seg) (fresh : Bool) : Nat :=
  let pa := localPa x.pa
  let cacheable := x.cache && (match regionOf pa with
    | .hbm _ | .staging _ _ => true
    | _ => false)
  match (if cacheable && !fresh then (s.core g).l1.find? (fun l => l.pa = pa / 128 * 128 && l.key = x.key) else none) with
  | some l => l.data.toNat / 2 ^ (8 * (pa % 128)) % 2 ^ (8 * x.len)
  | none => physRead s pa x.len x.key

/-- Only cached translations and their counters differ. -/
def TlbsDiffer (s u : State) : Prop :=
  u = { s with cores := u.cores, dies := u.dies } ∧ ∀ g, (u.core g).regs = (s.core g).regs ∧ (u.core g).l1 = (s.core g).l1

/-- The operation at the head of a core's matrix queue is over, and MT has fallen (spec/08 R170). -/
def HeadDone (s t : State) (g n : Nat) (rest : List MtxEntry) : Prop :=
  SameQueue (t.core g).mq rest ∧ (t.seq n).mt = (s.seq n).mt - 1 ∧ t.mem = s.mem ∧ (t.seq n).acc = (s.seq n).acc ∧ ∀ m, m ≠ n → t.seq m = s.seq m

/-- Is a window byte one that slots of higher class of the entry's bundle wrote (spec/02 R29). -/
def Skipped (e : MtxEntry) (b : Nat) : Prop := ∃ r ∈ e.skip, r.1 ≤ b ∧ b < r.1 + r.2
/-- The tile of an entry of core `g` takes the bytes of a number, but for the skipped ones; no other register byte changes. -/
def TileTakes (s t : State) (g : Nat) (e : MtxEntry) (v : Nat) : Prop :=
  let a := (s.seq e.seq).winBase
  (∀ b < 16384, ¬ Skipped e (e.off + b) → ((t.core g).regs.get (a + e.off + b)).toNat = v / 2 ^ (8 * b) % 256) ∧
  (∀ b < 16384, Skipped e (e.off + b) → (t.core g).regs.get (a + e.off + b) = (s.core g).regs.get (a + e.off + b)) ∧
  (∀ b, b < a + e.off ∨ a + e.off + 16384 ≤ b → (t.core g).regs.get b = (s.core g).regs.get b)

/-- Where ISSUED of a ring stands (spec/14 R278). -/
def issuedAt (f r : Nat) : Nat := 0x1FFFF00000 + 8 * (64 * f + r)
/-- A ring's ISSUED can be written as the front end writes it: the granule of its eight bytes is not poisoned, its sector is
stored under no key, and no watch lies on its line. -/
def IssuedPlain (s : State) (f r : Nat) : Prop :=
  poisoned s (issuedAt f r) 8 = false ∧ s.keyOf.getD (issuedAt f r / 32) 0 = 0 ∧ ∀ e ∈ s.seqs, e.2.watch.all (fun w => !meet (issuedAt f r) 8 w.1 128) = true
/-- HEAD of a ring passes its first packet: its index and ISSUED, in the ring and in the front-end state area, take the
packet's next position (spec/14 R278). -/
def HeadPasses (s t : State) (f r : Nat) (p : Packet) : Prop :=
  (t.ring f r).head = p.next.1 ∧ (t.ring f r).stack = p.next.2 ∧ (t.ring f r).issued = p.next.1 ∧ (t.ring f r).ahead = (s.ring f r).ahead.drop 1 ∧
  (t.ring f r).hold = none ∧ (IssuedPlain s f r → Stored s t (issuedAt f r) 8 p.next.1 ∧ t.seqs = s.seqs) ∧ ∀ g, (t.core g).regs = (s.core g).regs
/-- The packet at HEAD of a served ring that nothing holds. -/
def AtHead (s : State) (f r : Nat) (p : Packet) (c : Option Nat) : Prop :=
  f < 64 ∧ r < 64 ∧ ringOn s f r = true ∧ (s.ring f r).hold = none ∧ (s.ring f r).ahead.head? = some (p, c)
/-- Nothing but a ring differs, and what is kept of translations. -/
def RingOnly (s t : State) : Prop := ∃ u, TlbsDiffer s u ∧ t = { u with rings := t.rings }

/-- The message after `pre` may arrive at a channel of sequencer `n` of context `c`: nothing of its channel is before it,
and the sequencer is the context's (spec/16 R309, R312, R314). -/
def MayArrive (s : State) (pre : List Flight) (f : Flight) (post : List Flight) (n c : Nat) : Prop :=
  s.msgs = pre ++ f :: post ∧ (∀ x ∈ pre, x.msg.dst ≠ f.msg.dst ∨ x.msg.src ≠ f.msg.src) ∧ f.msg.dst.1 / 2048 = s.sys.modid ∧ f.msg.dst.1 % 2048 = n ∧
  ctxOfEnd s n (f.launch, f.fabric) = some c ∧ (s.seq n).ctx = some c
/-- Is a message for the declaration that an end has now (spec/18 R351). -/
def ForNow (f : Flight) (x : Chan) : Prop := f.gen = 0 ∨ x.gen = 0 ∨ x.gen = f.gen

/-- A waiting sequencer runs again: no other field of it, and no other sequencer, has changed. -/
def Woken (s t : State) (n : Nat) : Prop :=
  t.seq n = { s.seq n with st := .running, wait := none } ∧ (∀ m, m ≠ n → t.seq m = s.seq m) ∧ SameBytes s t ∧ t.sys = s.sys ∧ t.ctxs = s.ctxs

/-- A sequencer is in no `mwait`. -/
def NoMwait (q : Seq) : Prop := ∀ d u, q.wait ≠ some (.mwait d u)
/-- Nothing but the sequencer's causes differs. -/
def OnlyCause (s t : State) (n : Nat) (x : Trap) : Prop :=
  (t.seq n).causes = (s.seq n).causes ++ [x] ∧ (∀ m, m ≠ n → (t.seq m).causes = (s.seq m).causes) ∧ SameBytes s t
/-- A context is on its way: function `f` may command it. -/
def Commands (s : State) (f c : Nat) : Prop := (s.func f).cstat % 4 ≠ 1 ∧ ctxAlive s c = true ∧ (s.ctx c).func = f

/-- No cached translation of any core or die is one of those that `p` names; every other one stays, and memory too. -/
def Purged (s t : State) (p : Tlb → Bool) : Prop :=
  (∀ g, (t.core g).itlb = (s.core g).itlb.filter (fun e => !p e) ∧ (t.core g).dtlb = (s.core g).dtlb.filter (fun e => !p e) ∧
    (t.core g).etlb = (s.core g).etlb.filter fun e => !p e) ∧ (∀ d, (t.die d).tlb = (s.die d).tlb.filter fun e => !p e) ∧ t.mem = s.mem
/-- An answer leaves the module, and nothing else of it changes. -/
def Answers (s t : State) (o : Output) : Prop := t = { s with outbox := s.outbox ++ [o] }
/-- Sequencers may differ in the triggers of their watches alone. -/
def SameSeqs (s t : State) : Prop := ∀ n, t.seq n = { s.seq n with watch := (t.seq n).watch }

/-- The four dies' points are the lower of what their launches ask for and their caps (spec/22 R426, R429). -/
def PointsSettled (t : State) : Prop := ∀ d < 4, (t.die d).point = Nat.min (requestedPoint t d) (cappedPoint t d)
/-- What a module without power keeps: the firn tier, the boot flash and fuses, and its place. -/
def KeptDark (s t : State) : Prop :=
  (∀ a, inFirn a = true → t.mem.get a = s.mem.get a) ∧ (∀ a, inFirn a = false → t.mem.get a = 0) ∧ t.cores = [] ∧ t.seqs = [] ∧ t.ctxs = [] ∧ t.rings = [] ∧ t.funcs = [] ∧
  t.sys.modid = s.sys.modid ∧ t.sys.slots = s.sys.slots ∧ t.sys.firn = s.sys.firn ∧ t.sys.asids = [] ∧ t.sys.dtime = 0

/-- The bytes of a moraine's slot that a thaw reads. -/
def Thawing (s : State) (z : Thaw) (stage : Nat) : Prop := s.sys.power = .thaw ∧ s.sys.thaw = some z ∧ z.stage = stage
/-- Record `i` of a moraine is the first of context `c`, which the firn tier keeps with what a whole drain of it held. -/
def RecordOf (s : State) (z : Thaw) (i c : Nat) (x : Ctx) (v : Option SaveImage) : Prop :=
  recordOf s z.slot c = some i ∧ s.sys.firn.find? (z.slot * 65536 + c) = some (x, v)

end Sys2Proof.Machine
end

