-- ==== Sys2Proof/Certificates/Slice0/Obligations.lean ====
section
/-! DEFINITION. The statements for the provers. -/
set_option linter.unusedVariables false
open Sys2Proof Sys2Proof.Machine

/-! ### Encoding -/

/-- spec/02 R30, R33-R36, R46, R47 and the layouts of each instruction: the decoder reads every well-formed instruction
back from its word, whatever the bundle's bits S and H are. -/
def Obligations.DecodeOfEncode : Prop := ∀ (i : Instr) (w : Nat) (stop hold : Bool), i.wf = true → encode i = some w →
  decodeSlot (w + stop.toNat * 2 ^ 31 + hold.toNat * 2 ^ 27) = .ok i ∧ w < 2 ^ 31 ∧ slotHold w = false ∧
  decodeTableWord 32 w = some i

/-- spec/02 R42, R43: what the decoder accepts is well formed, and its word is the encoder's but for S and H: no other
word is an instruction. -/
def Obligations.EncodeOfDecode : Prop := ∀ (w : Nat) (i : Instr), w < 2 ^ 32 → decodeSlot w = .ok i →
  i.wf = true ∧ encode i = some (slotClass w * 2 ^ 28 + slotOp w * 2 ^ 20 + slotOperand w)

/-- Words that spec/ writes out for its examples, with the instructions they stand for. -/
def Obligations.SpecWordsDecode : Prop :=
  decodeSlot 0xA281D678 = .ok (.li 7 0x1678) ∧ decodeSlot 0x22010440 = .ok (.addi 4 4 64) ∧
  decodeSlot 0xC011020A = .ok (.mma false true 1 0 4 5) ∧ decodeSlot 0x91F1831C = .ok (.tbwait 6 3 7 false) ∧
  decodeSlot 0xF0104201 = .ok (.recv 1 2 1) ∧ decodeSlot 0xE0608300 = .ok (.amap 2 3) ∧
  decodeSlot 0xB0207800 = .ok (.vmul 1 56 0 0) ∧ decodeSlot 0x001448D1 = .ok (.imx 2 0x48D1)

/-! ### A step -/

/-- A step runs the instruction that stands at the PC (spec/01 R13, R14, spec/02 R29, R38, spec/20 R383): a running
sequencer with nothing at its boundary runs the slots of its bundle in class order, held repeats in their classes' places,
each slot being `exec` of the instruction its word decodes to, and then closes the bundle; a step for the core closes the
turn so. For a bundle of one slot that is `exec` of that one instruction. A move that is an event is `exec` of it. Nothing is
wrong with the PC or the words of the bundle (spec/02 R28, R45). -/
def Obligations.StepRunsDecoded : Prop :=
  (∀ s n, Free s n → fetchFault (s.core (coreOf n)) (s.seq n).pc (wordsAt s n) = none →
    turnOf s n = closeTurn s ((itemsAt s n).foldl runSlot (settleT (beginIssue s n (wordsAt s n)) n)) n (itemsAt s n)) ∧
  (∀ s x i, decodeSlot x.word.toNat = .ok i → ∀ u, exec i (s.modIssue (atSlot x)) = .next u → runSlot s x = u) ∧
  (∀ s n w i x, Free s n → wordsAt s n = [w] → fetchFault (s.core (coreOf n)) (s.seq n).pc [w] = none → itemsAt s n = [x] → x.word = w →
    decodeSlot w.toNat = .ok i → ∀ u, exec i ((settleT (beginIssue s n [w]) n).modIssue (atSlot x)) = .next u →
    turnOf s n = closeTurn s u n [x]) ∧
  (∀ s g rest n l u w v, s.schedule = .issue g :: rest → s.sys.power ≠ .dormant → isPaused (s.core g) = false →
    issueOrder s g = n :: l → turnOf { s with schedule := rest } n = .issued u w v → overLimit (s.core g) (w + engineWeight (s.core g)) = false →
    step s = .next ((remember { s with schedule := rest } u g).modCore g fun c =>
      runCycle w 1 v (waitingOn u g) (if 64 < (s.core g).droop then 1 else 0) { c with last := sqOf n })) ∧
  (∀ s i a rest, s.schedule = .event i a :: rest → s.sys.power ≠ .dormant → step s = exec i { s with schedule := rest, args := a })

/-- A bundle is all or nothing (spec/02 R442, spec/20 R376): closed with a trap, it leaves the state from which it began,
with the first raised trap taken there at the PC, a trap of phase 1 whatever else is not ready; closed while something it
needs is not ready, it leaves that state as it was. -/
def Obligations.BundleAllOrNothing : Prop :=
  (∀ s t n items b, t.issue = some b → ∀ r, firstRaised (b.raised.filter fun r => r.phase = 1) = some r →
    closeTurn s t n items = .trapped (trapHere s n r.trap)) ∧
  (∀ s t n items b, t.issue = some b → b.stall = none → ∀ r, firstRaised b.raised = some r →
    (∀ r' ∈ b.raised, r'.phase ≠ 1) → closeTurn s t n items = .trapped (trapHere s n r.trap)) ∧
  (∀ s t n items b, t.issue = some b → b.stall = some .notReady → (∀ r ∈ b.raised, r.phase ≠ 1) →
    closeTurn s t n items = .idle) ∧
  (∀ s t n items b w, t.issue = some b → b.stall = some (.wait w) → (∀ r ∈ b.raised, r.phase ≠ 1) →
    closeTurn s t n items = .waits (nowWaits s n w)) ∧
  (∀ l r, firstRaised l = some r → r ∈ l ∧ ∀ x ∈ l, x.before r = false)

/-- Every instruction and every event answers a next state: none faults and none is refused. -/
def Obligations.ExecAnswers : Prop := ∀ i s, ∃ t, exec i s = .next t

/-! ### Memory's form -/

/-- Every step keeps memory in its canonical form: addresses rising, no zero byte listed. -/
def Obligations.StepKeepsMemory : Prop := ∀ s t, s.mem.wf = true → step s = .next t → t.mem.wf = true

/-- Memory has its canonical form at reset, and the items whose reset value the spec gives have it: spec/01 R14, R16, spec/04 R60-R74, spec/09 R175, spec/13 R249, spec/14 R271,
spec/17 R321, R328, R329, spec/19 R358, R368, R374, R375, spec/21 R397, spec/22 R420. -/
def Obligations.ResetState : Prop :=
  State.reset.mem.wf = true ∧ (∀ a, State.reset.mem.get a = 0) ∧
  (∀ g, let c := State.reset.core g
    c.last = 3 ∧ c.regs = [] ∧ c.mq = [] ∧ c.l1 = [] ∧ c.itlb = [] ∧ c.dtlb = [] ∧ c.etlb = [] ∧ c.scales = [] ∧ c.frzcnt = 0 ∧ c.strikes = 0 ∧ c.cycle = 0 ∧ c.perf = {}) ∧
  (∀ n, let q := State.reset.seq n
    q.st = .idle ∧ q.ctx = none ∧ q.winBase = 0 ∧ q.winSize = 0 ∧ q.views = List.replicate 8 {} ∧ q.masks = List.replicate 8 0 ∧ q.loops = [] ∧ q.bank.fmt = 0 ∧ q.bank.shadow = [] ∧
    q.bank.held = [] ∧ q.shadow = List.replicate 16 0 ∧ q.dmr = 0 ∧ q.ulivec = 0 ∧ q.ulimask = 0 ∧ q.inHandler = false ∧ q.ulist = 0 ∧ q.stepno = 0 ∧ q.phase = 0 ∧ q.portst = 0 ∧
    q.rowprog = 0 ∧ q.aeprog = 0 ∧ q.ld = 0 ∧ q.st_ = 0 ∧ q.xf = 0 ∧ q.mt = 0 ∧ q.cm = 0 ∧ q.watch = none ∧ (∀ x ∈ q.ports, x.v = false) ∧ q.chans = [] ∧ q.ae.reg = none) ∧
  (∀ f r, let x := State.reset.ring f r; x.rbase = 0 ∧ x.rctl = 0 ∧ x.tail = 0 ∧ x.head = 0 ∧ x.rstat = 0 ∧ x.rfaddr = 0 ∧ x.issued = 0) ∧
  (∀ f, let x := State.reset.func f; x.weight = 1 ∧ x.lasid = 0 ∧ x.mincov = 0 ∧ x.ctxda = 0 ∧ x.cstat = 0) ∧
  (∀ a, asidEntry State.reset a = 0) ∧ (∀ f, funcEntry State.reset f = if f = 0 then 0 else 1) ∧ State.reset.sys.replicas = [] ∧
  (∀ c, (State.reset.cluster c).levels = List.replicate 4 [] ∧ (State.reset.cluster c).overflow = none) ∧ (∀ d, (State.reset.die d).tlb = [] ∧ (State.reset.die d).calv = .live) ∧
  State.reset.sys.calvord = 0x1B ∧ State.reset.sys.calvd = 0 ∧ State.reset.sys.power = .run ∧ State.reset.sys.dtime = 0

/-! ### Scalar integer instructions -/

/-- spec/06 R115-R118 with R34: each three-operand scalar instruction writes s[d] := f(s[a], s[b], old s[d]), the
sources read before the bundle, and does nothing else. The functions are written with the operations of words; `sel` and
`bfi` read s[d]. -/
def Obligations.ScalarThreeOperand : Prop :=
  ThreeOperand .add false (fun x y _ => x + y) ∧ ThreeOperand .sub false (fun x y _ => x - y) ∧
  ThreeOperand .mul false (fun x y _ => x * y) ∧
  ThreeOperand .mulh false (fun x y _ => ((x.signExtend 128 * y.signExtend 128) >>> 64).setWidth 64) ∧
  ThreeOperand .mulhz false (fun x y _ => ((x.setWidth 128 * y.setWidth 128) >>> 64).setWidth 64) ∧
  ThreeOperand .div false (fun x y _ => if y = 0 then -1 else x.sdiv y) ∧
  ThreeOperand .divz false (fun x y _ => if y = 0 then -1 else x / y) ∧
  ThreeOperand .rem false (fun x y _ => if y = 0 then x else x.srem y) ∧
  ThreeOperand .remz false (fun x y _ => if y = 0 then x else x % y) ∧
  ThreeOperand .and false (fun x y _ => x &&& y) ∧ ThreeOperand .or false (fun x y _ => x ||| y) ∧
  ThreeOperand .xor false (fun x y _ => x ^^^ y) ∧ ThreeOperand .andn false (fun x y _ => x &&& ~~~ y) ∧
  ThreeOperand .shl false (fun x y _ => x <<< (y.setWidth 6)) ∧ ThreeOperand .shr false (fun x y _ => x >>> (y.setWidth 6)) ∧
  ThreeOperand .sra false (fun x y _ => x.sshiftRight (y.setWidth 6).toNat) ∧
  ThreeOperand .slt false (fun x y _ => if x.toInt < y.toInt then 1 else 0) ∧
  ThreeOperand .sltz false (fun x y _ => if x.toNat < y.toNat then 1 else 0) ∧
  ThreeOperand .seq false (fun x y _ => if x = y then 1 else 0) ∧
  ThreeOperand .min false (fun x y _ => if x.toInt ≤ y.toInt then x else y) ∧
  ThreeOperand .max false (fun x y _ => if x.toInt ≤ y.toInt then y else x) ∧
  ThreeOperand .minz false (fun x y _ => if x.toNat ≤ y.toNat then x else y) ∧
  ThreeOperand .maxz false (fun x y _ => if x.toNat ≤ y.toNat then y else x) ∧
  ThreeOperand .sel true (fun x y o => if o ≠ 0 then x else y) ∧
  ThreeOperand (fun d a b => .bfx d a b false) false
    (fun x y _ => (x >>> (y.setWidth 6)) &&& BitVec.ofNat 64 (2 ^ (y.toNat / 256 % 64 + 1) - 1)) ∧
  ThreeOperand (fun d a b => .bfx d a b true) false (fun x y _ =>
    let n := min (y.toNat / 256 % 64 + 1) (64 - y.toNat % 64)
    (x <<< (64 - n - y.toNat % 64)).sshiftRight (64 - n)) ∧
  ThreeOperand .bfi true (fun x y o =>
    let m : Word := (BitVec.ofNat 64 (2 ^ (y.toNat / 256 % 64 + 1) - 1)) <<< (y.setWidth 6)
    (o &&& ~~~ m) ||| ((x <<< (y.setWidth 6)) &&& m)) ∧
  ThreeOperand (fun d a b => .lea d a b 0) false (fun x y _ => x + y) ∧
  ThreeOperand (fun d a b => .lea d a b 1) false (fun x y _ => x + 2 * y) ∧
  ThreeOperand (fun d a b => .lea d a b 2) false (fun x y _ => x + 4 * y) ∧
  ThreeOperand (fun d a b => .lea d a b 3) false (fun x y _ => x + 8 * y)

/-- spec/06 R119, R120, R34: the immediate forms; an `imx` extension stands above the field. Shift immediates are below 64
(R119); those of `ori`, `xori` and `lih` are zero-extended. -/
def Obligations.ScalarImmediate : Prop :=
  Immediate .addi (fun x z g => x + z) ∧ Immediate .andi (fun x z g => x &&& z) ∧ Immediate .ori (fun x z g => x ||| g) ∧
  Immediate .xori (fun x z g => x ^^^ g) ∧ Immediate .slti (fun x z g => if x.toInt < z.toInt then 1 else 0) ∧
  ShiftImmediate .shli (fun x n => x <<< n) ∧ ShiftImmediate .shri (fun x n => x >>> n) ∧
  ShiftImmediate .srai (fun x n => x.sshiftRight n) ∧
  (∀ s k d i, Operable s k (snames [d]) [] → exec (.li d i) s = .next (s.ws k d (match k.ext with
    | none => i.signExtend 64
    | some x => (x ++ i).signExtend 64))) ∧
  (∀ s k d i, Operable s k (snames [d]) (snames [d]) → exec (.lih d i) s = .next (s.ws k d ((k.rs d <<< 31) ||| match k.ext with
    | none => i.setWidth 64
    | some x => (x ++ i).setWidth 64)))

/-- spec/06 R115, spec/19 R369: bit counts, and the reads of device time and of the core's cycle count. -/
def Obligations.ScalarCountsAndTime : Prop :=
  (∀ s k d a, Operable s k (snames [d, a]) (snames [a]) →
    exec (.clz d a) s = .next (s.ws k d (k.rs a).clz) ∧ exec (.ctz d a) s = .next (s.ws k d ((k.rs a).reverse).clz) ∧
    exec (.popc d a) s = .next (s.ws k d (BitVec.ofNat 64 (((List.range 64).filter fun b => (k.rs a).getLsbD b).length)))) ∧
  (∀ s k d, Operable s k (snames [d]) [] →
    exec (.tnow d) s = .next (s.ws k d (BitVec.ofNat 64 s.sys.dtime)) ∧
    exec (.cyc d) s = .next (s.ws k d (s.core (coreOf k.n)).cycle))

/-! ### Scalar floating point -/

/-- spec/06 R121-R124: the scalar float instructions take their operands from the low bits of the scalars, use the rounding
mode of the FMT in effect, a conversion its saturation too, write the pattern zero-extended and raise the operation's flags. -/
def Obligations.ScalarFloatResults : Prop :=
  FloatOperand .fadd false (fun f m _ x y _ => Fp.add f m x y) ∧ FloatOperand .fsub false (fun f m _ x y _ => Fp.sub f m x y) ∧
  FloatOperand .fmul false (fun f m _ x y _ => Fp.mul f m x y) ∧ FloatOperand .fdiv false (fun f m _ x y _ => Fp.div f m x y) ∧
  FloatOperand .fma true (fun f m _ x y o => Fp.fma f m false x y o) ∧
  FloatOperand .fmin false (fun f _ _ x y _ => Fp.minmax f false x y) ∧
  FloatOperand .fmax false (fun f _ _ x y _ => Fp.minmax f true x y) ∧
  FloatOperand (fun d a b p => .fcmp d a b p false) false (fun f _ _ x y _ => Fp.compareCode f false x y) ∧
  FloatOperand (fun d a b p => .fcmp d a b p true) false (fun f _ _ x y _ => Fp.compareCode f true x y) ∧
  (∀ s k d a p, Operable s k (snames [d, a]) (snames [a]) → exec (.fsqrt d a p) s = .next
    (let r := Fp.sqrt (if p then .f64 else .f32) (fmtRM k.fmt) (if p then (k.rs a).toNat else (k.rs a).toNat % 2 ^ 32)
     (s.ws k d (BitVec.ofNat 64 r.1)).flag r.2)) ∧
  (∀ s k d a f g, Operable s k (snames [d, a]) (snames [a]) → exec (.fcvt d a f g) s = .next
    (let r := Fp.convert f g (fmtRM k.fmt) (fmtSE k.fmt) ((k.rs a).toNat % 2 ^ Fp.width g)
     (s.ws k d (if Fp.isSigned f then (BitVec.ofNat (Fp.width f) r.1).signExtend 64 else BitVec.ofNat 64 r.1)).flag r.2))

/-! ### Registers and their frame -/

/-- spec/04 R63, R65, spec/20 R380: a scalar result lands in the eight window bytes under its register, or in the
handler's shadow scalar, or nowhere for s0, and its bundle notes it; all else is unchanged: other window bytes, other cores,
every sequencer (but the shadow), every context, memory. -/
def Obligations.ScalarWriteFrame : Prop := ∀ (s : State) (k : Issue) (r : Reg) (v : Word),
  let t := s.ws k r v
  let a := (s.seq k.n).winBase + (viewAt k.before 0).base + 8 * r.toNat
  (r = 0 → t = s) ∧
  (r ≠ 0 → k.before.inHandler = true → r.toNat < 16 →
    t = { s.modSeq k.n (fun q => { q with shadow := q.shadow.set r.toNat v }) with issue := t.issue } ∧ Notes s t k (.shadow r.toNat)) ∧
  (r ≠ 0 → ¬ (k.before.inHandler = true ∧ r.toNat < 16) →
    (t.core (coreOf k.n)).regs.readNat a 8 = v.toNat ∧
    (∀ x, x < a ∨ a + 8 ≤ x → (t.core (coreOf k.n)).regs.get x = (s.core (coreOf k.n)).regs.get x) ∧
    (∀ g, g ≠ coreOf k.n → t.core g = s.core g) ∧
    t = { s with cores := t.cores, poison := t.poison, issue := t.issue } ∧ Notes s t k (scalarDest k r) ∧
    t.core (coreOf k.n) = { s.core (coreOf k.n) with regs := (t.core (coreOf k.n)).regs } ∧
    (∀ p ∈ t.poison, p ∈ s.poison))

/-- spec/04 R63, R67, R142: vector results land in their 512 window bytes, masks in the mask file, and nowhere else; the
bundle notes a vector result. -/
def Obligations.VectorWriteFrame : Prop := ∀ (s : State) (k : Issue),
  (∀ (w : Nat) (r : Reg) (v : Vec), let t := s.wv k w r v
    let a := (s.seq k.n).winBase + (viewAt k.before w).base + 512 * r.toNat
    (t.core (coreOf k.n)).regs.readNat a 512 = v.toNat ∧
    (∀ x, x < a ∨ a + 512 ≤ x → (t.core (coreOf k.n)).regs.get x = (s.core (coreOf k.n)).regs.get x) ∧
    (∀ g, g ≠ coreOf k.n → t.core g = s.core g) ∧ t = { s with cores := t.cores, poison := t.poison, issue := t.issue } ∧
    Notes s t k (.bytes ((viewAt k.before w).base + 512 * r.toNat) 512)) ∧
  (∀ m v, (s.seq k.n).masks.length = 8 → ((s.wk k m v).seq k.n).masks.getD m.toNat 0 = v ∧
    (∀ j, j ≠ m.toNat → ((s.wk k m v).seq k.n).masks[j]? = (s.seq k.n).masks[j]?) ∧
    (∀ n, n ≠ k.n → (s.wk k m v).seq n = s.seq n) ∧ s.wk k m v = { s with seqs := (s.wk k m v).seqs })

/-- spec/02 R29, spec/04 R65: what a slot reads is the register as it stood when its bundle began, s0 reads zero, and a
handler's s1 to s15 are its shadow scalars. -/
def Obligations.ScalarReads : Prop := ∀ s n words b, (beginIssue s n words).issue = some b →
  b.rs 0 = 0 ∧
  (∀ r, r ≠ 0 → (s.seq n).inHandler = true → r.toNat < 16 → b.rs r = (s.seq n).shadow.getD r.toNat 0) ∧
  (∀ r, r ≠ 0 → ¬ ((s.seq n).inHandler = true ∧ r.toNat < 16) →
    b.rs r = BitVec.ofNat 64 ((s.core (coreOf n)).regs.readNat ((s.seq n).winBase + (viewAt (s.seq n) 0).base + 8 * r.toNat) 8))

/-! ### Vector instructions -/

/-- spec/07 R133-R136: element-wise arithmetic, sign operations, approximations, logic and shifts. -/
def Obligations.VectorElementwise : Prop :=
  VecThree .vadd (floats ++ ints) false (fun f r _ x y _ => if f ∈ floats then Fp.add f r x y else ((x + y) % 2 ^ Fp.width f, 0)) ∧
  VecThree .vsub (floats ++ ints) false (fun f r _ x y _ => if f ∈ floats then Fp.sub f r x y else ((x + 2 ^ Fp.width f - y) % 2 ^ Fp.width f, 0)) ∧
  VecThree .vmul (floats ++ ints) false (fun f r _ x y _ => if f ∈ floats then Fp.mul f r x y else (x * y % 2 ^ Fp.width f, 0)) ∧
  VecThree .vfma (floats ++ ints) true (fun f r _ x y z => if f ∈ floats then Fp.fma f r false x y z else ((x * y + z) % 2 ^ Fp.width f, 0)) ∧
  VecThree .vfms (floats ++ ints) true (fun f r _ x y z => if f ∈ floats then Fp.fma f r true x y z
    else ((z + 2 ^ (2 * Fp.width f) - x * y) % 2 ^ Fp.width f, 0)) ∧
  VecThree .vmin (floats ++ ints) false (fun f _ _ x y _ => if f ∈ floats then Fp.minmax f false x y
    else (if Fp.intVal f x ≤ Fp.intVal f y then x else y, 0)) ∧
  VecThree .vmax (floats ++ ints) false (fun f _ _ x y _ => if f ∈ floats then Fp.minmax f true x y
    else (if Fp.intVal f x ≤ Fp.intVal f y then y else x, 0)) ∧
  VecThree .vdiv floats false (fun f r _ x y _ => Fp.div f r x y) ∧
  VecTwo .vsqrt floats (fun f r _ x => Fp.sqrt f r x) ∧
  VecTwo .vabs (floats ++ ints) (fun f _ _ x => if f ∈ floats then (x % 2 ^ (Fp.width f - 1), 0)
    else ((Fp.intVal f x).natAbs % 2 ^ Fp.width f, 0)) ∧
  VecTwo .vneg (floats ++ ints) (fun f _ _ x => if f ∈ floats then (x ^^^ 2 ^ (Fp.width f - 1), 0) else ((2 ^ Fp.width f - x) % 2 ^ Fp.width f, 0)) ∧
  VecThree .vshl (.i4 :: ints) false (fun f _ _ x y _ => (x * 2 ^ (y % Fp.width f) % 2 ^ Fp.width f, 0)) ∧
  VecThree .vshr (.i4 :: ints) false (fun f _ _ x y _ => (x / 2 ^ (y % Fp.width f), 0)) ∧
  VecThree .vsra (.i4 :: ints) false (fun f _ _ x y _ =>
    (((toInt (Fp.width f) x / 2 ^ (y % Fp.width f)) % (2 ^ Fp.width f : Nat)).toNat, 0)) ∧
  VecTwo .vrcp [.f32, .f16, .bf16] (fun f _ _ x => Fp.approx .rcp f x) ∧
  VecTwo .vrsq [.f32, .f16, .bf16] (fun f _ _ x => Fp.approx .rsq f x) ∧
  VecTwo .vexp2 [.f32, .f16, .bf16] (fun f _ _ x => Fp.approx .exp2 f x) ∧
  VecTwo .vlog2 [.f32, .f16, .bf16] (fun f _ _ x => Fp.approx .log2 f x) ∧
  (∀ e ∈ [((Instr.vand, fun x y => x &&& y) : (Reg → Reg → Reg → BitVec 2 → Instr) × (Vec → Vec → Vec)),
      (.vor, fun x y => x ||| y), (.vxor, fun x y => x ^^^ y)],
    ∀ s k d a b m, VecRuns s k (viewOfM m) [d] [a, b] false [] [] anyFmt →
      exec (e.1 d a b m) s = .next (putVec (popped s k [a, b]) k (viewOfM m) d
        (e.2 (operand s k (viewOfM m) [a, b] a) (operand s k (viewOfM m) [a, b] b))))

/-- spec/07 R137, R138, R126: compares write all 128 bits of their mask, -0 equals +0, no predicate holds of a NaN;
`vsel` takes the new element where its mask bit is set. -/
def Obligations.VectorCompareSelect : Prop :=
  VecCompare .vceq (fun f x y => if f ∈ floats then decide ((Fp.compareCode f false x y).1 = 0) else decide (Fp.intVal f x = Fp.intVal f y))
    (fun f x y => if f ∈ floats then (Fp.compareCode f false x y).2 else 0) ∧
  VecCompare .vclt (fun f x y => if f ∈ floats then decide ((Fp.compareCode f true x y).1 = 1) else decide (Fp.intVal f x < Fp.intVal f y))
    (fun f x y => if f ∈ floats then (Fp.compareCode f true x y).2 else 0) ∧
  VecCompare .vcle (fun f x y => if f ∈ floats then decide ((Fp.compareCode f true x y).1 < 2) else decide (Fp.intVal f x ≤ Fp.intVal f y))
    (fun f x y => if f ∈ floats then (Fp.compareCode f true x y).2 else 0) ∧
  (∀ s k d a c m, VecRuns s k (viewOfM m) [d] [a] true [] [] notX →
    exec (.vsel d a c m) s = .next
      (let w := viewOfM m
       let f := fmtVF k.fmt
       putVec (popped s k [a]) k w d (vecFn (Fp.width f) (count f) fun e =>
         if (k.rk c).getLsbD (if 32 ≤ Fp.width f then e else e * Fp.width f / 32) then elemAt f (operand s k w [a] a) e
         else elemAt f (oldVal k w d) e)))

/-- spec/07 R145-R151: lane moves. `vperm` indexes lanes (64-bit elements for 64-bit formats) modulo their number;
`vslide` shifts zeros in; `vmov` copies bits between vectors and masks whatever the format; `vext` sign-extends signed
formats; `vctrap` with its query bit writes the mask of differing lanes and does not trap, and otherwise completes where no
lane differs. -/
def Obligations.VectorLaneMoves : Prop :=
  (∀ s k d a b m, VecRuns s k (viewOfM m) [d] [a, b] false [] [] anyFmt → exec (.vperm d a b m) s = .next
    (let w := viewOfM m
     let u := if Fp.width (fmtVF k.fmt) = 64 then 64 else 32
     let at_ := fun (v : Vec) (e : Nat) => v.toNat / 2 ^ (u * e) % 2 ^ u
     putVec (popped s k [a, b]) k w d (vecFn u (4096 / u) fun e =>
       at_ (operand s k w [a, b] a) (at_ (operand s k w [a, b] b) e % (4096 / u))))) ∧
  (∀ s k d a m, VecRuns s k (viewOfM m) [d] [] false (snames [a]) (snames [a]) notX → exec (.vbcst d a m) s = .next
    (let f := fmtVF k.fmt
     putVec s k (viewOfM m) d (vecFn (Fp.width f) (count f) fun _ => (k.rs a).toNat))) ∧
  (∀ s k d a b m, VecRuns s k (viewOfM m) [d] [a] false (snames [b]) (snames [b]) notX → exec (.vslide d a b m) s = .next
    (let w := viewOfM m
     let f := fmtVF k.fmt
     let x := (k.rs b).toInt
     putVec (popped s k [a]) k w d (vecFn (Fp.width f) (count f) fun e =>
       if 0 ≤ (e : Int) + x ∧ (e : Int) + x < (count f : Nat) then elemAt f (operand s k w [a] a) ((e : Int) + x).toNat else 0))) ∧
  (∀ s k d a m, VecRuns s k (viewOfM m) [d] [] false (snames [a]) (snames [a]) ints → exec (.vidx d a m) s = .next
    ((let f := fmtVF k.fmt
      putVec s k (viewOfM m) d (vecFn (Fp.width f) (count f) fun e => (k.rs a).toNat + e)).flag 0)) ∧
  (∀ s k d a m, VecRuns s k (viewOfM m) [d] [] false (snames [a]) (snames [a]) floats → exec (.vidx d a m) s = .next
    (let f := fmtVF k.fmt
     let h := fun (e : Nat) => let y := (k.rs a).toInt + (e : Int); Fp.round f (fmtRM k.fmt) (fmtSE k.fmt) (.fin (y < 0) y.natAbs 0)
     (putVec s k (viewOfM m) d (vecFn (Fp.width f) (count f) fun e => (h e).1)).flag (flagsOf (count f) fun e => (h e).2))) ∧
  (∀ s k d a b m, VecRuns s k (viewOfM m) [] [a] false (snames [d, b]) (snames [b]) notX → exec (.vext d a b m) s = .next
    (let f := fmtVF k.fmt
     let x := elemAt f (operand s k (viewOfM m) [a] a) ((k.rs b).toNat % count f)
     (popped s k [a]).ws k d (if Fp.isSigned f then (BitVec.ofNat (Fp.width f) x).signExtend 64 else BitVec.ofNat 64 x))) ∧
  (∀ s k d a b m, VecRuns s k (viewOfM m) [d] [] true (snames [a, b]) (snames [a, b]) notX → exec (.vins d a b m) s = .next
    (let w := viewOfM m
     let f := fmtVF k.fmt
     putVec s k w d (vecFn (Fp.width f) (count f) fun e =>
       if e = (k.rs b).toNat % count f then (k.rs a).toNat else elemAt f (oldVal k w d) e))) ∧
  (∀ s k d a m, VecRuns s k (viewOfM m) [d] [a] false [] [] anyFmt → exec (.vmov d a 0 m) s = .next
    (putVec (popped s k [a]) k (viewOfM m) d (operand s k (viewOfM m) [a] a))) ∧
  (∀ s k d a m, VecRuns s k (viewOfM m) [] [a] false [] [] anyFmt → d.toNat < 8 → exec (.vmov d a 1 m) s = .next
    ((popped s k [a]).wk k (d.setWidth 3) ((operand s k (viewOfM m) [a] a).setWidth 128))) ∧
  (∀ s k d a m, VecRuns s k (viewOfM m) [d] [] false [] [] anyFmt → a.toNat < 8 → exec (.vmov d a 2 m) s = .next
    (putVec s k (viewOfM m) d ((k.rk (a.setWidth 3)).setWidth 4096))) ∧
  (∀ s k d a m, VecRuns s k (viewOfM m) [] [] false [] [] anyFmt → d.toNat < 8 → a.toNat < 8 → exec (.vmov d a 3 m) s = .next
    (s.wk k (d.setWidth 3) (k.rk (a.setWidth 3)))) ∧
  (∀ s k q c a b m, VecRuns s k (viewOfM m) [] [a, b] false [] [] anyFmt →
    (q = true ∨ operand s k (viewOfM m) [a, b] a = operand s k (viewOfM m) [a, b] b) →
    ∃ mask : Mask, exec (.vctrap q c a b m) s = .next ((popped s k [a, b]).wk k c mask) ∧
      ∀ j < 128, mask.getLsbD j = decide ((operand s k (viewOfM m) [a, b] a).extractLsb' (32 * j) 32 ≠
        (operand s k (viewOfM m) [a, b] b).extractLsb' (32 * j) 32)) ∧
  (∀ s k c a b m, VecRuns s k (viewOfM m) [] [a, b] false [] [] anyFmt →
    operand s k (viewOfM m) [a, b] a ≠ operand s k (viewOfM m) [a, b] b →
    ∃ mask : Mask, exec (.vctrap false c a b m) s = .next (s.raise 4
        { cause := .compareMismatch, aux := mask.toNat % 2 ^ 64, info := mask.toNat / 2 ^ 64 }) ∧
      ∀ j < 128, mask.getLsbD j = decide ((operand s k (viewOfM m) [a, b] a).extractLsb' (32 * j) 32 ≠
        (operand s k (viewOfM m) [a, b] b).extractLsb' (32 * j) 32))

/-- spec/07 R139-R141, R81, R88: conversions. A narrowing `vcvt` writes part P of its destination and keeps the rest, a
widening one reads part P of its source; i4x blocks are decoded first. `vpack` narrows two vectors into one, `vunpk` widens
one half without rounding. -/
def Obligations.VectorConversions : Prop :=
  (∀ s k d a (p : BitVec 2) t m, VecRuns s k (viewOfM m) [d] [a] (decide (Fp.width t < Fp.width (fmtVF k.fmt))) [] [] anyFmt → fmtVF k.fmt ≠ .i4x →
    (let ws := Fp.width (fmtVF k.fmt); let wt := Fp.width t
     (wt < ws → p.toNat < ws / wt) ∧ (ws < wt → p.toNat < wt / ws) ∧ (ws = wt → p = 0)) →
    exec (.vcvt d a p t m) s = .next
      (let w := viewOfM m
       let f := fmtVF k.fmt
       let h := fun e => Fp.convert t f (fmtRM k.fmt) (fmtSE k.fmt) (elemAt f (operand s k w [a] a) e)
       if Fp.width t < Fp.width f then
         (putVec (popped s k [a]) k w d (vecFn (Fp.width t) (count t) fun e =>
           if p.toNat * count f ≤ e ∧ e < p.toNat * count f + count f then (h (e - p.toNat * count f)).1 else elemAt t (oldVal k w d) e)).flag
           (flagsOf (count f) fun e => (h e).2)
       else
         (putVec (popped s k [a]) k w d (vecFn (Fp.width t) (count t) fun e => (h (p.toNat * count t + e)).1)).flag
           (flagsOf (count t) fun e => (h (p.toNat * count t + e)).2))) ∧
  (∀ s k d a (p : BitVec 2) t m, VecRuns s k (viewOfM m) [d] [a] false [] [] anyFmt → fmtVF k.fmt = .i4x →
    p.toNat < Fp.width t / 4 →
    exec (.vcvt d a p t m) s = .next
      (let w := viewOfM m
       let src := srcValues .i4x (operand s k w [a] a) (p.toNat * count t) (count t)
       let h := fun e => convOne t .i4x (modeOf k) (src.1.getD e (.fin false 0 0))
       (putVec (popped s k [a]) k w d (vecFn (Fp.width t) (count t) fun e => (h e).1)).flag
         ((flagsOf (count t) fun e => (h e).2) ||| src.2))) ∧
  (∀ s k d a b (z : Bool) f t, VecRuns s k 1 [d] [a, b] false [] [] ints → fmtVF k.fmt = f →
    (f, z, t) ∈ ([(.i8, false, .i4), (.z8, false, .i4), (.i16, false, .i8), (.z16, false, .i8), (.i16, true, .z8), (.z16, true, .z8),
      (.i32, false, .i16), (.z32, false, .i16), (.i32, true, .z16), (.z32, true, .z16),
      (.i64, false, .i32), (.z64, false, .i32), (.i64, true, .z32), (.z64, true, .z32)] : List (Fmt × Bool × Fmt)) →
    exec (.vpack d a b z) s = .next
      (let h := fun e => Fp.intToInt t (fmtSE k.fmt) (Fp.intVal f (if e < count f then elemAt f (operand s k 1 [a, b] a) e
         else elemAt f (operand s k 1 [a, b] b) (e - count f)))
       (putVec (popped s k [a, b]) k 1 d (vecFn (Fp.width t) (count t) fun e => (h e).1)).flag (flagsOf (count t) fun e => (h e).2))) ∧
  (∀ s k d a (h : Bool) f t, VecRuns s k 1 [d] [a] false [] [] [.i4, .i8, .i16, .i32, .z8, .z16, .z32] → fmtVF k.fmt = f →
    (f, t) ∈ ([(.i4, .i8), (.i8, .i16), (.i16, .i32), (.i32, .i64), (.z8, .z16), (.z16, .z32), (.z32, .z64)] : List (Fmt × Fmt)) →
    exec (.vunpk d a h) s = .next (putVec (popped s k [a]) k 1 d (vecFn (Fp.width t) (count t) fun e =>
      ((Fp.intVal f (elemAt f (operand s k 1 [a] a) (h.toNat * count t + e))) % (2 ^ Fp.width t : Nat)).toNat)))

/-- spec/07 R142-R144, R152: dot products by lanes, the reduction in element 0 with every other element zero, the scan in
every element, and complex products by pairs with one rounding. -/
def Obligations.VectorDotReduce : Prop :=
  (∀ s k d a b m, VecRuns s k (viewOfM m) [d] [a, b] true [] [] [.i8, .z8] → exec (.vdot4 d a b m) s = .next
    ((let w := viewOfM m
      let f := fmtVF k.fmt
      let p := fun (i j : Nat) => Fp.intVal f (elemAt f (operand s k w [a, b] a) (4 * i + j)) * Fp.intVal f (elemAt f (operand s k w [a, b] b) (4 * i + j))
      putVec (popped s k [a, b]) k w d (vecFn 32 128 fun i =>
        ((elemAt .z32 (oldVal k w d) i + p i 0 + p i 1 + p i 2 + p i 3 : Int) % (2 ^ 32 : Nat)).toNat)).flag 0)) ∧
  (∀ s k d a b m, VecRuns s k (viewOfM m) [d] [a, b] true [] [] [.f8e4, .f8e5] → exec (.vdot4 d a b m) s = .next
    (let w := viewOfM m
     let f := fmtVF k.fmt
     let x := fun (v : Vec) (i j : Nat) => elemAt f v (4 * i + j)
     let r := fun i => dotLane (modeOf k) f ((List.range 4).map (x (operand s k w [a, b] a) i)) ((List.range 4).map (x (operand s k w [a, b] b) i))
       (elemAt .z32 (oldVal k w d) i)
     (putVec (popped s k [a, b]) k w d (vecFn 32 128 fun i => (r i).1)).flag (flagsOf 128 fun i => (r i).2))) ∧
  (∀ s k d a en c q m, VecRuns s k (viewOfM m) [d] [a] false [] [] (floats ++ ints) →
    (exec (.vred d a en c q m) s = .next
      (let w := viewOfM m
       let f := fmtVF k.fmt
       let r := redTree (redNode q (modeOf k) f) 12 (redElems k f q en c (operand s k w [a] a), 0)
       (putVec (popped s k [a]) k w d (vecFn (Fp.width f) (count f) fun e => if e = 0 then r.1.headD 0 else 0)).flag r.2)) ∧
    (exec (.vscan d a en c q m) s = .next
      (let w := viewOfM m
       let f := fmtVF k.fmt
       let r := scanAll (redNode q (modeOf k) f) (count f) (redElems k f q en c (operand s k w [a] a))
       (putVec (popped s k [a]) k w d (vecFn (Fp.width f) (count f) fun e => r.1.getD e 0)).flag r.2))) ∧
  (∀ s k d a b m, VecRuns s k (viewOfM m) [d] [a, b] false [] [] [.f32, .f64] → exec (.vcmul d a b m) s = .next
    (let w := viewOfM m
     let f := fmtVF k.fmt
     let x := elemAt f (operand s k w [a, b] a)
     let y := elemAt f (operand s k w [a, b] b)
     let h := fun e => if e % 2 = 0 then mulPair (modeOf k) f true (x e) (y e) (x (e + 1)) (y (e + 1))
       else mulPair (modeOf k) f false (x (e - 1)) (y e) (x e) (y (e - 1))
     (putVec (popped s k [a, b]) k w d (vecFn (Fp.width f) (count f) fun e => (h e).1)).flag (flagsOf (count f) fun e => (h e).2)))

/-- spec/05 R89, R90, spec/07 R143, R144: over 2^l positions the reduction is the fixed binary tree, each position of the
scan is the combination of the fewest tree nodes that cover the positions up to it, and the last position of the scan is
the reduction. -/
def Obligations.ReductionTree : Prop := ∀ (g : Nat → Nat → Nat × Nat) (x : Nat → Nat) (l : Nat), 1 ≤ l → l ≤ 12 →
  redTree g 12 ((List.range (2 ^ l)).map x, 0) = ([(treeOf g x l 0).1], (treeOf g x l 0).2) ∧
  (∀ e < 2 ^ l, (scanAll g (2 ^ l) ((List.range (2 ^ l)).map x)).1[e]? = some (prefixOf g x 13 0 (e + 1)).1) ∧
  (scanAll g (2 ^ l) ((List.range (2 ^ l)).map x)).1[2 ^ l - 1]? = some (treeOf g x l 0).1

/-- spec/07 R129, spec/13 R252-R254: an exhausted, missing or wrongly directed port yields zeros on a pop and discards a
push, setting PORTST bit p or 8 + p; a live port that is not forwarded gives up its oldest vector and asks for a next one
while its walk has any, and a live output appends the vector, cut to the elements left. -/
def Obligations.PortMoves : Prop := ∀ s n p,
  (portLive ((s.seq n).ports.getD p {}) false = false →
    popPort s n p = (s.modSeq n (fun q => { q with portst := q.portst ||| BitVec.ofNat 16 (2 ^ p) }), 0)) ∧
  (portLive ((s.seq n).ports.getD p {}) false = true → fwdIn (s.seq n) p = none → p < (s.seq n).ports.length →
    let x := (s.seq n).ports.getD p {}
    (popPort s n p).2 = ((x.buf.head?.bind (·.vec)).getD 0) ∧
    (∃ y, ((popPort s n p).1.seq n).ports[p]? = some y ∧ y.moved = x.moved + 1 ∧
      (x.asked < pdVectors x.desc → y.asked = x.asked + 1 ∧ y.buf.length = (x.buf.drop 1).length + 1) ∧
      (¬ x.asked < pdVectors x.desc → y.asked = x.asked ∧ y.buf = x.buf.drop 1) ∧ y.desc = x.desc ∧ y.v = x.v)) ∧
  (∀ (q : Seq) id v w l after pc pos held, portLive (q.ports.getD p {}) true = false →
    pushSeq q p id v w l after pc pos held = { q with portst := q.portst ||| BitVec.ofNat 16 (2 ^ (8 + p)) }) ∧
  (∀ (q : Seq) id v l after pc pos held, portLive (q.ports.getD p {}) true = true → p < q.ports.length →
    let x := q.ports.getD p {}
    ∃ y e, (pushSeq q p id v true l after pc pos held).ports[p]? = some y ∧ y.moved = x.moved + 1 ∧ y.buf = x.buf ++ [e] ∧ e.id = id ∧ e.segs = l ∧ e.held = held ∧
      e.vec = some (BitVec.ofNat 4096 (v.toNat % 2 ^ (8 * (min (pdPer x.desc) (pdTotal x.desc - x.moved * pdPer x.desc) * pdWidth x.desc)))))

/-! ### Control -/

/-- spec/06 R98-R101, spec/02 R44: taken transfers go to their target, a bundle start, an untaken `bc` does nothing, calls
write the link s63 with the address after the bundle, calls and `ret` clear held slots, and `ret` to the exit link
0x4_0000 is `halt` in a gang launch and `retire` in a task launch. -/
def Obligations.TransfersGo : Prop :=
  (∀ s k off, s.issue = some k → bundleStart (s.core (coreOf k.n)) (offsetTarget k off).toNat = true →
    exec (.br off) s = .next (goesTo s (offsetTarget k off))) ∧
  (∀ s k c a off, Operable s k (snames [a]) (snames [a]) → condHolds c (k.rs a) = true →
    bundleStart (s.core (coreOf k.n)) (offsetTarget k off).toNat = true → exec (.bc c a off) s = .next (goesTo s (offsetTarget k off))) ∧
  (∀ s k c a off, Operable s k (snames [a]) (snames [a]) → condHolds c (k.rs a) = false → exec (.bc c a off) s = .next s) ∧
  (∀ x : Word, condHolds .eq x = decide (x = 0) ∧ condHolds .ne x = decide (x ≠ 0) ∧ condHolds .lt x = x.msb ∧
    condHolds .ge x = !x.msb ∧ condHolds .gt x = (!x.msb && decide (x ≠ 0)) ∧ condHolds .le x = (x.msb || decide (x = 0)) ∧
    condHolds .b0 x = x.getLsbD 0) ∧
  (∀ s k a, Operable s k (snames [a]) (snames [a]) → bundleStart (s.core (coreOf k.n)) (k.rs a).toNat = true →
    exec (.jmp a) s = .next (goesTo s (k.rs a))) ∧
  (∀ s k off, Operable s k (snames [63]) [] → bundleStart (s.core (coreOf k.n)) (offsetTarget k off).toNat = true →
    exec (.call off) s = .next (noHeld (goesTo (s.ws k 63 (BitVec.ofNat 64 k.next)) (offsetTarget k off)) k)) ∧
  (∀ s k a, Operable s k (snames [a, 63]) (snames [a]) → bundleStart (s.core (coreOf k.n)) (k.rs a).toNat = true →
    exec (.callr a) s = .next (noHeld (goesTo (s.ws k 63 (BitVec.ofNat 64 k.next)) (k.rs a)) k)) ∧
  (∀ s k, Operable s k (snames [63]) (snames [63]) → k.rs 63 ≠ 0x40000 → bundleStart (s.core (coreOf k.n)) (k.rs 63).toNat = true →
    exec .ret s = .next (goesTo (noHeld s k) (k.rs 63))) ∧
  (∀ s k, Operable s k (snames [63]) (snames [63]) → k.rs 63 = 0x40000 → (s.ctxOf k.n).isTask = false →
    exec .ret s = .next ((thenAfter (noHeld s k) .halt).modIssue fun x => { x with exits := true })) ∧
  (∀ s k, Operable s k (snames [63, 61]) (snames [63]) → k.rs 63 = 0x40000 → (s.ctxOf k.n).isTask = true →
    exec .ret s = .next ((thenAfter (noHeld s k) .retire).modIssue fun x => { x with exits := true })) ∧
  (∀ s k, s.issue = some k → (s.ctxOf k.n).isTask = false → exec .halt s = .next (thenAfter (noHeld s k) .halt)) ∧
  (∀ s k, Operable s k (snames [61]) [] → (s.ctxOf k.n).isTask = true → exec .halt s = .next (thenAfter (noHeld s k) .retire)) ∧
  (∀ s k, s.issue = some k → exec .nop s = .next s)

/-- spec/02 R44, spec/06 R99: a taken transfer whose target is no bundle start raises bad branch target with that address,
writes no link and clears nothing; of the registers only the one that holds the target matters (spec/02 R442). An `lbrk` of
more levels than DEPTH takes no transfer and overflows the loop stack (spec/06 R105). -/
def Obligations.BadTargetTraps : Prop :=
  (∀ s k off, s.issue = some k → bundleStart (s.core (coreOf k.n)) (offsetTarget k off).toNat = false →
    exec (.br off) s = .next (s.raise 1 { cause := .badTarget, addr := (offsetTarget k off).toNat })) ∧
  (∀ s k off, s.issue = some k → bundleStart (s.core (coreOf k.n)) (offsetTarget k off).toNat = false →
    exec (.call off) s = .next (s.raise 1 { cause := .badTarget, addr := (offsetTarget k off).toNat })) ∧
  (∀ s k c a off, Operable s k (snames [a]) (snames [a]) → condHolds c (k.rs a) = true →
    bundleStart (s.core (coreOf k.n)) (offsetTarget k off).toNat = false →
    exec (.bc c a off) s = .next (s.raise 1 { cause := .badTarget, addr := (offsetTarget k off).toNat })) ∧
  (∀ s k a, Operable s k (snames [a]) (snames [a]) → bundleStart (s.core (coreOf k.n)) (k.rs a).toNat = false →
    exec (.jmp a) s = .next (s.raise 1 { cause := .badTarget, addr := (k.rs a).toNat }) ∧
    exec (.callr a) s = .next (s.raise 1 { cause := .badTarget, addr := (k.rs a).toNat })) ∧
  (∀ s k, Operable s k (snames [63]) (snames [63]) → k.rs 63 ≠ 0x40000 → bundleStart (s.core (coreOf k.n)) (k.rs 63).toNat = false →
    exec .ret s = .next (s.raise 1 { cause := .badTarget, addr := (k.rs 63).toNat })) ∧
  (∀ s k (n : BitVec 3) (off : BitVec 17), s.issue = some k → k.before.loops.length < n.toNat →
    exec (.lbrk n off) s = .next (s.raise 4 { cause := .loopOverflow })) ∧
  (∀ c a, bundleStart c a = true ↔ a % 4 = 0 ∧ a < 0x40000 ∧ (a = 0 ∨ (c.imem.getD ((a - 4) / 4) 0).msb = true))

/-- spec/06 R102-R106, spec/04 R68: a loop whose end is a bundle start at or past its body, whose body starts on a multiple
of 16 and which nests, pushes its level, or with a count of zero goes past its end bundle; at the end bundle a level with
more than one iteration left goes back to its start, and one with its last iteration is popped; `lbrk` pops n levels and
goes to its target; `lidx` reads a remaining count. -/
def Obligations.LoopLevels : Prop :=
  (∀ s k count stop, bundleStart (s.core (coreOf k.n)) stop = true → k.next ≤ stop → k.next % 16 = 0 →
    (∀ l, k.before.loops.head? = some l → k.pc ≠ l.stop ∧ stop ≤ l.stop) → weltHead s k = [] → 0 < count → k.before.loops.length < 6 →
    (∀ c (off : BitVec 14), Operable s k (snames [c]) (snames [c]) → count = (k.rs c).toNat % 2 ^ 32 →
      stop = k.pc + 4 * ((k.ext.elim 0 (·.toNat)) * 2 ^ 14 + off.toNat) →
      exec (.loop c off) s = .next (s.modSeq k.n fun q => { q with loops := ⟨count, stop, k.next⟩ :: q.loops })) ∧
    (∀ n off : BitVec 10, s.issue = some k → count = (k.ext.elim 0 (·.toNat)) * 2 ^ 10 + n.toNat → stop = k.pc + 4 * off.toNat →
      exec (.loopi n off) s = .next (s.modSeq k.n fun q => { q with loops := ⟨count, stop, k.next⟩ :: q.loops }))) ∧
  (∀ s k stop, bundleStart (s.core (coreOf k.n)) stop = true → k.next ≤ stop → k.next % 16 = 0 →
    (∀ l, k.before.loops.head? = some l → k.pc ≠ l.stop ∧ stop ≤ l.stop) → weltHead s k = [] →
    bundleStart (s.core (coreOf k.n)) (bundleAfter (s.core (coreOf k.n)) 8 stop) = true →
    (∀ c (off : BitVec 14), Operable s k (snames [c]) (snames [c]) → (k.rs c).toNat % 2 ^ 32 = 0 →
      stop = k.pc + 4 * ((k.ext.elim 0 (·.toNat)) * 2 ^ 14 + off.toNat) →
      exec (.loop c off) s = .next (goesTo s (BitVec.ofNat 64 (bundleAfter (s.core (coreOf k.n)) 8 stop))))) ∧
  (∀ s k (n : BitVec 3) (off : BitVec 17), s.issue = some k →
    bundleStart (s.core (coreOf k.n)) (BitVec.ofNat 64 k.pc + 4 * off.signExtend 64).toNat = true → n.toNat ≤ k.before.loops.length →
    exec (.lbrk n off) s = .next (goesTo (s.modSeq k.n fun q => { q with loops := q.loops.drop n.toNat })
      (BitVec.ofNat 64 k.pc + 4 * off.signExtend 64))) ∧
  (∀ s k d (j : BitVec 3), Operable s k (snames [d]) [] →
    exec (.lidx d j) s = .next (s.ws k d (BitVec.ofNat 64 (((k.before.loops.map (·.count))[j.toNat]?).getD 0)))) ∧
  (∀ pc l rest, l.stop ≠ pc → loopEnd pc (l :: rest) = (none, l :: rest)) ∧
  (∀ pc (c start : Nat) rest, 1 ≤ c → (∀ r, rest.head? = some r → r.stop ≠ pc) →
    (∀ j < c - 1, Nat.iterate (fun x => (loopEnd pc x).2) j (⟨c, pc, start⟩ :: rest) = ⟨c - j, pc, start⟩ :: rest ∧
      (loopEnd pc (⟨c - j, pc, start⟩ :: rest)).1 = some start) ∧
    loopEnd pc (⟨1, pc, start⟩ :: rest) = (none, rest))

/-- spec/19 R360, R364, R365, R370, spec/11 R224, spec/21 R414: `wait` is met when every class with a limit below 15 has at
most its limit outstanding, and holds its bundle otherwise; `waitt` waits until DTIME reaches T; `mwait` waits with its
timeout; `dsync` records the arrival and waits; `tbwait` reads the phase of its barrier when it is no longer the awaited
one, or at once with P, and waits otherwise; `step` records the module domain's phase count, and waits while a checkpoint is armed. -/
def Obligations.WaitsHold : Prop :=
  (∀ s k ld st xf mt cm, s.issue = some k →
    (let met := (ld = 15 ∨ k.before.ld ≤ ld.toNat) ∧ (st = 15 ∨ k.before.st_ ≤ st.toNat) ∧ (xf = 15 ∨ k.before.xf ≤ xf.toNat) ∧
       (mt = 15 ∨ k.before.mt ≤ mt.toNat) ∧ (cm = 15 ∨ k.before.cm ≤ cm.toNat)
     (met → exec (.wait ld st xf mt cm) s = .next s) ∧
     (¬ met → exec (.wait ld st xf mt cm) s = .next (s.stalled (.wait .slot))))) ∧
  (∀ s k d a, Operable s k (snames [d, a]) (snames [a]) →
    (let t := (k.rs a).toNat
     let s1 := s.modSeq k.n fun q => { q with pendT := some (scalarDest k d, t, decide (t < s.sys.dtime)) }
     (t ≤ s.sys.dtime → exec (.waitt d a) s = .next s1) ∧
     (s.sys.dtime < t → exec (.waitt d a) s = .next (thenAfter s1 (.waits .waitt))) ∧
     exec (.mwait d a) s = .next (thenAfter s (.waits (.mwait (scalarDest k d) (if t = 0 then none else some (s.sys.dtime + t))))))) ∧
  (∀ s k l c, s.issue = some k → (s.ctxOf k.n).isTask = false → k.before.withdrawn.getLsbD (levelCode l) = false → k.before.ctx = some c →
    ∃ t, exec (.dsync l) s = .next t ∧ t.issue = some { k with after := .waits .dsync } ∧
      (t.ctx c).arrived = (s.ctx c).arrived ++ [(domainKey l (coreOf k.n), k.n)] ∧
      (t.seq k.n).pendDom = some (l, (s.ctx c).phases.getD (domainKey l (coreOf k.n)) 0) ∧ (t.seq k.n).ordered = true ∧ t.mem = s.mem) ∧
  (∀ s k d a b p x, Operable s k (snames [d, a, b]) (snames [a, b]) → barrierSegs s k.n { r := true } (k.rs a) 16 = .ok [x] →
    x.len = 16 → (k.rs a).toNat % 32 = 0 → x.fab = false → bauHomed (localPa x.pa) = true → segsLive s [x] = true →
    poisoned s (localPa x.pa) 16 = false →
    (∀ o ∈ k.before.order, o.paths.contains .b = true → o.reads = true → depsMet s k.n o.after = true) →
    (∀ u ∈ s.updates, u.die = dieOf (coreOf k.n) → meet u.pa u.len (localPa x.pa) 32 = false) →
    (∀ e ∈ k.before.acc, e.path = .b → e.home = false → segsMeet e.segs [x] = false) →
    let u := installSegs s (coreOf k.n) .dtlb (asidOf s k.n) [x]
    let v := BitVec.ofNat 64 (barrierPhase s x)
    (barrierPhase s x ≠ (k.rs b).toNat % 16 →
      exec (.tbwait d a b p) s = .next (((mergeClock u k.n (localPa x.pa) 16).modSeq k.n fun q => { q with ordered := true }).ws k d v)) ∧
    (barrierPhase s x = (k.rs b).toNat % 16 → p = true → exec (.tbwait d a b p) s = .next (u.ws k d v)) ∧
    (barrierPhase s x = (k.rs b).toNat % 16 → p = false →
      exec (.tbwait d a b p) s = .next (s.stalled (.wait (.tbwait (localPa x.pa) ((k.rs b).toNat % 16) x.key))))) ∧
  (∀ s k, s.issue = some k → (s.ctxOf k.n).isTask = false → k.before.withdrawn.getLsbD 2 = false →
    (let s1 := s.modSeq k.n fun q => { q with stepno := (s.ctxOf k.n).phases.getD 32 0 % 2 ^ 32 }
     ((s.ctxOf k.n).armed = none → exec .step s = .next s1) ∧
     ((s.ctxOf k.n).armed ≠ none → exec .step s = .next (thenAfter s1 (.waits .step)))))

/-- spec/06 R96, R97, R107-R110, spec/04 R62, R64, spec/20 R382, spec/22 R425: writes of FMT go to the shadow; a new view
must be aligned to 64 bytes and fit the window; `unhold` clears the held slots of the classes its mask names; `phase` and
`ulimask` write their registers; the prefixes have no effect but on their bundle's slots. -/
def Obligations.FormatViewsPrefixes : Prop :=
  (∀ s k a, Operable s k (snames [a]) (snames [a]) →
    exec (.fmt a) s = .next (s.modIssue fun x => { x with fmtWrite := some ((k.rs a).setWidth 32) })) ∧
  (∀ s k (i : BitVec 20), s.issue = some k → exec (.fmti i) s = .next (s.modIssue fun x => { x with
    fmtWrite := some ((k.ext.elim 0 (·.setWidth 12)) ++ i) })) ∧
  (∀ s k w a, Operable s k (snames [a]) (snames [a]) →
    (let base := (k.rs a).toNat % 2 ^ 32; let size := (k.rs a).toNat / 2 ^ 32
     (base % 64 = 0 ∧ size % 64 = 0 ∧ base + size ≤ k.before.winSize →
       exec (.vset w a) s = .next (s.modSeq k.n fun q => { q with views := q.views.set w.toNat ⟨base, size⟩ })) ∧
     (¬ (base % 64 = 0 ∧ size % 64 = 0 ∧ base + size ≤ k.before.winSize) →
       exec (.vset w a) s = .next (s.raise 2 { cause := .viewOut })))) ∧
  (∀ s k (m : BitVec 6), s.issue = some k → exec (.unhold m) s = .next (s.modSeq k.n fun q => q.setBank k.consumer
    { q.bankOf k.consumer with held := (q.bankOf k.consumer).held.filter fun e => m.toNat / 2 ^ (e.1 - 2) % 2 ≠ 1 })) ∧
  (∀ s k (i : BitVec 14), s.issue = some k → exec (.phase i) s = .next (s.modSeq k.n fun q => { q with
    phase := (k.ext.elim 0 (·.toNat) * 2 ^ 14 + i.toNat) % 2 ^ 16 })) ∧
  (∀ s k (b : BitVec 2), s.issue = some k →
    exec (.ulimask .wr b) s = .next (s.modSeq k.n fun q => { q with ulimask := b }) ∧
    exec (.ulimask .set b) s = .next (s.modSeq k.n fun q => { q with ulimask := q.ulimask ||| b }) ∧
    exec (.ulimask .clr b) s = .next (s.modSeq k.n fun q => { q with ulimask := q.ulimask &&& ~~~ b })) ∧
  (∀ s k l, s.issue = some k → exec (.scope l) s = .next (s.modIssue fun x => { x with memScope := l })) ∧
  (∀ s k c e, s.issue = some k → exec (.imx c e) s = .next (s.modIssue fun x => { x with imx := some (c, e) }))

/-- spec/04 R72: a write to FMT issued in bundle n is used first by bundle n + 5, and until then only flags change; the
queue holds at most four writes, whose counts rise; ones written in [31:24] clear flags. -/
def Obligations.FmtShadow : Prop :=
  (∀ (k : Bank) v f0 f1 f2 f3 f4, k.shadow = [] →
    let k1 := shadowTick k (some v) f0; let k2 := shadowTick k1 none f1; let k3 := shadowTick k2 none f2
    let k4 := shadowTick k3 none f3; let k5 := shadowTick k4 none f4
    (∀ x ∈ [k1, k2, k3, k4], x.fmt.toNat % 2 ^ 24 = k.fmt.toNat % 2 ^ 24) ∧
    k5.fmt.toNat % 2 ^ 24 = v.toNat % 2 ^ 20 / 8 * 8 ∧ k5.shadow = [] ∧
    (∀ b, 24 ≤ b → b < 32 → k5.fmt.getLsbD b = (!v.getLsbD b && (k.fmt.getLsbD b ||
      (f0 ||| f1 ||| f2 ||| f3 ||| f4).testBit (b - 24))))) ∧
  (∀ (k : Bank) w f, k.shadow.Pairwise (fun x y => x.count < y.count) → (∀ e ∈ k.shadow, 1 ≤ e.count ∧ e.count ≤ 4) →
    (let t := shadowTick k w f
     t.shadow.Pairwise (fun x y => x.count < y.count) ∧ (∀ e ∈ t.shadow, 1 ≤ e.count ∧ e.count ≤ 4) ∧ t.shadow.length ≤ 4 ∧ t.held = k.held))

/-- spec/06 R113, R114, spec/04 R74, R75: `crd` reads each register of R74 as it stood before the bundle, `cwr` writes the
writable ones: FMT through the shadow, write-one-to-clear registers by clearing the ones written, DMR without the bits that
were clear at launch, ULIMASK without IN. -/
def Obligations.ControlRegisters : Prop :=
  (∀ s k d, Operable s k (snames [d]) [] → k.before.ctx.isSome = true → ∀ e ∈ ([(0x00, s.sys.modid * 2048 + twinSeq s k.n), (0x01, s.sys.modid * 512 + twinSeq s k.n / 4),
      (0x02, k.before.ctxid), (0x03, k.before.asidReg), (0x04, (kernelAt (s.ctxOf k.n) k.pc).1), (0x05, k.before.dmr.toNat),
      (0x06, k.before.ulivec), (0x07, k.before.ulimask.toNat + (if k.before.inHandler then 2 ^ 63 else 0)),
      (0x08, k.before.ulist.toNat + 16 * k.before.uliChan), (0x09, k.before.prebud), (0x0A, lbstat (s.core (coreOf k.n)) k.n),
      (0x0B, k.before.rowprog), (0x0C, k.before.stepno), (0x0D, k.before.phase), (0x0E, k.before.portst.toNat),
      (0x11, (s.core (coreOf k.n)).frzcnt.toNat), (0x12, (s.core (coreOf k.n)).strikes.toNat), (0x13, (s.core (coreOf k.n)).cycle.toNat),
      (0x14, s.sys.dtime), (0x15, (k.before.bankOf k.consumer).fmt.toNat), (0x16, k.before.winBase),
      (0x17, k.before.winBase + k.before.winSize - 1), (0x18, (s.func (s.ctxOf k.n).func).weltspl.toNat),
      (0x19, (s.func (s.ctxOf k.n).func).weltref.toNat), (0x1A, k.before.aeprog)] : List (Nat × Nat)),
    exec (.crd d (BitVec.ofNat 8 e.1)) s = .next (s.ws k d (BitVec.ofNat 64 e.2))) ∧
  (∀ s k d, Operable s k (snames [d]) [] → ∀ w < 8, exec (.crd d (BitVec.ofNat 8 (0x20 + w))) s = .next (s.ws k d
    (BitVec.ofNat 64 ((viewAt k.before w).size * 2 ^ 32 + (viewAt k.before w).base)))) ∧
  (∀ s k a, Operable s k (snames [a]) (snames [a]) →
    exec (.cwr 0x05 a) s = .next (s.modSeq k.n fun q => { q with dmr := (k.rs a).setWidth 4 &&& q.dmr0 }) ∧
    exec (.cwr 0x06 a) s = .next (s.modSeq k.n fun q => { q with ulivec := (k.rs a).toNat % 2 ^ 18 }) ∧
    exec (.cwr 0x07 a) s = .next (s.modSeq k.n fun q => { q with ulimask := (k.rs a).setWidth 2 }) ∧
    exec (.cwr 0x08 a) s = .next (s.modSeq k.n fun q => { q with
      ulist := q.ulist &&& ~~~ (k.rs a).setWidth 2, uliChan := q.uliChan &&& (15 - (k.rs a).toNat / 16 % 16) }) ∧
    exec (.cwr 0x0E a) s = .next (s.modSeq k.n fun q => { q with portst := q.portst &&& ~~~ (k.rs a).setWidth 16 }) ∧
    exec (.cwr 0x15 a) s = .next (s.modIssue fun x => { x with fmtWrite := some ((k.rs a).setWidth 32) }))

/-- spec/04 R75, spec/06 R111, R112, spec/20 R381: equal operands let `ctrap` go on; unequal ones, an access to a register
marked FW, a write of a read-only one and a `uret` outside a handler raise their traps; `trap` is taken after its bundle
with its code; `uret` in a handler leaves it after its bundle. -/
def Obligations.TrapInstructions : Prop :=
  (∀ s k a b, Operable s k (snames [a, b]) (snames [a, b]) →
    (k.rs a = k.rs b → exec (.ctrap a b) s = .next s) ∧
    (k.rs a ≠ k.rs b → exec (.ctrap a b) s = .next
      (s.raise 4 { cause := .compareMismatch, addr := (k.rs a).toNat, aux := (k.rs b).toNat }))) ∧
  (∀ s k (c : BitVec 20), s.issue = some k → exec (.trap c) s = .next (thenAfter s (.trap
    { cause := .softTrap, slot := k.pos, info := k.ext.elim 0 (·.toNat) * 2 ^ 20 + c.toNat }))) ∧
  (∀ s k, s.issue = some k →
    (k.before.inHandler = true → exec .uret s = .next (thenAfter s .uret)) ∧
    (k.before.inHandler = false → exec .uret s = .next (s.raise 4 { cause := .illegalInstr }))) ∧
  (∀ s k d, Operable s k (snames [d]) [] → exec (.crd d 0x0F) s = .next (s.raise 4 { cause := .permission }) ∧
    exec (.crd d 0x10) s = .next (s.raise 4 { cause := .permission })) ∧
  (∀ s k a (n : BitVec 8), Operable s k (snames [a]) (snames [a]) → (.cwr n a : Instr).wf = true → n ∉ [0x05, 0x06, 0x07, 0x08, 0x0E, 0x15] →
    exec (.cwr n a) s = .next (s.raise 4 { cause := .permission }))

/-- spec/02 R442, spec/04 R64: a slot of the bundle being issued that names a register outside its view raises view out of
window in phase 2, and one whose first failing check of phase 4 is `t` raises `t`; neither has its effect. A vector
slot whose format is not accepted (spec/07 R127) raises illegal instruction with the format flag in phase 3. A slot outside
a bundle does nothing. -/
def Obligations.SlotChecksOrder : Prop :=
  (∀ s k needs effect t, s.issue = some k → (needs k).badTarget s k = some t → slot s needs effect = s.raise 1 t) ∧
  (∀ s k needs effect, s.issue = some k → (needs k).badTarget s k = none → (needs k).ready = true → (∃ x ∈ (needs k).names, x.ok k.before = false) →
    (∀ x ∈ (needs k).names, x.ok k.before = true → x.ready k = true) →
    slot s needs effect = s.raise 2 { cause := .viewOut }) ∧
  (∀ s k needs effect t, Operable s k (needs k).names (needs k).reads → (needs k).ready = true → (needs k).early = none →
    (needs k).view = true → (needs k).fmtOk = true → firstSome (needs k).checks = some t →
    slot s needs effect = s.raise 4 t) ∧
  (∀ s k needs effect x, s.issue = some k → (needs k).badTarget s k = none → x ∈ (needs k).names → x.ok k.before = true →
    x.ready k = false → slot s needs effect = s.stalled .notReady) ∧
  (∀ s needs effect, s.issue = none → slot s needs effect = s) ∧
  (∀ q r, Name.ok q (.scalar r) = (decide (q.inHandler = true ∧ r < 16) || decide (r < 64 ∧ 8 * r + 8 ≤ (viewAt q 0).size))) ∧
  (∀ q w c, Name.ok q (.vec w c) = (decide (56 ≤ c) || decide (512 * c + 512 ≤ (viewAt q w).size))) ∧
  (∀ q t, t < 16 → Name.ok q (.tile t) = decide (16384 * t + 16384 ≤ (viewAt q 2).size)) ∧
  (∀ s k w dst src old other reads acc own late effect,
    Operable s k (vnames w (dst ++ src) ++ other) (vnames w (src ++ if old then dst else []) ++ reads) →
    portPath s k.n src dst = true → acc (fmtVF k.fmt) = false →
    vecSlot s w dst src old other reads acc own late effect = s.raise 3 { cause := .illegalInstr, flags := 2 })

/-- spec/01 R17, spec/20 R376, R377: taking a trap makes the sequencer faulted with the PC it resumes at, remembers its
state, stops every other live sequencer of its context, begins the context's stop and changes no memory and no register: of
its cores only what comes to the head of a matrix queue may begin (spec/08 R174). -/
def Obligations.TrapIsTaken : Prop :=
  ∀ s n t pc saved precise c, (s.seq n).ctx = some c → n ∈ (s.ctx c).seqs → (s.ctx c).seqs.Nodup →
    (∀ m ∈ (s.ctx c).seqs, (s.seq m).wait = none) →
    let u := takeTrap s n t pc saved precise
    (u.seq n).st = .faulted ∧ (u.seq n).prev = (s.seq n).st ∧ (u.seq n).pc = saved ∧ (u.seq n).watch = none ∧
    (u.ctx c).st = .stopping ∧ (u.ctx c).frec = faultRecord s n t pc precise ∧ (u.ctx c).faulted = (s.ctx c).faulted.filter (· ≠ n) ++ [n] ∧
    (∀ m ∈ (s.ctx c).seqs, m ≠ n → (s.seq m).st = .running ∨ (s.seq m).st = .waiting →
      (u.seq m).st = .preempted ∧ (u.seq m).prev = (s.seq m).st ∧ (u.seq m).pc = (s.seq m).pc) ∧
    (∀ m, m ∉ (s.ctx c).seqs → u.seq m = s.seq m) ∧
    (∀ d, d ≠ c → u.ctx d = s.ctx d) ∧ u.mem = s.mem ∧
    (∀ g, u.core g = { s.core g with mq := (u.core g).mq } ∧ SameQueue (u.core g).mq (s.core g).mq)

/-- spec/20 R377: the fields of the fault record. -/
def Obligations.FaultRecordFields : Prop :=
  ∀ s n t pc precise, t.code = false → t.flags + (if t.held then 1 else 0) + (if precise then 64 else 0) < 128 → t.slot < 8 →
    (kernelAt (s.ctxOf n) pc).1 < 2 ^ 32 → (kernelAt (s.ctxOf n) pc).2 < 2 ^ 32 → seqId s n < 2 ^ 32 → (s.seq n).ctx.getD 0 < 2 ^ 16 →
    (s.ctxOf n).asid < 2 ^ 16 → t.xlat < 2 ^ 32 → (s.seq n).stepno < 2 ^ 64 →
    let r := (faultRecord s n t pc precise).toNat
    r % 256 = t.cause.code ∧
    r / 2 ^ 8 % 256 = t.flags + (if t.held then 1 else 0) + (if precise then 64 else 0) + (if (s.ctxOf n).splice.isSome then 128 else 0) ∧
    r / 2 ^ 16 % 256 = t.slot ∧ r / 2 ^ 24 % 256 = (s.seq n).st.code ∧ r / 2 ^ 32 % 2 ^ 32 = (kernelAt (s.ctxOf n) pc).1 ∧
    r / 2 ^ 64 % 2 ^ 32 = (kernelAt (s.ctxOf n) pc).2 ∧ r / 2 ^ 96 % 2 ^ 32 = seqId s n ∧ r / 2 ^ 128 % 2 ^ 16 = (s.seq n).ctx.getD 0 ∧
    r / 2 ^ 144 % 2 ^ 16 = (s.ctxOf n).asid ∧ r / 2 ^ 160 % 2 ^ 32 = t.xlat ∧ r / 2 ^ 192 % 2 ^ 64 = t.addr % 2 ^ 64 ∧
    r / 2 ^ 256 % 2 ^ 64 = t.aux % 2 ^ 64 ∧ r / 2 ^ 320 % 2 ^ 64 = t.info % 2 ^ 64 ∧ r / 2 ^ 384 % 2 ^ 64 = (s.seq n).stepno ∧
    r / 2 ^ 448 = s.sys.dtime % 2 ^ 64

/-- spec/20 R376, R378: a resumed context's sequencers return to the state they had; the faulting one runs at its PC, or is
idle or retired where it was so at the fault. None goes back by a strike to before its return. -/
def Obligations.ReturnFromStop : Prop := ∀ s n, let u := returnFromStop s n
  let q := { s.seq n with epoch := (s.seq n).epoch + 1, redo := none }
  ((s.seq n).st = .preempted → u.seq n = { q with st := q.prev, prev := .idle }) ∧
  ((s.seq n).st = .faulted → q.prev ≠ .idle → q.prev ≠ .retired → u.seq n = { q with st := .running, prev := .idle }) ∧
  ((s.seq n).st = .faulted → q.prev = .idle ∨ q.prev = .retired → u.seq n = { q with st := q.prev, prev := .idle }) ∧
  ((s.seq n).st ≠ .faulted → (s.seq n).st ≠ .preempted → u.seq n = q) ∧
  (∀ m, m ≠ n → u.seq m = s.seq m) ∧ u.mem = s.mem ∧ u.cores = s.cores

/-- spec/20 R380, R381, spec/04 R73: entry to the handler saves PC, loop stack, held slots, FMT and its queue, clears the
taken bit, sets IN, passes the cause, the channel and the PC in shadow s1 to s3 and continues at ULIVEC with the control
fields of FMT, no flag and an empty queue; leaving it restores what was saved, and nothing else of the program changes. -/
def Obligations.HandlerEntryAndReturn : Prop :=
  (∀ s n b, (s.seq n).wait = none → b < 2 → (s.seq n).shadow.length = 16 →
    let q := s.seq n
    let r := (enterHandler s n b).seq n
    r.pc = q.ulivec ∧ r.inHandler = true ∧ r.loops = [] ∧ r.bank.held = [] ∧ r.bank.shadow = [] ∧
    r.bank.fmt.toNat = q.bank.fmt.toNat % 2 ^ 20 / 8 * 8 ∧ r.ulist.getLsbD b = false ∧ r.ulist.getLsbD (1 - b) = q.ulist.getLsbD (1 - b) ∧
    r.shadow.getD 1 0 = BitVec.ofNat 64 (b + 1) ∧ r.shadow.getD 2 0 = BitVec.ofNat 64 q.uliChan ∧ r.shadow.getD 3 0 = BitVec.ofNat 64 q.pc ∧
    (∀ j, 4 ≤ j → r.shadow[j]? = q.shadow[j]?) ∧ r.st = .running ∧ r.views = q.views ∧ r.masks = q.masks ∧ r.ports = q.ports ∧
    (∀ m, m ≠ n → (enterHandler s n b).seq m = s.seq m) ∧ (enterHandler s n b).mem = s.mem ∧ (enterHandler s n b).cores = s.cores) ∧
  (∀ s n b, (s.seq n).wait = none → (s.seq n).pendDom = none → (s.seq n).pendT = none → (s.seq n).watch = none →
    let q := s.seq n
    let r := leaveHandler ((enterHandler s n b).seq n)
    r = { q with st := .running, ulist := r.ulist, shadow := r.shadow, saved := none, inHandler := false }) ∧
  (∀ q, uliPending q = some 0 ↔ q.inHandler = false ∧ q.ulist.getLsbD 0 = true ∧ q.ulimask.getLsbD 0 = true) ∧
  (∀ q, uliPending q = some 1 ↔ q.inHandler = false ∧ q.ulist.getLsbD 1 = true ∧ q.ulimask.getLsbD 1 = true ∧
    ¬ (q.ulist.getLsbD 0 = true ∧ q.ulimask.getLsbD 0 = true))

/-! ### Memory slots -/

/-- spec/11 R209-R211, R214: every scalar load and store whose address is aligned and translates puts one access in flight,
with its width, its extension, its freshness and order, and raises LD or ST; memory and registers do not change with the
slot. -/
def Obligations.LoadsAndStoresStart : Prop :=
  LoadStarts .ld8 1 true ∧ LoadStarts .ld16 2 true ∧ LoadStarts .ld32 4 true ∧ LoadStarts .ld64 8 true ∧
  LoadStarts .ldz8 1 false ∧ LoadStarts .ldz16 2 false ∧ LoadStarts .ldz32 4 false ∧
  StoreStarts .st8 1 ∧ StoreStarts .st16 2 ∧ StoreStarts .st32 4 ∧ StoreStarts .st64 8 ∧
  (∀ s k f o d a imm l, Operable s k (vnames 1 [d] ++ snames [a]) (snames [a]) → (s.seq k.n).ld < 63 → heldBack s k.n .s false = false →
    portPath s k.n [] [d] = true → AllPass (portChecks s k.n [] [d]) →
    (rriAddr k a imm).toNat % 64 = 0 → dataSegs s k.n .s { r := true } (rriAddr k a imm) 512 = .ok l →
    ∃ t dst, exec (.vld f o d a imm) s = .next t ∧ (t.seq k.n).ld = (s.seq k.n).ld + 1 ∧ VectorGoes s t k 1 d dst ∧
      Starts s k { id := 0, path := .s, kind := .load dst 512 false, fresh := f, acq := o, segs := l } t) ∧
  (∀ s k o d a imm l, Operable s k (vnames 1 [d] ++ snames [a]) (vnames 1 [d] ++ snames [a]) → (s.seq k.n).st_ < 63 →
    heldBack s k.n .s true = false → portPath s k.n [d] [] = true → AllPass (portChecks s k.n [d] []) →
    (rriAddr k a imm).toNat % 64 = 0 → dataSegs s k.n .s { w := true } (rriAddr k a imm) 512 = .ok l →
    ∃ t, exec (.vst o d a imm) s = .next t ∧ (t.seq k.n).st_ = (s.seq k.n).st_ + 1 ∧
      Starts s k { id := 0, path := .s, kind := .store, rel := o, data := (operand s k 1 [d] d).toNat, segs := l } t)

/-- spec/11 R209, R210, spec/17 R332, R333: a scalar load or store traps precisely where its address is misaligned, and
otherwise where a page of it does not translate or permit it. -/
def Obligations.LoadsAndStoresTrap : Prop :=
  LoadTraps .ld8 1 ∧ LoadTraps .ld16 2 ∧ LoadTraps .ld32 4 ∧ LoadTraps .ld64 8 ∧ LoadTraps .ldz8 1 ∧ LoadTraps .ldz16 2 ∧
  LoadTraps .ldz32 4 ∧ StoreTraps .st8 1 ∧ StoreTraps .st16 2 ∧ StoreTraps .st32 4 ∧
  (∀ s k o d a imm, Operable s k (snames [d, a]) (snames [d, a]) → (s.seq k.n).st_ < 63 → heldBack s k.n .s true = false →
    (rriAddr k a imm).toNat % 8 ≠ 0 →
    exec (.st64 o d a imm) s = .next (s.raise 4 { cause := .misaligned, addr := (rriAddr k a imm).toNat }))

/-- spec/11 R216: gathers and scatters put one access in flight for the elements of their index vector; formats of 32 and
64 bits only. -/
def Obligations.GathersAndScattersStart : Prop :=
  (∀ s k f o d a b m l, Operable s k (vnames (viewOfM m) [d, b] ++ snames [a]) (vnames (viewOfM m) [b] ++ snames [a]) →
    (s.seq k.n).ld < 63 → heldBack s k.n .s false = false → portPath s k.n [b] [d] = true → AllPass (portChecks s k.n [b] [d]) →
    fmtVF k.fmt ∈ [.f32, .f64, .i32, .i64, .z32, .z64] →
    gatherSegs s k.n { r := true } 0 (Fp.width (fmtVF k.fmt) / 8)
      ((List.range (count (fmtVF k.fmt))).map fun e => (k.rs a + ((operand s k (viewOfM m) [b] b).extractLsb' (32 * e) 32).signExtend 64, e * (Fp.width (fmtVF k.fmt) / 8))) = .ok l →
    ∃ t dst, exec (.vgat f o d a b m) s = .next t ∧ (t.seq k.n).ld = (s.seq k.n).ld + 1 ∧ VectorGoes (popped s k [b]) t k (viewOfM m) d dst ∧
      Starts s k { id := 0, path := .s, kind := .load dst 512 false, fresh := f, acq := o, segs := l } t) ∧
  (∀ s k o d a b m l, Operable s k (vnames (viewOfM m) [d, b] ++ snames [a]) (vnames (viewOfM m) [d, b] ++ snames [a]) →
    (s.seq k.n).st_ < 63 → heldBack s k.n .s true = false → portPath s k.n [d, b] [] = true → AllPass (portChecks s k.n [d, b] []) →
    fmtVF k.fmt ∈ [.f32, .f64, .i32, .i64, .z32, .z64] →
    gatherSegs s k.n { w := true } 1 (Fp.width (fmtVF k.fmt) / 8)
      ((List.range (count (fmtVF k.fmt))).map fun e => (k.rs a + ((operand s k (viewOfM m) [d, b] b).extractLsb' (32 * e) 32).signExtend 64, e * (Fp.width (fmtVF k.fmt) / 8))) = .ok l →
    ∃ t, exec (.vsct o d a b m) s = .next t ∧ (t.seq k.n).st_ = (s.seq k.n).st_ + 1 ∧
      Starts s k { id := 0, path := .s, kind := .store, rel := o, segs := l, data := (operand s k (viewOfM m) [d, b] d).toNat } t)

/-- spec/11 R217-R220, spec/19 R362, R363, spec/13 R267: bank atomics, `vbred`, barrier updates and `jinit` put one access
of path B in flight at an aligned address that a BAU homes. `tbarv` with b = 0 arrives with 1; `jinit` has module scope. -/
def Obligations.BankOperationsStart : Prop :=
  BankStarts .badd .add ∧ BankStarts .bmin .min ∧ BankStarts .bmax .max ∧ BankStarts .band .and ∧ BankStarts .bor .or ∧
  BankStarts .bxor .xor ∧ BankStarts .bswp .swap ∧ BankStarts .bcas .cas ∧
  (∀ s k a b q l, Operable s k (vnames 1 [b] ++ snames [a]) (vnames 1 [b] ++ snames [a]) → (s.seq k.n).st_ < 63 →
    heldBack s k.n .b true = false → portPath s k.n [b] [] = true →
    AllPass (portChecks s k.n [b] []) → fmtVF k.fmt ∈ [.f32, .f16, .bf16, .i32, .z32, .i16, .z16] → (k.rs a).toNat % 512 = 0 →
    dataSegs s k.n .b { r := true, w := true } (k.rs a) 512 = .ok l → (∀ x ∈ l, bauHomed (localPa x.pa) = true) →
    ∃ t, exec (.vbred a b q) s = .next t ∧ (t.seq k.n).st_ = (s.seq k.n).st_ + 1 ∧
      Starts s k { id := 0, path := .b, kind := .vbred q (fmtVF k.fmt), rel := true, data := (operand s k 1 [b] b).toNat, segs := l } t) ∧
  UpdateStarts .tbinit 32 (fun k _ b => (k.rs b).toNat % 2 ^ 20 ≠ 0) (fun k _ b => .tb (.init ((k.rs b).toNat % 2 ^ 20))) (·.scope) ∧
  UpdateStarts .tbexp 32 (fun _ _ _ => True) (fun k _ b => .tb (.expect ((k.rs b).toNat % 2 ^ 32))) (·.scope) ∧
  UpdateStarts .tbarv 32 (fun _ _ _ => True) (fun k _ b => .tb (.arrive (if b = 0 then 1 else (k.rs b).toNat % 2 ^ 20))) (·.scope) ∧
  UpdateStarts .jinit 64 (fun _ _ _ => True) (fun k _ b => .jinit (k.rs b)) (fun _ => .module)

/-- spec/10 R202, R205, spec/11 R221-R223, R225, R226: fences start no access and raise no counter, and their orders come into force with
the next bundle; `mon` arms the sequencer's watch on the line of its address, untriggered; `fill` starts one 512-byte write of its vector on path X and with P adds 512 to its address
register; a 64-bit store into the core's own aperture starts a copy at the end of that channel's FIFO. -/
def Obligations.FencesFillsAndCopies : Prop :=
  (∀ s k c, s.issue = some k → ∃ t, exec (.fence c) s = .next t ∧ (t.seq k.n).ordered = true ∧ (t.seq k.n).acc = (s.seq k.n).acc ∧
    (t.seq k.n).order = (s.seq k.n).order ∧ t.mem = s.mem ∧ t.cores = s.cores ∧
    ∃ l, t.issue = some { k with orders := k.orders ++ l } ∧
      (c = .rel → ∃ o w, l = [o, w] ∧ o.paths = [.s, .b] ∧ o.reads = false ∧ o.hold = true ∧ w.paths = [.s, .p, .m, .x, .b, .a] ∧ w.reads = false ∧ w.after = o.after) ∧
      (c = .acq → ∃ o, l = [o] ∧ o.paths = [.s, .p, .m, .x, .b, .a] ∧ o.reads = true ∧ o.hold = true) ∧
      (c = .full → ∃ o w p, l = [o, w, p] ∧ o.paths = [.s, .b] ∧ o.reads = true ∧ o.hold = true ∧ w.paths = [.s, .p, .m, .x, .b, .a] ∧ w.reads = false ∧
        w.after = o.after ∧ p.paths = [.s, .p, .m, .x, .b, .a] ∧ p.reads = true ∧ p.hold = true)) ∧
  (∀ s k p q, s.issue = some k → ∃ t o, exec (.xfence p q) s = .next t ∧ t.issue = some { k with orders := k.orders ++ [o] } ∧
    o.paths = [q] ∧ o.hold = true ∧ (∀ d, d ∈ o.after ↔ d.scope = k.scope ∧ d.id ∈ openOn s k.n p ∧ d.id < k.firstId) ∧
    t.seqs = s.seqs ∧ t.mem = s.mem ∧ t.cores = s.cores) ∧
  (∀ s k a x, Operable s k (snames [a]) (snames [a]) → dataSegs s k.n .s { r := true } (k.rs a) 1 = .ok [x] →
    ∃ t line, exec (.mon a) s = .next t ∧ (t.seq k.n).watch = some (line, (k.rs a).toNat / 128 * 128, false) ∧ line % 128 = 0 ∧
      (x.fab = false → replicaEntry s (localPa x.pa) = none → line = localPa x.pa / 128 * 128) ∧
      t.mem = s.mem ∧ (t.seq k.n).acc = (s.seq k.n).acc ∧ ∀ g, (t.core g).regs = (s.core g).regs) ∧
  (∀ s k a b l, Operable s k (snames [a] ++ vnames 1 [b]) (snames [a] ++ vnames 1 [b]) → (s.seq k.n).xf < 63 →
    heldBack s k.n .x true = false → portPath s k.n [b] [] = true →
    AllPass (portChecks s k.n [b] []) → (k.rs a).toNat % 64 = 0 →
    segs s (coreOf k.n) .etlb (asidOf s k.n) .x { w := true } (k.rs a).toNat 512 = .ok l →
    ∃ t x, exec (.fill a b false) s = .next t ∧ exec (.fill a b true) s = .next (t.ws k a (k.rs a + 512)) ∧
      (t.seq k.n).xf = (s.seq k.n).xf + 1 ∧ (t.seq k.n).acc.length = (s.seq k.n).acc.length + 1 ∧ (t.seq k.n).acc.getLast? = some x ∧
      x.path = .x ∧ x.kind = .fill ∧ x.data = (operand s k 1 [b] b).toNat ∧ x.segs = l ∧ x.pc = k.pc ∧ x.slot = k.pos ∧ x.scope = k.scope ∧
      (∀ y ∈ (s.seq k.n).acc, ∃ d, { y with after := d } ∈ (t.seq k.n).acc) ∧ t.mem = s.mem ∧ t.issue = s.issue ∧ t.ctxs = s.ctxs ∧
      (∀ g, (t.core g).regs = (s.core g).regs) ∧ (∀ m, m ≠ k.n → t.seq m = s.seq m)) ∧
  (∀ s k o d a imm ch, Operable s k (snames [d, a]) (snames [d, a]) → (rriAddr k a imm).toNat % 8 = 0 →
    apertureOf s k.n (rriAddr k a imm) = some ch → (s.seq k.n).xf < 63 →
    ((s.core (coreOf k.n)).bte.getD ch []).length < 4 → heldBack s k.n .x true = false → heldBack s k.n .s true = false →
    ∃ t c, exec (.st64 o d a imm) s = .next t ∧ (t.seq k.n).xf = (s.seq k.n).xf + 1 ∧ (t.seq k.n).st_ = (s.seq k.n).st_ ∧
      (t.core (coreOf k.n)).bte = upd (s.core (coreOf k.n)).bte ch (fun l => l ++ [c]) ∧ c.seq = k.n ∧ c.word = k.rs d ∧ c.pc = k.pc ∧
      c.slot = k.pos ∧ c.read = false ∧ t.mem = s.mem ∧ (∀ g, (t.core g).regs = (s.core g).regs))

/-! ### Engines, channels and tasks: their slots -/

/-- spec/08 R155-R160, R165-R168: the MTX instructions at issue. An `mma`, `mcommit`, `mzero` or `mstab` joins the matrix
queue with its operands as they stood before the bundle and raises MT; `mshape` copies a vector's first 64 bytes into a
shape record, or traps with the shape flag. -/
def Obligations.MatrixOperationsStart : Prop :=
  MmaStarts .mma false ∧ MmaStarts (fun z n r h _ b => .mmaD z n r h b) true ∧ TileFreed .mcommit .commit ∧ TileFreed .mzero (fun _ => .zero) ∧
  (∀ (s : State) (k : Issue) (i : BitVec 8) (a b : Reg), Operable s k (snames [a, b]) (snames [a, b]) → MatrixRoom s k → (k.rs a).toNat % 2 = 0 →
    ((k.rs b) >>> 48).toNat ≠ 0 → ∃ t, exec (.mstab i a b) s = .next t ∧
      Queues s k { id := 0, seq := 0, op := .stab i.toNat { bpr := ((k.rs b) >>> 48).toNat, dbase := (k.rs b).toNat % 2 ^ 48, saddr := (k.rs a).toNat % 2 ^ 48, core := coreOf k.n } }
        (s.core (coreOf k.n)).ls t) ∧
  (∀ (s : State) (k : Issue) (h : BitVec 3) (a : Reg) (m : BitVec 2), VecRuns s k (viewOfM m) [] [a] false [.shape h.toNat] [] anyFmt →
    (shapeLoadable ((operand s k (viewOfM m) [a] a).setWidth 512) = true → exec (.mshape h a m) s = .next ((popped s k [a]).wb k
      ((viewAt k.before 3).base + 64 * h.toNat) 64 ((operand s k (viewOfM m) [a] a).toNat % 2 ^ 512))) ∧
    (shapeLoadable ((operand s k (viewOfM m) [a] a).setWidth 512) = false →
      exec (.mshape h a m) s = .next (s.raise 4 { cause := .reservedField, flags := 4 })))

/-- spec/13 R253-R256, spec/18 R341-R344: `pcfg` writes its descriptor and has the port take it after the bundle; `pflush`
waits for an output port's writes of earlier bundles, ends at once on a forwarded output port without KEEP (spec/15 R295),
empties and exhausts an input port, and does nothing to a port that is not loaded; `pseal` and `lset` put an access of the descriptor unit in flight. -/
def Obligations.StreamAndDescriptorSlots : Prop :=
  (∀ (s : State) (k : Issue) (p : BitVec 3) (a : Reg) (m : BitVec 2), VecRuns s k (viewOfM m) [] [a] false [.portd p.toNat] [] anyFmt →
    holdsOutput k.before p.toNat = false →
    let d := (operand s k (viewOfM m) [a] a).setWidth 512
    (pdValid d = true → exec (.pcfg p a m) s = .next
      (((popped s k [a]).wb k ((viewAt k.before 4).base + 64 * p.toNat) 64 d.toNat).modIssue fun x => { x with pcfgs := x.pcfgs ++ [(p.toNat, d)] })) ∧
    (pdValid d = false → exec (.pcfg p a m) s = .next (s.raise 4 { cause := .reservedField, flags := 32 }))) ∧
  (∀ (s : State) (k : Issue) (p : BitVec 3), s.issue = some k →
    let x := k.before.ports.getD p.toNat {}
    (x.v = false → exec (.pflush p) s = .next s) ∧
    (x.v = true → pdOut x.desc = false → ∃ t, exec (.pflush p) s = .next t ∧ OnlyUnits s t k.n ∧ (t.seq k.n).acc = (s.seq k.n).acc ∧
      (t.seq k.n).ports = upd (s.seq k.n).ports p.toNat (fun y => { y with buf := [], exh := true }) ∧
      (t.seq k.n).fwd = (s.seq k.n).fwd.map fun f => if f.2.1 = p.toNat then (f.1, f.2.1, []) else f) ∧
    (x.v = true → pdOut x.desc = true → (fwdOut k.before p.toNat).isSome = true → fwdKeep s k.n p.toNat = false → (s.seq k.n).xf < 63 →
      exec (.pflush p) s = .next s) ∧
    (x.v = true → pdOut x.desc = true → fwdOut k.before p.toNat = none ∨ fwdKeep s k.n p.toNat = true → (s.seq k.n).xf < 63 → ∃ t a, exec (.pflush p) s = .next t ∧ OnlyUnits s t k.n ∧
      (t.seq k.n).xf = (s.seq k.n).xf + 1 ∧ (t.seq k.n).acc = (s.seq k.n).acc ++ [a] ∧ (t.seq k.n).ports = (s.seq k.n).ports ∧
      a.kind = .flush ((portWrites (s.seq k.n) p.toNat).filter fun i => i < k.firstId) ∧ a.segs = [] ∧ a.pc = k.pc ∧ a.slot = k.pos)) ∧
  (∀ (s : State) (k : Issue) (d a : Reg) (l : List Seg), Operable s k (snames [d, a]) (snames [a]) → (s.seq k.n).xf < 63 → heldBack s k.n .x true = false →
    (k.rs a).toNat % 128 = 0 → segs s (coreOf k.n) .etlb (asidOf s k.n) .x { r := true, w := true } (k.rs a).toNat 128 = .ok l →
    ∃ t, exec (.pseal d a) s = .next t ∧ (t.seq k.n).xf = (s.seq k.n).xf + 1 ∧
      Starts s k { id := 0, path := .x, kind := .seal (scalarDest k d), segs := l, data := k.firstId } t) ∧
  (∀ (s : State) (k : Issue) (d a b : Reg) (l : List Seg), Operable s k (snames [d, a, b]) (snames [a, b]) → (s.seq k.n).xf < 63 → heldBack s k.n .x true = false →
    (k.rs a).toNat % 64 = 0 → segs s (coreOf k.n) .etlb (asidOf s k.n) .x { r := true } (k.rs a).toNat 64 = .ok l →
    ∃ t, exec (.lset d a b) s = .next t ∧ (t.seq k.n).xf = (s.seq k.n).xf + 1 ∧
      Starts s k { id := 0, path := .x, kind := .last (scalarDest k d) (k.rs b).toNat, segs := l, data := k.firstId } t)

/-- spec/12 R237-R239: the AE instructions start their command, with the qubits their scalar packs six bits each. -/
def Obligations.AmplitudeCommandsStart : Prop := ∀ (s : State) (k : Issue) (a b : Reg),
  let addr := (k.rs a).toNat
  let q := fun j => (k.rs b).toNat / 2 ^ (6 * j) % 64
  (∀ m : BitVec 2, ∀ r, (s.seq k.n).ae.reg = some r →
    AmplitudeStarts (.agate a b m) [a, b] (.gate (m.toNat + 1)) s k addr ((List.range (m.toNat + 1)).map q) (if adFmt r.desc = .f32 then 8 else 16)
      (4 ^ (m.toNat + 1) * (if adFmt r.desc = .f32 then 8 else 16)) 0 { r := true }) ∧
  AmplitudeStarts (.amap a b) [a, b] .map s k addr [] 64 64 (k.rs b).toNat { r := true } ∧
  AmplitudeStarts (.ameas a b) [a, b] .meas s k addr [q 0] 16 16 0 { w := true } ∧
  AmplitudeStarts (.acoll a b) [a, b] (.coll ((k.rs b).toNat / 64 % 2)) s k addr [q 0] 16 16 0 { w := true } ∧
  AmplitudeStarts (.anorm a) [a] .norm s k addr [] 16 16 0 { w := true } ∧
  AmplitudeStarts (.aswap b) [b] .swap s k 0 [q 0, q 1] 1 0 0 {}

/-- spec/16 R303, R305, R306: the COM instructions that move vectors. A send on an open channel with a credit puts its
vector on its way and raises CM, and discards it once the peer has closed; a receive takes the oldest vector and returns a
credit, or reads zero once the peer has closed and nothing is left; `recvadd` and `recvmax` combine it in the entry's format;
a slot on an end that is undeclared, of the other direction, closed, or mismatched traps. -/
def Obligations.ChannelTransfers : Prop :=
  (∀ (s : State) (k : Issue) (c a : Reg) (m : BitVec 2), Operable s k (vnames (viewOfM m) [a]) (vnames (viewOfM m) [a]) → portPath s k.n [a] [] = true → (s.seq k.n).cm < 63 →
    AllPass (portChecks s k.n [a] []) → driftFull s k.n c.toNat = false →
    let x := chanOf k.before c.toNat
    (chanFault k.before c.toNat true = none → x.pv = true → 0 < x.cred → x.peercl = false → ∃ t f, exec (.send c a m) s = .next t ∧
      t.msgs = s.msgs ++ [f] ∧ f.msg = .vector (seqId s k.n) c.toNat (cePeerId x.entry) (cePeerCh x.entry) (operand s k (viewOfM m) [a] a) ∧
      (f.launch, f.fabric) = launchKey s ((s.seq k.n).ctx.getD 0) ∧ f.pc = k.pc ∧ f.slot = k.pos ∧
      (t.seq k.n).cm = ((popped s k [a]).seq k.n).cm + 1 ∧ (chanOf (t.seq k.n) c.toNat).cred = (chanOf ((popped s k [a]).seq k.n) c.toNat).cred - 1 ∧
      t.mem = (popped s k [a]).mem) ∧
    (chanFault k.before c.toNat true = none → x.pv = true → 0 < x.cred → x.peercl = true → exec (.send c a m) s = .next (popped s k [a])) ∧
    (∀ e, chanFault k.before c.toNat true = some e → exec (.send c a m) s = .next (s.raise 4 e))) ∧
  Receives (fun c d _ m => .recv c d m) false anyFmt (fun f r t y v => v) (fun f r t y v => 0) ∧
  Receives .recvadd true (floats ++ ints) (fun f r _ y v => if f ∈ floats then (Fp.add f r y v).1 else (y + v) % 2 ^ Fp.width f)
    (fun f r _ y v => if f ∈ floats then (Fp.add f r y v).2 else 0) ∧
  Receives .recvmax true (floats ++ ints) (fun f r t y v => if f ∈ floats then (Fp.minmax f true y v).1 else if Fp.intVal f y ≤ Fp.intVal f v then v else y)
    (fun f r t y v => if f ∈ floats then (Fp.minmax f true y v).2 else 0) ∧
  (∀ (q : Seq) (c : Nat) (send : Bool), (chanFault q c send).isSome = true ↔
    let x := chanOf q c
    ceDecl x.entry = false ∨ ceSend x.entry ≠ send ∨ x.owncl = true ∨ (x.pv = true ∧ x.pm = false)) ∧
  (∀ (q : Seq) (c : Nat) (send : Bool) e, chanFault q c send = some e → e.cause = .channelFault ∧ e.addr = (chanOf q c).entry.toNat)

/-- spec/16 R301, R302, R307, R308, spec/13 R265, R266: the other COM instructions and those of tasks. `chdecl` declares an
end with its full credits and sends the peer a notice; `chclose` closes a declared end once and sends its notice; `chpoll`
reads the state word; `spawn` puts the record of four scalars in line for the continuation queue; `retire` ends the task
after its bundle, and outside a task both trap. -/
def Obligations.ChannelAndTaskSlots : Prop :=
  (∀ (s : State) (k : Issue) (c d : Reg), Operable s k (snames [d]) [] → let x := chanOf k.before c.toNat
    exec (.chpoll c d) s = .next (s.ws k d (BitVec.ofNat 64 (if ceDecl x.entry = false then 0 else
      (if ceSend x.entry then x.cred else x.buf.length) + (if ceSend x.entry then 128 else 0) + 256 + (if x.pv then 512 else 0) +
      (if x.pm then 1024 else 0) + (if x.owncl then 2048 else 0) + (if x.peercl then 4096 else 0))))) ∧
  (∀ (s : State) (k : Issue) (c : Reg), s.issue = some k → let x := chanOf (s.seq k.n) c.toNat
    (ceDecl x.entry = false ∨ x.owncl = true → exec (.chclose c) s = .next s) ∧
    (ceDecl x.entry = true → x.owncl = false → ∃ t f, exec (.chclose c) s = .next t ∧
      t.msgs.getLast? = some f ∧ f.msg = .close (cePeerId x.entry) (cePeerCh x.entry) (seqId s k.n) c.toNat (ceSend x.entry) ∧
      chanOf (t.seq k.n) c.toNat = { x with owncl := true, buf := [] } ∧ OnlyUnits { s with seqs := s.seqs.put k.n (t.seq k.n) } t k.n)) ∧
  (∀ (s : State) (k : Issue) (c a : Reg), Operable s k (snames [a]) (snames [a]) →
    let v := (k.rs a).toNat
    let e := BitVec.ofNat 40 v
    let bad := 2 ^ 39 ≤ v ∨ ceDepth e = 0 ∨ 64 < ceDepth e ∨ peerOk s (k.before.ctx.getD 0) (cePeerId e) = false ∨
      (cePeerId e = seqId s k.n ∧ cePeerCh e = c.toNat) ∨ (ceDecl (chanOf k.before c.toNat).entry = true ∧ (chanOf k.before c.toNat).owncl = false) ∨
      (ceSend e = false ∧ 512 < depthUsed s k.n c.toNat + ceDepth e)
    (bad → exec (.chdecl c a) s = .next (s.raise 4 { cause := .channelFault, addr := v })) ∧
    (¬ bad → ∃ t f, exec (.chdecl c a) s = .next t ∧ (chanOf (t.seq k.n) c.toNat).entry = BitVec.ofNat 40 (v + 2 ^ 39) ∧
      (chanOf (t.seq k.n) c.toNat).cred = (if ceSend e then ceDepth e else 0) ∧ (chanOf (t.seq k.n) c.toNat).buf = [] ∧
      (chanOf (t.seq k.n) c.toNat).owncl = false ∧ (chanOf (t.seq k.n) c.toNat).peercl = false ∧
      (chanOf (t.seq k.n) c.toNat).pv = ((s.seq k.n).kept.find? c.toNat).isSome ∧
      t.msgs.getLast? = some f ∧ (∃ y, f.msg = .declare (cePeerId e) (cePeerCh e) y ∧ y.src = seqId s k.n ∧ y.chan = c.toNat ∧ y.entry = BitVec.ofNat 40 (v + 2 ^ 39)) ∧
      t.mem = s.mem ∧ ∀ g, (t.core g).regs = (s.core g).regs)) ∧
  (∀ (s : State) (k : Issue) (a : Reg), Operable s k (snames [a, a + 1, a + 2, a + 3]) (snames [a, a + 1, a + 2, a + 3]) →
    (∀ p ∈ (s.cluster (clusterOf (coreOf k.n))).pushes, p.bau = true ∨ coreOf p.seq ≠ coreOf k.n) →
    let r : CqRec := { code := (k.rs a).toNat, frame := (k.rs (a + 1)).toNat, join := (k.rs (a + 2)).toNat, flags := (k.rs (a + 3)).toNat, tenq := s.sys.dtime }
    (32 ≤ r.flags → exec (.spawn a) s = .next (s.raise 4 { cause := .reservedField })) ∧
    (r.flags < 32 → (s.ctxOf k.n).isTask = false → exec (.spawn a) s = .next (s.raise 4 { cause := .illegalInstr })) ∧
    (r.flags < 32 → (s.ctxOf k.n).isTask = true → pushTrap s (clusterOf (coreOf k.n)) r = none → ∃ t p, exec (.spawn a) s = .next t ∧
      (t.cluster (clusterOf (coreOf k.n))).pushes = (s.cluster (clusterOf (coreOf k.n))).pushes ++ [p] ∧ p.r = r ∧ p.seq = k.n ∧ p.bau = false ∧
      (∀ c, c ≠ clusterOf (coreOf k.n) → t.cluster c = s.cluster c) ∧ t.mem = s.mem ∧ t.cores = s.cores ∧ (t.seq k.n).acc = (s.seq k.n).acc)) ∧
  (∀ (s : State) (k : Issue), Operable s k (snames [61]) [] →
    ((s.ctxOf k.n).isTask = true → exec .retire s = .next (thenAfter s .retire)) ∧
    ((s.ctxOf k.n).isTask = false → exec .retire s = .next (s.raise 4 { cause := .illegalInstr })))

/-! ### Accesses and engines: their events -/

/-- spec/09 R181, R187, R188, spec/10 R192, spec/11 R211-R220, R225, spec/17 R331: how accesses end. A load in its turn
delivers its bytes, extended, to its register; a store and a fill put their bytes at their home; a bank atomic leaves its new
value there and its old one for the register; a barrier update and `jinit` change the object; each lowers its counter with
that (spec/19 R358). An uncorrectable granule turns a load into a data abort that waits for a boundary. -/
def Obligations.AccessesComplete : Prop :=
  (∀ (s : State) (n id : Nat) (a : Access) (o l w : Nat) (sg : Bool) (x : Seg), accOf s n id = some a → a.kind = .load (.bytes o l) w sg → w ≠ 512 →
    loadTurn (s.seq n) id = true → depsMet s n a.after = true → a.calved = false → a.home = false → a.path = .s → a.segs = [x] → PlainSeg s x →
    (localPa x.pa) % 128 + x.len ≤ 128 → segsLive s [x] = true →
    EventGives .loadComplete [n, id, 0] s fun t =>
      (t.core (coreOf n)).regs.readNat ((s.seq n).winBase + o) l = (extend w sg (lineValue s (coreOf n) x a.fresh)) % 2 ^ (8 * l) ∧
      (∀ b, b < (s.seq n).winBase + o ∨ (s.seq n).winBase + o + l ≤ b → (t.core (coreOf n)).regs.get b = (s.core (coreOf n)).regs.get b) ∧
      (∀ g, g ≠ coreOf n → (t.core g).regs = (s.core g).regs) ∧ t.mem = s.mem ∧ OverAcq s t n id .ld ∧ (∀ m, m ≠ n → t.seq m = s.seq m)) ∧
  (∀ (s : State) (n id : Nat) (a : Access) (w : Nat) (sg : Bool) (va : Nat), accOf s n id = some a → a.kind = .load .discard w sg →
    depsMet s n a.after = true → a.calved = false → a.home = false → farDone s n a = true → segsLive s a.segs = true →
    loadPoisoned s (coreOf n) a.path (a.segs.filter (!·.fab)) a.fresh = some va →
    EventGives .loadComplete [n, id, 0] s fun t => Over s t n id .ld ∧ SameBytes s t ∧
      (t.seq n).causes = (s.seq n).causes ++ [{ cause := .dataAbort, addr := va, pc := some a.pc, slot := a.slot, held := a.held }]) ∧
  (∀ (s : State) (n id : Nat) (a : Access) (x : Seg), accOf s n id = some a → a.kind = .store → a.segs = [x] → PlainSeg s x → mayApply s n a = true →
    EventGives .storeApplied [n, id, 0] s fun t => Stored s t (localPa x.pa) x.len a.data ∧ Over s t n id .st ∧
      (∀ g, (t.core g).regs = (s.core g).regs) ∧
      (∀ m line v tr, (s.seq m).watch = some (line, v, tr) → meet (localPa x.pa) x.len line 128 = true → (t.seq m).watch = some (line, v, true))) ∧
  (∀ (s : State) (n id : Nat) (a : Access) (x : Seg), accOf s n id = some a → a.kind = .fill → a.segs = [x] → PlainSeg s x → mayApply s n a = true →
    xClear s n id [] [x] = true →
    EventGives .fillComplete [n, id] s fun t => Stored s t (localPa x.pa) x.len a.data ∧ Over s t n id .xf ∧ ∀ g, (t.core g).regs = (s.core g).regs) ∧
  (∀ (s : State) (n id : Nat) (a : Access) (x : Seg), accOf s n id = some a → a.path = .b → a.segs = [x] → PlainSeg s x → mayApply s n a = true →
    let old := physRead s (localPa x.pa) x.len x.key
    EventGives .bauOperation [n, id] s fun t =>
      (∀ op ty y cmp dst, a.kind = .bank op ty y cmp dst → Stored s t (localPa x.pa) x.len (bankNew op ty old y.toNat cmp.toNat) ∧
        (loadTurn (s.seq n) id = false → (∀ g, (t.core g).regs = (s.core g).regs) ∧
          ∃ b, accOf t n id = some b ∧ b.kind = .load dst 8 false ∧ b.data = bankOld ty old ∧ b.home = true) ∧
        (∀ o, loadTurn (s.seq n) id = true → dst = .bytes o 8 → OverAcq s t n id .ld ∧
          (t.core (coreOf n)).regs.readNat ((s.seq n).winBase + o) 8 = bankOld ty old % 2 ^ 64)) ∧
      (∀ op f, a.kind = .vbred op f → Stored s t (localPa x.pa) x.len (vbredNew op f old a.data) ∧ OverAcq s t n id .st ∧ ∀ g, (t.core g).regs = (s.core g).regs) ∧
      (∀ u, a.kind = .tb u → OverAcq s t n id .st ∧ (∀ g, (t.core g).regs = (s.core g).regs) ∧
        (x.len = 32 → let r := barrierNew u (physRead s (localPa x.pa) 16 x.key); Stored s t (localPa x.pa) r.1 r.2)) ∧
      (∀ c, a.kind = .jinit c → 16 ≤ x.len → OverAcq s t n id .st ∧ (∀ g, (t.core g).regs = (s.core g).regs) ∧
        Stored s t (localPa x.pa) 16 (c.toNat + (physRead s (localPa x.pa + 8) 8 x.key &&& (2 ^ 64 - 1 - 2)) * 2 ^ 64))) ∧
  (∀ (s : State) (n id : Nat) (a : Access), n ≠ 2049 → accOf s n id = some a → a.calved = true → a.stale = false → segsLive s a.segs = true →
    EventGives .calvedRetry [n, id] s fun t => accOf t n id = some { a with calved := false } ∧ SameBytes s t) ∧
  (∀ (s : State) (n id : Nat) (a : Access) (l : List Seg), n ≠ 2049 → accOf s n id = some a → a.stale = true → (∀ x ∈ a.segs, x.fab = false) →
    (∀ r ∈ s.sys.remote, r.id ≠ id) → retranslate s (coreOf n) (if a.path = .s ∨ a.path = .b then .dtlb else .etlb) (asidOf s n) a.path (needsOf a.kind) a.segs = .ok l →
    EventGives .calvedRetry [n, id] s fun t => SameBytes s t ∧ ∃ b, accOf t n id = some { a with segs := l, stale := false, calved := b } ∧ (segsLive s l = true → b = false)) ∧
  (∀ (s : State) (pa f who d : Nat), regionOf pa = .hbm d → s.poison.contains (pa / 32 * 32) = false → (s.func f).msixMask.contains 2 = false →
    EventGives .uncorrectableError [pa, f, who] s fun t => t.poison = s.poison ++ [pa / 32 * 32] ∧ t.outbox = s.outbox ++ [.msix f 2, .memError (pa / 32 * 32) who] ∧
      SameBytes s t ∧ t.seqs = s.seqs) ∧
  (∀ s, exec .patrolScrub s = .next s) ∧
  (∀ (s : State) (g asid va : Nat), (∀ e, translate s asid va = .ok e →
      (EventGives .pageWalk [g, 0, asid, va] s fun t => (t.core (g % 512)).itlb.head? = some e ∧ SameBytes s t ∧ t.seqs = s.seqs) ∧
      (EventGives .pageWalk [g, 1, asid, va] s fun t => (t.core (g % 512)).dtlb.head? = some e ∧ SameBytes s t ∧ t.seqs = s.seqs) ∧
      (EventGives .pageWalk [g, 2, asid, va] s fun t => (t.core (g % 512)).etlb.head? = some e ∧ SameBytes s t ∧ t.seqs = s.seqs)) ∧
    (∀ e, translate s asid va = .error e → EventGives .pageWalk [g, 1, asid, va] s fun t => t = s))

/-- spec/11 R217, R218, spec/19 R362: the new value of each bank atomic, and a barrier after each update: its fields phase
[3:0], arrivals [23:4], reload [43:24] and sectors [75:44], every other bit zero; a phase ends when arrivals and sectors are
both zero, and never with `tbinit`, which also clears the 16 bytes of the report. -/
def Obligations.BankAndBarrierRules : Prop :=
  (∀ old y c : BitVec 32, ∀ ty ∈ [BankTy.i32, .z32], bankNew .add ty old.toNat y.toNat c.toNat = (old + y).toNat ∧
    bankNew .and ty old.toNat y.toNat c.toNat = (old &&& y).toNat ∧ bankNew .or ty old.toNat y.toNat c.toNat = (old ||| y).toNat ∧
    bankNew .xor ty old.toNat y.toNat c.toNat = (old ^^^ y).toNat ∧ bankNew .swap ty old.toNat y.toNat c.toNat = y.toNat ∧
    bankNew .cas ty old.toNat y.toNat c.toNat = if old = c then y.toNat else old.toNat) ∧
  (∀ old y c : BitVec 64, bankNew .add .i64 old.toNat y.toNat c.toNat = (old + y).toNat ∧
    bankNew .cas .i64 old.toNat y.toNat c.toNat = if old = c then y.toNat else old.toNat) ∧
  (∀ old y c : BitVec 32, bankNew .min .i32 old.toNat y.toNat c.toNat = (if old.toInt ≤ y.toInt then old else y).toNat ∧
    bankNew .max .i32 old.toNat y.toNat c.toNat = (if old.toInt ≤ y.toInt then y else old).toNat ∧
    bankNew .min .z32 old.toNat y.toNat c.toNat = (if old.toNat ≤ y.toNat then old else y).toNat ∧
    bankNew .max .z32 old.toNat y.toNat c.toNat = (if old.toNat ≤ y.toNat then y else old).toNat) ∧
  (∀ (u : TbUpdate) (x : Nat),
    let p := x % 16; let a := x / 2 ^ 4 % 2 ^ 20; let r := x / 2 ^ 24 % 2 ^ 20; let n := x / 2 ^ 44 % 2 ^ 32
    let y := fun (p a r n : Nat) => p + a * 2 ^ 4 + r * 2 ^ 24 + n * 2 ^ 44
    (∀ c, u = .init c → barrierNew u x = (32, y p (c % 2 ^ 20) (c % 2 ^ 20) 0)) ∧
    (∀ c, u = .arrive c → c < 2 ^ 20 → barrierNew u x =
      (16, if a = c ∧ n = 0 then y ((p + 1) % 16) r r 0 else y p ((a + 2 ^ 20 - c) % 2 ^ 20) r n)) ∧
    (∀ c, u = .expect c → barrierNew u x =
      (16, if a = 0 ∧ (n + c) % 2 ^ 32 = 0 then y ((p + 1) % 16) r r 0 else y p a r ((n + c) % 2 ^ 32))) ∧
    (∀ c, u = .countdown c → c < 2 ^ 32 → barrierNew u x =
      (16, if a = 0 ∧ n = c then y ((p + 1) % 16) r r 0 else y p a r ((n + 2 ^ 32 - c) % 2 ^ 32))))

/-- spec/13 R252-R256, spec/18 R341-R347: the address generators, a `pflush` and the descriptor unit. A generator's cycle
issues the head of an output port as one write, or the reads of the oldest waiting vector of an input port; an input vector
arrives with the bytes its addresses hold, or with a fault that waits for its pop; `pflush` ends once its writes are applied;
`pseal` answers with the record's status and seals a record of status 0; `lset` answers with its status and, where that is
zero, sets the entry. -/
def Obligations.StreamsAndDescriptors : Prop :=
  (∀ (s : State) (n id : Nat) (a : Access) (ids : List Nat), accOf s n id = some a → a.kind = .flush ids →
    ((∀ i ∈ ids, (∀ x ∈ (s.seq n).acc, x.id = i → x.home = true) ∧ ∀ x ∈ (s.seq n).ports, pdOut x.desc = true → ∀ e ∈ x.buf, e.id ≠ i) →
      EventGives .pflushComplete [n, id] s fun t => Over s t n id .xf ∧ SameBytes s t) ∧
    ((∃ i ∈ ids, ∃ x ∈ (s.seq n).acc, x.id = i ∧ x.home = false) → EventGives .pflushComplete [n, id] s fun t => t = s)) ∧
  (∀ (s : State) (g p n : Nat) (e : PortEntry) (rest : List PortEntry), genChoice s g p = some n → ((s.seq n).ports.getD p {}).buf = e :: rest →
    (pdOut ((s.seq n).ports.getD p {}).desc = true → (∀ x ∈ rest, x.id ≠ e.id) → EventGives .portGeneratorCycle [g, p] s fun t =>
      ((t.seq n).ports.getD p {}).buf = rest ∧ SameBytes s t ∧ (t.core g).gen = (s.core g).gen.set p (n % 4) ∧
      ∃ y, (t.seq n).acc = (s.seq n).acc ++ [y] ∧ y.id = e.id ∧ y.path = .p ∧ y.kind = .portOut p e.id ∧ y.segs = e.segs ∧ y.data = (e.vec.getD 0).toNat ∧ y.after = e.after ++ (if e.vec.isNone then loadOf (s.seq n) p e.id else [])) ∧
    (pdOut ((s.seq n).ports.getD p {}).desc = false → e.issued = false → e.vec = none → (∀ x ∈ rest, x.id ≠ e.id) → EventGives .portGeneratorCycle [g, p] s fun t =>
      ((t.seq n).ports.getD p {}).buf = { e with issued := true } :: rest ∧ SameBytes s t ∧ (t.seq n).acc = (s.seq n).acc)) ∧
  (∀ (s : State) (n p : Nat) (e : PortEntry) (rest : List PortEntry), let x := (s.seq n).ports.getD p {}
    p < (s.seq n).ports.length → pdOut x.desc = false → x.buf = e :: rest → e.issued = true → e.vec = none → e.fault = none → (∀ y ∈ rest, y.id ≠ e.id) →
    depsMet s n e.after = true →
    (∀ l, entrySegs s n x 0 = .ok l → segsLive s l = true → portClear s n e.id false l = true → loadPoisoned s (coreOf n) .p l = none →
      ∃ u, TlbsDiffer s u ∧ EventGives .portInputArrival [n, p] s fun t => SameBytes s t ∧
        ((t.seq n).ports.getD p {}).buf = { e with vec := some (BitVec.ofNat 4096 (loadSegs u (coreOf n) .p l false).2) } :: rest) ∧
    (∀ f, entrySegs s n x 0 = .error f → EventGives .portInputArrival [n, p] s fun t => SameBytes s t ∧
      ((t.seq n).ports.getD p {}).buf = { e with fault := some (f.trap 5) } :: rest)) ∧
  (∀ (s : State) (n id : Nat) (a : Access) (o : Nat) (x : Seg), accOf s n id = some a → a.segs = [x] → PlainSeg s x → depsMet s n a.after = true →
    segsLive s [x] = true → storesClear s n id [x] = true → causal s n id = true →
    let y := physRead s (localPa x.pa) x.len x.key
    (a.kind = .seal (.bytes o 8) → x.len = 128 → xClear s n id [x] [x] = true →
      EventGives .descriptorUnitComplete [n, id] s fun t => (t.core (coreOf n)).regs.readNat ((s.seq n).winBase + o) 8 = recStatus y % 2 ^ 64 ∧
        Over s t n id .xf ∧ (recStatus y ≠ 0 → t.mem = s.mem) ∧ (recStatus y = 0 → Stored s t (localPa x.pa + 12) 4 (recCrc y))) ∧
    (∀ idx v entry, a.kind = .last (.bytes o 8) idx → x.len = 64 → xClear s n id [x] [] = true → lastFree s ((s.seq n).ctx.getD 0) idx a.data = true → lastsLive s ((s.seq n).ctx.getD 0) = true →
      lastCheck s n id idx y = .status v entry →
      EventGives .descriptorUnitComplete [n, id] s fun t => (t.core (coreOf n)).regs.readNat ((s.seq n).winBase + o) 8 = v % 2 ^ 64 ∧
        Over s t n id .xf ∧ t.mem = s.mem ∧ (∀ e, entry = some e → (t.ctx ((s.seq n).ctx.getD 0)).lasts.getD idx 0 = BitVec.ofNat 512 e) ∧
        (entry = none → t.ctxs = s.ctxs)))

/-- spec/11 R226-R231: a copy. Its head is refused, with all that follows it in its channel, where its last is not valid or
a record's seal or version does not match; otherwise it takes its pieces and its barrier. A piece is at most 4,096 bytes and
ends at a page; when it is applied its destination holds what its source held; with its last piece the copy is complete. -/
def Obligations.CopiesRun : Prop :=
  (∀ (s : State) (g ch : Nat) (c : Copy) (e : Nat), ((s.core g).bte.getD ch []) = [c] → coreOf c.seq = g → c.read = false → engineOn s c.ctx g = true →
    depsMet s c.seq c.after = true → (c.rel = true → noHalf s 0 = true) → lastsLive s c.ctx = true → e = (c.entry.getD ((s.ctx c.ctx).lasts.getD (c.word.toNat % 4096) 0)).toNat →
    (∀ q ∈ s.seqs, coreOf q.1 = g → q.2.ctx = some c.ctx → ∀ a ∈ q.2.acc, a.data ≤ c.id → ∀ d i, a.kind = .last d i → i ≠ c.word.toNat % 4096) →
    (lastV e = false → EventGives .copyHead [g, ch] s fun t => (t.core g).bte.getD ch [] = [] ∧ (t.seq c.seq).xf = (s.seq c.seq).xf - 1 ∧
      (t.seq c.seq).causes = (s.seq c.seq).causes ++ [{ cause := .sealMismatch, pc := some c.pc, slot := c.slot, held := c.held, info := c.word.toNat, xlat := ch % 16 * 2 ^ 12 }] ∧
      SameBytes s t) ∧
    (∀ u l1 p l2 q l3 x, u = modCopy (leaves s g c.id) g ch (fun c => { c with entry := some (BitVec.ofNat 512 e) }) → lastV e = true → readRec u c.seq c.id (lastSrc e) 128 1 = .ok l1 p → readRec u c.seq c.id (lastDst e) 128 2 = .ok l2 q →
      barrierOf u c.seq (lastBar e) = .ok l3 → recSealed p = true → recSealed q = true →
      (recSeal p ≠ lastSeal e false ∨ recVersion p ≠ lastVer e false ∨ recSeal q ≠ lastSeal e true ∨ recVersion q ≠ lastVer e true →
        EventGives .copyHead [g, ch] s fun t => (t.core g).bte.getD ch [] = [] ∧ SameBytes s t ∧
          ∃ y, (t.seq c.seq).causes = (s.seq c.seq).causes ++ [y] ∧ y.cause = .sealMismatch) ∧
      (recSeal p = lastSeal e false → recVersion p = lastVer e false → recSeal q = lastSeal e true → recVersion q = lastVer e true →
        bauHere l3 = true → segsLive u l3 = true → l3.head? = some x → c.stopped = none → c.flying = [] →
        let row0 := c.word.toNat / 2 ^ 12 % 2 ^ 26
        let col0 := c.word.toNat / 2 ^ 38
        let nib := decide (recElem p = 0) && !(recPaired p col0 && recPaired q col0)
        let runs := mergeRuns (recUnit p nib) ((recWalk p row0 col0 nib).zip (recWalk q row0 col0 nib))
        runs ≠ [] → EventGives .copyHead [g, ch] s fun t => ∃ sectors, headCopy t g ch = some { c with entry := some (BitVec.ofNat 512 e), read := true, bar := localPa x.pa, barKey := x.key, barVa := lastBar e, nib := nib, runs := runs, sectors := sectors, uli := lastUli e, last := c.word.toNat % 4096 } ∧
          (lastPol e = false → SameBytes s t)))) ∧
  (∀ (s : State) (g ch : Nat) (c : Copy) (rest : List (Nat × Nat × Nat)) (a b len ra rb : Nat), headCopy s g ch = some c → c.runs = (a, b, len) :: rest → c.read = true →
    bteOn s c.ctx g ch = true → let u := c.unit
    pageRoom s g (asidOf s c.seq) { r := true } (a / u) = .ok ra → pageRoom s g (asidOf s c.seq) { w := true } (b / u) = .ok rb →
    let k := Nat.min (Nat.min len (4096 * u - Nat.max (a % u) (b % u))) (Nat.min (u * ra - a % u) (u * rb - b % u))
    ∀ l1 l2, segs s g .etlb (asidOf s c.seq) .x { r := true } (a / u) ((a + k + u - 1) / u - a / u) = .ok l1 →
    segs s g .etlb (asidOf s c.seq) .x { w := true } (b / u) ((b + k + u - 1) / u - b / u) = .ok l2 →
    xClear s c.seq c.id l1 l2 = true → EventGives .copyPieceStart [g, ch] s fun t => SameBytes s t ∧
      headCopy t g ch = some { c with runs := if k < len then (a + k, b + k, len - k) :: rest else rest, flying := c.flying ++ [{ no := c.started, src := l1, dst := l2, a := a, b := b, len := k }], started := c.started + 1 }) ∧
  (∀ (s : State) (g ch i : Nat) (c : Copy) (rest : List Copy) (p : Piece) (x y : Seg), (s.core g).bte.getD ch [] = c :: rest → c.stopped = none → c.read = true →
    c.flying.find? (fun p => p.no = i) = some p → p.stale = false → p.src = [x] → p.dst = [y] → PlainSeg s x → PlainSeg s y → s.sys.replicas = [] → segsLive s [x, y] = true → causal s c.seq 0 = true → barLive s c = true →
    c.bar % 32 = 0 → (c.bar + 32 ≤ localPa y.pa ∨ localPa y.pa + y.len ≤ c.bar) →
    let read := fun (z : Seg) => physRead s (localPa z.pa) z.len z.key
    EventGives .copyPieceComplete [g, ch, i] s fun t =>
      t.mem.readNat (localPa y.pa) y.len = (if c.nib then setNibs (read y) (p.b % 2) p.len (read x / 16 ^ (p.a % 2)) else read x) % 2 ^ (8 * y.len) ∧
      (c.runs ≠ [] → ∃ left, headCopy t g ch = some { c with flying := c.flying.filter (fun p => p.no ≠ i), sectors := left, done := c.done + 1 }) ∧
      (c.runs = [] → (∀ p ∈ c.flying, p.no = i) → (t.core g).bte.getD ch [] = rest ∧ (t.seq c.seq).xf = (s.seq c.seq).xf - 1 ∧
        (c.uli = true → (t.seq c.seq).ulist.getLsbD 0 = true ∧ (t.seq c.seq).uliChan = ch % 16)))

/-- spec/05 R91, R92, spec/08 R161-R173: the matrix queue. An `mma` of one panel, its segments read, leaves in each word of
the M x N corner of its slot the start value plus or minus the products of its row and column, exact and modulo 2^32 under
FMT.ACC, else accumulated as spec/05 says; a segment that does not translate leaves a cause and a partial slot. A finished
`mma`, an `mcommit`, an `mzero` and an `mstab` leave the queue: the drain fills the tile and the latch, `mzero` zeroes the
tile, both but for bytes that slots of higher class of their bundle wrote (spec/02 R29), `mstab` enters its tensor. -/
def Obligations.MatrixQueueRuns : Prop :=
  (∀ (s : State) (g : Nat) (e : MtxEntry) (rest : List MtxEntry) (z neg : Bool) (x : BitVec 512) (fa fb : Fmt) (a b i : Nat) (u1 u2 : State) (aw bw : List Nat),
    (s.core g).mq = e :: rest → (∀ y ∈ rest, y.id ≠ e.id) → mqHead s g = some e → coreOf e.seq = g → e.op = .mma z neg false x fa fb none none a b → e.ls = some i → i < (s.core g).ls.length → e.done = false → headReady s e = true →
    e.resumed = true → e.panel = 0 → e.segsA = [] → e.segsB = [] → 0 < shK x → shK x ≤ 64 → shT x = true → fmtSC e.fmt = false →
    readAll (fun u r => mtxRead u g (asidOf s e.seq) (segmentB x fb b 0 r) 0) (modEntry s g e.id fun e => { e with resumed := true, begun := true }) (List.range (shN x)) [] = (u1, bw, none) →
    readAll (fun u r => mtxRead u g (asidOf s e.seq) (segmentA x fa a 0 r) 0) u1 (List.range (shM x)) [] = (u2, aw, none) →
    EventGives .mmaExecute [g] s fun t => SameBytes s t ∧ (∃ e', (t.core g).mq = e' :: rest ∧ e'.done = true ∧ e'.id = e.id) ∧
      ∀ r c, r < 64 → c < 64 →
        let old := (landingAt (s.core g) i).words.getD (64 * r + c) 0
        let new := (landingAt (t.core g) i).words.getD (64 * r + c) 0
        (¬ (r < shM x ∧ c < shN x) → new = old) ∧
        (r < shM x → c < shN x → fmtACC e.fmt = true → new = BitVec.ofInt 32 ((if z then 0 else old.toInt) +
          (if neg then -1 else 1) * ((List.zipWith (fun u v : Int => u * v) (segInts fa (shK x) (aw.getD r 0)) (segInts fb (shK x) (bw.getD c 0))).sum))) ∧
        (r < shM x → c < shN x → fmtACC e.fmt = false → new = BitVec.ofNat 32
          (accumulate (wider fa fb) none neg (if z then 0 else old.toNat) (segVals fa (shK x) (aw.getD r 0)).1 (segVals fb (shK x) (bw.getD c 0)).1).1)) ∧
  (∀ (s : State) (g : Nat) (e : MtxEntry) (rest : List MtxEntry) (z neg : Bool) (x : BitVec 512) (fa fb : Fmt) (a b i : Nat) (f : XFault),
    (s.core g).mq = e :: rest → (∀ y ∈ rest, y.id ≠ e.id) → mqHead s g = some e → e.op = .mma z neg false x fa fb none none a b → e.ls = some i → e.done = false → headReady s e = true → e.resumed = true →
    e.panel = 0 → e.segsB = [] → 0 < shK x → 0 < shN x → shT x = true → mtxRead (modEntry s g e.id fun e => { e with resumed := true, begun := true }) g (asidOf s e.seq) (segmentB x fb b 0 0) 0 = .fault f →
    EventGives .mmaExecute [g] s fun t => SameBytes s t ∧ (t.seq e.seq).causes = (s.seq e.seq).causes ++ [{ f.trap 4 with pc := some e.pc, slot := e.slot, held := e.held }] ∧
      (t.core g).ls = upd (s.core g).ls i (fun l => { l with partial_ := true }) ∧ (t.seq e.seq).mt = (s.seq e.seq).mt) ∧
  (∀ (s : State) (g : Nat) (e : MtxEntry) (rest : List MtxEntry), (s.core g).mq = e :: rest → (∀ y ∈ rest, y.id ≠ e.id) → mqHead s g = some e → e.isMma = true → e.done = true → EventGives .mmaComplete [g] s fun t =>
    HeadDone s t g e.seq rest ∧ SameBytes s t ∧ ((s.ctxOf e.seq).splice = none → (t.seq e.seq).bank = { (s.seq e.seq).bank with fmt := orFlags (s.seq e.seq).bank.fmt e.flags })) ∧
  (∀ (s : State) (g : Nat) (e : MtxEntry) (rest : List MtxEntry), (s.core g).mq = e :: rest → (∀ y ∈ rest, y.id ≠ e.id) → mqHead s g = some e → headReady s e = true → coreOf e.seq = g →
    (∀ i, e.op = .commit true → e.ls = some i → tilePoison s e.seq e.off = none → EventGives .mcommitDrain [g] s fun t => HeadDone s t g e.seq rest ∧
      TileTakes s t g e (wordsNat (landingAt (s.core g) i).words) ∧ (t.seq e.seq).drain = (landingAt (s.core g) i).words ∧ (t.seq e.seq).drainInt = e.opens) ∧
    (e.op = .commit false → tilePoison s e.seq e.off = none → EventGives .mcommitDrain [g] s fun t => HeadDone s t g e.seq rest ∧ SameBytes s t ∧
      (∀ k < 4096, ((t.seq e.seq).drain.getD k 0) = BitVec.ofNat 32
        ((e.keep.foldl (fun (m : Mem) p => m.write ((s.seq e.seq).winBase + p.1) p.2.1 p.2.2) (s.core g).regs).readNat ((s.seq e.seq).winBase + e.off + 4 * k) 4))) ∧
    (e.op = .zero → EventGives .mzeroExecute [g] s fun t => HeadDone s t g e.seq rest ∧ TileTakes s t g e 0) ∧
    (∀ i y, e.op = .stab i y → EventGives .mstabApply [g] s fun t => HeadDone s t g e.seq rest ∧ SameBytes s t ∧
      (t.ctx ((s.seq e.seq).ctx.getD 0)).tensors.find? i = some y ∧
      (∀ h ∈ g :: (s.ctxOf e.seq).cores, ∀ c ∈ (t.core h).scales, c ∈ (s.core h).scales ∧ (c.1 ≠ asidOf s e.seq ∨ c.2.1 ≠ i))))

/-- spec/12 R236-R245: the amplitude engine. The commands of a vector start together, or, where their digests differ, all end
with an amplitude-map trap; an `amap` registers its map with every qubit in its place; an exchange chunk of two engines of the module,
neither of whose buffers is filled, swaps their amplitudes; a gate chunk multiplies its group; a command that is done everywhere ends. -/
def Obligations.AmplitudeEngineRuns : Prop :=
  (∀ (s : State) (c tag n : Nat) (x : AeCmd) (r : AeReg), members s c tag = [n] → (s.ctx c).seqs = [n] → (s.seq n).ae.cmd = some x → (s.seq n).ae.reg = some r → x.op ≠ .map →
    x.started = false → depsMet s n x.after = true → engineOn s c (coreOf n) = true → segsLive s x.seg = true → s.sys.away.contains s.sys.modid = false → engineCount r.desc = 1 → shareOf s r.desc n = some 0 →
    localShares s r.desc = [0] → (∀ m, x.op = .gate m → loadPoisoned s (coreOf n) .a x.seg = none) →
    EventGives .aeDigestExchange [c, tag, 0] s fun t => SameBytes s t ∧ ∃ y, (t.seq n).ae.cmd = some y ∧ y.started = true ∧ y.op = x.op ∧ y.todo = x.qubits ∧
      (t.seq n).causes = (s.seq n).causes ∧ ((∀ m, x.op ≠ .gate m) → y.matrix = x.matrix)) ∧
  (∀ (s : State) (c tag n m : Nat) (x y : AeCmd) (r q : AeReg), n ≠ m → members s c tag = [n, m] → (s.ctx c).seqs = [n, m] → (s.seq n).ae.cmd = some x → (s.seq m).ae.cmd = some y →
    x.op ≠ .map → y.op ≠ .map → (s.seq n).ae.reg = some r → (s.seq m).ae.reg = some q → (∀ k z, (k, z) ∈ [(n, x), (m, y)] → z.started = false ∧
      depsMet s k z.after = true ∧ engineOn s c (coreOf k) = true ∧ segsLive s z.seg = true) →
    s.sys.away.contains s.sys.modid = false → localShares s r.desc = [0, 1] → engineCount r.desc = 2 → shareOf s r.desc n = some 0 → shareOf s r.desc m = some 1 →
    (x.op ≠ y.op ∨ x.qubits ≠ y.qubits ∨ (s.seq n).ae.seqno ≠ (s.seq m).ae.seqno) →
    EventGives .aeDigestExchange [c, tag, 0] s fun t => SameBytes s t ∧ ∀ k z, (k, z) ∈ [(n, x), (m, y)] →
      (t.seq k).ae.cmd = none ∧ (t.seq k).xf = (s.seq k).xf - 1 ∧ (t.seq k).causes = (s.seq k).causes ++ [{ cause := .ampMap, pc := some z.pc, slot := z.slot, held := z.held }]) ∧
  (∀ (s : State) (c tag n : Nat) (x : AeCmd), n ∈ members s c tag → (s.seq n).ae.cmd = some x → x.op = .map → x.started = true → x.pass = 0 →
    EventGives .amapRegister [c, tag] s fun t => SameBytes s t ∧
      (t.seq n).ae.reg = some { desc := BitVec.ofNat 512 x.matrix, base := x.addr, share := (shareOf s (BitVec.ofNat 512 x.matrix) n).getD 0 } ∧
      (t.seq n).ae.pos = adPos (BitVec.ofNat 512 x.matrix) ∧ (t.seq n).ae.stamp = List.replicate 48 0 ∧ (t.seq n).ae.seqno = 0) ∧
  (∀ (s : State) (n m : Nat) (x y : AeCmd) (r q : AeReg) (q1 q2 p1 p2 partner total : Nat) (pairs : Nat → Nat × Nat) (a z : Nat → Seg), n ≠ m →
    cmdRuns s n = some x → cmdRuns s m = some y → (s.seq n).ae.reg = some r → (s.seq m).ae.reg = some q → x.done = 0 → y.done = 0 →
    x.sent = none → y.sent = none → x.acked = false → y.acked = false → nextExchange (s.seq n).ae x (adL r.desc) (adN r.desc) = some (q1, q2, p1, p2) → exchangePlan (adL r.desc) r.share p1 p2 = some (partner, total, pairs) → total ≤ 4096 →
    (engineAt r.desc partner).1 = s.sys.modid →
    holder s ((s.seq n).ctx.getD 0) r partner = some m → nextExchange (s.seq m).ae y (adL r.desc) (adN r.desc) = some (q1, q2, p1, p2) →
    let u := modCmd s n fun c => { c with exchange := some (q2, p1, p2) }
    let u' := modCmd (fillBuffer u n x r (((List.range total).map pairs).map (·.1))).1 m fun c => { c with exchange := some (q2, p1, p2) }
    ampSegs u n r { r := true, w := true } (((List.range total).map pairs).map (·.1)) = .ok ((List.range total).map a) →
    ampSegs u' m q { r := true, w := true } (((List.range total).map pairs).map (·.2)) = .ok ((List.range total).map z) →
    (s.seq m).ae.seqno = (s.seq n).ae.seqno → Pieces s total (ampBytes r.desc) a → Pieces s total (ampBytes r.desc) z →
    segsLive s ((List.range total).map a) = true → segsLive s ((List.range total).map z) = true → s.sys.replicas = [] → causal s n x.id = true → causal s m y.id = true →
    (∀ i < total, ∀ j < total, localPa (a i).pa + (a i).len ≤ localPa (z j).pa ∨ localPa (z j).pa + (z j).len ≤ localPa (a i).pa) →
    EventGives .aeExchangeChunk [n] s fun t =>
      (∀ i < total, t.mem.readNat (localPa (a i).pa) (a i).len = pieceValue s (z i) % 2 ^ (8 * (z i).len) ∧
        t.mem.readNat (localPa (z i).pa) (z i).len = pieceValue s (a i) % 2 ^ (8 * (a i).len)) ∧
      ElseSame s t (2 * total) (fun i => if i < total then a i else z (i - total)) ∧
      (t.seq n).ae.pos = (swapPos (s.seq n).ae q1 q2).pos ∧ (t.seq m).ae.pos = (swapPos (s.seq m).ae q1 q2).pos ∧
      (t.seq n).aeprog % 2 ^ 32 = ((s.seq n).aeprog + 1) % 2 ^ 32 ∧ (t.seq m).aeprog % 2 ^ 32 = ((s.seq m).aeprog + 1) % 2 ^ 32) ∧
  (∀ (s : State) (n m : Nat) (x : AeCmd) (r : AeReg) (a : Nat → Seg), cmdRuns s n = some x → (s.seq n).ae.reg = some r → x.op = .gate m → adL r.desc = m → x.ready = false → x.done = 0 →
    nextExchange (s.seq n).ae x (adL r.desc) (adN r.desc) = none → x.qubits.map (fun q => (s.seq n).ae.pos.getD q q) = List.range m → m ≤ 4 →
    ampSegs s n r { r := true, w := true } (List.range (2 ^ m)) = .ok ((List.range (2 ^ m)).map a) → Pieces s (2 ^ m) (ampBytes r.desc) a → segsLive s ((List.range (2 ^ m)).map a) = true →
    s.sys.replicas = [] → causal s n x.id = true →
    let w := Fp.width (adFmt r.desc)
    let new := (aeGroup (adFmt r.desc) m x.matrix ((List.range (2 ^ m)).map fun j => (pieceValue s (a j) % 2 ^ w, pieceValue s (a j) / 2 ^ w % 2 ^ w))).1
    EventGives .aeGateChunk [n] s fun t =>
      (∀ j < 2 ^ m, t.mem.readNat (localPa (a j).pa) (a j).len = ((new.getD j (0, 0)).1 + (new.getD j (0, 0)).2 * 2 ^ w) % 2 ^ (8 * (a j).len)) ∧ ElseSame s t (2 ^ m) a ∧
      (t.seq n).aeprog % 2 ^ 32 = ((s.seq n).aeprog + 1) % 2 ^ 32 ∧ ∃ y, (t.seq n).ae.cmd = some y ∧ y.ready = true ∧ y.op = .gate m) ∧
  (∀ (s : State) (c tag n : Nat) (x : AeCmd) (d : BitVec 512), members s c tag = [n] → cmdRuns s n = some x → cmdDesc (s.seq n) = some d → segsLive s x.seg = true →
    (∀ m, x.op = .gate m → x.ready = true → EventGives .aeCommandComplete [c, tag] s fun t => SameBytes s t ∧ (t.seq n).ae.cmd = none ∧ (t.seq n).xf = (s.seq n).xf - 1 ∧
      (t.seq n).ulist = if (s.seq n).ulimask.getLsbD 1 then (s.seq n).ulist ||| 2 else (s.seq n).ulist) ∧
    (∀ sx, x.op = .norm → x.ready = true → x.pass = 0 → engineCount d = 1 → localShares s d = [0] → shareOf s d n = some 0 → (engineAt d 0).1 = s.sys.modid → x.seg = [sx] → PlainSeg s sx → sx.len = 16 →
      x.sum0 < 2 ^ 64 → causal s n x.id = true → EventGives .aeCommandComplete [c, tag] s fun t => Stored s t (localPa sx.pa) 16 x.sum0 ∧ (t.seq n).ae.cmd = none ∧ (t.seq n).xf = (s.seq n).xf - 1))

/-- spec/14 R271-R280, spec/21 R412: the front end's rings. The registers take what software writes, HEAD and ring size only
while the ring is off; a fetch reads the packet at HEAD's place, refuses it by its code, or faults on a TAIL out of range;
the packet at HEAD issues: a granted launch, or a refused one with its record, and each of the others by its own condition. -/
def Obligations.FrontEndRuns : Prop :=
  (∀ (s : State) (f r v : Nat), f < 64 → r < 64 → hostOpen s = true →
    (EventGives .tailDoorbell [f, r, v] s fun t => t.ring f r = { s.ring f r with tail := v % 2 ^ 32 } ∧ t = { s with rings := t.rings }) ∧
    (bit (s.ring f r).rctl 0 = true → (EventGives .rbaseWrite [f, r, v] s fun t => t = s) ∧ EventGives .rctlWrite [f, r, v] s fun t => t = s) ∧
    (bit (s.ring f r).rctl 0 = false → EventGives .rbaseWrite [f, r, v] s fun t => t.ring f r =
      { s.ring f r with rbase := v / 4096 % 2 ^ 36 * 4096, head := (s.ring f r).tail, stack := [], ahead := [], hold := none }) ∧
    (bit (s.ring f r).rctl 0 = false → 6 ≤ v / 2 % 32 → v / 2 % 32 ≤ 16 → EventGives .rctlWrite [f, r, v] s fun t => t.ring f r =
      { s.ring f r with rctl := v % 256, head := (s.ring f r).tail, stack := [], ahead := [], hold := none }) ∧
    (v / 2 % 32 < 6 ∨ 16 < v / 2 % 32 → EventGives .rctlWrite [f, r, v] s fun t => t = s) ∧
    (EventGives .rstatClear [f, r, v] s fun t => t.ring f r = { s.ring f r with rstat := (t.ring f r).rstat } ∧
      ∀ b < 16, (t.ring f r).rstat.testBit b = ((s.ring f r).rstat.testBit b && !v.testBit b))) ∧
  (∀ (s : State) (f r p : Nat), f < 64 → r < 64 → ringOn s f r = true → (s.ring f r).ahead = [] → (s.ring f r).stack = [] →
    let x := s.ring f r
    let n := 2 ^ (x.rctl / 2 % 32)
    let a := x.rbase + 64 * (x.head % n)
    (x.tail = x.head → EventGives .ringFetch [f, r] s fun t => t = s) ∧
    (n < (x.tail + 2 ^ 32 - x.head) % 2 ^ 32 → EventGives .ringFetch [f, r] s fun t => t.ring f r = { x with rstat := x.rstat + 4 } ∧ t = { s with rings := t.rings }) ∧
    let u := feSeen s s.sys.leader (s.func f).lasid a 64
    (x.head ≠ x.tail → (x.tail + 2 ^ 32 - x.head) % 2 ^ 32 ≤ n → feLive s s.sys.leader (s.func f).lasid a 64 = true → feRead u s.sys.leader (s.func f).lasid a 64 = .ok p →
      (packetCode s f 0 p ≠ 0 → EventGives .ringFetch [f, r] s fun t => t.ring f r = { x with rstat := x.rstat % 8 + 2 + packetCode s f 0 p * 256 } ∧ RingOnly s t) ∧
      (packetCode s f 0 p = 0 → pkType p = 5 → EventGives .ringFetch [f, r] s fun t =>
        t.ring f r = { x with ahead := [({ raw := BitVec.ofNat 512 p, at_ := a, next := ((x.head + 1) % 2 ^ 32, []) }, none)] } ∧ RingOnly s t) ∧
      (∀ c, packetCode s f 0 p = 0 → pkType p = 1 → launchLive u f p = true → readLaunch u f r p = .ok c → bit c.image.flags 2 = false → x.tail = (x.head + 1) % 2 ^ 32 → EventGives .ringFetch [f, r] s fun t =>
        ∃ k, t.ring f r = { x with ahead := [({ raw := BitVec.ofNat 512 p, at_ := a, next := (x.tail, []) }, some k)] } ∧ t.ctx k = c ∧ SameBytes s t ∧ t.seqs = s.seqs))) ∧
  (∀ (s : State) (f r c : Nat) (p : Packet), AtHead s f r p (some c) → (s.ctx c).second = none → (pkSer p.raw.toNat = true → launchOut s f r = false) →
    ∀ ev k, (ev, k) ∈ [(Instr.gang, 1), (.task, 2)] → pkType p.raw.toNat = k →
      ((s.ctx c).status = 0 → (s.ctx c).st = .granted → EventGives ev [f, r] s fun t => HeadPasses s t f r p ∧
        t.ctx c = { s.ctx c with issued := true, issueNo := s.sys.issues, late := decide ((s.ctx c).lr 80 8 ≠ 0 ∧ (s.ctx c).lr 80 8 < s.sys.dtime) }) ∧
      ((s.ctx c).status = 0 → (s.ctx c).st = .queued → EventGives ev [f, r] s fun t => t = s) ∧
      ((s.ctx c).status ≠ 0 → EventGives ev [f, r] s fun t => (t.ctx c).st = .complete ∧ (t.ctx c).issued = true ∧ (t.ring f r).head = p.next.1)) ∧
  (∀ (s : State) (f r : Nat) (p : Packet), AtHead s f r p none →
    (pkType p.raw.toNat = 3 → EventGives .callPacket [f, r] s fun t => HeadPasses s t f r p) ∧
    (pkType p.raw.toNat = 4 → EventGives .retPacket [f, r] s fun t => HeadPasses s t f r p) ∧
    (pkType p.raw.toNat = 5 → launchOut s f r = false → EventGives .joinPacket [f, r] s fun t => HeadPasses s t f r p ∧
      (IssuedPlain s f r → (s.func f).msixMask.contains (ringVector r) = false → t.outbox = s.outbox ++ if p.raw.getLsbD 16 then [.msix f (ringVector r)] else [])) ∧
    (pkType p.raw.toNat = 5 → launchOut s f r = true → EventGives .joinPacket [f, r] s fun t => t = s) ∧
    (let a := p.raw.toNat / 2 ^ 64 % 2 ^ 64
     let v := p.raw.toNat / 2 ^ 128 % 2 ^ 64
     ∀ w, pkType p.raw.toNat = 6 → feLive s s.sys.leader (s.func f).lasid a 8 = true → feRead (feSeen s s.sys.leader (s.func f).lasid a 8) s.sys.leader (s.func f).lasid a 8 = .ok w →
      (v ≤ w → EventGives .fencePacket [f, r] s fun t => HeadPasses s t f r p) ∧
      (w < v → EventGives .fencePacket [f, r] s fun t => t.ring f r = { s.ring f r with hold := some (.fence a v (s.sys.dtime + 1000)) } ∧ RingOnly s t)) ∧
    (let T := p.raw.toNat / 2 ^ 64 % 2 ^ 64
     pkType p.raw.toNat = 9 → (T ≤ s.sys.dtime → EventGives .wakeAt [f, r] s fun t => HeadPasses s t f r p) ∧
      (s.sys.dtime < T → EventGives .wakeAt [f, r] s fun t => t.ring f r = { s.ring f r with hold := some (.wakeAt T) }))) ∧
  (∀ (s : State) (f r a v T w : Nat) (p : Packet) (c : Option Nat), f < 64 → r < 64 → ringOn s f r = true → (s.ring f r).ahead.head? = some (p, c) →
    ((s.ring f r).hold = some (.fence a v T) → T ≤ s.sys.dtime → feLive s s.sys.leader (s.func f).lasid a 8 = true →
      feRead (feSeen s s.sys.leader (s.func f).lasid a 8) s.sys.leader (s.func f).lasid a 8 = .ok w → v ≤ w →
      EventGives .fenceReread [f, r] s fun t => HeadPasses s t f r p) ∧
    ((s.ring f r).hold = some (.wakeAt T) → T ≤ s.sys.dtime → EventGives .wakeAtRelease [f, r] s fun t => HeadPasses s t f r p)) ∧
  (∀ (s : State) (c : Nat), ctxAlive s c = true → isHib (s.ctx c) = true → (s.ctx c).st = .queued → EventGives .hibRecheck [c] s fun t =>
    (t.ctx c).held = decide (16000000000 * s.sys.charge < 21 * ((s.ctx c).lr 136 8 + hibSum s) + 2400000000000) ∧ t = { s with ctxs := t.ctxs })

/-- spec/01 R20-R27, spec/14 R269, R270, R277-R283: a launch is granted by the leader as the next of its choice; released, it
runs every named sequencer from its entry, or is refused where its words cannot be written; complete, it leaves its
sequencers idle. The lease is renewed by the leader and, once it has run out, taken by the lowest live follower. -/
def Obligations.LaunchesRun : Prop :=
  (∀ (s : State) (k f r c : Nat), grantChoice s = some (k, f, r, c) → leaderOk s = true → victimsFor s c = some [] → EventGives .launchGrant [c] s fun t =>
    (t.ctx c).st = .granted ∧ (t.ctx c).victims = [] ∧ SameBytes s t ∧ t.seqs = s.seqs) ∧
  (∀ (s u : State) (c : Nat), let x := s.ctx c
    s.sys.power = .run → leaderOk s = true → s.sys.freeze = none → x.isTask = false → x.st = .granted → x.issued = true → x.victims = [] → x.lr 80 8 ≤ s.sys.dtime →
    ungated s (reservedCores x) = true → launchFits s [] c = true → prepareLive s c = true → x.again = none →
    let s0 := x.cores.foldl (fun s g => loadCore s c g) s
    (prepare s0 c false = (u, true) → u.ctx c = x → EventGives .launchRelease [c] s fun t => (t.ctx c).st = .released ∧ t.sys.releases = u.sys.releases + 1 ∧
      (t.ctx c).order = u.sys.releases ∧ ∀ n ∈ (t.ctx c).seqs, (t.seq n).st = .running ∧ (t.seq n).pc = x.image.entry ∧ (t.seq n).ctx = some c ∧ (t.seq n).views = x.image.views) ∧
    (prepare s0 c false = (u, false) → EventGives .launchRelease [c] s fun t => (t.ctx c).st = .complete ∧ (t.ctx c).status = 2)) ∧
  (∀ (s : State) (c : Nat), launchOver s c = true → allPerformed s c = true → s.sys.freeze = none → EventGives .launchCompletion [c] s fun t => (t.ctx c).st = .complete ∧
    ∀ n ∈ (s.ctx c).seqs, (s.seq n).ctx = some c → (t.seq n).st = .idle ∧ (t.seq n).ctx = none) ∧
  (∀ s, leaderOk s = true → serving s = true → Gives .leaseRenewal s fun t => t = { s with sys := { s.sys with lease := s.sys.dtime + 10000000 } }) ∧
  (∀ (s : State) (mask d : Nat), s.sys.lease < s.sys.dtime → d < 4 → d ≠ s.sys.leader → bit mask d = true → dieLive s d = true →
    (∀ e, e < d → e = s.sys.leader ∨ bit mask e = false ∨ dieLive s e = false) → EventGives .leaseExpiry [mask] s fun t =>
      t.sys.leader = d ∧ t.sys.lease = s.sys.dtime + 10000000 ∧ SameBytes s t ∧ t.seqs = s.seqs)

/-- spec/06 R101, spec/13 R258-R268, spec/16 R302, R303, R308, R314: tasks and messages. A halted gang sequencer is retired
once drained; a retiring one lowers its join object by one, pushes the continuation at zero, and is idle; the queue unit
ages, pops, takes, accepts and refills records. A vector joins its end's buffer and its sender's CM falls; a credit returns;
a declaration and a close notice set the peer's state; for a sequencer that does not run they go to the drift ring, in
order, and are replayed from it. -/
def Obligations.TasksAndMessagesRun : Prop :=
  (∀ (s : State) (n : Nat), (s.seq n).halting = some .halt → (s.seq n).st = .running → drained (s.seq n) = true → (s.seq n).causes = [] →
    EventGives .haltRetire [n] s fun t => (t.seq n).st = .retired ∧ (t.seq n).halting = none ∧ (t.seq n).ports = List.replicate 8 {} ∧ SameBytes s t ∧
      (∀ l ∈ (t.core (coreOf n)).ls, l.owner = some n → l.tile = none) ∧ ∀ m, m ≠ n → t.seq m = s.seq m) ∧
  (∀ (s : State) (n : Nat), (s.seq n).halting = some .retire → (s.seq n).st = .running → drained (s.seq n) = true → (s.seq n).acc = [] → (s.seq n).causes = [] →
    depsMet s n (releaseDeps s n .module) = true → noHalf s 0 = true → scalarPoison s n 61 = none →
    (scalarNow s n 61 = 0 → EventGives .retireJoinUpdate [n] s fun t => (t.seq n).st = .idle ∧ (t.seq n).ctx = none ∧ SameBytes s t) ∧
    (∀ x, scalarNow s n 61 ≠ 0 → segs s (coreOf n) .dtlb (asidOf s n) .b { r := true, w := true } (scalarNow s n 61) 64 = .ok [x] → PlainSeg s x → x.len = 64 →
      bauHere [x] = true → segsLive s [x] = true →
      let count := toInt 64 (physRead s (localPa x.pa) 8 x.key)
      let word := physRead s (localPa x.pa + 8) 8 x.key
      let cont := physRead s (localPa x.pa + 32) 32 x.key
      let cl := clusterOf (coreOf n)
      EventGives .retireJoinUpdate [n] s fun t => (t.seq n).st = .idle ∧
        Stored s t (localPa x.pa) 16 (ofInt 64 (count - 1) + (if count ≤ 0 ∧ word / 2 % 2 = 0 then word + 2 else word) * 2 ^ 64) ∧
        (count ≠ 1 → (t.cluster cl).pushes = (s.cluster cl).pushes) ∧
        (count = 1 → word % 2 = 1 → (t.ctx ((s.seq n).ctx.getD 0)).rootDone = true) ∧
        (count = 1 → word % 2 = 0 → cont % 2 ^ 64 ≠ 0x40000 → ∃ p, (t.cluster cl).pushes = (s.cluster cl).pushes ++ [p] ∧ p.r = recOf cont s.sys.dtime ∧ p.bau = true))) ∧
  (∀ (s : State) (cl l : Nat) (r : CqRec), l ∈ [1, 2, 3] → (s.cluster cl).levels = (List.replicate 4 []).set l [r] → r.flags % 4 = l → (s.cluster cl).spill = List.replicate 4 (0, 0) →
    (s.cluster cl).overflow = none → dieLive s (cl / 4) = true → (r.tenq + 1000000 ≤ s.sys.dtime → EventGives .cqAgeing [cl] s fun t =>
      (t.cluster cl).levels = (List.replicate 4 []).set (l - 1) [{ r with flags := r.flags - 1, tenq := s.sys.dtime }] ∧ SameBytes s t ∧ t.seqs = s.seqs) ∧
    (s.sys.dtime < r.tenq + 1000000 → EventGives .cqAgeing [cl] s fun t => (t.cluster cl).levels = (s.cluster cl).levels ∧ SameBytes s t ∧ t.seqs = s.seqs)) ∧
  (∀ (s : State) (cl n l c : Nat) (r : CqRec) (rest : List CqRec), popTarget s cl = some n → popLevel (s.cluster cl) (fun _ => true) = some l → (s.cluster cl).launch = some c →
    (s.cluster cl).levels.getD l [] = r :: rest → agesNow s cl = false → ((newCycle s cl).cluster cl).pops < 4 →
    (r.code % 4 = 0 → r.code < 0x40000 → bundleStart ((loadCode s c (coreOf n)).core (coreOf n)) r.code = true → EventGives .cqPop [cl] s fun t => (t.seq n).st = .running ∧ (t.seq n).ctx = some c ∧
      (t.seq n).pc = r.code ∧ (t.seq n).ulimask = BitVec.ofNat 2 (r.flags / 4 % 4) ∧ (t.seq n).views = (s.ctx c).image.views ∧ (t.seq n).causes = [] ∧
      (t.cluster cl).levels = upd (s.cluster cl).levels l (fun x => x.drop 1) ∧ t.mem = s.mem ∧
      (elemOk (viewAt (t.seq n) 0) 63 64 8 = true → (t.core (coreOf n)).regs.readNat ((t.seq n).winBase + (viewAt (t.seq n) 0).base + 504) 8 = 0x40000 ∧
        (t.core (coreOf n)).regs.readNat ((t.seq n).winBase + (viewAt (t.seq n) 0).base + 496) 8 = r.frame % 2 ^ 64 ∧
        (t.core (coreOf n)).regs.readNat ((t.seq n).winBase + (viewAt (t.seq n) 0).base + 488) 8 = r.join % 2 ^ 64 ∧
        (t.core (coreOf n)).regs.readNat ((t.seq n).winBase + (viewAt (t.seq n) 0).base + 72) 8 = n % 2 ^ 64)) ∧
    (r.code % 4 ≠ 0 ∨ 0x40000 ≤ r.code → EventGives .cqPop [cl] s fun t => (t.seq n).st = (s.seq n).st ∧ (t.seq n).ctx = some c ∧ SameBytes s t ∧
      (t.seq n).causes = (s.seq n).causes ++ [{ cause := .badTarget, slot := 7, pc := some 0, addr := r.code, info := r.flags, code := true }] ∧
      (t.cluster cl).levels = upd (s.cluster cl).levels l (fun x => x.drop 1))) ∧
  (∀ (s : State) (cl o l : Nat) (r : CqRec) (rest : List CqRec), (popTarget s cl).isSome = true → (popLevel (s.cluster cl) fun _ => true) = none → (∀ x ∈ (s.cluster cl).spill, x.2 = 0) → dieLive s (cl / 4) = true →
    (takeOrder cl).find? (fun o => (s.cluster o).launch = (s.cluster cl).launch && dieLive s (o / 4) && (popLevel (s.cluster o) takeable).isSome) = some o →
    agesNow s o = false → popsNow s o = false → popLevel (s.cluster o) takeable = some l → takeFirst ((s.cluster o).levels.getD l []) = some (r, rest) →
    EventGives .cqWorkTake [cl] s fun t => (t.cluster o).levels = (s.cluster o).levels.set l rest ∧ (t.cluster cl).levels = upd (s.cluster cl).levels l (fun x => x ++ [r]) ∧
      r.flags / 16 % 2 = 0 ∧ SameBytes s t ∧ t.seqs = s.seqs) ∧
  (∀ (s : State) (cl : Nat) (p : CqPush), (s.cluster cl).overflow = none → (s.cluster cl).pushes = [p] → depsMet s p.seq p.after = true → noHalf s 0 = true →
    agesNow s cl = false → popsNow s cl = false → takesNow s cl = false → spillStops s cl = false → dieLive s (cl / 4) = true → (onChip (s.cluster cl) (p.r.flags % 4)).length < 256 → (spilled (s.cluster cl) (p.r.flags % 4)).2 = 0 →
    EventGives .cqPushAccept [cl] s fun t => (t.cluster cl).pushes = [] ∧ SameBytes s t ∧
      (t.cluster cl).levels = upd (s.cluster cl).levels (p.r.flags % 4) fun x => x ++ [{ p.r with tenq := s.sys.dtime }]) ∧
  (∀ (s : State) (cl l v : Nat) (c : Ctx), l < 4 → c = s.ctx ((s.cluster cl).launch.getD 0) → 0 < (spilled (s.cluster cl) l).2 → (onChip (s.cluster cl) l).length < 256 →
    dieLive s (cl / 4) = true → feLive s (cl / 4) c.asid (spillAddr c l (spilled (s.cluster cl) l).1) 64 = true →
    feRead s (cl / 4) c.asid (spillAddr c l (spilled (s.cluster cl) l).1) 64 = .ok v → EventGives .cqSpillRefill [cl, l] s fun t =>
      (t.cluster cl).levels = upd (s.cluster cl).levels l (fun x => x ++ [recOf (v % 2 ^ 256) (v / 2 ^ 256 % 2 ^ 64)]) ∧
      (t.cluster cl).spill = upd (s.cluster cl).spill l (fun y => ((y.1 + 1) % Nat.max 1 (spillCap c), y.2 - 1)) ∧ SameBytes s t) ∧
  (∀ (s : State) (pre : List Flight) (f : Flight) (post : List Flight) (n c : Nat), MayArrive s pre f post n c → drifts s c n = false →
    let ch := f.msg.dst.2
    let x := chanOf (s.seq n) ch
    ceDecl x.entry = true → x.owncl = false → ForNow f x →
    (∀ src sc d dc v, f.msg = .vector src sc d dc v → cePeerId x.entry = src → cePeerCh x.entry = sc → ceSend x.entry = false →
      EventGives .channelVectorArrival [pre.length] s fun t => t.msgs = pre ++ post ∧ SameBytes s t ∧ (chanOf (t.seq n) ch).buf = x.buf ++ [v] ∧
        (src / 2048 = s.sys.modid → (s.seq (src % 2048)).ctx.map (launchKey s) = some (f.launch, f.fabric) → (t.seq (src % 2048)).cm = (s.seq (src % 2048)).cm - 1)) ∧
    (∀ d dc src sc, f.msg = .credit d dc src sc → cePeerId x.entry = src → cePeerCh x.entry = sc → ceSend x.entry = true →
      EventGives .channelCreditReturn [pre.length] s fun t => t.msgs = pre ++ post ∧ SameBytes s t ∧ (chanOf (t.seq n) ch).cred = min (ceDepth x.entry) (x.cred + 1)) ∧
    (∀ d dc y, f.msg = .declare d dc y → EventGives .channelDeclarationNotice [pre.length] s fun t => t.msgs = pre ++ post ∧ SameBytes s t ∧
      (chanOf (t.seq n) ch).pv = true ∧ (chanOf (t.seq n) ch).peer = y.entry ∧ (chanOf (t.seq n) ch).pm = entriesMatch (seqId s n) ch x.entry (launchKey s c) y ∧ (chanOf (t.seq n) ch).pgen = y.gen) ∧
    (∀ d dc src sc send, f.msg = .close d dc src sc send → ceSend x.entry ≠ send → cePeerId x.entry = src → cePeerCh x.entry = sc → EventGives .channelCloseNotice [pre.length] s fun t =>
      t.msgs = pre ++ post ∧ SameBytes s t ∧ chanOf (t.seq n) ch = { x with peercl := true })) ∧
  (∀ (s : State) (pre : List Flight) (f : Flight) (post : List Flight) (n c : Nat), MayArrive s pre f post n c → drifts s c n = true → ringFull (s.ctx c).drift = false →
    let k := (s.ctx c).drift.tail
    let a := driftSlotAt c k
    ∀ ev y, (ev, y) ∈ [(Instr.channelVectorArrival, 0), (.channelCloseNotice, 1), (.channelDeclarationNotice, 2), (.channelCreditReturn, 3)] → f.msg.kind = y →
      EventGives ev [pre.length] s fun t => t.msgs = pre ++ post ∧ (t.ctx c).drift.tail = k + 1 ∧ (t.ctx c).drift.recs = (s.ctx c).drift.recs ++ [(k, { f with msg := f.msg.bare })] ∧
        t.mem.readNat a 4 = f.msg.src.1 % 2 ^ 32 ∧ (t.mem.get (a + 4)).toNat = f.msg.dst.2 % 2 ^ 8 ∧ (t.mem.get (a + 5)).toNat = y ∧
        (∀ src sc d dc v, f.msg = .vector src sc d dc v → t.mem.readNat (a + 64) 512 = v.toNat) ∧
        (∀ b, b < a ∨ a + 1024 ≤ b → t.mem.get b = s.mem.get b) ∧ ∀ g, (t.core g).regs = (s.core g).regs) ∧
  (∀ (s : State) (n c ch src sc k : Nat) (f : Flight) (w : Vec) (rest : List (Nat × Flight)), (s.seq n).ctx = some c → (s.seq n).st = .running → (s.ctx c).st = .released →
    let x := chanOf (s.seq n) ch
    (s.ctx c).drift.recs = (k, f) :: rest → (∀ r ∈ rest, r.1 ≠ k) → f.msg = .vector src sc (seqId s n) ch w → ceDecl x.entry = true → ceSend x.entry = false → x.owncl = false →
    cePeerId x.entry = src → cePeerCh x.entry = sc → x.buf.length < ceDepth x.entry → ForNow f x → poisoned s (driftSlotAt c k) 576 = false →
    EventGives .driftRingReplay [n] s fun t => (t.ctx c).drift.recs = rest ∧ (chanOf (t.seq n) ch).buf = x.buf ++ [BitVec.ofNat 4096 (physRead s (driftSlotAt c k + 64) 512 0)] ∧
      (∀ m, (t.seq m).cm = (s.seq m).cm) ∧ SameBytes s t)

/-- spec/01 R16, R19, spec/10 R205, spec/11 R224, spec/19 R360-R373: waits end when their condition holds, and not before; an
`mwait` writes why it ended; a domain's phase ends once every member has arrived, and releases those that wait; device time
and the throttling of a core. -/
def Obligations.WaitsEnd : Prop :=
  (∀ (s : State) (n : Nat), (s.seq n).st = .waiting → (s.seq n).wait = some .slot →
    (bundleWaitsMet s n = true → EventGives .waitingWake [n] s fun t => Woken s t n) ∧ (bundleWaitsMet s n = false → EventGives .waitingWake [n] s fun t => t = s)) ∧
  (∀ (s : State) (n : Nat), (s.seq n).st = .waiting → (s.seq n).wait = some .waitt → ∀ y, (s.seq n).pendT = some y →
    (y.2.1 ≤ s.sys.dtime → EventGives .waittWake [n] s fun t => Woken s t n) ∧ (s.sys.dtime < y.2.1 → EventGives .waittWake [n] s fun t => t = s)) ∧
  (∀ (s : State) (n o l : Nat) (u : Option Nat), (s.seq n).st = .waiting → (s.seq n).wait = some (.mwait (.bytes o l) u) →
    (∀ T, u = some T → T ≤ s.sys.dtime → EventGives .mwaitTimeout [n] s fun t => (t.seq n).st = .running ∧ (t.seq n).wait = none ∧ (t.seq n).watch = none ∧
      (t.core (coreOf n)).regs.readNat ((s.seq n).winBase + o) l = (if triggered (s.seq n) then 0 else 1) % 2 ^ (8 * l) ∧ t.mem = s.mem) ∧
    (∀ T, u = some T → s.sys.dtime < T → EventGives .mwaitTimeout [n] s fun t => t = s) ∧
    (triggered (s.seq n) = true → EventGives .monitorTrigger [n] s fun t => (t.seq n).st = .running ∧ (t.seq n).wait = none ∧ (t.seq n).watch = none ∧
      (t.core (coreOf n)).regs.readNat ((s.seq n).winBase + o) l = 0 ∧ t.mem = s.mem) ∧
    (triggered (s.seq n) = false → EventGives .monitorTrigger [n] s fun t => t = s)) ∧
  (∀ (s : State) (n a x key : Nat), (s.seq n).st = .waiting → (s.seq n).wait = some (.tbwait a x key) →
    let p := physRead s (localPa a) 16 key % 16
    let live := match dieOfPa (localPa a) with
      | some d => dieAnswers s d
      | none => true
    (live = true → poisoned s a 16 = true ∨ p ≠ x → EventGives .tbwaitReread [n] s fun t => Woken s t n) ∧
    (live = false ∨ (poisoned s a 16 = false ∧ p = x) → EventGives .tbwaitReread [n] s fun t => t = s)) ∧
  (∀ (s : State) (c lc unit others : Nat) (l : Level), levelOf lc = some l → (s.ctx c).arrived.any (fun e => e.1 = levelCode l * 16 + unit) = true → (s.ctx c).seqs.Nodup →
    (l = .fabric → (s.ctx c).mask.all (· = s.sys.modid) = true ∨ others = 1 ∧ ∀ m ∈ (s.ctx c).mask, s.sys.away.contains m = false) → (s.ctx c).saved = none →
    ((∀ n ∈ domainMembers s c l unit, memberDone s c (levelCode l * 16 + unit) n = true) → EventGives .dsyncPhaseComplete [c, lc, unit, others] s fun t => SameBytes s t ∧
      (t.ctx c).phases.getD (levelCode l * 16 + unit) 0 = (s.ctx c).phases.getD (levelCode l * 16 + unit) 0 + 1 ∧
      (t.ctx c).arrived = (s.ctx c).arrived.filter (fun e => e.1 ≠ levelCode l * 16 + unit) ∧
      ∀ n ∈ (s.ctx c).seqs, unitOf l (coreOf n) = unit →
        (t.seq n).withdrawn.getLsbD (levelCode l) = !(s.seq n).dmr.getLsbD (levelCode l) ∧
        (∀ x, (s.seq n).pendDom = some (l, x) → (t.seq n).pendDom = none ∧ ((s.seq n).wait = some .dsync → (s.seq n).st = .waiting → (t.seq n).st = .running ∧ (t.seq n).wait = none)) ∧
        ((s.seq n).pendDom = none → (t.seq n).st = (s.seq n).st ∧ (t.seq n).wait = (s.seq n).wait)) ∧
    ((∃ n ∈ domainMembers s c l unit, memberDone s c (levelCode l * 16 + unit) n = false) → EventGives .dsyncPhaseComplete [c, lc, unit, others] s fun t => t = s)) ∧
  (∀ (s : State) (v : Nat), EventGives .ptpSync [v] s fun t => t = { s with sys := t.sys, ctxs := t.ctxs } ∧
    t.sys = { s.sys with dtlock := true, dtime := if anyRunning s then s.sys.dtime else max s.sys.dtime v } ∧ (anyRunning s = true → t.ctxs = s.ctxs) ∧
    (anyRunning s = false → ∀ e ∈ s.ctxs, e.2.st = .granted → e.2.lr 80 8 ≠ 0 → s.sys.dtime ≤ e.2.lr 80 8 → e.2.lr 80 8 < v → readyNow s e.1 = false →
      (e.1, { e.2 with late := true }) ∈ t.ctxs)) ∧
  (∀ s, exec .dtimeHoldover s = .next { s with sys := { s.sys with dtlock := false } }) ∧
  (∀ (s : State) (g w : Nat), (s.core g).cwlim.toNat < ((s.core g).weights.take 31).sum + w → ((s.core g).weights.take 31).sum ≠ 0 →
    EventGives .currentLimitFreezeCycle [g, w] s fun t => (t.core g).frzcnt = (s.core g).frzcnt + 1 ∧ (t.core g).weights = (0 :: (s.core g).weights).take 31 ∧
      (t.core g).droop = (s.core g).droop - 1 ∧ SameBytes s t ∧ t.seqs = s.seqs) ∧
  (∀ (s : State) (d : Nat), d < 4 → EventGives .droopCrossing [d] s fun t => SameBytes s t ∧ t.seqs = s.seqs ∧ ∀ g, g < 512 →
    (g / 128 = d → t.core g = { s.core g with droop := 70, perf := { (s.core g).perf with drpev := (s.core g).perf.drpev + 1 } }) ∧ (g / 128 ≠ d → t.core g = s.core g))

/-- spec/16 R311, R316-R319, spec/23 R433: the links. A data flit in sequence joins its transaction and is acknowledged; one
that fails its check or its sequence asks once for a replay; an acknowledgement lets go what it covers, and a demand sends
again what follows it; a lane's failure halves a link, a second one takes it down; an access without a route aborts; a
transaction that arrives whole reads, writes, updates or is placed, and is answered; one whose check fails is asked for
again, and aborted at the third failure. -/
def Obligations.LinksRun : Prop :=
  (∀ (s : State) (p w : Nat), let x := linkOf s p
    let y := { x with credit := x.credit + fld w 47 32 }
    let payload := fld w 1983 64
    let q := fld w 11 0
    p < s.sys.links.length → x.up = true → x.training = false →
    (hopOk w = false ∨ (q ≠ x.rxSeq ∧ x.degraded = false) →
      (x.asked = false → EventGives .flitReceive [p, w] s fun t => linkOf t p = { x with asked := true, freed := 0 } ∧ SameBytes s t ∧
        t.outbox = s.outbox ++ [.link p 0 (flitOf (flitHead x.txSeq (x.rxSeq + 4095) 3 x.freed) 0)]) ∧
      (x.asked = true → EventGives .flitReceive [p, w] s fun t => t = s)) ∧
    (hopOk w = true → q = x.rxSeq → fld w 31 28 = 0 → x.replay = [] → x.partial_ = [] → EventGives .flitReceive [p, w] s fun t => SameBytes s t ∧
      t.outbox = s.outbox ++ [.link p 0 (flitOf (flitHead x.txSeq q 2 x.freed) 0)] ∧
      let z := { y with rxSeq := (q + 1) % 4096, asked := false, freed := 0 }
      linkOf t p = if (Tx.ofImage payload).bytes ≤ 176 then { z with whole := x.whole ++ [payload] } else { z with partial_ := [payload] }) ∧
    (∀ pre e post, hopOk w = true → q = x.rxSeq → fld w 31 28 = 2 → bit w 24 = true → x.replay = pre ++ (fld w 23 12, e) :: post → (∀ e ∈ pre, e.1 ≠ fld w 23 12) → s.sys.remote = [] → s.sys.loose = [] →
      EventGives .flitReceive [p, w] s fun t => linkOf t p = { y with replay := post } ∧ SameBytes s t) ∧
    (hopOk w = true → q = x.rxSeq → fld w 31 28 = 3 → bit w 24 = false → EventGives .flitReceive [p, w] s fun t =>
      linkOf t p = { y with again := some (fld w 23 12) } ∧ SameBytes s t)) ∧
  (∀ (s : State) (p q e : Nat) (pre post : List (Nat × Nat)), let x := linkOf s p
    let again := fun (l : List (Nat × Nat)) => l.map fun e => Output.link p 0 (flitOf (flitHead e.1 (x.rxSeq + 4095) 0 0) e.2)
    p < s.sys.links.length → x.up = true → x.freed = 0 → x.replay = pre ++ (q, e) :: post → (∀ e ∈ pre, e.1 ≠ q) →
    (x.training = false → x.again = some q → EventGives .replayRequest [p] s fun t => t.outbox = s.outbox ++ again post ∧ linkOf t p = { x with again := none } ∧ SameBytes s t) ∧
    (x.training = false → EventGives .ackTimeout [p] s fun t => t.outbox = s.outbox ++ again x.replay ∧ linkOf t p = x ∧ SameBytes s t) ∧
    (x.training = true → s.sys.remote = [] → s.sys.loose = [] → EventGives .linkRetrainComplete [p] s fun t => t.outbox = s.outbox ++ again x.replay ∧
      linkOf t p = { x with training := false, asked := false } ∧ SameBytes s t)) ∧
  (∀ (s : State) (p lane : Nat), p < s.sys.links.length → lane < 16 → (linkOf s p).up = true → (linkOf s p).lanes / 2 ^ lane % 2 = 1 →
    ((linkOf s p).degraded = false → EventGives .laneFailure [p, lane] s fun t => SameBytes s t ∧
      linkOf t p = { linkOf s p with lanes := if lane < 8 then 0xFF00 else 0x00FF, degraded := true, training := true }) ∧
    ((linkOf s p).degraded = true → EventGives .laneFailure [p, lane] s fun t => SameBytes s t ∧ (linkOf t p).up = false ∧ (linkOf t p).replay = [])) ∧
  (∀ (s : State) (p m : Nat), p < s.sys.links.length → s.sys.remote = [] → s.sys.loose = [] → EventGives .akvinLinkFirmwareReset [p, m] s fun t => linkOf t p = { peer := some (m % 1024) } ∧ SameBytes s t ∧
    ∀ q, q ≠ p → linkOf t q = linkOf s q) ∧
  (∀ (s : State) (r : Remote) (a : Access) (x : Seg), s.sys.remote = [r] → r.port = none → r.answer = none → r.tx.isAnswer = false → routed s r.tx.to = false →
    s.sys.away.contains r.tx.to = false → copyChannel s (coreOf r.seq) r.id = none → (∀ m ∈ s.msgs, m.id ≠ r.id) → accOf s r.seq r.id = some a → a.kind = .store → a.segs = [x] →
    x.fab = true → x.pa = r.tx.addr → 0 < x.len → Gives .rerouteTimeout s fun t => Over s t r.seq r.id .st ∧ t.sys.remote = [] ∧ SameBytes s t ∧
      (t.seq r.seq).causes = (s.seq r.seq).causes ++ [{ cause := .dataAbort, addr := x.va, pc := some a.pc, slot := a.slot, held := a.held }]) ∧
  (∀ (s : State) (p v d : Nat) (rest : List Nat), let x := Tx.ofImage v
    let pa := localPa x.addr
    let answered := fun (t : State) (kind len data : Nat) => ∃ port, t.sys.remote =
      [{ id := 0, seq := noSeq, port := port, tx := { kind := kind, addr := x.from_ * 2 ^ 46, src := s.sys.modid * 2048, num := x.num, len := len, data := data } }]
    p < s.sys.links.length → (linkOf s p).whole = v :: rest → s.sys.remote = [] → s.sys.told = false →
    (imageOk v = true → regionOf pa = .hbm d → dieAnswers s d = true → s.sys.replicas = [] → 0 < x.len → pa + x.len ≤ 0x030000000000 →
      poisoned s pa x.len = false → (x.arg = 0 ∨ poisoned s (pa + x.arg % 2 ^ 16) (x.arg / 2 ^ 16) = false) →
      let seg := fun (len : Nat) => ({ va := 0, pa := pa, len := len, at_ := 0, key := x.key } : Seg)
      (x.kind = 0 → EventGives .transactionArrival [p] s fun t => SameBytes s t ∧ answered t 32 x.len (physRead s pa x.len x.key)) ∧
      (x.kind = 1 → x.op % 4 = 0 → PlainSeg s (seg x.len) → EventGives .transactionArrival [p] s fun t => Stored s t pa x.len x.data ∧ answered t 32 0 0) ∧
      (x.kind = 9 → x.op = 2 → PlainSeg s (seg 16) → EventGives .transactionArrival [p] s fun t => Stored s t pa 16 (barrierNew (.arrive x.data) (physRead s pa 16 x.key)).2 ∧ answered t 32 0 0)) ∧
    (imageOk v = false → x.kind = 0 → s.sys.inbound = [] → EventGives .transactionArrival [p] s fun t => t.sys.inbound = [(x.from_, x.num, 1)] ∧ t.sys.remote = [] ∧ SameBytes s t) ∧
    (imageOk v = false → x.kind = 0 → s.sys.inbound = [(x.from_, x.num, 2)] → EventGives .transactionArrival [p] s fun t => t.sys.inbound = [] ∧ answered t 33 0 0 ∧ SameBytes s t) ∧
    (∀ c, let n := x.addr % 2048
      let e := chanOf (s.seq n) x.dchan
      imageOk v = true → x.kind = 2 → x.from_ ≠ s.sys.modid → ctxOfEnd s n (x.launch, x.fabric) = some c → drifts s c n = false → ceDecl e.entry = true → ceSend e.entry = false →
      e.owncl = false → cePeerId e.entry = x.src → cePeerCh e.entry = x.chan → (x.gen = 0 ∨ e.gen = 0 ∨ e.gen = x.gen) → EventGives .transactionArrival [p] s fun t => SameBytes s t ∧
        (chanOf (t.seq n) x.dchan).buf = e.buf ++ [BitVec.ofNat 4096 x.data] ∧ answered t 32 0 0))

/-- spec/02 R41, R42, spec/14 R284, R285, spec/20 R376-R394, spec/22 R420: traps of framing and decoding; a waiting cause,
a user-level interrupt and a pre-emption are taken at a boundary; the stop of a context counts once nothing is on its way;
a context is saved, restored, resumed, killed and dumped; a strike returns a core to a boundary of its history, and a
difference between twins is retried once. -/
def Obligations.ContextsRun : Prop :=
  (∀ (s : State) (k : Issue) (p : Nat), s.issue = some k →
    ∀ ev x, (ev, x) ∈ [(Instr.illegalBundle, Cause.illegalBundle), (.illegalInstruction, .illegalInstr)] → EventGives ev [p] s fun t =>
      t = { s with issue := some { k with pos := p, raised := k.raised ++ [⟨1, p, { cause := x, slot := p, held := k.held }⟩] } }) ∧
  (∀ (s : State) (n c : Nat) (x : Trap) (rest : List Trap), (s.seq n).causes = x :: rest → (s.seq n).ctx = some c → (s.seq n).st ∈ [.running, .waiting, .idle, .retired] →
    (s.ctx c).st = .released → s.issue = none → firstFault s n = true → stopDue s n = false → (s.seq n).redo = none → n ∈ (s.ctx c).seqs → (s.ctx c).seqs.Nodup → (∀ m ∈ (s.ctx c).seqs, NoMwait (s.seq m)) →
    EventGives .trapAtBoundary [n] s fun t => (t.seq n).st = .faulted ∧ (t.seq n).prev = (s.seq n).st ∧ (t.seq n).pc = (s.seq n).pc ∧ (t.seq n).causes = rest ∧
      (t.ctx c).st = .stopping ∧ (t.ctx c).frec = faultRecord s n { x with slot := x.pc.elim x.slot fun p => slotAt s n p x.slot } (x.pc.getD (s.seq n).pc) false ∧ t.mem = s.mem ∧
      (∀ g, t.core g = { s.core g with mq := (t.core g).mq } ∧ SameQueue (t.core g).mq (s.core g).mq) ∧ ∀ m ∈ (s.ctx c).seqs, m ≠ n → (s.seq m).st = .running ∨ (s.seq m).st = .waiting → (t.seq m).st = .preempted ∧ (t.seq m).prev = (s.seq m).st) ∧
  (∀ (s : State) (n b : Nat), uliPending (s.seq n) = some b → (s.seq n).st = .running ∨ (s.seq n).st = .waiting → (s.seq n).causes = [] → (s.seq n).halting = none → s.issue = none → stopDue s n = false →
    EventGives .uliEntry [n] s fun t => t = enterHandler s n b) ∧
  (∀ (s : State) (c : Nat) (x : Seg), (s.ctx c).st = .stopping → ctxQuiet s c = true → feLive s s.sys.leader (s.ctx c).asid (saveAt (s.ctx c)) 64 = true →
    feSegs s s.sys.leader (s.ctx c).asid { w := true } (saveAt (s.ctx c)) 64 = .ok [x] → PlainSeg s x → x.len = 64 → regBusy s [x] = false →
    EventGives .contextStopped [c] s fun t => (t.ctx c).st = .faulted ∧ (t.ctx c).frec = (s.ctx c).frec ∧ Stored s t (localPa x.pa) 64 (s.ctx c).frec.toNat ∧
      ∀ n, (t.seq n).st = (s.seq n).st ∧ (t.seq n).pc = (s.seq n).pc) ∧
  (∀ (s : State) (n T : Nat), (s.ctxOf n).stopAt = some T → (s.seq n).stopReq = true → (s.seq n).st = .running ∨ (s.seq n).st = .waiting → s.issue = none → NoMwait (s.seq n) →
    (T + (s.seq n).prebud ≤ s.sys.dtime → EventGives .prebudExpiry [n] s fun t => (t.seq n).st = .preempted ∧ (t.seq n).prev = (s.seq n).st ∧ (t.seq n).pc = (s.seq n).pc ∧
      (t.seq n).stopReq = false ∧ SameBytes s t ∧ ∀ m, m ≠ n → t.seq m = s.seq m) ∧
    (s.sys.dtime < T + (s.seq n).prebud → EventGives .prebudExpiry [n] s fun t => t = s)) ∧
  (∀ (s : State) (c T : Nat), (s.ctx c).stopAt = some T → (s.ctx c).st = .released ∨ (s.ctx c).st = .faulted → launchOver s c = false → ctxQuiet s c = true → s.sys.freeze = none →
    (∀ n ∈ (s.ctx c).seqs, (s.seq n).ctx = some c → (s.seq n).st ≠ .running ∧ (s.seq n).st ≠ .waiting ∧ (s.seq n).st ≠ .calved) →
    EventGives .preemptStopped [c] s fun t => (t.ctx c).st = .saving ∧ SameBytes s t ∧ ∀ n, (t.seq n).st = (s.seq n).st ∧ (t.seq n).pc = (s.seq n).pc) ∧
  (∀ (s : State) (c : Nat) (x : Ctx) (l : List Seg) (e : XFault), x = s.ctx c → x.st = .saving → x.isTask = false → s.sys.freeze = none → feLive s s.sys.leader x.asid (saveAt x) (saveLen x) = true →
    (feSegs s s.sys.leader x.asid { r := true, w := true } (saveAt x) (saveLen x) = .ok l → EventGives .contextSaveComplete [c] s fun t =>
      (t.ctx c).st = .saved ∧ (t.ctx c).stopAt = none ∧ (t.ctx c).saved = some (saveImage s c).bare ∧ ∀ n ∈ x.seqs, (s.seq n).ctx = some c → (t.seq n).st = .idle ∧ (t.seq n).ctx = none) ∧
    (feSegs s s.sys.leader x.asid { r := true, w := true } (saveAt x) (saveLen x) = .error e → killAdmitted s c = true → EventGives .contextSaveComplete [c] s fun t => (t.ctx c).st = .killed ∧ (t.ctx c).status = 3)) ∧
  (∀ (s : State) (c : Nat) (x : Ctx) (v : SaveImage) (l : List Seg), x = s.ctx c → x.st = .saved → x.faulted = [] → serving s = true → leaderOk s = true → wanted s c = false → x.saved = some v →
    (placeFree s c v = true → feSegs s s.sys.leader x.asid { r := true, w := true } (saveAt x) (saveLen x) = .ok l → x.seqs.Nodup → (v.seqs.map (·.1)).Nodup →
      EventGives .preemptedResume [c] s fun t => (t.ctx c).st = .released ∧ (t.ctx c).saved = none ∧ (t.ctx c).stopAt = none ∧
        ∀ n q, (n, q) ∈ v.seqs → n ∈ x.seqs → q.ctx = some c → (t.seq n).pc = q.pc ∧ (t.seq n).views = q.views ∧ (t.seq n).masks = q.masks ∧ (t.seq n).ctx = some c ∧
          (q.st = .preempted → (t.seq n).st = q.prev)) ∧
    (placeFree s c v = false → EventGives .preemptedResume [c] s fun t => t = s)) ∧
  (∀ (s : State) (f c : Nat), Commands s f c → hostOpen s = true →
    (isFaulted (s.ctx c) = false → EventGives .ctxResume [f, c] s fun t => t = { s with funcs := t.funcs } ∧ (t.func f).cstat = 0x202 ∧ (t.func f).cmd = none) ∧
    (isFaulted (s.ctx c) = true → (s.ctx c).frec.toNat % 256 = 0x13 → EventGives .ctxResume [f, c] s fun t => t = { s with funcs := t.funcs } ∧ (t.func f).cstat = 0x302) ∧
    (isFaulted (s.ctx c) = true → (s.ctx c).frec.toNat % 256 ≠ 0x13 → serving s = true → (s.ctx c).stopAt = none → (s.ctx c).st = .faulted → (s.ctx c).saved = none → (s.ctx c).seqs.Nodup → ungated s (s.ctx c).cores = true →
      (∀ g ∈ (s.ctx c).cores, dieLive s (dieOf g) = true ∧ codeFree s c g = true) → EventGives .ctxResume [f, c] s fun t =>
        (t.func f).cstat = 0 ∧ (t.ctx c).st = .released ∧ (t.ctx c).faulted = [] ∧ t.mem = s.mem ∧ ∀ n ∈ (s.ctx c).seqs, (s.seq n).ctx = some c → (t.seq n).pc = (s.seq n).pc ∧
          ((s.seq n).st = .faulted → (s.seq n).prev ≠ .idle → (s.seq n).prev ≠ .retired → (t.seq n).st = .running) ∧ ((s.seq n).st = .preempted → (t.seq n).st = (s.seq n).prev))) ∧
  (∀ (s : State) (f c : Nat), Commands s f c → hostOpen s = true → killAdmitted s c = true → EventGives .ctxKill [f, c] s fun t =>
    (t.ctx c).st = .killed ∧ (t.ctx c).status = 3 ∧ (t.ctx c).saved = none ∧ (t.func f).cstat = 0 ∧ ∀ n ∈ (s.ctx c).seqs, (s.seq n).ctx = some c → (t.seq n).st = .idle ∧ (t.seq n).ctx = none) ∧
  (∀ (s : State) (f c : Nat) (x : Seg) (e : XFault), Commands s f c → hostOpen s = true → (s.ctx c).st = .faulted ∨ (s.ctx c).st = .saved →
    let b := dumpBytes s c
    feLive s s.sys.leader (s.func f).lasid (s.func f).ctxda b.2 = true →
    b.1 % 2 ^ 32 = 0x504D445A ∧
    (feSegs s s.sys.leader (s.func f).lasid { w := true } (s.func f).ctxda b.2 = .ok [x] → PlainSeg s x → x.len = b.2 → regBusy s [x] = false →
      EventGives .ctxDump [f, c] s fun t => (t.func f).cstat = 0 ∧ Stored s t (localPa x.pa) b.2 b.1 ∧ (t.ctx c).st = (s.ctx c).st) ∧
    (feSegs s s.sys.leader (s.func f).lasid { w := true } (s.func f).ctxda b.2 = .error e → EventGives .ctxDump [f, c] s fun t =>
      t = { s with funcs := t.funcs } ∧ (t.func f).cstat = 0x402)) ∧
  (∀ (s : State) (g k : Nat) (p : Snap), s.issue = none → (s.core g).twinOf = none → (s.hist.getD g [])[k]? = some p →
    let same := fun (i : Nat) => (s.seq (4 * g + i)).epoch = (p.seqs.getD (4 * g + i) {}).epoch
    EventGives .strikeRollback [g, k] s fun t => (t.core g).strikes = (s.core g).strikes + 1 ∧ t.mem = s.mem ∧
    (∀ i < 4, let cur := s.seq (4 * g + i); let q := t.seq (4 * g + i); let old := p.seqs.getD (4 * g + i) {}
      (¬ same i → q = cur) ∧
      (same i → q.pc = old.pc ∧ q.st = (if old.st.live then old.st else cur.st) ∧ q.masks = old.masks ∧ q.views = old.views ∧ q.acc = old.acc ∧ q.causes = cur.causes ∧
        (cur.redo = none → old.st.live = true → cur.st ∈ [.preempted, .faulted, .frozen, .calved] → q.redo = some (cur.issued, cur.st, cur.prev, cur.below)))) ∧
    ((∀ i < 4, same i) → (t.core g).regs = p.core.regs ∧
      ((∀ e ∈ p.core.mq ++ (s.core g).mq, coreOf e.seq = g) → p.core.mq.Pairwise (fun a b => a.id < b.id) → (t.core g).mq = p.core.mq) ∧
      ((∀ l ∈ (s.core g).ls, ∀ n, l.owner = some n → coreOf n = g) → (s.core g).ls.length = p.core.ls.length → (t.core g).ls = p.core.ls)) ∧
    (∀ h, h ≠ g → t.core h = s.core h) ∧ ∀ m, coreOf m ≠ g → t.seq m = s.seq m) ∧
  (∀ (s : State) (g k : Nat) (p : Snap), s.issue = none → (s.core (g + 1)).twinOf = some g → (s.hist.getD g [])[k]? = some p → EventGives .strikeRollback [g + 1, k] s fun t =>
    (t.core (g + 1)).strikes = (s.core (g + 1)).strikes + 1 ∧ ∀ i < 4, (s.seq (4 * g + i)).epoch = (p.seqs.getD (4 * g + i) {}).epoch →
      (t.seq (4 * g + i)).pc = (p.seqs.getD (4 * g + i) {}).pc) ∧
  (∀ (s : State) (g id a v : Nat) (e : TwinEffect), s.issue = none → (s.core (g + 1)).twinOf = some g → twinEffect s g id = some e →
    let same := fun (x : TwinEffect) => x.pc = e.pc ∧ x.slot = e.slot ∧ x.held = e.held ∧ x.seq = e.seq
    (a = e.addr → v = e.data → EventGives .twinCompare [g, id, a, v] s fun t => t = { s with cores := t.cores } ∧ (∀ h, h ≠ g → t.core h = s.core h) ∧
      t.core g = { s.core g with twin := (t.core g).twin } ∧ ∀ x, x ∈ (t.core g).twin ↔ x ∈ (s.core g).twin ∧ ¬ same x) ∧
    (a ≠ e.addr ∨ v ≠ e.data →
      ((∀ x ∈ (s.core g).twin, ¬ same x) → EventGives .twinCompare [g, id, a, v] s fun t =>
        (t.core g).strikes = (s.core g).strikes + 1 ∧ (t.core (g + 1)).strikes = (s.core (g + 1)).strikes + 1 ∧ (t.core g).twin = (s.core g).twin ++ [{ e with repeated := true }] ∧
        t.mem = s.mem ∧ (∀ m, (t.seq m).causes = (s.seq m).causes) ∧
        ∀ k p, boundaryBefore s g id = some k → (s.hist.getD g [])[k]? = some p →
          (∀ i < 4, (s.seq (4 * g + i)).epoch = (p.seqs.getD (4 * g + i) {}).epoch) → (t.core g).regs = p.core.regs ∧ ∀ i < 4, (t.seq (4 * g + i)).pc = (p.seqs.getD (4 * g + i) {}).pc) ∧
      ((∃ x ∈ (s.core g).twin, same x) → EventGives .twinCompare [g, id, a, v] s fun t => (t.core g).twin = [] ∧
        OnlyCause s t e.seq { cause := .twinMismatch, addr := e.addr, aux := a, pc := some e.pc, slot := e.slot, held := e.held })))


/-- spec/17 R321, R328, R334-R336, spec/22 R419-R424: an `INVAL`, and a write of a table entry, drops every covered cached
translation, and completes once what was translated through one is performed; replicas are checked, seeded and served; the
host's windows, register space and registers; MSI-X, the mailbox and attestation; the management port. -/
def Obligations.TablesAndHostPort : Prop :=
  (∀ (s : State) (f r : Nat) (p : Packet), AtHead s f r p none → pkType p.raw.toNat = 7 →
    let x := p.raw.toNat
    let c := coverArgs s (fld x 75 64) (fld x 175 140 * 4096) (fld x 223 192 * 4096) (bit x 78) (bit x 79)
    EventGives .inval [f, r] s fun t => Purged s t (c.tlb s) ∧
      ∃ i, (t.ring f r).hold = some (.inval (fld x 75 64) (fld x 175 140 * 4096) (fld x 223 192 * 4096) (bit x 78) (bit x 79) i)) ∧
  (∀ (s : State) (f r asid va len upto : Nat) (s2 all : Bool) (p : Packet) (c : Option Nat), f < 64 → r < 64 → ringOn s f r = true →
    (s.ring f r).hold = some (.inval asid va len s2 all upto) → (s.ring f r).ahead.head? = some (p, c) →
    (coverBusy s (coverArgs s asid va len s2 all) upto = false → EventGives .invalComplete [f, r] s fun t => HeadPasses s t f r p) ∧
    (coverBusy s (coverArgs s asid va len s2 all) upto = true → EventGives .invalComplete [f, r] s fun t => t = s)) ∧
  (∀ (s : State) (x i upto : Nat) (rest : List (Nat × Nat × Nat)), s.sys.acks = (0, i, upto) :: rest → coverBusy s { asid := i } upto = false →
    EventGives .invalComplete [64, x] s fun t => t.sys.acks = rest ∧ t.outbox = s.outbox ++ [.reply true i] ∧ SameBytes s t) ∧
  (∀ (s : State) (i v : Nat), hostOpen s = true →
    (i < 4096 → EventGives .asidTableWrite [0, i, v] s fun t => Purged s t (fun e => e.asid = i) ∧ (t.sys.asids.getD i 0).toNat = v % 2 ^ 7 + v / 2 ^ 12 % 2 ^ 44 * 2 ^ 12 ∧
      (∀ j, j ≠ i → t.sys.asids.getD j 0 = s.sys.asids.getD j 0) ∧ t.sys.funcs = s.sys.funcs ∧ ∃ k, t.sys.acks = s.sys.acks ++ [(0, i, k)]) ∧
    (i < 64 → EventGives .asidTableWrite [1, i, v] s fun t => Purged s t (fun e => asidFunc s e.asid = i) ∧
      funcEntry t i = v % 2 + v / 2 ^ 12 % 2 ^ 44 * 2 ^ 12 + v / 2 ^ 64 % 2 ^ 64 * 2 ^ 64 ∧ t.sys.asids = s.sys.asids ∧ ∃ k, t.sys.acks = s.sys.acks ++ [(1, i, k)])) ∧
  (∀ (s : State) (x i v : Nat), i < 1024 → hostOpen s = true →
    (replicaRefused s i (replicaOf v) = true → v % 2 = 1 → EventGives .replicaEntryWrite [x, i, v] s fun t =>
      t.sys.replicas.find? i = some { replicaOf v with v := false, err := true, rdy := false } ∧ SameBytes s t ∧
      ((∀ r, s.sys.replicas.find? i = some r → r.v = false) → t.outbox = s.outbox ++ [.reply true i])) ∧
    (replicaRefused s i (replicaOf v) = false ∨ v % 2 = 0 → EventGives .replicaEntryWrite [x, i, v] s fun t =>
      t.sys.replicas.find? i = some (replicaOf v) ∧ SameBytes s t ∧
      ((∀ r, s.sys.replicas.find? i = some r → r.v = false) → t.outbox = s.outbox ++ [.reply true i] ∧ t.sys.acks = s.sys.acks) ∧
      ∀ r, s.sys.replicas.find? i = some r → r.v = true → r.home ≠ (replicaOf v).home →
        t.outbox = s.outbox ∧ t.sys.acks = s.sys.acks ++ [(2 + r.size, r.home, s.nextId)])) ∧
  (∀ (s : State) (x k home upto : Nat) (rest : List (Nat × Nat × Nat)), s.sys.acks = (2 + k, home, upto) :: rest →
    (replicaBusy s home (replicaSize k) upto = false → EventGives .invalComplete [64, x] s fun t => t.sys.acks = rest ∧ t.outbox = s.outbox ++ [.reply true home] ∧ SameBytes s t) ∧
    (replicaBusy s home (replicaSize k) upto = true → EventGives .invalComplete [64, x] s fun t => t = s)) ∧
  (∀ (s : State) (x i d : Nat) (r : Replica), i < 1024 → s.sys.replicas.find? i = some r → r.v = true → r.rdy = false → s.mem.wf = true →
    (∀ u ∈ s.updates, meet u.pa u.len r.home (replicaSize r.size) = false) → (List.range 4).filter (bit r.dmask) = [d] → EventGives .replicaSeedingDone [x, i] s fun t => t.sys.replicas.find? i = some { r with rdy := true } ∧
      let a := r.frames.getD d 0
      (∀ k < replicaSize r.size, t.mem.get (a + k) = s.mem.get (r.home + k)) ∧ ∀ b, b < a ∨ a + replicaSize r.size ≤ b → t.mem.get b = s.mem.get b) ∧
  (∀ (s : State) (v f x : Nat),
    (s.sys.mboxStat = 1 → EventGives .mailboxAttest [v] s fun t => t = s) ∧
    (hostOpen s = true → s.sys.mboxStat ≠ 1 → EventGives .mailboxAttest [v] s fun t =>
      t = { s with sys := { s.sys with mboxCmd := v % 256, mboxStat := if v % 256 = 1 then 1 else 3 } }) ∧
    (s.sys.mboxStat = 1 → 68 ∉ (s.func 0).msixMask → Gives .attestReportDone s fun t => t.sys.mboxStat = 2 ∧ t.sys.mboxLen = 3437 ∧ t.outbox = s.outbox ++ [.msix 0 68] ∧
      t.sys.mboxReport % 2 ^ 32 = 0x5454415A ∧ t.sys.mboxReport / 2 ^ 48 % 2 ^ 16 = s.sys.modid % 2 ^ 16 ∧ t.sys.mboxReport / 2 ^ 672 % 2 ^ 256 = s.sys.mboxNonce.toNat ∧
      t.sys.mboxReport / 2 ^ 928 % 2 ^ 64 = s.sys.dtime % 2 ^ 64 ∧ t.sys.mboxReport / 2 ^ 1024 = Config.sign (sha3 128 (t.sys.mboxReport % 2 ^ 1024)) % 2 ^ 26472 ∧ SameBytes s t) ∧
    (hostOpen s = true → EventGives .msixUnmask [f, x] s fun t => x ∉ (t.func f).msixMask ∧ x ∉ (t.func f).msixPba ∧ SameBytes s t ∧
      (x ∈ (s.func f).msixPba → t.outbox = s.outbox ++ [.msix f x]) ∧ (x ∉ (s.func f).msixPba → t.outbox = s.outbox))) ∧
  (∀ (s : State) (f v x : Nat),
    (s.sys.bootfail = true ∨ s.sys.power = .dormant → ∀ o, EventGives .registerWrite [f, o, v, x] s fun t => t = s) ∧
    (s.sys.bootfail = false → s.sys.power ≠ .dormant →
      (f < 64 → (EventGives .registerWrite [f, 0x1018, v, x] s fun t => t = { s with funcs := t.funcs } ∧ t.func f = { s.func f with ctxda := v / 4096 % 2 ^ 36 * 4096 }) ∧
        (EventGives .registerWrite [f, 0x1008, v, x] s fun t => t = { s with funcs := t.funcs } ∧
          t.func f = { s.func f with lasid := v % 4096, mincov := if f = 0 then min 3 (v / 2 ^ 16 % 16) else (s.func f).mincov }) ∧
        (∀ r, r < 64 → EventGives .registerWrite [f, 64 * r + 16, v, x] s fun t => t.ring f r = { s.ring f r with tail := v % 2 ^ 32 } ∧ t = { s with rings := t.rings })) ∧
      (∀ d, d < 4 → EventGives .registerWrite [64, 0x1100 + 8 * d, v, x] s fun t => t = { s with dies := t.dies } ∧ t.die d = { s.die d with gatecfg := BitVec.ofNat 64 v }) ∧
      (s.sys.freeze = none → ∀ g, g < 64 → EventGives .registerWrite [64, 0x122000 + 8 * g, v, x] s fun t => t = { s with sys := { s.sys with quotas := t.sys.quotas } } ∧ t.sys.quotas.getD g 0 = v % 2 ^ 48) ∧
      (x < 512 → EventGives .registerWrite [65, 0, v, x] s fun t => t = { s with cores := t.cores } ∧ t.core x = { s.core x with cwlim := BitVec.ofNat 64 v }) ∧
      (x < 4 → EventGives .registerWrite [65, 1, v, x] s fun t => t = { s with dies := t.dies } ∧ t.die x = { s.die x with drpth := BitVec.ofNat 64 v }) ∧
      (x < 2048 → EventGives .registerWrite [65, 2, v, x] s fun t => t = { s with seqs := t.seqs } ∧ t.seq x = { s.seq x with prebud := v % 2 ^ 64 }) ∧
      (s.sys.seenRelease = false → EventGives .registerWrite [65, 3, v, x] s fun t => t = { s with sys := { s.sys with modid := v % 1024 } }) ∧
      (s.sys.seenRelease = true → EventGives .registerWrite [65, 3, v, x] s fun t => t = s) ∧
      (∀ r, f < 64 → r < 64 → (EventGives .registerWrite [f, 64 * r + 0x18, v, x, 1] s fun t => Answers s t (.reply true ((s.ring f r).head % 2 ^ 64))) ∧
        (EventGives .registerWrite [f, 64 * r + 0x20, v, x, 1] s fun t => Answers s t (.reply true ((s.ring f r).rstat % 2 ^ 64))) ∧
        EventGives .registerWrite [f, 64 * r + 0x30, v, x, 1] s fun t => Answers s t (.reply true ((s.ring f r).issued % 2 ^ 64))) ∧
      (EventGives .registerWrite [64, 0x1000, v, x, 1] s fun t => Answers s t (.reply true (mpwr s.sys % 2 ^ 64))) ∧
      (EventGives .registerWrite [f % 64, 0x1018, v, x, 0, 4] s fun t => t = { s with funcs := t.funcs } ∧
        t.func (f % 64) = { s.func (f % 64) with ctxda := ((s.func (f % 64)).ctxda / 2 ^ 32 % 2 ^ 32 * 2 ^ 32 + v % 2 ^ 32) / 4096 % 2 ^ 36 * 4096 }))) ∧
  (∀ (s : State) (f va n v w : Nat), s.sys.bootfail = false → s.sys.power ≠ .dormant →
    (2 ^ 36 < va + n → EventGives .hostWindowAccess [f, va, n, v, w] s fun t => Answers s t (.reply false 0)) ∧
    (va + n ≤ 2 ^ 36 → let need : Needs := { r := w ≠ 1, w := w = 1 }
      (∀ e, feSegs s s.sys.leader (lasidOf s f) need va n = .error e → EventGives .hostWindowAccess [f, va, n, v, w] s fun t => Answers s t (.reply false 0)) ∧
      (∀ l, feSegs s s.sys.leader (lasidOf s f) need va n = .ok l → segsLive s l = false → EventGives .hostWindowAccess [f, va, n, v, w] s fun t => Answers s t (.reply false 1)) ∧
      (∀ x, feSegs s s.sys.leader (lasidOf s f) need va n = .ok [x] → segsLive s [x] = true → regionOf (localPa x.pa) ≠ .control → PlainSeg s x → x.len = n → regBusy s [x] = false →
        (w = 1 → EventGives .hostWindowAccess [f, va, n, v, w] s fun t => Stored s t (localPa x.pa) n v ∧ t.outbox = s.outbox ++ [.reply true 0]) ∧
        (w ≠ 1 → EventGives .hostWindowAccess [f, va, n, v, w] s fun t => ∃ u, TlbsDiffer s u ∧ Answers u t (.reply true (physRead s (localPa x.pa) n x.key)))) ∧
      ∀ x, feSegs s s.sys.leader (lasidOf s f) need va n = .ok [x] → segsLive s [x] = true → regionOf (localPa x.pa) = .control → x.fab = false →
        (f ≠ 0 → EventGives .hostWindowAccess [f, va, n, v, w] s fun t => Answers s t (.reply false 0)) ∧
        (f = 0 → w ≠ 1 → EventGives .hostWindowAccess [f, va, n, v, w] s fun t => ∃ u, TlbsDiffer s u ∧
          Answers u t (.reply true (getControl u (localPa x.pa - 0x050000000000) n))))) ∧
  (∀ (s : State) (pa n v w g : Nat), regionOf pa = .regspace g → regBusy s [{ va := pa, pa := pa, len := n, at_ := 0 }] = false → 0 < n → pa % 0x100000 + n ≤ 0x100000 → hostOpen s = true →
    (dieAnswers s (dieOf g) = false → EventGives .hostRegspaceAccess [pa, n, v, w] s fun t => Answers s t (.reply false 1)) ∧
    (dieAnswers s (dieOf g) = true → poisoned s pa n = false →
      (w ≠ 1 → EventGives .hostRegspaceAccess [pa, n, v, w] s fun t => Answers s t (.reply true ((s.core g).regs.readNat (pa % 0x100000) n))) ∧
      (w = 1 → EventGives .hostRegspaceAccess [pa, n, v, w] s fun t => t.outbox = s.outbox ++ [.reply true 0] ∧ t.mem = s.mem ∧
        (t.core g).regs = (s.core g).regs.write (pa % 0x100000) n v ∧ ∀ h, h ≠ g → t.core h = s.core h))) ∧
  (∀ (s : State) (x : Nat),
    (EventGives .mctpSetEndpointId [1, x] s fun t => t = { s with sys := { s.sys with eid := x % 256 }, outbox := s.outbox ++ [.management 0x101 (x % 256)] }) ∧
    (EventGives .mctpGetEndpointId [1, x] s fun t => Answers s t (.management 0x102 s.sys.eid)) ∧
    (EventGives .mctpGetVersionSupport [1, x] s fun t => Answers s t (.management 0x104 0x0103)) ∧
    (EventGives .mctpGetMessageTypeSupport [1, x] s fun t => Answers s t (.management 0x105 0x7E00)) ∧
    (EventGives .mctpUnsupportedCommand [1, x] s fun t => Answers s t (.management 0x1FF x)) ∧
    (EventGives .mgmtAttestationRequest [1, x] s fun t => Answers s t (.management 0x200 (attestReport s (BitVec.ofNat 256 x)))) ∧
    (∀ ev ∈ [Instr.mctpSetEndpointId, .mctpGetEndpointId, .mctpGetVersionSupport, .mctpGetMessageTypeSupport, .mctpUnsupportedCommand, .mgmtAttestationRequest],
      EventGives ev [0, x] s fun t => t = s) ∧
    (∀ p0 p1 p2 p3 tin tout, EventGives .mgmtReportRefresh [p0, p1, p2, p3, tin, tout] s fun t => t = { s with sys := { s.sys with mgmt :=
      [s.sys.vin, s.sys.charge, powerCode s.sys.power, (s.die 0).temp, p0, (s.die 0).point, (s.die 1).temp, p1, (s.die 1).point,
        (s.die 2).temp, p2, (s.die 2).point, (s.die 3).temp, p3, (s.die 3).point, tin, tout, s.sys.dtlock.toNat, s.sys.bootfail.toNat] } }))


/-- spec/09 R175, spec/20 R393, spec/21 R396-R402, R404, spec/22 R422, R426-R430: a module without supply makes no step but
its power-up (the model's choice: spec/21 R396 gives it none; log 15); power-up and cold reset boot an accepted slot, or
fail; samples of the supply move STATE; dies are calved, retained and un-calved in order; a function-level reset; the
points, the power-token market, gating and the thermal limits. -/
def Obligations.PowerSupply : Prop :=
  (∀ s, s.sys.power = .dormant →
    (∀ m rest, s.schedule = m :: rest → m.isPowerUp = false → step s = .fault .noPower) ∧
    (s.schedule = [] → step s = .fault .noPower) ∧
    (∀ a rest, s.schedule = .event .powerUp a :: rest → ∃ t, step s = .next t)) ∧
  (∀ (s : State) (ev : Instr), ev = .coldReset ∨ ev = .powerUp ∧ s.sys.power = .dormant → Gives ev s fun t => KeptDark s t ∧
    (acceptSlot s.sys = none → t.sys.power = .run ∧ t.sys.bootfail = true) ∧
    (∀ k, acceptSlot s.sys = some k → t.sys.bootSlot = some k ∧ t.sys.bootfail = false ∧ s.sys.fuse ≤ t.sys.fuse ∧
      (validMoraine t = none → t.sys.power = .run) ∧
      (∀ m, validMoraine t = some m → (moraineField t m 0x3FFFFFD0 8 = 0 → t.sys.power = .thaw ∧ t.sys.thaw = some { slot := m }) ∧
        (moraineField t m 0x3FFFFFD0 8 ≠ 0 → t.sys.power = .run)))) ∧
  (∀ s : State, (s.sys.power = .freeze → Gives .powerLost s fun t => t.sys.power = .dormant ∧ KeptDark s t) ∧ (s.sys.power ≠ .freeze → Gives .powerLost s fun t => t = s)) ∧
  (∀ (s : State) (v : Nat), let p := s.sys.power
    (p = .dormant → EventGives .vinSample [v] s fun t => t = s) ∧
    (p = .run ∨ p = .warn ∨ p = .calved ∨ p = .thaw → v < 38000 ∨ v < 40000 ∧ 9 ≤ s.sys.below40 → EventGives .vinSample [v] s fun t => t.sys.power = .freeze ∧ t.sys.vin = v ∧
      (∃ z, t.sys.freeze = some z ∧ z.stage = 0 ∧ z.tfrz = s.sys.dtime) ∧ ∀ n, n < 2048 → (t.seq n).st = .frozen) ∧
    (p = .run ∨ p = .warn → 40000 ≤ v → v < 44000 → 1999 ≤ s.sys.band → EventGives .vinSample [v] s fun t => t.sys.power = .calved ∧ t.sys.vin = v) ∧
    (p = .run → 40000 ≤ v → v < 42000 → 49 ≤ s.sys.below42 → s.sys.band < 1999 → EventGives .vinSample [v] s fun t => t.sys.power = .warn ∧ t.seqs = s.seqs ∧ SameBytes s t) ∧
    (p = .warn → 44000 ≤ v → 9999 ≤ s.sys.above44 → s.sys.pf = false → EventGives .vinSample [v] s fun t => t.sys.power = .run ∧ t.seqs = s.seqs ∧ SameBytes s t) ∧
    (p = .run → 44000 ≤ v → s.sys.pf = false → EventGives .vinSample [v] s fun t => t.sys.power = .run ∧ t.sys.vin = v ∧ t = { s with sys := t.sys })) ∧
  (∀ s : State, (s.sys.power = .run → Gives .pfAssert s fun t => t.sys.power = .warn ∧ t.sys.pf = true ∧ t.seqs = s.seqs ∧ SameBytes s t) ∧
    (s.sys.power ≠ .run → Gives .pfAssert s fun t => t = { s with sys := { s.sys with pf := true } }) ∧
    (s.sys.power = .warn → 10000 ≤ s.sys.above44 → Gives .pfDeassert s fun t => t.sys.power = .run ∧ t.sys.pf = false ∧ t.seqs = s.seqs ∧ SameBytes s t) ∧
    (s.sys.power ≠ .warn ∨ s.sys.above44 < 10000 → Gives .pfDeassert s fun t => t = { s with sys := { s.sys with pf := false } })) ∧
  (∀ (s : State) (v : Nat), s.sys.power ≠ .dormant → EventGives .chargeMeasure [v] s fun t => t = { s with sys := { s.sys with charge := v % 65536 } }) ∧
  (∀ (s : State) (f v : Nat), let a := v % 4; let b := v / 4 % 4; let c := v / 16 % 4
    (f = 0 → hostOpen s = true → [0, a, b, c].Nodup → EventGives .calvordWrite [f, v] s fun t => t = { s with sys := { s.sys with calvord := v % 64 } }) ∧
    (f ≠ 0 ∨ ¬ [0, a, b, c].Nodup → EventGives .calvordWrite [f, v] s fun t => t = s)) ∧
  (∀ (s : State) (d : Nat), s.sys.power = .calved → s.sys.series = true → s.sys.calvedOrder.length < 3 → s.sys.calvedAt + 1000000 ≤ s.sys.dtime →
    (nextToCalve s = some d → Gives .calveNextDie s fun t => (t.die d).calv = .stopping ∧ bit t.sys.calvd d = true ∧ t.sys.calvedOrder = d :: s.sys.calvedOrder ∧
      t.sys.calvedAt = s.sys.dtime ∧ t.seqs = s.seqs ∧ (∀ e, e ≠ d → t.die e = s.die e) ∧ (s.sys.leader ≠ d → t.sys.leader = s.sys.leader) ∧ (s.sys.leader = d → t.sys.leader = 0)) ∧
    (nextToCalve s = none → Gives .calveNextDie s fun t => t = s)) ∧
  (∀ (s : State) (v : Nat), s.sys.series = false → Gives .calveNextDie s (fun t => t = s) ∧
    (s.sys.power = .calved → 44000 ≤ v → EventGives .vinSample [v] s fun t => t.sys.series = false ∧ t.sys.power = .calved)) ∧
  (∀ (s : State) (n : Nat), (s.die (dieOf (coreOf n))).calv = .stopping → s.issue = none → (s.seq n).st ∈ [.running, .waiting, .faulted] → NoMwait (s.seq n) →
    (s.seq n).below = none → EventGives .calvedSeqStop [n] s fun t => t.seq n = { s.seq n with below := some (s.seq n).st, watch := none, st := .calved, stopReq := false } ∧
      SameBytes s t ∧ ∀ m, m ≠ n → t.seq m = s.seq m) ∧
  (∀ (s : State) (d : Nat), d < 4 → (s.die d).calv = .stopping → (∀ n ∈ seqsOfDie s d, seqQuiet s n = true ∧ (s.seq n).st ≠ .faulted) → EventGives .dieRetention [d] s fun t =>
    (t.die d).calv = .retained ∧ (t.die d).tlb = [] ∧ SameBytes s t ∧ t.seqs = s.seqs ∧
      (∀ g, g / 128 = d → (t.core g).l1 = [] ∧ (t.core g).itlb = [] ∧ (t.core g).dtlb = [] ∧ (t.core g).etlb = []) ∧ ∀ g, g / 128 ≠ d → t.core g = s.core g) ∧
  (∀ (s : State) (d : Nat) (rest : List Nat), s.sys.calvedOrder = d :: rest →
    (s.sys.power = .calved → 5000 ≤ s.sys.above46 → (s.die d).calv = .retained → Gives .uncalve s fun t => (t.die d).calv = .waking ∧ t.sys.above46 = 0 ∧ t.seqs = s.seqs) ∧
    ((s.die d).calv = .waking → (s.seqs.map (·.1)).Nodup → s.sys.records = [] → EventGives .uncalveComplete [0] s fun t => (t.die d).calv = .live ∧ (t.die d).point = (s.die d).before ∧ t.sys.calvedOrder = rest ∧
      t.mem = s.mem ∧ (rest = [] → t.sys.power = if s.sys.pf then .warn else .run) ∧ (rest ≠ [] → t.sys.power = s.sys.power) ∧
      ∀ n, dieOf (coreOf n) = d → (s.seq n).st = .calved → (s.ctxOf n).st = .released → (t.seq n).st = (s.seq n).below.getD .idle ∧ (t.seq n).below = none ∧ (t.seq n).pc = (s.seq n).pc)) ∧
  (∀ (s : State) (f : Nat), f < 64 → EventGives .functionLevelReset [f] s fun t => t.func f = {} ∧ (∀ r < 64, t.ring f r = {}) ∧ funcEntry t f = funcEntry s f % 2 ^ 64 ∧
    (∀ a, bit (asidEntry s a) 0 = true → asidFunc s a = f → bit (asidEntry t a) 0 = false) ∧ (f = 0 → t.sys.mboxStat = 0) ∧ (∀ e ∈ t.sys.ops, e.func = f → e.v = false) ∧
    ∀ c, ctxAlive s c = true → (s.ctx c).func = f → (s.ctx c).issued = false ∧ ((s.ctx c).st = .queued ∨ (s.ctx c).st = .granted) ∨ s.sys.power = .run → (t.ctx c).st = .killed) ∧
  (∀ (s : State) (c d e n : Nat) (l : List Nat), d < 4 → (s.ctx c).st = .released → leaderOk s = true →
    (s.ctx c).seqs.filter (fun m => dieOf (coreOf m) = d && (s.seq m).ctx = some c && (s.seq m).st = .running) = n :: l → (∀ m ∈ l, (s.seq m).phase = (s.seq n).phase) →
    (phaseOn (s.ctx c) d = some (s.seq n).phase → EventGives .opPointApply [c, d, e] s fun t => t = s) ∧
    (phaseOn (s.ctx c) d ≠ some (s.seq n).phase → EventGives .opPointApply [c, d, e] s fun t => phaseOn (t.ctx c) d = some (s.seq n).phase ∧
      (t.die d).point = Nat.min (requestedPoint t d) (cappedPoint t d) ∧ t.seqs = s.seqs ∧ SameBytes s t ∧
      ((∀ x ∈ s.sys.ops, ¬ (x.v = true ∧ x.func = (s.ctx c).func ∧ x.kid = (s.ctx c).image.kid ∧ x.phase = (s.seq n).phase)) → phaseOn (s.ctx c) d = none →
        t.sys.ops = ({ v := true, func := (s.ctx c).func, kid := (s.ctx c).image.kid, phase := (s.seq n).phase } :: s.sys.ops).take 1024))) ∧
  (∀ (e : OpPoint) (d energy : Nat), (endInterval e d energy).ej = energy ∧
    (e.tried = some d → energy < e.ej → (endInterval e d energy).points = e.points) ∧
    (e.tried = some d → e.ej ≤ energy → d < e.points.length → (endInterval e d energy).points.getD d 0 = e.points.getD d 0 + 1 ∧ (endInterval e d energy).settled = true) ∧
    (e.tried = none → e.settled = false → e.measured = true → d < e.points.length → (startInterval e d).points.getD d 0 = e.points.getD d 0 - 1)) ∧
  (∀ (s : State) (w : Nat) (bids : List Nat), bids.length = 16 → s.sys.power = .thaw ∨ s.sys.power = .run ∧ s.sys.seenRelease = false → leaderOk s = true →
    EventGives .powerTokenMarket (w :: bids) s fun t => (∀ c < 16, (t.cluster c).bid = bids.getD c 0) ∧ t.seqs = s.seqs ∧ SameBytes s t ∧
      (bids.sum ≤ 3000 - w → PointsSettled t) ∧ ∀ d < 4, fixedDie s d = false → (∃ i < 4, 3000 - w < bids.getD (4 * d + i) 0) → (t.die d).point = 0) ∧
  (∀ (s : State) (cl : Nat), cl < 16 → (s.cluster cl).gated = false → 50000 ≤ (s.cluster cl).quiet →
    (∀ n, clusterOf (coreOf n) = cl → (s.seq n).st ≠ .running ∧ (s.seq n).acc = [] ∧ (isDet (s.ctxOf n) = true → (s.seq n).st ≠ .waiting)) →
    (∀ k, s.keyOf.getD k 0 = 0) →
    let base := (s.die (cl / 4)).gatecfg.toNat % 2 ^ 48
    let len := (s.die (cl / 4)).gatecfg.toNat / 2 ^ 48
    len ≠ 0 → base + len * 2 ^ 20 < 0x030000000000 →
      ((∀ k, k / 4 = cl / 4 → k ≠ cl → (s.cluster k).parked = []) → gateBytes s cl ≤ len * 2 ^ 20 → gatePlace s cl = some base) ∧
      (∀ a, gatePlace s cl = some a → base ≤ a ∧ a + gateBytes s cl ≤ base + len * 2 ^ 20 ∧
        EventGives .clusterGate [cl] s fun t => (t.cluster cl).gated = true ∧ SameSeqs s t ∧ t.cores = s.cores ∧
          (t.cluster cl).parked = (gateWindows s cl).map (fun w => (w.1, w.2.1, w.2.2.1, a + w.2.2.2)) ∧
          (∀ w ∈ gateWindows s cl, t.mem.readNat (a + w.2.2.2) w.2.2.1 = (s.core w.1).regs.readNat w.2.1 w.2.2.1 % 2 ^ (8 * w.2.2.1)) ∧
          ∀ b, b < a ∨ a + gateBytes s cl ≤ b → t.mem.get b = s.mem.get b)) ∧
  (∀ (s : State) (cl : Nat), cl < 16 → (s.cluster cl).gated = true →
    (∀ w, (s.cluster cl).parked = [w] → EventGives .clusterUngate [cl, 1] s fun t => (t.cluster cl).gated = false ∧ (t.cluster cl).quiet = 0 ∧ (t.cluster cl).parked = [] ∧ t.mem = s.mem ∧
      SameSeqs s t ∧
      (t.core w.1).regs = (s.core w.1).regs.write w.2.1 w.2.2.1 (s.mem.readNat w.2.2.2 w.2.2.1)) ∧
    (EventGives .clusterUngate [cl, 0] s fun t => (t.cluster cl).gated = false ∧ ∀ g, g / 32 = cl → (t.core g).regs = [])) ∧
  (∀ (s : State) (d v : Nat), d < 4 →
    (1150 ≤ v → s.sys.power = .run → EventGives .thermalSample [d, v] s fun t => t.sys.power = .freeze) ∧
    (v < 1150 → (s.die d).levelAt = none → EventGives .thermalSample [d, v] s fun t => (t.die d).temp = v ∧ (t.die d).level = levelAfter (s.die d).level v ∧ t.seqs = s.seqs ∧ SameBytes s t ∧
      (levelAfter (s.die d).level v ≠ (s.die d).level → PointsSettled t ∧ (t.die d).levelAt = some s.sys.dtime)))


/-- spec/18 R357, spec/21 R404-R418: a freeze halts, records, drains what the reserve allows, writes and seals the moraine and
loses its supply; a thaw sets the time, restores the regions and decides each context; peers announce leaving and return; a
checkpoint waits for the launch's `step`, copies its regions and releases it. -/
def Obligations.FreezeThawCheckpoint : Prop :=
  (∀ (s : State) (z : Freeze), s.sys.freeze = some z → z.stage = 0 → (∀ n ∈ s.seqs.map (·.1), seqQuiet s n = true) → Gives .freezeEnginesStopped s fun t =>
    t.sys.freeze = some { z with stage := 1 } ∧ t.sys.told = true ∧ SameBytes s t ∧ (∀ n, (t.seq n).st = (s.seq n).st ∧ (t.seq n).pc = (s.seq n).pc) ∧
      (∀ c ∈ z.ctxs, (t.ctx c).stepRec = recordedStep s c ∧ (t.ctx c).unperf = unperformed s c) ∧
      ∀ p < 16, (linkOf s p).up = true → (linkOf s p).peer.isSome = true → s.sys.links.length = 16 → .link p 64 s.sys.modid ∈ t.outbox) ∧
  (∀ (s : State) (z : Freeze), s.sys.freeze = some z → z.released = true →
    (z.stage = 1 → z.todo = [] → Gives .freezeDrain s fun t => t = { s with sys := { s.sys with freeze := some { z with stage := 3, e := s.sys.charge } } }) ∧
    (∀ i e rest, z.stage = 2 → z.todo = (i, e) :: rest →
      (drainSkipped s z e = true → Gives .freezeDrain s fun t => ∃ y, t = { s with sys := { s.sys with freeze := some y } } ∧ y.todo = rest ∧
        y.regions = z.regions ++ [(i, if e.wc then { e with len := drainSize s z e } else e, 1, 0, 0)] ∧ y.placed = z.placed ∧ y.summed = z.summed) ∧
      (drainSkipped s z e = false → z.trunc = 0xFFFFFFFF → Nat.min ((z.e - 150) * 16000000000 / 21) (448 * 2 ^ 30) < z.summed + drainSize s z e → Gives .freezeDrain s fun t =>
        ∃ y, t = { s with sys := { s.sys with freeze := some y } } ∧ y.trunc = i ∧ y.todo = rest) ∧
      (∀ v, drainSkipped s z e = false → e.wc = false → z.trunc = 0xFFFFFFFF → z.summed + e.len ≤ Nat.min ((z.e - 150) * 16000000000 / 21) (448 * 2 ^ 30) → 0 < e.len →
        feRead s 0 e.asid e.va e.len = .ok v → let off := (z.placed + 4095) / 4096 * 4096
        Gives .freezeDrain s fun t => Stored s t (areaBase z.gen + off) e.len v ∧ SameSeqs s t ∧ ∃ y, t.sys.freeze = some y ∧ y.todo = rest ∧ y.placed = off + e.len ∧
          y.summed = z.summed + e.len ∧ y.regions = z.regions ++ [(i, e, 0, off, sha3 e.len v)]))) ∧
  (∀ (s : State) (z : Freeze), s.sys.freeze = some z →
    (z.stage = 3 → (moraineBody s z).1 ≤ 0x3FFFF000 → poisoned s (slotBase z.slot + 0x3FFFF000) 3309 = false → Gives .moraineWrite s fun t => t.sys.freeze = some { z with stage := 4 } ∧
      let b := moraineBody s z; let base := slotBase z.slot
      t.mem.readNat base b.1 = b.2 % 2 ^ (8 * b.1) ∧ t.mem.readNat (base + 0x3FFFF000) 3309 = Config.sign (sha3 b.1 b.2) % 2 ^ 26472 ∧ t.mem.readNat (base + 0x3FFFFFC0) 64 = 0) ∧
    (z.stage = 4 → poisoned s (slotBase z.slot + 0x3FFFFFC0) 16 = false → Gives .moraineSeal s fun t => t.sys.power = .dormant ∧ t.mem.readNat (slotBase z.slot + 0x3FFFFFC0) 8 = 1 ∧
      t.mem.readNat (slotBase z.slot + 0x3FFFFFC8) 8 = z.seqno % 2 ^ 64 ∧ t.sys.firn = s.sys.firn)) ∧
  (∀ (s : State) (m l a b : Nat), (EventGives .peerFreezeNotice [m] s fun t => m ∈ t.sys.away ∧ t = { s with sys := { s.sys with away := t.sys.away } }) ∧
    (EventGives .peerRejoin [m, l, a, b] s fun t => m ∉ t.sys.away ∧ SameBytes s t ∧ t.seqs = s.seqs ∧
      ∀ c, l ≠ 0 → (s.ctx c).lr 152 8 = l → (t.ctx c).peers = (s.ctx c).peers.filter (fun p => p.1 ≠ m) ++ [(m, a, b)])) ∧
  (∀ (s : State) (z : Thaw), Thawing s z 0 → Gives .thawCommand s fun t => t = { s with sys := { s.sys with thaw := some { z with stage := 1 } } }) ∧
  (∀ (s : State) (z : Thaw) (lk T : Nat), Thawing s z 1 → EventGives .thawDtimeLock [lk, T] s fun t =>
    t.sys.dtime = (if lk = 1 then max T (moraineField s z.slot 16 8 + 1) else moraineField s z.slot 16 8 + 1) ∧ t.sys.dtlock = decide (lk = 1) ∧
    (∃ y, t.sys.thaw = some y ∧ y.stage = 2 ∧
      (moraineField s z.slot 36 2 = 0 → y.failed = [] ∧ t.mem = s.mem) ∧
      (let n := regionField s z.slot 0 8 8
       let v := s.mem.readNat (areaBase (moraineField s z.slot 6 1 % 2) + regionField s z.slot 0 24 8) n
       moraineField s z.slot 36 2 = 1 → regionField s z.slot 0 19 1 % 8 = 0 → sha3 n v ≠ BitVec.ofNat 256 (regionField s z.slot 0 32 32) → y.failed = [0] ∧ t.mem = s.mem))) ∧
  (∀ (s : State) (z : Thaw) (c : Nat), Thawing s z 2 →
    (poisoned s (slotBase z.slot + 0x3FFFFFD0) 8 = false → (∀ i < moraineField s z.slot 38 2, ∃ e ∈ z.decided, e.1 = recordField s z.slot i 256 2 ∧ e.2 ≠ 3) → EventGives .thawContextDecide [c, 1] s fun t =>
      t.sys.power = .run ∧ t.sys.thaw = none ∧ t.mem.readNat (slotBase z.slot + 0x3FFFFFD0) 8 = 1 ∧ SameSeqs s t) ∧
    (∀ i x v, RecordOf s z i c x v → (∀ e ∈ z.decided, e.1 ≠ c) →
      let y : Ctx := { x with asid := recordField s z.slot i 258 2, lrec := recordField s z.slot i 0 256 }
      let fl := recordField s z.slot i 261 1
      let others := (recordPeers s z.slot i).filter (· ≠ s.sys.modid)
      (bit fl 1 = true → EventGives .thawContextDecide [c, 0] s fun t => t.ctx c = { y with st := .killed } ∧ t.sys.thaw = some { z with decided := z.decided ++ [(c, 4)] } ∧ t.seqs = s.seqs) ∧
      (bit fl 1 = false → bit (asidEntry s y.asid) 0 = false → EventGives .thawContextDecide [c, 0] s fun t => t.ctx c = { y with st := .lost } ∧
        t.sys.thaw = some { z with decided := z.decided ++ [(c, 2)] } ∧ t.seqs = s.seqs) ∧
      (bit fl 1 = false → bit (asidEntry s y.asid) 0 = true → asidFunc s y.asid = y.func → others ≠ [] → EventGives .thawContextDecide [c, 0] s fun t =>
        t.ctx c = { y with st := .split, peers := (s.sys.rejoins.filter fun e => e.1 = y.lr 152 8).map (·.2) } ∧ t.sys.thaw = some { z with decided := z.decided ++ [(c, 3)] } ∧ t.seqs = s.seqs) ∧
      (bit fl 1 = false → bit (asidEntry s y.asid) 0 = true → asidFunc s y.asid = y.func → others = [] → exactOk s z i = false → bit fl 3 = false →
        EventGives .thawContextDecide [c, 0] s fun t => t.ctx c = { y with st := .lost } ∧ t.sys.thaw = some { z with decided := z.decided ++ [(c, 2)] }) ∧
      (∀ w, bit fl 1 = false → bit (asidEntry s y.asid) 0 = true → asidFunc s y.asid = y.func → others = [] → exactOk s z i = true → v = some w → x.saved = none → (w.seqs.map (·.1)).Nodup →
        EventGives .thawContextDecide [c, 0] s fun t => t.sys.thaw = some { z with decided := z.decided ++ [(c, 0)] } ∧ t.sys.seenRelease = true ∧ (t.ctx c).st = x.st ∧
          ∀ n q, (n, q) ∈ w.seqs → (t.seq n).pc = q.pc ∧ (t.seq n).views = q.views ∧ (t.seq n).masks = q.masks ∧ (t.seq n).st = q.below.getD q.st ∧ (t.seq n).below = none))) ∧
  (∀ (s : State) (z : Thaw) (c i : Nat) (x : Ctx) (v : Option SaveImage), Thawing s z 2 → RecordOf s z i c x v →
    let others := (recordPeers s z.slot i).filter (· ≠ s.sys.modid)
    let own := recordField s z.slot i 264 4
    ((c, 3) ∉ z.decided ∨ (∃ m ∈ others, ∀ p ∈ (s.ctx c).peers, p.1 ≠ m) → EventGives .fabricRejoin [c] s fun t => t = s) ∧
    ((c, 3) ∈ z.decided → (∀ m ∈ others, ∃ p ∈ (s.ctx c).peers, p.1 = m) →
      ((∃ m ∈ others, ∃ a b, (s.ctx c).peers.find? (fun p => p.1 = m) = some (m, a, b) ∧ (own + 2 < a ∨ a + 2 < own)) → EventGives .fabricRejoin [c] s fun t => .management 5 c ∈ t.outbox ∧ t.ctxs = s.ctxs ∧ SameSeqs s t) ∧
      ((∀ m ∈ others, ∃ b, (s.ctx c).peers.find? (fun p => p.1 = m) = some (m, own, b)) → exactOk s z i = false → bit (recordField s z.slot i 261 1) 3 = false →
        EventGives .fabricRejoin [c] s fun t => (t.ctx c).st = .lost))) ∧
  (∀ (s : State) (f r : Nat) (p : Packet), AtHead s f r p none → pkType p.raw.toNat = 8 →
    (lastLaunch s f r = none → EventGives .ckpt [f, r] s fun t => t.ring f r = { s.ring f r with rstat := 2 + 6 * 256 } ∧ t = { s with rings := t.rings }) ∧
    (∀ c l, lastLaunch s f r = some c → regionsLive s (s.ctx c).asid (fld p.raw.toNat 127 64) = true → readRegions s (s.ctx c).asid (fld p.raw.toNat 127 64) = .ok (some l) → EventGives .ckpt [f, r] s fun t =>
      t.ctx c = { s.ctx c with armed := some (fld p.raw.toNat 143 128 % 1024, l, false) } ∧ t.ring f r = { s.ring f r with hold := some (.ckpt c) } ∧ SameBytes s t ∧ t.seqs = s.seqs)) ∧
  (∀ (s : State) (c m src dst n : Nat) (a b : Seg), (s.ctx c).armed = some (m, [(src, dst, n)], false) → (s.ctx c).st = .released → stepsIn s c = true → m ∉ s.sys.away → copyLive s c [(src, dst, n)] = true →
    segs s (128 * s.sys.leader) .shared (s.ctx c).asid .x { r := true } src n = .ok [a] → segs s (128 * s.sys.leader) .shared (s.ctx c).asid .x { w := true } dst n = .ok [b] →
    PlainSeg s a → PlainSeg s b → a.len = n → b.len = n →
    EventGives .ckptCopy [c] s fun t => (t.ctx c).armed = some (m, [(src, dst, n)], true) ∧ Stored s t (localPa b.pa) n (physRead s (localPa a.pa) n a.key)) ∧
  (∀ (s : State) (c m : Nat) (l : List (Nat × Nat × Nat)), (s.ctx c).armed = some (m, l, true) → (∀ r ∈ s.sys.remote, r.id ≠ ckptMark c) → EventGives .ckptComplete [c] s fun t =>
    (t.ctx c).armed = none ∧ (t.ctx c).ckptStep = recordedStep s c ∧ (t.ctx c).buddy = m ∧ (t.ctx c).regions = l ∧
    (∀ n ∈ (s.ctx c).seqs, (s.seq n).ctx = some c → (s.seq n).st = .waiting → (s.seq n).wait = some .step → (t.seq n).st = .running ∧ (t.seq n).wait = none ∧ (t.seq n).pc = (s.seq n).pc) ∧
    ((s.ring (s.ctx c).func (s.ctx c).ring).hold = some (.ckpt c) → ∀ p y rest, (s.ring (s.ctx c).func (s.ctx c).ring).ahead = (p, y) :: rest →
      (t.ring (s.ctx c).func (s.ctx c).ring).head = p.next.1 ∧ (t.ring (s.ctx c).func (s.ctx c).ring).hold = none))
end

