-- ==== Sys2Proof/Laws/Memory.lean ====
section
/-! SUPPORT. Laws of byte memory and of sparse tables: what a write leaves, what a read gives, and that every memory
operation keeps the canonical form. -/
set_option linter.unusedVariables false
namespace Sys2Proof.Machine
open Sys2Proof

/-! ### Sparse tables -/

@[simp] theorem tab_find_put_same {α : Type} (t : Tab α) (k : Nat) (v : α) : (t.put k v).find? k = some v := by
  induction t with
  | nil => simp [Tab.put, Tab.find?]
  | cons e t ih =>
    obtain ⟨j, w⟩ := e
    by_cases h1 : k < j
    · simp [Tab.put, h1, Tab.find?]
    · by_cases h2 : k = j
      · simp [Tab.put, h2, Tab.find?]
      · have h3 : j ≠ k := fun h => h2 h.symm
        simp [Tab.put, h1, h2, h3, Tab.find?, ih]

theorem tab_find_put_other {α : Type} (t : Tab α) (k j : Nat) (v : α) (h : j ≠ k) : (t.put k v).find? j = t.find? j := by
  induction t with
  | nil => simp [Tab.put, Tab.find?, h.symm]
  | cons e t ih =>
    obtain ⟨i, w⟩ := e
    by_cases h1 : k < i
    · simp [Tab.put, h1, Tab.find?, h.symm]
    · by_cases h2 : k = i
      · subst h2
        simp [Tab.put, Tab.find?, h.symm]
      · simp [Tab.put, h1, h2, Tab.find?, ih]

@[simp] theorem tab_getD_put_same {α : Type} (t : Tab α) (k : Nat) (v d : α) : (t.put k v).getD k d = v := by
  simp [Tab.getD]

theorem tab_getD_put_other {α : Type} (t : Tab α) (k j : Nat) (v d : α) (h : j ≠ k) : (t.put k v).getD j d = t.getD j d := by
  simp [Tab.getD, tab_find_put_other t k j v h]

/-- The last of two writes to one key stands. -/
theorem tab_put_put {α : Type} (t : Tab α) (k : Nat) (v w : α) : (t.put k w).put k v = t.put k v := by
  induction t with
  | nil => simp [Tab.put]
  | cons e t ih =>
    obtain ⟨j, u⟩ := e
    by_cases h1 : k < j
    · simp [Tab.put, h1]
    · by_cases h2 : k = j
      · subst h2; simp [Tab.put]
      · simp [Tab.put, h1, h2, ih]

/-! ### Canonical form -/

/-- The canonical form as a property of the whole list. -/
theorem mem_wf_iff (m : Mem) : Mem.wf m = true ↔ (∀ c ∈ m, c.2 ≠ 0) ∧ m.Pairwise (fun c d => c.1 < d.1) := by
  induction m with
  | nil => simp [Mem.wf]
  | cons c m ih =>
    cases m with
    | nil => simp [Mem.wf]
    | cons d m =>
      simp only [Mem.wf, Bool.and_eq_true, decide_eq_true_eq, ih]
      constructor
      · rintro ⟨⟨hc, hlt⟩, hn, hp⟩
        refine ⟨?_, List.pairwise_cons.2 ⟨?_, hp⟩⟩
        · intro x hx
          rcases List.mem_cons.1 hx with rfl | hx
          · exact hc
          · exact hn x hx
        · intro x hx
          rcases List.mem_cons.1 hx with rfl | hx
          · exact hlt
          · exact Nat.lt_trans hlt ((List.pairwise_cons.1 hp).1 x hx)
      · rintro ⟨hn, hp⟩
        have hp' := List.pairwise_cons.1 hp
        exact ⟨⟨hn c (by simp), hp'.1 d (by simp)⟩, fun x hx => hn x (List.mem_cons_of_mem _ hx), hp'.2⟩

theorem mem_cells_range (a n v : Nat) : ∀ c ∈ Mem.cells a n v, a ≤ c.1 ∧ c.1 < a + n ∧ c.2 ≠ 0 := by
  induction n generalizing a v with
  | zero => simp [Mem.cells]
  | succ n ih =>
    intro c hc
    unfold Mem.cells at hc
    split at hc
    · have := ih (a + 1) (v / 256) c hc
      exact ⟨by omega, by omega, this.2.2⟩
    · rename_i hv
      rcases List.mem_cons.1 hc with rfl | hc
      · refine ⟨by simp, by simp, ?_⟩
        intro h
        have := congrArg BitVec.toNat h
        simp at this
        omega
      · have := ih (a + 1) (v / 256) c hc
        exact ⟨by omega, by omega, this.2.2⟩

theorem mem_cells_pairwise (a n v : Nat) : (Mem.cells a n v).Pairwise (fun c d => c.1 < d.1) := by
  induction n generalizing a v with
  | zero => simp [Mem.cells]
  | succ n ih =>
    unfold Mem.cells
    split
    · exact ih _ _
    · exact List.pairwise_cons.2 ⟨fun x hx => by have := mem_cells_range (a + 1) n (v / 256) x hx; simp; omega, ih _ _⟩

/-- Keeping some cells keeps the canonical form. -/
theorem mem_wf_filter (m : Mem) (p : Host.Cell → Bool) (h : Mem.wf m = true) : Mem.wf (m.filter p) = true := by
  rw [mem_wf_iff] at h ⊢
  exact ⟨fun c hc => h.1 c (List.mem_filter.1 hc).1, h.2.filter p⟩

/-- A write keeps the canonical form. -/
theorem mem_wf_write (m : Mem) (a n v : Nat) (h : Mem.wf m = true) : Mem.wf (m.write a n v) = true := by
  rw [mem_wf_iff] at h ⊢
  unfold Mem.write
  constructor
  · intro c hc
    simp only [List.mem_append, List.mem_filter] at hc
    rcases hc with (hc | hc) | hc
    · exact h.1 c hc.1
    · exact (mem_cells_range a n v c hc).2.2
    · exact h.1 c hc.1
  · rw [List.pairwise_append]
    refine ⟨?_, h.2.filter _, ?_⟩
    · rw [List.pairwise_append]
      refine ⟨h.2.filter _, mem_cells_pairwise a n v, ?_⟩
      intro c hc d hd
      have h1 := (List.mem_filter.1 hc).2
      have h2 := mem_cells_range a n v d hd
      simp at h1
      omega
    · intro c hc d hd
      have h2 := (List.mem_filter.1 hd).2
      simp at h2
      rcases List.mem_append.1 hc with hc | hc
      · have h1 := (List.mem_filter.1 hc).2
        simp at h1
        omega
      · have h1 := mem_cells_range a n v c hc
        omega

/-- Zeroing a range keeps the canonical form. -/
theorem mem_wf_zero (m : Mem) (a n : Nat) (h : Mem.wf m = true) : Mem.wf (m.zero a n) = true := mem_wf_filter m _ h

/-- A slice is canonical, and lies below its length. -/
theorem mem_wf_slice (m : Mem) (a n : Nat) (h : Mem.wf m = true) : Mem.wf (m.slice a n) = true := by
  have h' := (mem_wf_iff _).1 (mem_wf_filter m (fun c => decide (a ≤ c.1) && decide (c.1 < a + n)) h)
  rw [mem_wf_iff]
  unfold Mem.slice
  constructor
  · intro c hc
    obtain ⟨d, hd, rfl⟩ := List.mem_map.1 hc
    exact h'.1 d hd
  · rw [List.pairwise_map]
    refine (List.Pairwise.and_mem.1 h'.2).imp ?_
    rintro x y ⟨hx, hy, hlt⟩
    have h1 := (List.mem_filter.1 hx).2
    simp at h1
    show x.1 - a < y.1 - a
    omega

theorem mem_slice_lt (m : Mem) (a n : Nat) : ∀ c ∈ m.slice a n, c.1 < n := by
  intro c hc
  obtain ⟨d, hd, rfl⟩ := List.mem_map.1 hc
  have h1 := (List.mem_filter.1 hd).2
  simp at h1
  show d.1 - a < n
  omega

/-- Putting a slice back keeps the canonical form. -/
theorem mem_wf_unslice (m : Mem) (a n : Nat) (x : Mem) (h : Mem.wf m = true) (hx : Mem.wf x = true) (hn : ∀ c ∈ x, c.1 < n) :
    Mem.wf (m.unslice a n x) = true := by
  rw [mem_wf_iff] at h hx ⊢
  unfold Mem.unslice
  constructor
  · intro c hc
    simp only [List.mem_append, List.mem_filter, List.mem_map] at hc
    rcases hc with (hc | ⟨d, hd, rfl⟩) | hc
    · exact h.1 c hc.1
    · exact hx.1 d hd
    · exact h.1 c hc.1
  · rw [List.pairwise_append]
    refine ⟨?_, h.2.filter _, ?_⟩
    · rw [List.pairwise_append]
      refine ⟨h.2.filter _, ?_, ?_⟩
      · rw [List.pairwise_map]
        exact hx.2.imp fun hlt => by simpa using hlt
      · intro c hc d hd
        have h1 := (List.mem_filter.1 hc).2
        obtain ⟨y, hy, rfl⟩ := List.mem_map.1 hd
        simp at h1 ⊢
        omega
    · intro c hc d hd
      have h2 := (List.mem_filter.1 hd).2
      simp at h2
      rcases List.mem_append.1 hc with hc | hc
      · have h1 := (List.mem_filter.1 hc).2
        simp at h1
        omega
      · obtain ⟨y, hy, rfl⟩ := List.mem_map.1 hc
        have := hn y hy
        simp
        omega

theorem mem_wf_fill (m : Mem) (a n : Nat) (x : Mem) (h : Mem.wf m = true) : Mem.wf (m.fill a n x) = true := by
  have step : ∀ (x : Mem) (m : Mem), Mem.wf m = true →
      Mem.wf (x.foldl (fun m c => if c.1 < n then m.write (a + c.1) 1 c.2.toNat else m) m) = true := by
    intro x
    induction x with
    | nil => exact fun m h => h
    | cons c x ih =>
      intro m h
      refine ih _ ?_
      dsimp only
      split
      · exact mem_wf_write m _ _ _ h
      · exact h
  exact step x _ (mem_wf_zero m a n h)

/-! ### Reads -/

theorem mem_get_append (l m : Mem) (a : Nat) (h : ∀ c ∈ l, c.1 ≠ a) : Mem.get (l ++ m) a = Mem.get m a := by
  induction l with
  | nil => rfl
  | cons c l ih =>
    obtain ⟨b, v⟩ := c
    have hb : b ≠ a := h (b, v) (by simp)
    simp [Mem.get, hb, ih fun d hd => h d (List.mem_cons_of_mem _ hd)]

theorem mem_get_absent (l : Mem) (a : Nat) (h : ∀ c ∈ l, c.1 ≠ a) : Mem.get l a = 0 := by
  have := mem_get_append l [] a h
  simpa [Mem.get] using this

theorem mem_get_append_left (l m : Mem) (a : Nat) (h : ∀ c ∈ m, c.1 ≠ a) : Mem.get (l ++ m) a = Mem.get l a := by
  induction l with
  | nil => simpa [Mem.get] using mem_get_absent m a h
  | cons c l ih =>
    obtain ⟨b, v⟩ := c
    simp only [List.cons_append, Mem.get, ih]

theorem mem_get_filter (m : Mem) (p : Host.Cell → Bool) (a : Nat) (h : ∀ v, p (a, v) = true) : Mem.get (m.filter p) a = Mem.get m a := by
  induction m with
  | nil => rfl
  | cons c m ih =>
    obtain ⟨b, v⟩ := c
    by_cases hb : b = a
    · subst hb
      simp [h v, Mem.get]
    · by_cases hp : p (b, v) = true
      · simp [hp, Mem.get, hb, ih]
      · simp [hp, Mem.get, hb, ih]

/-- A write leaves every byte outside its range as it was. -/
theorem mem_get_write_other (m : Mem) (a n v b : Nat) (h : b < a ∨ a + n ≤ b) : (m.write a n v).get b = m.get b := by
  unfold Mem.write
  rcases h with h | h
  · rw [mem_get_append_left _ _ _ (fun c hc => by have := (List.mem_filter.1 hc).2; simp at this; omega),
      mem_get_append_left _ _ _ (fun c hc => by have := mem_cells_range a n v c hc; omega),
      mem_get_filter _ _ _ (fun x => by simpa using h)]
  · rw [List.append_assoc, mem_get_append _ _ _ (fun c hc => by have := (List.mem_filter.1 hc).2; simp at this; omega),
      mem_get_append _ _ _ (fun c hc => by have := mem_cells_range a n v c hc; omega),
      mem_get_filter _ _ _ (fun x => by simpa using h)]

theorem mem_get_cells (a n v k : Nat) (h : k < n) : (Mem.cells a n v).get (a + k) = BitVec.ofNat 8 (v / 256 ^ k) := by
  induction n generalizing a v k with
  | zero => omega
  | succ n ih =>
    unfold Mem.cells
    cases k with
    | zero =>
      split
      · rename_i hv
        rw [mem_get_absent _ _ (fun c hc => by have := mem_cells_range (a + 1) n (v / 256) c hc; omega)]
        apply BitVec.eq_of_toNat_eq
        simp
        omega
      · simp [Mem.get]
    | succ k =>
      have key := ih (a + 1) (v / 256) k (by omega)
      have e : a + 1 + k = a + (k + 1) := by omega
      have d : v / 256 / 256 ^ k = v / 256 ^ (k + 1) := by rw [Nat.div_div_eq_div_mul, Nat.pow_succ, Nat.mul_comm]
      rw [e, d] at key
      split
      · exact key
      · have ne : ¬ a = a + (k + 1) := by omega
        simp only [Mem.get, ne, if_false]
        exact key

/-- A written byte reads as the byte of the number. -/
theorem mem_get_write_same (m : Mem) (a n v k : Nat) (h : k < n) : (m.write a n v).get (a + k) = BitVec.ofNat 8 (v / 256 ^ k) := by
  unfold Mem.write
  rw [mem_get_append_left _ _ _ (fun c hc => by have := (List.mem_filter.1 hc).2; simp at this; omega),
    mem_get_append _ _ _ (fun c hc => by have := (List.mem_filter.1 hc).2; simp at this; omega), mem_get_cells a n v k h]

theorem mem_readNat_append (l m : Mem) (a n : Nat) : Mem.readNat (l ++ m) a n = Mem.readNat l a n + Mem.readNat m a n := by
  induction l with
  | nil => simp [Mem.readNat]
  | cons c l ih =>
    obtain ⟨b, v⟩ := c
    simp [Mem.readNat, ih, Nat.add_assoc]

theorem mem_readNat_none (l : Mem) (a n : Nat) (h : ∀ c ∈ l, c.1 < a ∨ a + n ≤ c.1) : Mem.readNat l a n = 0 := by
  induction l with
  | nil => rfl
  | cons c l ih =>
    obtain ⟨b, v⟩ := c
    have hb := h (b, v) (by simp)
    have : ¬ (a ≤ b ∧ b < a + n) := by omega
    simp [Mem.readNat, this, ih fun d hd => h d (List.mem_cons_of_mem _ hd)]

theorem mem_readNat_filter (m : Mem) (p : Host.Cell → Bool) (a n : Nat) (h : ∀ c : Host.Cell, a ≤ c.1 → c.1 < a + n → p c = true) :
    Mem.readNat (m.filter p) a n = Mem.readNat m a n := by
  induction m with
  | nil => rfl
  | cons c m ih =>
    obtain ⟨b, v⟩ := c
    by_cases hp : p (b, v) = true
    · simp [hp, Mem.readNat, ih]
    · have : ¬ (a ≤ b ∧ b < a + n) := fun hb => hp (h (b, v) hb.1 hb.2)
      simp [hp, Mem.readNat, this, ih]

theorem mem_readNat_cells (a n v : Nat) : Mem.readNat (Mem.cells a n v) a n = v % 2 ^ (8 * n) := by
  suffices h : ∀ n b v k, b = a + k → Mem.readNat (Mem.cells b n v) a (k + n) = v % 2 ^ (8 * n) * 2 ^ (8 * k) by
    simpa using h n a v 0 (by simp)
  intro n
  induction n with
  | zero => intro b v k hb; simp [Mem.cells, Mem.readNat, Nat.mod_one]
  | succ n ih =>
    intro b v k hb
    have key := ih (b + 1) (v / 256) (k + 1) (by omega)
    have e : k + 1 + n = k + (n + 1) := by omega
    rw [e] at key
    have split256 : v % 2 ^ (8 * (n + 1)) = v % 256 + 256 * (v / 256 % 2 ^ (8 * n)) := by
      have : (2 : Nat) ^ (8 * (n + 1)) = 256 * 2 ^ (8 * n) := by rw [Nat.mul_add, Nat.pow_add]; omega
      rw [this, Nat.mod_mul]
    have p8 : (2 : Nat) ^ (8 * (k + 1)) = 256 * 2 ^ (8 * k) := by rw [Nat.mul_add, Nat.pow_add]; omega
    unfold Mem.cells
    split
    · rename_i hv
      rw [key, split256, hv, p8, Nat.zero_add, Nat.mul_left_comm, Nat.mul_assoc]
    · have hin : a ≤ b ∧ b < a + (k + (n + 1)) := by omega
      have hk : b - a = k := by omega
      simp only [Mem.readNat, hin, if_true, and_self, key, hk, split256, p8, BitVec.toNat_ofNat]
      have : v % 2 ^ 8 = v % 256 := rfl
      rw [this]
      ring

/-- A read of exactly the written range gives the number written. -/
theorem mem_readNat_write_same (m : Mem) (a n v : Nat) : (m.write a n v).readNat a n = v % 2 ^ (8 * n) := by
  unfold Mem.write
  rw [mem_readNat_append, mem_readNat_append, mem_readNat_cells,
    mem_readNat_none _ _ _ (fun c hc => by have := (List.mem_filter.1 hc).2; simp at this; omega),
    mem_readNat_none (m.filter fun c => decide (a + n ≤ c.1)) _ _ (fun c hc => by have := (List.mem_filter.1 hc).2; simp at this; omega)]
  simp

/-- A read of a range apart from the written one gives what it gave. -/
theorem mem_readNat_write_other (m : Mem) (a n v b k : Nat) (h : b + k ≤ a ∨ a + n ≤ b) : (m.write a n v).readNat b k = m.readNat b k := by
  unfold Mem.write
  rw [mem_readNat_append, mem_readNat_append,
    mem_readNat_none (Mem.cells a n v) _ _ (fun c hc => by have := mem_cells_range a n v c hc; omega)]
  rcases h with h | h
  · rw [mem_readNat_filter _ _ _ _ (fun c h1 h2 => by simp; omega),
      mem_readNat_none (m.filter fun c => decide (a + n ≤ c.1)) _ _ (fun c hc => by have := (List.mem_filter.1 hc).2; simp at this; omega)]
    simp
  · rw [mem_readNat_none (m.filter fun c => decide (c.1 < a)) _ _ (fun c hc => by have := (List.mem_filter.1 hc).2; simp at this; omega),
      mem_readNat_filter _ _ _ _ (fun c h1 h2 => by simp; omega)]
    simp

end Sys2Proof.Machine
end

