-- ==== Sys2Proof/Laws/State.lean ====
section
/-! SUPPORT. What each update of the state leaves unchanged: one lemma per field and update. -/
set_option linter.unusedVariables false
namespace Sys2Proof.Machine
open Sys2Proof
variable (s : State)

/-! ### `State.setCore` -/

@[simp] theorem State.setCore_mem (g : Nat) (c : Core) : (s.setCore g c).mem = s.mem := rfl
@[simp] theorem State.setCore_keyOf (g : Nat) (c : Core) : (s.setCore g c).keyOf = s.keyOf := rfl
@[simp] theorem State.setCore_poison (g : Nat) (c : Core) : (s.setCore g c).poison = s.poison := rfl
@[simp] theorem State.setCore_updates (g : Nat) (c : Core) : (s.setCore g c).updates = s.updates := rfl
@[simp] theorem State.setCore_marks (g : Nat) (c : Core) : (s.setCore g c).marks = s.marks := rfl
@[simp] theorem State.setCore_seqs (g : Nat) (c : Core) : (s.setCore g c).seqs = s.seqs := rfl
@[simp] theorem State.setCore_clusters (g : Nat) (c : Core) : (s.setCore g c).clusters = s.clusters := rfl
@[simp] theorem State.setCore_dies (g : Nat) (c : Core) : (s.setCore g c).dies = s.dies := rfl
@[simp] theorem State.setCore_ctxs (g : Nat) (c : Core) : (s.setCore g c).ctxs = s.ctxs := rfl
@[simp] theorem State.setCore_rings (g : Nat) (c : Core) : (s.setCore g c).rings = s.rings := rfl
@[simp] theorem State.setCore_funcs (g : Nat) (c : Core) : (s.setCore g c).funcs = s.funcs := rfl
@[simp] theorem State.setCore_sys (g : Nat) (c : Core) : (s.setCore g c).sys = s.sys := rfl
@[simp] theorem State.setCore_msgs (g : Nat) (c : Core) : (s.setCore g c).msgs = s.msgs := rfl
@[simp] theorem State.setCore_hist (g : Nat) (c : Core) : (s.setCore g c).hist = s.hist := rfl
@[simp] theorem State.setCore_issue (g : Nat) (c : Core) : (s.setCore g c).issue = s.issue := rfl
@[simp] theorem State.setCore_schedule (g : Nat) (c : Core) : (s.setCore g c).schedule = s.schedule := rfl
@[simp] theorem State.setCore_turn (g : Nat) (c : Core) : (s.setCore g c).turn = s.turn := rfl
@[simp] theorem State.setCore_free (g : Nat) (c : Core) : (s.setCore g c).free = s.free := rfl
@[simp] theorem State.setCore_nextId (g : Nat) (c : Core) : (s.setCore g c).nextId = s.nextId := rfl
@[simp] theorem State.setCore_args (g : Nat) (c : Core) : (s.setCore g c).args = s.args := rfl
@[simp] theorem State.setCore_outbox (g : Nat) (c : Core) : (s.setCore g c).outbox = s.outbox := rfl

/-! ### `State.modCore` -/

@[simp] theorem State.modCore_mem (g : Nat) (f : Core → Core) : (s.modCore g f).mem = s.mem := rfl
@[simp] theorem State.modCore_keyOf (g : Nat) (f : Core → Core) : (s.modCore g f).keyOf = s.keyOf := rfl
@[simp] theorem State.modCore_poison (g : Nat) (f : Core → Core) : (s.modCore g f).poison = s.poison := rfl
@[simp] theorem State.modCore_updates (g : Nat) (f : Core → Core) : (s.modCore g f).updates = s.updates := rfl
@[simp] theorem State.modCore_marks (g : Nat) (f : Core → Core) : (s.modCore g f).marks = s.marks := rfl
@[simp] theorem State.modCore_seqs (g : Nat) (f : Core → Core) : (s.modCore g f).seqs = s.seqs := rfl
@[simp] theorem State.modCore_clusters (g : Nat) (f : Core → Core) : (s.modCore g f).clusters = s.clusters := rfl
@[simp] theorem State.modCore_dies (g : Nat) (f : Core → Core) : (s.modCore g f).dies = s.dies := rfl
@[simp] theorem State.modCore_ctxs (g : Nat) (f : Core → Core) : (s.modCore g f).ctxs = s.ctxs := rfl
@[simp] theorem State.modCore_rings (g : Nat) (f : Core → Core) : (s.modCore g f).rings = s.rings := rfl
@[simp] theorem State.modCore_funcs (g : Nat) (f : Core → Core) : (s.modCore g f).funcs = s.funcs := rfl
@[simp] theorem State.modCore_sys (g : Nat) (f : Core → Core) : (s.modCore g f).sys = s.sys := rfl
@[simp] theorem State.modCore_msgs (g : Nat) (f : Core → Core) : (s.modCore g f).msgs = s.msgs := rfl
@[simp] theorem State.modCore_hist (g : Nat) (f : Core → Core) : (s.modCore g f).hist = s.hist := rfl
@[simp] theorem State.modCore_issue (g : Nat) (f : Core → Core) : (s.modCore g f).issue = s.issue := rfl
@[simp] theorem State.modCore_schedule (g : Nat) (f : Core → Core) : (s.modCore g f).schedule = s.schedule := rfl
@[simp] theorem State.modCore_turn (g : Nat) (f : Core → Core) : (s.modCore g f).turn = s.turn := rfl
@[simp] theorem State.modCore_free (g : Nat) (f : Core → Core) : (s.modCore g f).free = s.free := rfl
@[simp] theorem State.modCore_nextId (g : Nat) (f : Core → Core) : (s.modCore g f).nextId = s.nextId := rfl
@[simp] theorem State.modCore_args (g : Nat) (f : Core → Core) : (s.modCore g f).args = s.args := rfl
@[simp] theorem State.modCore_outbox (g : Nat) (f : Core → Core) : (s.modCore g f).outbox = s.outbox := rfl

/-! ### `State.setSeq` -/

@[simp] theorem State.setSeq_mem (n : Nat) (q : Seq) : (s.setSeq n q).mem = s.mem := rfl
@[simp] theorem State.setSeq_keyOf (n : Nat) (q : Seq) : (s.setSeq n q).keyOf = s.keyOf := rfl
@[simp] theorem State.setSeq_poison (n : Nat) (q : Seq) : (s.setSeq n q).poison = s.poison := rfl
@[simp] theorem State.setSeq_updates (n : Nat) (q : Seq) : (s.setSeq n q).updates = s.updates := rfl
@[simp] theorem State.setSeq_marks (n : Nat) (q : Seq) : (s.setSeq n q).marks = s.marks := rfl
@[simp] theorem State.setSeq_cores (n : Nat) (q : Seq) : (s.setSeq n q).cores = s.cores := rfl
@[simp] theorem State.setSeq_clusters (n : Nat) (q : Seq) : (s.setSeq n q).clusters = s.clusters := rfl
@[simp] theorem State.setSeq_dies (n : Nat) (q : Seq) : (s.setSeq n q).dies = s.dies := rfl
@[simp] theorem State.setSeq_ctxs (n : Nat) (q : Seq) : (s.setSeq n q).ctxs = s.ctxs := rfl
@[simp] theorem State.setSeq_rings (n : Nat) (q : Seq) : (s.setSeq n q).rings = s.rings := rfl
@[simp] theorem State.setSeq_funcs (n : Nat) (q : Seq) : (s.setSeq n q).funcs = s.funcs := rfl
@[simp] theorem State.setSeq_sys (n : Nat) (q : Seq) : (s.setSeq n q).sys = s.sys := rfl
@[simp] theorem State.setSeq_msgs (n : Nat) (q : Seq) : (s.setSeq n q).msgs = s.msgs := rfl
@[simp] theorem State.setSeq_hist (n : Nat) (q : Seq) : (s.setSeq n q).hist = s.hist := rfl
@[simp] theorem State.setSeq_issue (n : Nat) (q : Seq) : (s.setSeq n q).issue = s.issue := rfl
@[simp] theorem State.setSeq_schedule (n : Nat) (q : Seq) : (s.setSeq n q).schedule = s.schedule := rfl
@[simp] theorem State.setSeq_turn (n : Nat) (q : Seq) : (s.setSeq n q).turn = s.turn := rfl
@[simp] theorem State.setSeq_free (n : Nat) (q : Seq) : (s.setSeq n q).free = s.free := rfl
@[simp] theorem State.setSeq_nextId (n : Nat) (q : Seq) : (s.setSeq n q).nextId = s.nextId := rfl
@[simp] theorem State.setSeq_args (n : Nat) (q : Seq) : (s.setSeq n q).args = s.args := rfl
@[simp] theorem State.setSeq_outbox (n : Nat) (q : Seq) : (s.setSeq n q).outbox = s.outbox := rfl

/-! ### `State.modSeq` -/

@[simp] theorem State.modSeq_mem (n : Nat) (f : Seq → Seq) : (s.modSeq n f).mem = s.mem := rfl
@[simp] theorem State.modSeq_keyOf (n : Nat) (f : Seq → Seq) : (s.modSeq n f).keyOf = s.keyOf := rfl
@[simp] theorem State.modSeq_poison (n : Nat) (f : Seq → Seq) : (s.modSeq n f).poison = s.poison := rfl
@[simp] theorem State.modSeq_updates (n : Nat) (f : Seq → Seq) : (s.modSeq n f).updates = s.updates := rfl
@[simp] theorem State.modSeq_marks (n : Nat) (f : Seq → Seq) : (s.modSeq n f).marks = s.marks := rfl
@[simp] theorem State.modSeq_cores (n : Nat) (f : Seq → Seq) : (s.modSeq n f).cores = s.cores := rfl
@[simp] theorem State.modSeq_clusters (n : Nat) (f : Seq → Seq) : (s.modSeq n f).clusters = s.clusters := rfl
@[simp] theorem State.modSeq_dies (n : Nat) (f : Seq → Seq) : (s.modSeq n f).dies = s.dies := rfl
@[simp] theorem State.modSeq_ctxs (n : Nat) (f : Seq → Seq) : (s.modSeq n f).ctxs = s.ctxs := rfl
@[simp] theorem State.modSeq_rings (n : Nat) (f : Seq → Seq) : (s.modSeq n f).rings = s.rings := rfl
@[simp] theorem State.modSeq_funcs (n : Nat) (f : Seq → Seq) : (s.modSeq n f).funcs = s.funcs := rfl
@[simp] theorem State.modSeq_sys (n : Nat) (f : Seq → Seq) : (s.modSeq n f).sys = s.sys := rfl
@[simp] theorem State.modSeq_msgs (n : Nat) (f : Seq → Seq) : (s.modSeq n f).msgs = s.msgs := rfl
@[simp] theorem State.modSeq_hist (n : Nat) (f : Seq → Seq) : (s.modSeq n f).hist = s.hist := rfl
@[simp] theorem State.modSeq_issue (n : Nat) (f : Seq → Seq) : (s.modSeq n f).issue = s.issue := rfl
@[simp] theorem State.modSeq_schedule (n : Nat) (f : Seq → Seq) : (s.modSeq n f).schedule = s.schedule := rfl
@[simp] theorem State.modSeq_turn (n : Nat) (f : Seq → Seq) : (s.modSeq n f).turn = s.turn := rfl
@[simp] theorem State.modSeq_free (n : Nat) (f : Seq → Seq) : (s.modSeq n f).free = s.free := rfl
@[simp] theorem State.modSeq_nextId (n : Nat) (f : Seq → Seq) : (s.modSeq n f).nextId = s.nextId := rfl
@[simp] theorem State.modSeq_args (n : Nat) (f : Seq → Seq) : (s.modSeq n f).args = s.args := rfl
@[simp] theorem State.modSeq_outbox (n : Nat) (f : Seq → Seq) : (s.modSeq n f).outbox = s.outbox := rfl

/-! ### `State.modCluster` -/

@[simp] theorem State.modCluster_mem (k : Nat) (f : Cluster → Cluster) : (s.modCluster k f).mem = s.mem := rfl
@[simp] theorem State.modCluster_keyOf (k : Nat) (f : Cluster → Cluster) : (s.modCluster k f).keyOf = s.keyOf := rfl
@[simp] theorem State.modCluster_poison (k : Nat) (f : Cluster → Cluster) : (s.modCluster k f).poison = s.poison := rfl
@[simp] theorem State.modCluster_updates (k : Nat) (f : Cluster → Cluster) : (s.modCluster k f).updates = s.updates := rfl
@[simp] theorem State.modCluster_marks (k : Nat) (f : Cluster → Cluster) : (s.modCluster k f).marks = s.marks := rfl
@[simp] theorem State.modCluster_cores (k : Nat) (f : Cluster → Cluster) : (s.modCluster k f).cores = s.cores := rfl
@[simp] theorem State.modCluster_seqs (k : Nat) (f : Cluster → Cluster) : (s.modCluster k f).seqs = s.seqs := rfl
@[simp] theorem State.modCluster_dies (k : Nat) (f : Cluster → Cluster) : (s.modCluster k f).dies = s.dies := rfl
@[simp] theorem State.modCluster_ctxs (k : Nat) (f : Cluster → Cluster) : (s.modCluster k f).ctxs = s.ctxs := rfl
@[simp] theorem State.modCluster_rings (k : Nat) (f : Cluster → Cluster) : (s.modCluster k f).rings = s.rings := rfl
@[simp] theorem State.modCluster_funcs (k : Nat) (f : Cluster → Cluster) : (s.modCluster k f).funcs = s.funcs := rfl
@[simp] theorem State.modCluster_sys (k : Nat) (f : Cluster → Cluster) : (s.modCluster k f).sys = s.sys := rfl
@[simp] theorem State.modCluster_msgs (k : Nat) (f : Cluster → Cluster) : (s.modCluster k f).msgs = s.msgs := rfl
@[simp] theorem State.modCluster_hist (k : Nat) (f : Cluster → Cluster) : (s.modCluster k f).hist = s.hist := rfl
@[simp] theorem State.modCluster_issue (k : Nat) (f : Cluster → Cluster) : (s.modCluster k f).issue = s.issue := rfl
@[simp] theorem State.modCluster_schedule (k : Nat) (f : Cluster → Cluster) : (s.modCluster k f).schedule = s.schedule := rfl
@[simp] theorem State.modCluster_turn (k : Nat) (f : Cluster → Cluster) : (s.modCluster k f).turn = s.turn := rfl
@[simp] theorem State.modCluster_free (k : Nat) (f : Cluster → Cluster) : (s.modCluster k f).free = s.free := rfl
@[simp] theorem State.modCluster_nextId (k : Nat) (f : Cluster → Cluster) : (s.modCluster k f).nextId = s.nextId := rfl
@[simp] theorem State.modCluster_args (k : Nat) (f : Cluster → Cluster) : (s.modCluster k f).args = s.args := rfl
@[simp] theorem State.modCluster_outbox (k : Nat) (f : Cluster → Cluster) : (s.modCluster k f).outbox = s.outbox := rfl

/-! ### `State.modDie` -/

@[simp] theorem State.modDie_mem (d : Nat) (f : Die → Die) : (s.modDie d f).mem = s.mem := rfl
@[simp] theorem State.modDie_keyOf (d : Nat) (f : Die → Die) : (s.modDie d f).keyOf = s.keyOf := rfl
@[simp] theorem State.modDie_poison (d : Nat) (f : Die → Die) : (s.modDie d f).poison = s.poison := rfl
@[simp] theorem State.modDie_updates (d : Nat) (f : Die → Die) : (s.modDie d f).updates = s.updates := rfl
@[simp] theorem State.modDie_marks (d : Nat) (f : Die → Die) : (s.modDie d f).marks = s.marks := rfl
@[simp] theorem State.modDie_cores (d : Nat) (f : Die → Die) : (s.modDie d f).cores = s.cores := rfl
@[simp] theorem State.modDie_seqs (d : Nat) (f : Die → Die) : (s.modDie d f).seqs = s.seqs := rfl
@[simp] theorem State.modDie_clusters (d : Nat) (f : Die → Die) : (s.modDie d f).clusters = s.clusters := rfl
@[simp] theorem State.modDie_ctxs (d : Nat) (f : Die → Die) : (s.modDie d f).ctxs = s.ctxs := rfl
@[simp] theorem State.modDie_rings (d : Nat) (f : Die → Die) : (s.modDie d f).rings = s.rings := rfl
@[simp] theorem State.modDie_funcs (d : Nat) (f : Die → Die) : (s.modDie d f).funcs = s.funcs := rfl
@[simp] theorem State.modDie_sys (d : Nat) (f : Die → Die) : (s.modDie d f).sys = s.sys := rfl
@[simp] theorem State.modDie_msgs (d : Nat) (f : Die → Die) : (s.modDie d f).msgs = s.msgs := rfl
@[simp] theorem State.modDie_hist (d : Nat) (f : Die → Die) : (s.modDie d f).hist = s.hist := rfl
@[simp] theorem State.modDie_issue (d : Nat) (f : Die → Die) : (s.modDie d f).issue = s.issue := rfl
@[simp] theorem State.modDie_schedule (d : Nat) (f : Die → Die) : (s.modDie d f).schedule = s.schedule := rfl
@[simp] theorem State.modDie_turn (d : Nat) (f : Die → Die) : (s.modDie d f).turn = s.turn := rfl
@[simp] theorem State.modDie_free (d : Nat) (f : Die → Die) : (s.modDie d f).free = s.free := rfl
@[simp] theorem State.modDie_nextId (d : Nat) (f : Die → Die) : (s.modDie d f).nextId = s.nextId := rfl
@[simp] theorem State.modDie_args (d : Nat) (f : Die → Die) : (s.modDie d f).args = s.args := rfl
@[simp] theorem State.modDie_outbox (d : Nat) (f : Die → Die) : (s.modDie d f).outbox = s.outbox := rfl

/-! ### `State.modCtx` -/

@[simp] theorem State.modCtx_mem (c : Nat) (f : Ctx → Ctx) : (s.modCtx c f).mem = s.mem := rfl
@[simp] theorem State.modCtx_keyOf (c : Nat) (f : Ctx → Ctx) : (s.modCtx c f).keyOf = s.keyOf := rfl
@[simp] theorem State.modCtx_poison (c : Nat) (f : Ctx → Ctx) : (s.modCtx c f).poison = s.poison := rfl
@[simp] theorem State.modCtx_updates (c : Nat) (f : Ctx → Ctx) : (s.modCtx c f).updates = s.updates := rfl
@[simp] theorem State.modCtx_marks (c : Nat) (f : Ctx → Ctx) : (s.modCtx c f).marks = s.marks := rfl
@[simp] theorem State.modCtx_cores (c : Nat) (f : Ctx → Ctx) : (s.modCtx c f).cores = s.cores := rfl
@[simp] theorem State.modCtx_seqs (c : Nat) (f : Ctx → Ctx) : (s.modCtx c f).seqs = s.seqs := rfl
@[simp] theorem State.modCtx_clusters (c : Nat) (f : Ctx → Ctx) : (s.modCtx c f).clusters = s.clusters := rfl
@[simp] theorem State.modCtx_dies (c : Nat) (f : Ctx → Ctx) : (s.modCtx c f).dies = s.dies := rfl
@[simp] theorem State.modCtx_rings (c : Nat) (f : Ctx → Ctx) : (s.modCtx c f).rings = s.rings := rfl
@[simp] theorem State.modCtx_funcs (c : Nat) (f : Ctx → Ctx) : (s.modCtx c f).funcs = s.funcs := rfl
@[simp] theorem State.modCtx_sys (c : Nat) (f : Ctx → Ctx) : (s.modCtx c f).sys = s.sys := rfl
@[simp] theorem State.modCtx_msgs (c : Nat) (f : Ctx → Ctx) : (s.modCtx c f).msgs = s.msgs := rfl
@[simp] theorem State.modCtx_hist (c : Nat) (f : Ctx → Ctx) : (s.modCtx c f).hist = s.hist := rfl
@[simp] theorem State.modCtx_issue (c : Nat) (f : Ctx → Ctx) : (s.modCtx c f).issue = s.issue := rfl
@[simp] theorem State.modCtx_schedule (c : Nat) (f : Ctx → Ctx) : (s.modCtx c f).schedule = s.schedule := rfl
@[simp] theorem State.modCtx_turn (c : Nat) (f : Ctx → Ctx) : (s.modCtx c f).turn = s.turn := rfl
@[simp] theorem State.modCtx_free (c : Nat) (f : Ctx → Ctx) : (s.modCtx c f).free = s.free := rfl
@[simp] theorem State.modCtx_nextId (c : Nat) (f : Ctx → Ctx) : (s.modCtx c f).nextId = s.nextId := rfl
@[simp] theorem State.modCtx_args (c : Nat) (f : Ctx → Ctx) : (s.modCtx c f).args = s.args := rfl
@[simp] theorem State.modCtx_outbox (c : Nat) (f : Ctx → Ctx) : (s.modCtx c f).outbox = s.outbox := rfl

/-! ### `State.modFunc` -/

@[simp] theorem State.modFunc_mem (k : Nat) (f : Func → Func) : (s.modFunc k f).mem = s.mem := rfl
@[simp] theorem State.modFunc_keyOf (k : Nat) (f : Func → Func) : (s.modFunc k f).keyOf = s.keyOf := rfl
@[simp] theorem State.modFunc_poison (k : Nat) (f : Func → Func) : (s.modFunc k f).poison = s.poison := rfl
@[simp] theorem State.modFunc_updates (k : Nat) (f : Func → Func) : (s.modFunc k f).updates = s.updates := rfl
@[simp] theorem State.modFunc_marks (k : Nat) (f : Func → Func) : (s.modFunc k f).marks = s.marks := rfl
@[simp] theorem State.modFunc_cores (k : Nat) (f : Func → Func) : (s.modFunc k f).cores = s.cores := rfl
@[simp] theorem State.modFunc_seqs (k : Nat) (f : Func → Func) : (s.modFunc k f).seqs = s.seqs := rfl
@[simp] theorem State.modFunc_clusters (k : Nat) (f : Func → Func) : (s.modFunc k f).clusters = s.clusters := rfl
@[simp] theorem State.modFunc_dies (k : Nat) (f : Func → Func) : (s.modFunc k f).dies = s.dies := rfl
@[simp] theorem State.modFunc_ctxs (k : Nat) (f : Func → Func) : (s.modFunc k f).ctxs = s.ctxs := rfl
@[simp] theorem State.modFunc_rings (k : Nat) (f : Func → Func) : (s.modFunc k f).rings = s.rings := rfl
@[simp] theorem State.modFunc_sys (k : Nat) (f : Func → Func) : (s.modFunc k f).sys = s.sys := rfl
@[simp] theorem State.modFunc_msgs (k : Nat) (f : Func → Func) : (s.modFunc k f).msgs = s.msgs := rfl
@[simp] theorem State.modFunc_hist (k : Nat) (f : Func → Func) : (s.modFunc k f).hist = s.hist := rfl
@[simp] theorem State.modFunc_issue (k : Nat) (f : Func → Func) : (s.modFunc k f).issue = s.issue := rfl
@[simp] theorem State.modFunc_schedule (k : Nat) (f : Func → Func) : (s.modFunc k f).schedule = s.schedule := rfl
@[simp] theorem State.modFunc_turn (k : Nat) (f : Func → Func) : (s.modFunc k f).turn = s.turn := rfl
@[simp] theorem State.modFunc_free (k : Nat) (f : Func → Func) : (s.modFunc k f).free = s.free := rfl
@[simp] theorem State.modFunc_nextId (k : Nat) (f : Func → Func) : (s.modFunc k f).nextId = s.nextId := rfl
@[simp] theorem State.modFunc_args (k : Nat) (f : Func → Func) : (s.modFunc k f).args = s.args := rfl
@[simp] theorem State.modFunc_outbox (k : Nat) (f : Func → Func) : (s.modFunc k f).outbox = s.outbox := rfl

/-! ### `State.modRing` -/

@[simp] theorem State.modRing_mem (k r : Nat) (f : Ring → Ring) : (s.modRing k r f).mem = s.mem := rfl
@[simp] theorem State.modRing_keyOf (k r : Nat) (f : Ring → Ring) : (s.modRing k r f).keyOf = s.keyOf := rfl
@[simp] theorem State.modRing_poison (k r : Nat) (f : Ring → Ring) : (s.modRing k r f).poison = s.poison := rfl
@[simp] theorem State.modRing_updates (k r : Nat) (f : Ring → Ring) : (s.modRing k r f).updates = s.updates := rfl
@[simp] theorem State.modRing_marks (k r : Nat) (f : Ring → Ring) : (s.modRing k r f).marks = s.marks := rfl
@[simp] theorem State.modRing_cores (k r : Nat) (f : Ring → Ring) : (s.modRing k r f).cores = s.cores := rfl
@[simp] theorem State.modRing_seqs (k r : Nat) (f : Ring → Ring) : (s.modRing k r f).seqs = s.seqs := rfl
@[simp] theorem State.modRing_clusters (k r : Nat) (f : Ring → Ring) : (s.modRing k r f).clusters = s.clusters := rfl
@[simp] theorem State.modRing_dies (k r : Nat) (f : Ring → Ring) : (s.modRing k r f).dies = s.dies := rfl
@[simp] theorem State.modRing_ctxs (k r : Nat) (f : Ring → Ring) : (s.modRing k r f).ctxs = s.ctxs := rfl
@[simp] theorem State.modRing_funcs (k r : Nat) (f : Ring → Ring) : (s.modRing k r f).funcs = s.funcs := rfl
@[simp] theorem State.modRing_sys (k r : Nat) (f : Ring → Ring) : (s.modRing k r f).sys = s.sys := rfl
@[simp] theorem State.modRing_msgs (k r : Nat) (f : Ring → Ring) : (s.modRing k r f).msgs = s.msgs := rfl
@[simp] theorem State.modRing_hist (k r : Nat) (f : Ring → Ring) : (s.modRing k r f).hist = s.hist := rfl
@[simp] theorem State.modRing_issue (k r : Nat) (f : Ring → Ring) : (s.modRing k r f).issue = s.issue := rfl
@[simp] theorem State.modRing_schedule (k r : Nat) (f : Ring → Ring) : (s.modRing k r f).schedule = s.schedule := rfl
@[simp] theorem State.modRing_turn (k r : Nat) (f : Ring → Ring) : (s.modRing k r f).turn = s.turn := rfl
@[simp] theorem State.modRing_free (k r : Nat) (f : Ring → Ring) : (s.modRing k r f).free = s.free := rfl
@[simp] theorem State.modRing_nextId (k r : Nat) (f : Ring → Ring) : (s.modRing k r f).nextId = s.nextId := rfl
@[simp] theorem State.modRing_args (k r : Nat) (f : Ring → Ring) : (s.modRing k r f).args = s.args := rfl
@[simp] theorem State.modRing_outbox (k r : Nat) (f : Ring → Ring) : (s.modRing k r f).outbox = s.outbox := rfl

/-! ### `State.modSys` -/

@[simp] theorem State.modSys_mem (f : Sys → Sys) : (s.modSys f).mem = s.mem := rfl
@[simp] theorem State.modSys_keyOf (f : Sys → Sys) : (s.modSys f).keyOf = s.keyOf := rfl
@[simp] theorem State.modSys_poison (f : Sys → Sys) : (s.modSys f).poison = s.poison := rfl
@[simp] theorem State.modSys_updates (f : Sys → Sys) : (s.modSys f).updates = s.updates := rfl
@[simp] theorem State.modSys_marks (f : Sys → Sys) : (s.modSys f).marks = s.marks := rfl
@[simp] theorem State.modSys_cores (f : Sys → Sys) : (s.modSys f).cores = s.cores := rfl
@[simp] theorem State.modSys_seqs (f : Sys → Sys) : (s.modSys f).seqs = s.seqs := rfl
@[simp] theorem State.modSys_clusters (f : Sys → Sys) : (s.modSys f).clusters = s.clusters := rfl
@[simp] theorem State.modSys_dies (f : Sys → Sys) : (s.modSys f).dies = s.dies := rfl
@[simp] theorem State.modSys_ctxs (f : Sys → Sys) : (s.modSys f).ctxs = s.ctxs := rfl
@[simp] theorem State.modSys_rings (f : Sys → Sys) : (s.modSys f).rings = s.rings := rfl
@[simp] theorem State.modSys_funcs (f : Sys → Sys) : (s.modSys f).funcs = s.funcs := rfl
@[simp] theorem State.modSys_msgs (f : Sys → Sys) : (s.modSys f).msgs = s.msgs := rfl
@[simp] theorem State.modSys_hist (f : Sys → Sys) : (s.modSys f).hist = s.hist := rfl
@[simp] theorem State.modSys_issue (f : Sys → Sys) : (s.modSys f).issue = s.issue := rfl
@[simp] theorem State.modSys_schedule (f : Sys → Sys) : (s.modSys f).schedule = s.schedule := rfl
@[simp] theorem State.modSys_turn (f : Sys → Sys) : (s.modSys f).turn = s.turn := rfl
@[simp] theorem State.modSys_free (f : Sys → Sys) : (s.modSys f).free = s.free := rfl
@[simp] theorem State.modSys_nextId (f : Sys → Sys) : (s.modSys f).nextId = s.nextId := rfl
@[simp] theorem State.modSys_args (f : Sys → Sys) : (s.modSys f).args = s.args := rfl
@[simp] theorem State.modSys_outbox (f : Sys → Sys) : (s.modSys f).outbox = s.outbox := rfl

/-! ### `State.out` -/

@[simp] theorem State.out_mem (o : Output) : (s.out o).mem = s.mem := rfl
@[simp] theorem State.out_keyOf (o : Output) : (s.out o).keyOf = s.keyOf := rfl
@[simp] theorem State.out_poison (o : Output) : (s.out o).poison = s.poison := rfl
@[simp] theorem State.out_updates (o : Output) : (s.out o).updates = s.updates := rfl
@[simp] theorem State.out_marks (o : Output) : (s.out o).marks = s.marks := rfl
@[simp] theorem State.out_cores (o : Output) : (s.out o).cores = s.cores := rfl
@[simp] theorem State.out_seqs (o : Output) : (s.out o).seqs = s.seqs := rfl
@[simp] theorem State.out_clusters (o : Output) : (s.out o).clusters = s.clusters := rfl
@[simp] theorem State.out_dies (o : Output) : (s.out o).dies = s.dies := rfl
@[simp] theorem State.out_ctxs (o : Output) : (s.out o).ctxs = s.ctxs := rfl
@[simp] theorem State.out_rings (o : Output) : (s.out o).rings = s.rings := rfl
@[simp] theorem State.out_funcs (o : Output) : (s.out o).funcs = s.funcs := rfl
@[simp] theorem State.out_sys (o : Output) : (s.out o).sys = s.sys := rfl
@[simp] theorem State.out_msgs (o : Output) : (s.out o).msgs = s.msgs := rfl
@[simp] theorem State.out_hist (o : Output) : (s.out o).hist = s.hist := rfl
@[simp] theorem State.out_issue (o : Output) : (s.out o).issue = s.issue := rfl
@[simp] theorem State.out_schedule (o : Output) : (s.out o).schedule = s.schedule := rfl
@[simp] theorem State.out_turn (o : Output) : (s.out o).turn = s.turn := rfl
@[simp] theorem State.out_free (o : Output) : (s.out o).free = s.free := rfl
@[simp] theorem State.out_nextId (o : Output) : (s.out o).nextId = s.nextId := rfl
@[simp] theorem State.out_args (o : Output) : (s.out o).args = s.args := rfl

/-! ### `State.bump` -/

@[simp] theorem State.bump_mem : (s.bump).mem = s.mem := rfl
@[simp] theorem State.bump_keyOf : (s.bump).keyOf = s.keyOf := rfl
@[simp] theorem State.bump_poison : (s.bump).poison = s.poison := rfl
@[simp] theorem State.bump_updates : (s.bump).updates = s.updates := rfl
@[simp] theorem State.bump_marks : (s.bump).marks = s.marks := rfl
@[simp] theorem State.bump_cores : (s.bump).cores = s.cores := rfl
@[simp] theorem State.bump_seqs : (s.bump).seqs = s.seqs := rfl
@[simp] theorem State.bump_clusters : (s.bump).clusters = s.clusters := rfl
@[simp] theorem State.bump_dies : (s.bump).dies = s.dies := rfl
@[simp] theorem State.bump_ctxs : (s.bump).ctxs = s.ctxs := rfl
@[simp] theorem State.bump_rings : (s.bump).rings = s.rings := rfl
@[simp] theorem State.bump_funcs : (s.bump).funcs = s.funcs := rfl
@[simp] theorem State.bump_sys : (s.bump).sys = s.sys := rfl
@[simp] theorem State.bump_msgs : (s.bump).msgs = s.msgs := rfl
@[simp] theorem State.bump_hist : (s.bump).hist = s.hist := rfl
@[simp] theorem State.bump_issue : (s.bump).issue = s.issue := rfl
@[simp] theorem State.bump_schedule : (s.bump).schedule = s.schedule := rfl
@[simp] theorem State.bump_turn : (s.bump).turn = s.turn := rfl
@[simp] theorem State.bump_free : (s.bump).free = s.free := rfl
@[simp] theorem State.bump_args : (s.bump).args = s.args := rfl
@[simp] theorem State.bump_outbox : (s.bump).outbox = s.outbox := rfl

/-! ### `State.modIssue` -/

@[simp] theorem State.modIssue_mem (f : Issue → Issue) : (s.modIssue f).mem = s.mem := rfl
@[simp] theorem State.modIssue_keyOf (f : Issue → Issue) : (s.modIssue f).keyOf = s.keyOf := rfl
@[simp] theorem State.modIssue_poison (f : Issue → Issue) : (s.modIssue f).poison = s.poison := rfl
@[simp] theorem State.modIssue_updates (f : Issue → Issue) : (s.modIssue f).updates = s.updates := rfl
@[simp] theorem State.modIssue_marks (f : Issue → Issue) : (s.modIssue f).marks = s.marks := rfl
@[simp] theorem State.modIssue_cores (f : Issue → Issue) : (s.modIssue f).cores = s.cores := rfl
@[simp] theorem State.modIssue_seqs (f : Issue → Issue) : (s.modIssue f).seqs = s.seqs := rfl
@[simp] theorem State.modIssue_clusters (f : Issue → Issue) : (s.modIssue f).clusters = s.clusters := rfl
@[simp] theorem State.modIssue_dies (f : Issue → Issue) : (s.modIssue f).dies = s.dies := rfl
@[simp] theorem State.modIssue_ctxs (f : Issue → Issue) : (s.modIssue f).ctxs = s.ctxs := rfl
@[simp] theorem State.modIssue_rings (f : Issue → Issue) : (s.modIssue f).rings = s.rings := rfl
@[simp] theorem State.modIssue_funcs (f : Issue → Issue) : (s.modIssue f).funcs = s.funcs := rfl
@[simp] theorem State.modIssue_sys (f : Issue → Issue) : (s.modIssue f).sys = s.sys := rfl
@[simp] theorem State.modIssue_msgs (f : Issue → Issue) : (s.modIssue f).msgs = s.msgs := rfl
@[simp] theorem State.modIssue_hist (f : Issue → Issue) : (s.modIssue f).hist = s.hist := rfl
@[simp] theorem State.modIssue_schedule (f : Issue → Issue) : (s.modIssue f).schedule = s.schedule := rfl
@[simp] theorem State.modIssue_turn (f : Issue → Issue) : (s.modIssue f).turn = s.turn := rfl
@[simp] theorem State.modIssue_free (f : Issue → Issue) : (s.modIssue f).free = s.free := rfl
@[simp] theorem State.modIssue_nextId (f : Issue → Issue) : (s.modIssue f).nextId = s.nextId := rfl
@[simp] theorem State.modIssue_args (f : Issue → Issue) : (s.modIssue f).args = s.args := rfl
@[simp] theorem State.modIssue_outbox (f : Issue → Issue) : (s.modIssue f).outbox = s.outbox := rfl

/-! ### What the update reads back as -/

@[simp] theorem State.seq_modSeq_same (n : Nat) (f : Seq → Seq) : (s.modSeq n f).seq n = f (s.seq n) := tab_getD_put_same _ _ _ _
theorem State.seq_modSeq_other (n : Nat) (f : Seq → Seq) (j : Nat) (h : j ≠ n) : (s.modSeq n f).seq j = s.seq j := tab_getD_put_other _ _ _ _ _ h
@[simp] theorem State.core_modSeq (n : Nat) (f : Seq → Seq) (j : Nat) : (s.modSeq n f).core j = s.core j := rfl
@[simp] theorem State.cluster_modSeq (n : Nat) (f : Seq → Seq) (j : Nat) : (s.modSeq n f).cluster j = s.cluster j := rfl
@[simp] theorem State.die_modSeq (n : Nat) (f : Seq → Seq) (j : Nat) : (s.modSeq n f).die j = s.die j := rfl
@[simp] theorem State.ctx_modSeq (n : Nat) (f : Seq → Seq) (j : Nat) : (s.modSeq n f).ctx j = s.ctx j := rfl
@[simp] theorem State.func_modSeq (n : Nat) (f : Seq → Seq) (j : Nat) : (s.modSeq n f).func j = s.func j := rfl
@[simp] theorem State.core_modCore_same (g : Nat) (f : Core → Core) : (s.modCore g f).core g = f (s.core g) := tab_getD_put_same _ _ _ _
theorem State.core_modCore_other (g : Nat) (f : Core → Core) (j : Nat) (h : j ≠ g) : (s.modCore g f).core j = s.core j := tab_getD_put_other _ _ _ _ _ h
@[simp] theorem State.seq_modCore (g : Nat) (f : Core → Core) (j : Nat) : (s.modCore g f).seq j = s.seq j := rfl
@[simp] theorem State.cluster_modCore (g : Nat) (f : Core → Core) (j : Nat) : (s.modCore g f).cluster j = s.cluster j := rfl
@[simp] theorem State.die_modCore (g : Nat) (f : Core → Core) (j : Nat) : (s.modCore g f).die j = s.die j := rfl
@[simp] theorem State.ctx_modCore (g : Nat) (f : Core → Core) (j : Nat) : (s.modCore g f).ctx j = s.ctx j := rfl
@[simp] theorem State.func_modCore (g : Nat) (f : Core → Core) (j : Nat) : (s.modCore g f).func j = s.func j := rfl
@[simp] theorem State.cluster_modCluster_same (k : Nat) (f : Cluster → Cluster) : (s.modCluster k f).cluster k = f (s.cluster k) := tab_getD_put_same _ _ _ _
theorem State.cluster_modCluster_other (k : Nat) (f : Cluster → Cluster) (j : Nat) (h : j ≠ k) : (s.modCluster k f).cluster j = s.cluster j := tab_getD_put_other _ _ _ _ _ h
@[simp] theorem State.seq_modCluster (k : Nat) (f : Cluster → Cluster) (j : Nat) : (s.modCluster k f).seq j = s.seq j := rfl
@[simp] theorem State.core_modCluster (k : Nat) (f : Cluster → Cluster) (j : Nat) : (s.modCluster k f).core j = s.core j := rfl
@[simp] theorem State.die_modCluster (k : Nat) (f : Cluster → Cluster) (j : Nat) : (s.modCluster k f).die j = s.die j := rfl
@[simp] theorem State.ctx_modCluster (k : Nat) (f : Cluster → Cluster) (j : Nat) : (s.modCluster k f).ctx j = s.ctx j := rfl
@[simp] theorem State.func_modCluster (k : Nat) (f : Cluster → Cluster) (j : Nat) : (s.modCluster k f).func j = s.func j := rfl
@[simp] theorem State.die_modDie_same (d : Nat) (f : Die → Die) : (s.modDie d f).die d = f (s.die d) := tab_getD_put_same _ _ _ _
theorem State.die_modDie_other (d : Nat) (f : Die → Die) (j : Nat) (h : j ≠ d) : (s.modDie d f).die j = s.die j := tab_getD_put_other _ _ _ _ _ h
@[simp] theorem State.seq_modDie (d : Nat) (f : Die → Die) (j : Nat) : (s.modDie d f).seq j = s.seq j := rfl
@[simp] theorem State.core_modDie (d : Nat) (f : Die → Die) (j : Nat) : (s.modDie d f).core j = s.core j := rfl
@[simp] theorem State.cluster_modDie (d : Nat) (f : Die → Die) (j : Nat) : (s.modDie d f).cluster j = s.cluster j := rfl
@[simp] theorem State.ctx_modDie (d : Nat) (f : Die → Die) (j : Nat) : (s.modDie d f).ctx j = s.ctx j := rfl
@[simp] theorem State.func_modDie (d : Nat) (f : Die → Die) (j : Nat) : (s.modDie d f).func j = s.func j := rfl
@[simp] theorem State.ctx_modCtx_same (c : Nat) (f : Ctx → Ctx) : (s.modCtx c f).ctx c = f (s.ctx c) := tab_getD_put_same _ _ _ _
theorem State.ctx_modCtx_other (c : Nat) (f : Ctx → Ctx) (j : Nat) (h : j ≠ c) : (s.modCtx c f).ctx j = s.ctx j := tab_getD_put_other _ _ _ _ _ h
@[simp] theorem State.seq_modCtx (c : Nat) (f : Ctx → Ctx) (j : Nat) : (s.modCtx c f).seq j = s.seq j := rfl
@[simp] theorem State.core_modCtx (c : Nat) (f : Ctx → Ctx) (j : Nat) : (s.modCtx c f).core j = s.core j := rfl
@[simp] theorem State.cluster_modCtx (c : Nat) (f : Ctx → Ctx) (j : Nat) : (s.modCtx c f).cluster j = s.cluster j := rfl
@[simp] theorem State.die_modCtx (c : Nat) (f : Ctx → Ctx) (j : Nat) : (s.modCtx c f).die j = s.die j := rfl
@[simp] theorem State.func_modCtx (c : Nat) (f : Ctx → Ctx) (j : Nat) : (s.modCtx c f).func j = s.func j := rfl
@[simp] theorem State.func_modFunc_same (k : Nat) (f : Func → Func) : (s.modFunc k f).func k = f (s.func k) := tab_getD_put_same _ _ _ _
theorem State.func_modFunc_other (k : Nat) (f : Func → Func) (j : Nat) (h : j ≠ k) : (s.modFunc k f).func j = s.func j := tab_getD_put_other _ _ _ _ _ h
@[simp] theorem State.seq_modFunc (k : Nat) (f : Func → Func) (j : Nat) : (s.modFunc k f).seq j = s.seq j := rfl
@[simp] theorem State.core_modFunc (k : Nat) (f : Func → Func) (j : Nat) : (s.modFunc k f).core j = s.core j := rfl
@[simp] theorem State.cluster_modFunc (k : Nat) (f : Func → Func) (j : Nat) : (s.modFunc k f).cluster j = s.cluster j := rfl
@[simp] theorem State.die_modFunc (k : Nat) (f : Func → Func) (j : Nat) : (s.modFunc k f).die j = s.die j := rfl
@[simp] theorem State.ctx_modFunc (k : Nat) (f : Func → Func) (j : Nat) : (s.modFunc k f).ctx j = s.ctx j := rfl
@[simp] theorem State.seq_modSys (f : Sys → Sys) (j : Nat) : (s.modSys f).seq j = s.seq j := rfl
@[simp] theorem State.core_modSys (f : Sys → Sys) (j : Nat) : (s.modSys f).core j = s.core j := rfl
@[simp] theorem State.cluster_modSys (f : Sys → Sys) (j : Nat) : (s.modSys f).cluster j = s.cluster j := rfl
@[simp] theorem State.die_modSys (f : Sys → Sys) (j : Nat) : (s.modSys f).die j = s.die j := rfl
@[simp] theorem State.ctx_modSys (f : Sys → Sys) (j : Nat) : (s.modSys f).ctx j = s.ctx j := rfl
@[simp] theorem State.func_modSys (f : Sys → Sys) (j : Nat) : (s.modSys f).func j = s.func j := rfl
@[simp] theorem State.seq_out (o : Output) (j : Nat) : (s.out o).seq j = s.seq j := rfl
@[simp] theorem State.core_out (o : Output) (j : Nat) : (s.out o).core j = s.core j := rfl
@[simp] theorem State.cluster_out (o : Output) (j : Nat) : (s.out o).cluster j = s.cluster j := rfl
@[simp] theorem State.die_out (o : Output) (j : Nat) : (s.out o).die j = s.die j := rfl
@[simp] theorem State.ctx_out (o : Output) (j : Nat) : (s.out o).ctx j = s.ctx j := rfl
@[simp] theorem State.func_out (o : Output) (j : Nat) : (s.out o).func j = s.func j := rfl
@[simp] theorem State.seq_bump  (j : Nat) : (s.bump).seq j = s.seq j := rfl
@[simp] theorem State.core_bump  (j : Nat) : (s.bump).core j = s.core j := rfl
@[simp] theorem State.cluster_bump  (j : Nat) : (s.bump).cluster j = s.cluster j := rfl
@[simp] theorem State.die_bump  (j : Nat) : (s.bump).die j = s.die j := rfl
@[simp] theorem State.ctx_bump  (j : Nat) : (s.bump).ctx j = s.ctx j := rfl
@[simp] theorem State.func_bump  (j : Nat) : (s.bump).func j = s.func j := rfl
@[simp] theorem State.seq_modIssue (f : Issue → Issue) (j : Nat) : (s.modIssue f).seq j = s.seq j := rfl
@[simp] theorem State.core_modIssue (f : Issue → Issue) (j : Nat) : (s.modIssue f).core j = s.core j := rfl
@[simp] theorem State.cluster_modIssue (f : Issue → Issue) (j : Nat) : (s.modIssue f).cluster j = s.cluster j := rfl
@[simp] theorem State.die_modIssue (f : Issue → Issue) (j : Nat) : (s.modIssue f).die j = s.die j := rfl
@[simp] theorem State.ctx_modIssue (f : Issue → Issue) (j : Nat) : (s.modIssue f).ctx j = s.ctx j := rfl
@[simp] theorem State.func_modIssue (f : Issue → Issue) (j : Nat) : (s.modIssue f).func j = s.func j := rfl
@[simp] theorem State.seq_modRing (k r : Nat) (f : Ring → Ring) (j : Nat) : (s.modRing k r f).seq j = s.seq j := rfl
@[simp] theorem State.core_modRing (k r : Nat) (f : Ring → Ring) (j : Nat) : (s.modRing k r f).core j = s.core j := rfl
@[simp] theorem State.cluster_modRing (k r : Nat) (f : Ring → Ring) (j : Nat) : (s.modRing k r f).cluster j = s.cluster j := rfl
@[simp] theorem State.die_modRing (k r : Nat) (f : Ring → Ring) (j : Nat) : (s.modRing k r f).die j = s.die j := rfl
@[simp] theorem State.ctx_modRing (k r : Nat) (f : Ring → Ring) (j : Nat) : (s.modRing k r f).ctx j = s.ctx j := rfl
@[simp] theorem State.func_modRing (k r : Nat) (f : Ring → Ring) (j : Nat) : (s.modRing k r f).func j = s.func j := rfl
@[simp] theorem State.ring_modRing_same (k r : Nat) (f : Ring → Ring) : (s.modRing k r f).ring k r = f (s.ring k r) := tab_getD_put_same _ _ _ _

end Sys2Proof.Machine
end

