-- ==== Sys2Proof/Laws/Ops.lean ====
section
/-! SUPPORT. What each shared operation can do, said once. -/
set_option linter.unusedVariables false
namespace Sys2Proof.Machine
open Sys2Proof

/-! ### A slot: its effect, or what it raises (spec/02 R442) -/

theorem firstSome_pass (l : List (Option Trap)) (h : AllPass l) : firstSome l = none := by
  induction l with
  | nil => rfl
  | cons c t ih =>
    have hc : c = none := h c (by simp)
    subst hc
    exact ih fun x hx => h x (by simp [hx])

/-- A slot whose registers are operable, whose own conditions hold and whose checks pass has its effect. -/
theorem slot_effect {s : State} {k : Issue} {needs : Issue → SlotNeeds} {effect : Issue → State → State}
    (h : Operable s k (needs k).names (needs k).reads) (hr : (needs k).ready = true) (he : (needs k).early = none)
    (hv : (needs k).view = true) (hf : (needs k).fmtOk = true) (hc : AllPass (needs k).checks) (hw : (needs k).wait = none) :
    slot s needs effect = effect k s := by
  obtain ⟨hi, hn, ha⟩ := h
  have h1 : ((needs k).names.all fun x => x.ok k.before) = true := by
    rw [List.all_eq_true]; exact fun x hx => (hn x hx).1
  have h0 : (needs k).badTarget s k = none := by simp [SlotNeeds.badTarget, he]
  have h2 : ((needs k).names.all fun x => !x.ok k.before || x.ready k) = true := by
    rw [List.all_eq_true]; intro x hx; simp [(hn x hx).2]
  simp only [slot, hi, h0, hr, h1, h2, hv, hf, hw, ha, firstSome, firstSome_pass _ hc]
  simp

/-- Outside a bundle a slot does nothing. -/
theorem slot_idle {s : State} {needs : Issue → SlotNeeds} {effect : Issue → State → State} (h : s.issue = none) :
    slot s needs effect = s := by simp [slot, h]

/-- The traps of a slot whose registers are operable: the first check that fails raises its trap in phase 4. -/
theorem slot_checks {s : State} {k : Issue} {needs : Issue → SlotNeeds} {effect : Issue → State → State} {t : Trap}
    (h : Operable s k (needs k).names (needs k).reads) (hr : (needs k).ready = true) (he : (needs k).early = none)
    (hv : (needs k).view = true) (hf : (needs k).fmtOk = true) (hc : firstSome (needs k).checks = some t) :
    slot s needs effect = s.raise 4 t := by
  obtain ⟨hi, hn, ha⟩ := h
  have h1 : ((needs k).names.all fun x => x.ok k.before) = true := by
    rw [List.all_eq_true]; exact fun x hx => (hn x hx).1
  have h0 : (needs k).badTarget s k = none := by simp [SlotNeeds.badTarget, he]
  have h2 : ((needs k).names.all fun x => !x.ok k.before || x.ready k) = true := by
    rw [List.all_eq_true]; intro x hx; simp [(hn x hx).2]
  simp only [slot, hi, h0, hr, h1, h2, hv, hf, ha, firstSome, hc]
  simp

end Sys2Proof.Machine
end

