-- ==== Sys2Proof/Laws/Access.lean ====
section
/-! SUPPORT. What starting an access changes: cached translations and the sequencer that starts it. -/
set_option linter.unusedVariables false
namespace Sys2Proof.Machine
open Sys2Proof

/-! ### Cached translations -/

/-- From `s` to `t` only TLBs and miss counters differ. -/
def TlbOnly (s t : State) : Prop :=
  t = { s with cores := t.cores, dies := t.dies } ∧
  ∀ g, t.core g = { s.core g with itlb := (t.core g).itlb, dtlb := (t.core g).dtlb, etlb := (t.core g).etlb, perf := (t.core g).perf }

theorem TlbOnly.refl (s : State) : TlbOnly s s := ⟨rfl, fun _ => rfl⟩

theorem TlbOnly.trans {s t u : State} (h : TlbOnly s t) (k : TlbOnly t u) : TlbOnly s u := by
  obtain ⟨h1, h2⟩ := h; obtain ⟨k1, k2⟩ := k
  refine ⟨by rw [k1, h1], fun g => ?_⟩
  rw [k2 g, h2 g]

theorem tlbOnly_modCore (s : State) (g : Nat) (f : Core → Core)
    (h : ∀ c, f c = { c with itlb := (f c).itlb, dtlb := (f c).dtlb, etlb := (f c).etlb, perf := (f c).perf }) : TlbOnly s (s.modCore g f) := by
  refine ⟨rfl, fun j => ?_⟩
  by_cases hj : j = g
  · subst hj; rw [State.core_modCore_same]; exact h _
  · rw [State.core_modCore_other _ _ _ _ hj]

theorem tlbOnly_install (s : State) (g : Nat) (wh : Which) (e : Tlb) : TlbOnly s (install s g wh e) := by
  have h := tlbOnly_modCore s g (fun c =>
    let c := match wh with
      | .itlb => { c with itlb := lruPut 64 e c.itlb }
      | .dtlb => { c with dtlb := lruPut 128 e c.dtlb }
      | .etlb => { c with etlb := lruPut 256 e c.etlb }
      | .shared => c
    if (tlbHit (coreTlb (s.core g) wh) e.asid e.va).isSome || wh = .shared then c else { c with perf := { c.perf with tlbmiss := c.perf.tlbmiss + 1 } })
    (by intro c; cases wh <;> dsimp only <;> split <;> rfl)
  unfold install
  dsimp only at h ⊢
  split
  · exact h
  · exact h.trans ⟨rfl, fun _ => rfl⟩

theorem tlbOnly_installSegs (s : State) (g : Nat) (wh : Which) (asid : Nat) (l : List Seg) : TlbOnly s (installSegs s g wh asid l) := by
  unfold installSegs
  induction l generalizing s with
  | nil => exact .refl s
  | cons x t ih =>
    simp only [List.foldl_cons]
    refine TlbOnly.trans ?_ (ih _)
    split
    · exact tlbOnly_install _ _ _ _
    · exact .refl s

/-! ### Starting an access -/

/-- A release advances the clock of its die, and nothing else (spec/10 R198). -/
theorem advanceClock_frame (rel : Bool) (s : State) (d : Nat) (sc : Scope) :
    ∃ y, (if rel then advanceClock s d sc else s) = { s with dies := y } := by
  unfold advanceClock
  split
  · split
    · exact ⟨_, rfl⟩
    · exact ⟨_, rfl⟩
  · exact ⟨_, rfl⟩

/-- The access as it is put in flight. -/
def startedAs (s : State) (n pc slot : Nat) (held : Bool) (a : Access) : Access :=
  let u := pruneOrders s n
  { a with id := s.nextId, after := orderAt u n a ++ (if a.rel then releaseOf u n a else []), pc := pc, slot := slot, held := held
           wide := a.rel || (u.seq n).ordered }

/-- All that starting an access changes: the sequencer's list, its counter and its orders, the clocks of the dies, and the
next identity. -/
theorem startAccess_eq (s : State) (n pc slot : Nat) (held : Bool) (a : Access) : ∃ y order,
    startAccess s n pc slot held a = { s.setSeq n
      (({ s.seq n with acc := (s.seq n).acc ++ [startedAs s n pc slot held a], ordered := (s.seq n).ordered || a.rel || a.acq, order := order } : Seq).raise a.kind.ctr) with
      dies := y, nextId := s.nextId + 1 } := by
  have hp : ∀ f : Seq → Seq, (pruneOrders s n).modSeq n f = s.setSeq n (f { s.seq n with order := ((s.seq n).order.filter fun o => !depsMet s n o.after) }) := by
    intro f
    unfold pruneOrders State.modSeq State.setSeq State.seq
    simp only [tab_getD_put_same, tab_put_put]
  unfold startAccess
  simp only [hp]
  obtain ⟨y, hy⟩ := advanceClock_frame a.rel (s.setSeq n _) (dieOf (coreOf n)) a.scope
  rw [hy]; exact ⟨_, _, rfl⟩

end Sys2Proof.Machine
end

