-- ==== Sys2Proof/Laws/Vector.lean ====
section
/-! SUPPORT. Vectors as functions of their positions, and what a vector slot that may run does. -/
set_option linter.unusedVariables false
namespace Sys2Proof.Machine
open Sys2Proof

/-- Elements, packing and vectors of listed elements as functions of the position. -/
theorem elems_eq (w n v : Nat) : elems w n v = (List.range n).map fun e => v / 2 ^ (w * e) % 2 ^ w := by
  induction n generalizing v with
  | zero => rfl
  | succ n ih =>
    rw [elems, ih, List.range_succ_eq_map, List.map_cons, List.map_map]
    congr 1
    · simp
    · apply List.map_congr_left; intro e _
      simp only [Function.comp, Nat.div_div_eq_div_mul, ← Nat.pow_add]
      congr 3; simp [Nat.mul_succ, Nat.add_comm]
theorem packE_eq (w n : Nat) (h : Nat → Nat) : packE w ((List.range n).map h) = ((List.range n).map fun e => h e % 2 ^ w * 2 ^ (w * e)).sum := by
  induction n generalizing h with
  | zero => rfl
  | succ n ih =>
    rw [List.range_succ_eq_map]
    simp only [List.map_cons, List.map_map, packE, List.sum_cons]
    have := ih (fun e => h (e+1))
    simp only [Function.comp_def] at this ⊢
    rw [show (fun x => h x.succ) = fun e => h (e+1) from rfl, this]
    simp only [Nat.mul_zero, pow_zero, mul_one, ← List.sum_map_mul_left]
    congr 2
    apply List.map_congr_left; intro e _
    rw [Nat.mul_succ, Nat.pow_add]; ring
theorem vecOf_eq (w n : Nat) (h : Nat → Nat) : vecOf w ((List.range n).map h) = vecFn w n h := by
  rw [vecOf, vecFn, packE_eq]
theorem elemsOf_eq (f v) : elemsOf f v = (List.range (count f)).map (elemAt f v) := by
  rw [elemsOf, elems_eq]; rfl
/-- Three lists over the same positions, and their flags together. -/
theorem map3_eq (g) (l : List Nat) (x y z : Nat → Nat) : map3 g (l.map x) (l.map y) (l.map z) = l.map fun e => g (x e) (y e) (z e) := by
  induction l with
  | nil => rfl
  | cons a t ih => simp [map3, ih]
theorem joinFlags_eq (n) (h : Nat → Nat × Nat) : joinFlags ((List.range n).map h) = ((List.range n).map fun e => (h e).1, flagsOf n fun e => (h e).2) := by
  simp [joinFlags, flagsOf, List.foldl_map, Function.comp_def]
theorem allPass_nil : AllPass [] := by intro c h; cases h
/-- A vector slot that may run has its effect, on the state after its pops. -/
theorem vecSlot_runs {s k w dst src old other reads formats acc effect} (h : VecRuns s k w dst src old other reads formats)
    (ha : ∀ f ∈ formats, acc f = true) : vecSlot s w dst src old other reads acc noChecks noLate effect = effect k (fmtVF k.fmt) (operand s k w src) (popped s k src) := by
  obtain ⟨h1, h2, h3, h4⟩ := h
  unfold vecSlot
  refine slot_effect (by simpa only [Bool.and_true] using h1) h2 rfl rfl (ha _ h3) ?_ rfl
  simpa [noChecks, noLate] using h4

end Sys2Proof.Machine
end

