-- ==== Sys2Proof/Tests/Slice0.lean ====
section
/-! SUPPORT. Tests of the decoder, of well-formedness and of single steps. Every expected value is the spec's own or worked
out by hand from it; the words are those of the spec's worked encodings and listings, or written from the fields of
spec/opcode_table.json. -/
set_option maxRecDepth 20000
set_option Elab.async false
namespace Sys2Proof.Tests
open Sys2Proof Sys2Proof.Machine

/-- Each word decodes to its instruction, which is well formed. -/
def reads (l : List (Nat × Instr)) : Bool := l.all fun e => decodeTableWord 32 e.1 = some e.2 && e.2.wf
/-- Each word is refused. -/
def refuses (l : List Nat) : Bool := l.all fun w => decodeTableWord 32 w = none
/-- Each term is ill formed. -/
def illFormed (l : List Instr) : Bool := l.all fun i => !i.wf

/-! ### One word for each slot instruction -/

theorem test_decode_prefix_0 :
  reads [(0x00060000, .scope .module), (0x0015ABCD, .imx 2 0x1abcd)] = true := by decide +kernel
theorem test_decode_control_0 :
  reads [(0x10000000, .nop), (0x101ABCDE, .br 0xabcde), (0x1028ADA5, .bc .gt 21 0x5a5), (0x10301500, .jmp 21),
    (0x104ABCDE, .call 0xabcde), (0x10501500, .callr 21), (0x10600000, .ret), (0x1071ABCD, .loop 6 0x2bcd),
    (0x10855407, .loopi 0x155 7), (0x109BABCD, .lbrk 5 0x1abcd), (0x10A26000, .lidx 9 4), (0x10B12345, .wait 1 2 3 4 5),
    (0x10C25500, .waitt 9 21), (0x10D25500, .mwait 9 21), (0x10E20000, .dsync .die), (0x10F01500, .fmt 21)] = true := by decide +kernel
theorem test_decode_control_1 :
  reads [(0x11000AA8, .fmti 2728), (0x111CA800, .vset 6 21), (0x112A8000, .unhold 0x2a), (0x11301678, .phase 0x1678),
    (0x11400000, .step), (0x11501598, .ctrap 21 38), (0x116ABCDE, .trap 0xabcde), (0x11700000, .uret),
    (0x11880002, .ulimask .clr 2), (0x11901500, .spawn 21), (0x11A00000, .retire), (0x11B01598, .jinit 21 38),
    (0x11C00000, .halt), (0x11D24540, .crd 9 0x15), (0x11E00555, .cwr 0x15 21), (0x11F25599, .tbwait 9 21 38 true)] = true := by decide +kernel
theorem test_decode_scalar_0 :
  reads [(0x20025598, .add 9 21 38), (0x20125598, .sub 9 21 38), (0x20225598, .mul 9 21 38), (0x20325598, .mulh 9 21 38),
    (0x20425598, .mulhz 9 21 38), (0x20525598, .div 9 21 38), (0x20625598, .divz 9 21 38), (0x20725598, .rem 9 21 38),
    (0x20825598, .remz 9 21 38), (0x20925598, .and 9 21 38), (0x20A25598, .or 9 21 38), (0x20B25598, .xor 9 21 38),
    (0x20C25598, .andn 9 21 38), (0x20D25598, .shl 9 21 38), (0x20E25598, .shr 9 21 38), (0x20F25598, .sra 9 21 38)] = true := by decide +kernel
theorem test_decode_scalar_1 :
  reads [(0x21025598, .slt 9 21 38), (0x21125598, .sltz 9 21 38), (0x21225598, .seq 9 21 38), (0x21325598, .min 9 21 38),
    (0x21425598, .max 9 21 38), (0x21525598, .minz 9 21 38), (0x21625598, .maxz 9 21 38), (0x21725598, .sel 9 21 38),
    (0x21825500, .clz 9 21), (0x21925500, .ctz 9 21), (0x21A25500, .popc 9 21), (0x21B2559A, .bfx 9 21 38 true),
    (0x21C25598, .bfi 9 21 38), (0x21D2559A, .lea 9 21 38 2), (0x22025585, .addi 9 21 0x85), (0x22125585, .andi 9 21 0x85)] = true := by decide +kernel
theorem test_decode_scalar_2 :
  reads [(0x22225585, .ori 9 21 0x85), (0x22325585, .xori 9 21 0x85), (0x2242552D, .shli 9 21 0x2d),
    (0x2252552D, .shri 9 21 0x2d), (0x2262552D, .srai 9 21 0x2d), (0x22725585, .slti 9 21 0x85), (0x22825678, .li 9 0x1678),
    (0x22925678, .lih 9 0x1678), (0x23025599, .fadd 9 21 38 true), (0x23125599, .fsub 9 21 38 true),
    (0x23225599, .fmul 9 21 38 true), (0x23325599, .fma 9 21 38 true), (0x23425599, .fdiv 9 21 38 true),
    (0x23525501, .fsqrt 9 21 true), (0x23625599, .fmin 9 21 38 true), (0x23725599, .fmax 9 21 38 true)] = true := by decide +kernel
theorem test_decode_scalar_3 :
  reads [(0x2382559B, .fcmp 9 21 38 true true), (0x23925548, .fcvt 9 21 .f8e4 .i32), (0x23A24000, .tnow 9),
    (0x23B24000, .cyc 9)] = true := by decide +kernel
theorem test_decode_vector_0 :
  reads [(0x3002559A, .vadd 9 21 38 2), (0x3012559A, .vsub 9 21 38 2), (0x3022559A, .vmul 9 21 38 2),
    (0x3032559A, .vfma 9 21 38 2), (0x3042559A, .vfms 9 21 38 2), (0x3052559A, .vmin 9 21 38 2),
    (0x3062559A, .vmax 9 21 38 2), (0x30725502, .vabs 9 21 2), (0x30825502, .vneg 9 21 2), (0x3092559A, .vdiv 9 21 38 2),
    (0x30A25502, .vsqrt 9 21 2), (0x30B25502, .vrcp 9 21 2), (0x30C25502, .vrsq 9 21 2), (0x30D25502, .vexp2 9 21 2),
    (0x30E25502, .vlog2 9 21 2), (0x30F2559A, .vand 9 21 38 2)] = true := by decide +kernel
theorem test_decode_vector_1 :
  reads [(0x3102559A, .vor 9 21 38 2), (0x3112559A, .vxor 9 21 38 2), (0x3122559A, .vshl 9 21 38 2),
    (0x3132559A, .vshr 9 21 38 2), (0x3142559A, .vsra 9 21 38 2), (0x3151559A, .vceq 5 21 38 2),
    (0x3161559A, .vclt 5 21 38 2), (0x3171559A, .vcle 5 21 38 2), (0x31825516, .vsel 9 21 5 2),
    (0x31925552, .vcvt 9 21 1 .f8e4 2), (0x31A25599, .vpack 9 21 38 true), (0x31B25501, .vunpk 9 21 true),
    (0x31C2559A, .vdot4 9 21 38 2), (0x31D255DA, .vred 9 21 true 5 .max 2), (0x31E255DA, .vscan 9 21 true 5 .max 2),
    (0x31F2559A, .vperm 9 21 38 2)] = true := by decide +kernel
theorem test_decode_vector_2 :
  reads [(0x32025502, .vbcst 9 21 2), (0x3212559A, .vslide 9 21 38 2), (0x3220D506, .vmov 3 21 1 2),
    (0x3233559A, .vctrap true 5 21 38 2), (0x3242559A, .vcmul 9 21 38 2), (0x32525502, .vidx 9 21 2),
    (0x3262559A, .vext 9 21 38 2), (0x3272559A, .vins 9 21 38 2)] = true := by decide +kernel
theorem test_decode_matrix_0 :
  reads [(0x403BCACC, .mma true true 11 6 21 38), (0x407BC04C, .mmaD true true 11 6 38), (0x408B0000, .mzero 11),
    (0x409B0000, .mcommit 11), (0x40ACAC00, .mshape 6 21 2), (0x40BA7566, .mstab 0xa7 21 38)] = true := by decide +kernel
theorem test_decode_memory_0 :
  reads [(0x56025585, .ld8 true true 9 21 0x85), (0x56125585, .ld16 true true 9 21 0x85),
    (0x56225585, .ld32 true true 9 21 0x85), (0x56325585, .ld64 true true 9 21 0x85), (0x56425585, .ldz8 true true 9 21 0x85),
    (0x56525585, .ldz16 true true 9 21 0x85), (0x56625585, .ldz32 true true 9 21 0x85), (0x52825585, .st8 true 9 21 0x85),
    (0x52925585, .st16 true 9 21 0x85), (0x52A25585, .st32 true 9 21 0x85), (0x52B25585, .st64 true 9 21 0x85),
    (0x56C25585, .vld true true 9 21 0x85), (0x52D25585, .vst true 9 21 0x85), (0x56E2559A, .vgat true true 9 21 38 2),
    (0x52F2559A, .vsct true 9 21 38 2), (0x5102559A, .badd 9 21 38 .z32)] = true := by decide +kernel
theorem test_decode_memory_1 :
  reads [(0x5112559A, .bmin 9 21 38 .z32), (0x5122559A, .bmax 9 21 38 .z32), (0x5132559A, .band 9 21 38 .z32),
    (0x5142559A, .bor 9 21 38 .z32), (0x5152559A, .bxor 9 21 38 .z32), (0x5162559A, .bswp 9 21 38 .z32),
    (0x5172559A, .bcas 9 21 38 .z32), (0x5180159A, .vbred 21 38 .max), (0x51940000, .fence .acq), (0x51A2C000, .xfence .p .x),
    (0x51B01500, .mon 21), (0x51C01598, .tbarv 21 38), (0x51D01598, .tbexp 21 38), (0x51E01598, .tbinit 21 38)] = true := by decide +kernel
theorem test_decode_transfer_0 :
  reads [(0x60056680, .fill 21 38 true), (0x601AAC00, .pcfg 5 21 2), (0x602A0000, .pflush 5), (0x60325500, .pseal 9 21),
    (0x60425598, .lset 9 21 38), (0x60556680, .agate 21 38 2), (0x60656600, .amap 21 38), (0x60756600, .ameas 21 38),
    (0x60856600, .acoll 21 38), (0x60954000, .anorm 21), (0x60A02600, .aswap 38)] = true := by decide +kernel
theorem test_decode_channel_0 :
  reads [(0x70019502, .send 6 21 2), (0x70118902, .recv 6 9 2), (0x7021899A, .recvadd 6 9 38 2),
    (0x7031899A, .recvmax 6 9 38 2), (0x70419500, .chdecl 6 21), (0x70518900, .chpoll 6 9), (0x70618000, .chclose 6)] = true := by decide +kernel

/-! ### Words that the spec writes out -/

theorem test_spec_words_0 :
  reads [(0xA281D678, .li 7 0x1678), (0x001448D1, .imx 2 0x48D1), (0x22010440, .addi 4 4 0x40), (0x2201042C, .addi 4 4 0x2C),
    (0x00140001, .imx 2 1), (0xD4314408, .ld64 true false 5 4 8), (0xD02144F8, .ld32 false false 5 4 0xF8),
    (0xD2B18810, .st64 true 6 8 0x10), (0xC011020A, .mma false true 1 0 4 5), (0xC0200084, .mma true false 0 0 1 2),
    (0xC0900000, .mcommit 0), (0xC0910000, .mcommit 1), (0xE8010280, .fill 4 2 true), (0xE0144800, .pcfg 2 9 0),
    (0xE0220000, .pflush 1), (0xE0314400, .pseal 5 4), (0xE041461C, .lset 5 6 7), (0xE0510540, .agate 4 5 1),
    (0xE0608300, .amap 2 3), (0xE0718700, .ameas 6 7), (0xE0818700, .acoll 6 7), (0xE0918000, .anorm 6),
    (0xE0A00700, .aswap 7), (0xF000C400, .send 3 4 0), (0xF0104201, .recv 1 2 1)] = true := by decide +kernel
theorem test_spec_words_1 :
  reads [(0xF021461C, .recvadd 5 6 7 0), (0xF040C500, .chdecl 3 5), (0xF0508900, .chpoll 2 9), (0xF0608000, .chclose 2),
    (0xD1714319, .bcas 5 3 6 .i64), (0xD1E00310, .tbinit 3 4), (0xD1D00314, .tbexp 3 5), (0xD1C00300, .tbarv 3 0),
    (0x91F1831C, .tbwait 6 3 7 false), (0x91F1831D, .tbwait 6 3 7 true), (0x90B00000, .wait 0 0 0 0 0),
    (0x90BFF0FF, .wait 15 15 0 15 15), (0x90B0FF2F, .wait 0 15 15 2 15), (0x90E40000, .dsync .module),
    (0x90E60000, .dsync .fabric), (0x90C1C400, .waitt 7 4), (0x90D1C900, .mwait 7 9), (0xB190C144, .vcvt 3 1 1 .f16 0),
    (0xA390C240, .fcvt 3 2 .f8e4 .f32), (0x91700000, .uret), (0x91840001, .ulimask .set 1), (0x91880003, .ulimask .clr 3),
    (0x91800002, .ulimask .wr 2), (0xD1A60000, .xfence .x .s), (0x00060000, .scope .module)] = true := by decide +kernel
theorem test_spec_words_2 :
  reads [(0xD1980000, .fence .full), (0x91400000, .step), (0x91300005, .phase 5), (0x91901400, .spawn 20),
    (0x91A00000, .retire), (0x91B01550, .jinit 21 20), (0xB0207800, .vmul 1 56 0 0), (0xB0217910, .vmul 5 57 4 0),
    (0xA0010414, .add 4 4 5), (0x90704002, .loop 1 2), (0x90A14000, .lidx 5 0), (0xA3A10000, .tnow 4), (0xA3B14000, .cyc 5),
    (0x90000000, .nop), (0x2202C102, .addi 11 1 2), (0xC0A00000, .mshape 0 0 0), (0xC0210098, .mma true false 1 0 1 12),
    (0xC0100598, .mma false true 0 0 11 12), (0x11123800, .vset 1 7), (0xD0D00300, .vst false 0 3 0), (0x91C00000, .halt),
    (0x9022B00C, .bc .ne 22 12), (0x91600001, .trap 1), (0xD436CD18, .ld64 true false 27 13 24), (0x21D5C519, .lea 23 5 6 1)] = true := by decide +kernel
theorem test_spec_words_3 :
  reads [(0x50C04100, .vld false false 1 1 0), (0x2205D7FF, .addi 23 23 0xFF), (0xA0855718, .remz 21 23 6),
    (0x32204804, .vmov 1 8 1 0), (0x31804304, .vsel 1 3 1 0), (0xD1001949, .badd 0 25 18 .i64), (0xA2455509, .shli 21 21 9),
    (0xF0204304, .recvadd 1 3 1 0), (0xC0010584, .mma false false 1 0 11 2), (0xA1D64717, .lea 25 7 5 3),
    (0x11000078, .fmti 0x78)] = true := by decide +kernel

/-! ### Words that the decoder refuses (spec/02 R42, R43) -/

/-- Classes with no prefix opcode 2, opcodes with no row, reserved fields that are not zero, and reserved codes. -/
theorem test_decode_refuses_0 : refuses [0x80200000, 0x92000000, 0xA3C00000, 0xB2800000, 0xC0C00000, 0xD1F00000, 0xE0B00000, 0xF0700000,
    0x00000001, 0x000A0000, 0x90000001, 0x102F8000, 0x10300001, 0x10600001, 0x10E80000, 0x10E20001, 0x91190001, 0x112A0001, 0x11400001,
    0x118C0000, 0x11840004, 0x11D246C0, 0x11D24A00, 0x11E006D5, 0x11F25582] = true := by decide +kernel
theorem test_decode_refuses_1 : refuses [0x10900000, 0x109E0000, 0x10A2F000, 0x1190BD00, 0x22455540, 0x20025599, 0x20C25599,
    0xB222D906, 0xB223590A, 0xB19255BE, 0xA39255FE, 0xC0880001, 0xD1325B9B, 0xD1A60001, 0xD1AC0000, 0xD1960000,
    0xE0501B81, 0xE0220001, 0xF0070004, 0x1110AA84] = true := by decide +kernel

/-! ### Ill-formed terms -/

/-- One for each check of Instr.wf, at the values next to its bounds. -/
theorem test_ill_formed : illFormed [.lbrk 0 5, .lbrk 7 5, .crd 3 0x1B, .crd 3 0x1F, .crd 3 0x28, .cwr 0x1B 3, .lidx 3 6, .spawn 61, .shli 1 2 64, .shri 1 2 64,
    .srai 1 2 64, .fmti 4, .fcvt 1 2 .i4x .f32, .fcvt 1 2 .f32 .i4x, .vcvt 1 2 0 .i4x 0, .vmov 8 0 1 0, .vmov 0 8 2 0, .vmov 8 0 3 0,
    .vmov 0 8 3 0, .band 1 2 3 .f32, .bor 1 2 3 .f32, .bxor 1 2 3 .f32, .bswp 1 2 3 .f32, .bcas 1 2 3 .f32, .xfence .f .s,
    .xfence .s .f] = true := by decide +kernel
/-- And the neighbours that are well formed. -/
theorem test_well_formed : illFormed [.lbrk 1 5, .crd 3 0x1A, .cwr 0x27 3, .lidx 3 5, .spawn 60, .shli 1 2 63, .fmti 8, .vmov 8 8 0 0] = false ∧
    [Instr.lbrk 6 5, .crd 3 0x20, .cwr 0x27 3, .lidx 3 5, .spawn 60, .srai 1 2 63, .fmti 8, .vmov 7 8 1 0, .vmov 8 7 2 0,
      .badd 1 2 3 .f32].all Instr.wf = true := by decide +kernel

/-! ### Steps

Core 0's first sequencer runs code from address 0, with scalars and bytes of its window put in place by hand. -/

/-- The reset state with words at address 0, scalars, and vectors of view 1. -/
def boot (code : List Nat) (scalars : List (Nat × Nat)) (vectors : List (Nat × Nat)) : State :=
  let s := State.reset.placed (code.map (BitVec.ofNat 32))
  let low := scalars.foldl (fun m e => m.write (8 * e.1) 8 e.2) (s.core 0).regs
  let all := vectors.foldl (fun m e => m.write (0x1000 + 512 * e.1) 512 e.2) low
  s.modCore 0 fun c => { c with regs := all }
/-- What one step leaves of a state, where it answers a next one. -/
def after (s : State) (f : State → Nat) : Option Nat := match step s with
  | .next t => some (f t)
  | _ => none
/-- Scalar `n`, lane `e` of a vector of view 1, and the flags of FMT. -/
def scalarAt (n : Nat) (s : State) : Nat := (s.core 0).regs.readNat (8 * n) 8
def laneAt (v e : Nat) (s : State) : Nat := (s.core 0).regs.readNat (0x1000 + 512 * v + 4 * e) 4
def flagsAt (s : State) : Nat := (s.seq 0).bank.fmt.toNat / 2 ^ 24

/-- The word of one instruction alone in its bundle, and the state that runs it. -/
def alone (i : Instr) : Nat := (encode i).getD 0 + 2 ^ 31
def run (i : Instr) (scalars vectors : List (Nat × Nat)) : State := boot [alone i] scalars vectors
/-- ADDR of the fault record of context 0. -/
def recordAddr (s : State) : Nat := (s.ctx 0).frec.toNat / 2 ^ 192 % 2 ^ 64

/-- spec/02 R34, the worked `li`, alone and with its prefix. -/
theorem test_li : after (boot [0xA281D678] [] []) (scalarAt 7) = some 0x1678 := by decide +kernel
theorem test_li_imx : after (boot [0x001448D1, 0xA281D678] [] []) (scalarAt 7) = some 0x12345678 := by decide +kernel
theorem test_add_wraps : after (run (.add 1 1 2) [(1, 2 ^ 64 - 1), (2, 2)] []) (scalarAt 1) = some 1 := by decide +kernel
theorem test_sub_wraps : after (run (.sub 3 1 2) [(1, 1), (2, 2)] []) (scalarAt 3) = some (2 ^ 64 - 1) := by decide +kernel
theorem test_add_to_zero_register : after (run (.add 0 1 2) [(1, 1), (2, 2)] []) (scalarAt 0) = some 0 := by decide +kernel
theorem test_mulh : after (run (.mulh 3 1 2) [(1, 2 ^ 64 - 1), (2, 2)] []) (scalarAt 3) = some (2 ^ 64 - 1) := by decide +kernel
theorem test_mulhz : after (run (.mulhz 3 1 2) [(1, 2 ^ 64 - 1), (2, 2)] []) (scalarAt 3) = some 1 := by decide +kernel
/-- spec/06 R116: a quotient by zero is all ones; the most negative number by -1 is itself. -/
theorem test_div_zero : after (run (.div 3 1 2) [(1, 5)] []) (scalarAt 3) = some (2 ^ 64 - 1) := by decide +kernel
theorem test_div_overflow : after (run (.div 3 1 2) [(1, 2 ^ 63), (2, 2 ^ 64 - 1)] []) (scalarAt 3) = some (2 ^ 63) := by decide +kernel
theorem test_rem_sign : after (run (.rem 3 1 2) [(1, 2 ^ 64 - 7), (2, 2)] []) (scalarAt 3) = some (2 ^ 64 - 1) := by decide +kernel
theorem test_sra : after (run (.sra 3 1 2) [(1, 2 ^ 63), (2, 64 + 62)] []) (scalarAt 3) = some (2 ^ 64 - 2) := by decide +kernel
theorem test_addi_negative : after (run (.addi 3 1 0xFF) [(1, 5)] []) (scalarAt 3) = some 4 := by decide +kernel
theorem test_ori_unsigned : after (run (.ori 3 1 0xFF) [(1, 0x100)] []) (scalarAt 3) = some 0x1FF := by decide +kernel
theorem test_bfx_signed : after (run (.bfx 3 1 2 true) [(1, 0xF0), (2, 4 + 3 * 256)] []) (scalarAt 3) = some (2 ^ 64 - 1) := by decide +kernel
theorem test_bfi : after (run (.bfi 3 1 2) [(1, 0xAB), (2, 8 + 7 * 256), (3, 0x111111)] []) (scalarAt 3) = some 0x11AB11 := by decide +kernel
theorem test_sel_reads_destination : after (run (.sel 3 1 2) [(1, 7), (2, 9)] []) (scalarAt 3) = some 9 := by decide +kernel
theorem test_clz_zero : after (run (.clz 3 1) [] []) (scalarAt 3) = some 64 := by decide +kernel
/-- spec/06 R124, the worked `fcvt`: 288 in f8e4, inexact. -/
theorem test_fcvt : after (boot [0xA390C240] [(2, 0x43960000)] []) (fun s => scalarAt 3 s + 1000 * flagsAt s) = some (0x79 + 16000) := by decide +kernel
theorem test_fadd : after (run (.fadd 3 1 2 false) [(1, 0x3F800000), (2, 0x3F800000)] []) (scalarAt 3) = some 0x40000000 := by decide +kernel
theorem test_fdiv_zero : after (run (.fdiv 3 1 2 true) [(1, 0x3FF0000000000000)] []) (fun s => scalarAt 3 s + flagsAt s) =
    some (0x7FF0000000000000 + 2) := by decide +kernel
/-- spec/02 R29: both slots of a bundle read what stood before it. -/
theorem test_bundle_snapshot : after (boot [(encode (.add 1 2 0)).getD 0, alone (.vbcst 3 1 0)]
    [(1, 9), (2, 5)] []) (fun s => scalarAt 1 s + 2 ^ 64 * laneAt 3 0 s) = some (5 + 2 ^ 64 * 9) := by decide +kernel

/-- spec/07 R139, the worked conversions to f16: an exact one below, and an overflow above with OF and NX. -/
theorem test_vcvt_low : after (run (.vcvt 3 1 0 .f16 0) [] [(1, 0x3F800000), (3, 7 * 2 ^ 2048)]) (fun s => laneAt 3 0 s + 2 ^ 32 * laneAt 3 64 s) =
    some (0x3C00 + 7 * 2 ^ 32) := by decide +kernel
theorem test_vcvt_high : after (boot [0xB190C084] [] [(2, 0)]) (laneAt 3 0) = some 0 ∧
    after (run (.vcvt 3 2 1 .f16 0) [] [(2, 0x477FF000)]) (fun s => laneAt 3 64 s + 2 ^ 32 * flagsAt s) = some (0x7C00 + 2 ^ 32 * 20) := by decide +kernel
/-- spec/07 R143, R144, the worked sum of 2^24, 1, 1, 1 under a mask. -/
def masked (i : Instr) : State := (run i [] [(8, 0x4B800000 + 0x3F800000 * (2 ^ 32 + 2 ^ 64 + 2 ^ 96) + 0x42000000 * 2 ^ 128)]).modSeq 0
  fun q => { q with masks := q.masks.set 1 0xF }
theorem test_vred : after (masked (.vred 9 8 true 1 .add 0)) (fun s => laneAt 9 0 s + 2 ^ 32 * laneAt 9 1 s + 2 ^ 64 * flagsAt s) =
    some (0x4B800001 + 2 ^ 64 * 16) := by decide +kernel
theorem test_vscan : after (masked (.vscan 9 8 true 1 .add 0)) (fun s => laneAt 9 2 s + 2 ^ 32 * laneAt 9 3 s + 2 ^ 64 * laneAt 9 127 s) =
    some (0x4B800000 + 2 ^ 32 * 0x4B800001 + 2 ^ 64 * 0x4B800001) := by decide +kernel
theorem test_vadd_last_lane : after (run (.vadd 3 1 1 0) [] [(1, 0x3F800000 * 2 ^ 4064)]) (laneAt 3 127) = some 0x40000000 := by decide +kernel
/-- spec/05 R84: minimumNumber takes -0 below +0. -/
theorem test_vmin_zero_signs : after (run (.vmin 3 1 2 0) [] [(2, 0x80000000)]) (laneAt 3 0) = some 0x80000000 := by decide +kernel
theorem test_vslide : after (run (.vslide 3 1 2 0) [(2, 2 ^ 64 - 1)] [(1, 5 + 7 * 2 ^ 4064)]) (fun s => laneAt 3 0 s + 2 ^ 32 * laneAt 3 1 s) =
    some (5 * 2 ^ 32) := by decide +kernel

/-- spec/06 R109, the worked view. -/
theorem test_vset : after (run (.vset 5 9) [(9, 0x000040000001C000)] []) (fun s => (viewAt (s.seq 0) 5).size + (viewAt (s.seq 0) 5).base) =
    some (16384 + 114688) := by decide +kernel
/-- spec/06 R99, spec/02 R44: a target outside the code traps with its address, and the sequencer stays at its bundle. -/
theorem test_br_outside : after (run (.br 0x10000) [] []) recordAddr = some 0x40000 ∧ after (run (.br 0x10000) [] []) (fun s => (s.seq 0).pc) = some 0 := by
  decide +kernel
theorem test_call : after (run (.call 0) [] []) (scalarAt 63) = some 4 := by decide +kernel
theorem test_trap_resumes_after : after (run (.trap 1) [] []) (fun s => (s.seq 0).pc) = some 4 ∧
    after (run (.trap 1) [] []) (fun s => if (s.seq 0).st = .faulted then 1 else 0) = some 1 := by decide +kernel
theorem test_ctrap : after (run (.ctrap 1 2) [(1, 5)] []) recordAddr = some 5 ∧
    after (run (.ctrap 1 1) [(1, 5)] []) (fun s => (s.seq 0).pc) = some 4 := by decide +kernel
theorem test_ld_misaligned : after (run (.ld64 false false 5 4 1) [] []) recordAddr = some 1 := by decide +kernel
theorem test_crd_seqid : after (run (.crd 5 0x16) [] []) (scalarAt 5) = some 0 ∧ after (run (.crd 5 0x17) [] []) (scalarAt 5) = some 0x7FFFF := by
  decide +kernel
theorem test_chpoll : after (run (.chpoll 2 9) [(9, 77)] []) (scalarAt 9) = some 0 := by decide +kernel
theorem test_halt : after (run .halt [] []) (fun s => if (s.seq 0).halting = some .halt then 1 else 0) = some 1 := by decide +kernel

/-! ### Rules on plain values -/

/-- spec/05 R87, R88: the conversions to f8e4 that the spec tabulates. -/
theorem test_to_f8e4 : Fp.convert .f8e4 .f32 0 false 0x43960000 = (0x79, 16) ∧ Fp.convert .f8e4 .f32 0 true 0x43E80000 = (0x7E, 16) ∧
    Fp.convert .f8e4 .f32 0 false 0x43EB0000 = (0x7F, 20) ∧ Fp.convert .f8e4 .f32 0 true 0x43EB0000 = (0x7E, 52) ∧
    Fp.convert .f8e4 .f32 0 false 0x43E60000 = (0x7E, 16) ∧ Fp.convert .f8e4 .f32 0 true 0xFF800000 = (0xFE, 32) := by decide +kernel
/-- spec/05 R81: the worked block, and one whose last escape is malformed. -/
theorem test_i4x : (Fp.i4xBlock [3, 8, 12, 5, 14, 7, 9, 0]).1.map (fun v => (Fp.convertVal .f32 0 false true v).1) =
    [0x40400000, 0x41C00000, 0, 0, 0xC0000000, 0x40E00000, 0xC0E00000, 0] ∧ (Fp.i4xBlock [3, 8, 12, 5]).2 = false ∧ (Fp.i4xBlock [1, 8, 5]).2 = true := by
  decide +kernel
/-- spec/19 R362: the five updates of the worked barrier. -/
theorem test_barrier : barrierNew (.init 1) 5 = (32, 5 + 16 + 2 ^ 24) ∧ barrierNew (.expect 128) (5 + 16 + 2 ^ 24) = (16, 5 + 16 + 2 ^ 24 + 128 * 2 ^ 44) ∧
    barrierNew (.countdown 64) (5 + 16 + 2 ^ 24 + 128 * 2 ^ 44) = (16, 5 + 16 + 2 ^ 24 + 64 * 2 ^ 44) ∧
    barrierNew (.arrive 1) (5 + 16 + 2 ^ 24 + 64 * 2 ^ 44) = (16, 5 + 2 ^ 24 + 64 * 2 ^ 44) ∧
    barrierNew (.countdown 64) (5 + 2 ^ 24 + 64 * 2 ^ 44) = (16, 6 + 16 + 2 ^ 24) := by decide +kernel
/-- FIPS 202: the published digests of no bytes and of "abc", first byte lowest. -/
theorem test_sha3 : (sha3 0 0).toNat = 0x4a43f8804b0ad882fa493be44dff80f562d661a05647c15166d71ebff8c6ffa7 ∧
    (sha3 3 0x636261).toNat = 0x3215431145e2bf465b529d3e6e085f85bd90d36b2d175c04b225e24fa75d983a := by decide +kernel
/-- ECMA-182: the check value of the nine digits. -/
theorem test_crc64 : crc64 9 0x393837363534333231 = 0x6C40DF5F0B497347 := by decide +kernel
/-- spec/11 R218: the worked `bcas`, and a compare that fails. -/
theorem test_bcas : bankNew .cas .i64 5 9 5 = 9 ∧ bankNew .cas .i64 6 9 5 = 6 ∧ bankOld .i64 6 = 6 := by decide +kernel

/-! ### Events -/

theorem test_tail_doorbell : after { State.reset with schedule := [.event .tailDoorbell [3, 5, 2 ^ 32 + 9]] } (fun s => (s.ring 3 5).tail) = some 9 := by
  decide +kernel
theorem test_pf_assert : after { State.reset with schedule := [.event .pfAssert []] } (fun s => if s.sys.power = .warn then 1 else 0) = some 1 := by
  decide +kernel
theorem test_vin_below_38V : after { State.reset with schedule := [.event .vinSample [37999]] } (fun s => if s.sys.power = .freeze then 1 else 0) = some 1 := by
  decide +kernel

end Sys2Proof.Tests
end

