-- ==== Sys2Proof/Tests/States.lean ====
section
/-! SUPPORT. States on which the witness theorems stand. -/
namespace Sys2Proof.Tests
open Sys2Proof Sys2Proof.Machine

/-! ### A sequencer that issues

Sequencer 0 of core 0, released by a gang launch of context 0 with address space 1, has the bundle at address 0 in hand. -/

/-- A page of 2 MiB at virtual 0: bytes of HBM with every permission. -/
def pageW : Tlb := { asid := 1, va := 0, ipa := 0, size := 0x200000, pa := 0x400000, fab := false, key := 0, r := true, w := true, x := true, c := true, a := true }
def homeW : State := ((State.reset.placed (List.replicate 16 0x90000000)).modCore 0 fun c =>
  { c with dtlb := [pageW], etlb := [pageW], itlb := [pageW] }).modDie 0 fun d => { d with tlb := [pageW] }
/-- The bundle in hand under a value of FMT, with scalars put in place. -/
def issueW (fmt : BitVec 32) (scalars : List (Nat × Nat)) : Issue :=
  { n := 0, pc := 0, next := 16, before := { homeW.seq 0 with bank := { fmt := fmt } }
    regs := scalars.foldl (fun m e => m.write (8 * e.1) 8 e.2) (homeW.core 0).regs }
/-- A state in which a bundle is in hand. -/
def onW (s : State) (k : Issue) : State := { (s.modSeq 0 fun _ => k.before).modCore 0 fun c => { c with regs := k.regs } with issue := some k }
/-- Vectors of the wide view, put in place. -/
def vecsW (k : Issue) (l : List (Nat × Nat)) : Issue := { k with regs := l.foldl (fun m e => m.write (0x1000 + 512 * e.1) 512 e.2) k.regs }
/-- The bundle in hand with its sequencer changed. -/
def kOf (f : Seq → Seq) (l : List (Nat × Nat)) (fmt : BitVec 32) : Issue := let k := issueW fmt l; { k with before := f k.before }

/-! ### Memory and accesses -/

/-- Bytes in the page, and room below the next identity. -/
def memW : State := { homeW with mem := (homeW.mem.write 0x401000 8 0x1122334455667788).write 0x401010 8 0x99AABBCCDDEEFF00, nextId := 100 }
/-- A segment of the page. -/
def sg (va len : Nat) : Seg := { va := va, pa := 0x400000 + va, len := len, at_ := 0, frame := 0x400000, cache := true }
/-- The same as path B takes it. -/
def sgB (va len : Nat) : Seg := { sg va len with atomic := true }
/-- Sequencer 0 with accesses in flight. -/
def flyW (l : List Access) (f : Seq → Seq) : State := memW.modSeq 0 fun q => f { q with acc := l, ld := 5, st_ := 6, xf := 7 }

/-- Whether a segment is a plain one. -/
def plainOk (s : State) (x : Seg) : Bool :=
  !x.fab && x.at_ = 0 && decide (0 < x.len) && decide (localPa x.pa + x.len ≤ 0x030000000000) &&
  (List.range x.len).all (fun i => replicaEntry s (localPa x.pa + i) = none && (!encrypted (localPa x.pa + i) || s.keyOf.getD ((localPa x.pa + i) / 32) 0 = x.key)) &&
  s.updates.all (fun u => !meet u.pa u.len (localPa x.pa) x.len) && !poisoned s (localPa x.pa) x.len
theorem plain_iff (s : State) (x : Seg) : PlainSeg s x ↔ plainOk s x = true := by
  simp only [PlainSeg, plainOk, Bool.and_eq_true, Bool.not_eq_true', Bool.or_eq_true, decide_eq_true_eq, List.all_eq_true, List.mem_range]
  exact ⟨fun ⟨a, b, c, d, e, f, g, h⟩ => ⟨⟨⟨⟨⟨⟨a, b⟩, c⟩, d⟩, fun i hi => ⟨e i hi, by cases he : encrypted (localPa x.pa + i) <;> simp_all⟩⟩, f⟩, g⟩,
    fun ⟨⟨⟨⟨⟨⟨a, b⟩, c⟩, d⟩, e⟩, f⟩, g⟩ => ⟨a, b, c, d, fun i hi => (e i hi).1, f, g, fun i hi he => (e i hi).2.resolve_left (by simp [he])⟩⟩

/-! ### Results -/

/-- The result is this value. -/
def isOk {α : Type} [DecidableEq α] (e : Except XFault α) (v : α) : Bool := match e with
  | .ok x => x = v
  | .error _ => false
/-- The result is a fault. -/
def isError {α : Type} (e : Except XFault α) : Bool := match e with
  | .ok _ => false
  | .error _ => true
theorem isOk_iff {α : Type} [DecidableEq α] (e : Except XFault α) (v : α) : isOk e v = true ↔ e = .ok v := by
  cases e <;> simp [isOk]
theorem isError_iff {α : Type} (e : Except XFault α) : isError e = true ↔ ∃ f, e = .error f := by
  cases e <;> simp [isError]

/-! ### Sequencers that a state does not list -/

theorem tab_unlisted {α : Type} (t : Tab α) (k : Nat) (d : α) (h : (t.all fun e => e.1 ≠ k) = true) : t.getD k d = d := by
  have : t.find? k = none := by
    induction t with
    | nil => rfl
    | cons e r ih =>
      simp only [List.all_cons, Bool.and_eq_true, decide_eq_true_eq] at h
      simp [Tab.find?, h.1, ih h.2]
  simp [Tab.getD, this]
theorem seq_unlisted (s : State) (n : Nat) (h : (s.seqs.all fun e => e.1 ≠ n) = true) : s.seq n = {} := tab_unlisted _ _ _ h

end Sys2Proof.Tests
end

