-- ==== Sys2Proof/Tests/WitnessAccess.lean ====
section
/-! SUPPORT. Witnesses for the statements about the slots that start accesses, engines and messages: concrete states that
meet every hypothesis together, one theorem or conjunct for each clause. -/
set_option maxRecDepth 20000
set_option synthInstance.maxSize 1000
set_option Elab.async false
namespace Sys2Proof.Tests
open Sys2Proof Sys2Proof.Machine

/-! ### Loads and stores -/

/-- The bundle in hand with an address in scalar 1, a datum in scalar 2, and bits in vectors 1 and 2, under a format. -/
def kM (a : Nat) (f : Fmt) : Issue := vecsW (issueW (BitVec.ofNat 32 (fmtCode f * 8)) [(1, a), (2, 0x123456789ABCDEF0)]) [(1, 5), (2, 0)]
def sM (a : Nat) (f : Fmt) : State := onW homeW (kM a f)

theorem witness_loads : ∀ n ∈ [1, 2, 4, 8], Operable (sM 0x1000 .f32) (kM 0x1000 .f32) (snames [5, 1]) (snames [1]) ∧ ((sM 0x1000 .f32).seq 0).ld < 63 ∧
    heldBack (sM 0x1000 .f32) 0 .s false = false ∧ (rriAddr (kM 0x1000 .f32) 1 (0xF8)).toNat % n = 0 ∧
    isOk (dataSegs (sM 0x1000 .f32) 0 .s { r := true } (rriAddr (kM 0x1000 .f32) 1 (0xF8)) n) [sgB 0xFF8 n] = true := by
  unfold Operable; decide +kernel
theorem witness_stores : ∀ n ∈ [1, 2, 4, 8], Operable (sM 0x1000 .f32) (kM 0x1000 .f32) (snames [2, 1]) (snames [2, 1]) ∧ ((sM 0x1000 .f32).seq 0).st_ < 63 ∧
    heldBack (sM 0x1000 .f32) 0 .s true = false ∧ (rriAddr (kM 0x1000 .f32) 1 0x78).toNat % n = 0 ∧ apertureOf (sM 0x1000 .f32) 0 (rriAddr (kM 0x1000 .f32) 1 0x78) = none ∧
    isOk (dataSegs (sM 0x1000 .f32) 0 .s { w := true } (rriAddr (kM 0x1000 .f32) 1 0x78) n) [sgB 0x1078 n] = true := by
  unfold Operable; decide +kernel
theorem witness_vector_load : let k := kM 0x1000 .f32; let s := sM 0x1000 .f32
    Operable s k (vnames 1 [5] ++ snames [1]) (snames [1]) ∧ (s.seq 0).ld < 63 ∧ heldBack s 0 .s false = false ∧ portsReady s 0 [] [5] = true ∧ portsOf [5] = [] ∧
    AllPass (portChecks s 0 [] [5]) ∧ (rriAddr k 1 0x40).toNat % 64 = 0 ∧ isOk (dataSegs s 0 .s { r := true } (rriAddr k 1 0x40) 512) [sgB 0x1040 512] = true := by
  unfold Operable AllPass; decide +kernel
theorem witness_vector_store : let k := kM 0x1000 .f32; let s := sM 0x1000 .f32
    Operable s k (vnames 1 [1] ++ snames [1]) (vnames 1 [1] ++ snames [1]) ∧ (s.seq 0).st_ < 63 ∧ heldBack s 0 .s true = false ∧ portsReady s 0 [1] [] = true ∧ portsOf [1] = [] ∧
    AllPass (portChecks s 0 [1] []) ∧ (rriAddr k 1 0x40).toNat % 64 = 0 ∧ isOk (dataSegs s 0 .s { w := true } (rriAddr k 1 0x40) 512) [sgB 0x1040 512] = true := by
  unfold Operable AllPass; decide +kernel
/-- A misaligned address, and one past the page. -/
theorem witness_load_traps : ∀ n ∈ [1, 2, 4, 8], (let k := kM 0x1001 .f32; let s := sM 0x1001 .f32
      Operable s k (snames [5, 1]) (snames [1]) ∧ (s.seq 0).ld < 63 ∧ heldBack s 0 .s false = false ∧ (n = 1 ∨ (rriAddr k 1 0).toNat % n ≠ 0)) ∧
    (let k := kM 0x200000 .f32; let s := sM 0x200000 .f32
      Operable s k (snames [5, 1]) (snames [1]) ∧ (rriAddr k 1 0).toNat % n = 0 ∧ isError (dataSegs s 0 .s { r := true } (rriAddr k 1 0) n) = true) := by
  unfold Operable; decide +kernel
theorem witness_store_traps : ∀ n ∈ [1, 2, 4, 8], (let k := kM 0x1001 .f32; let s := sM 0x1001 .f32
      Operable s k (snames [2, 1]) (snames [2, 1]) ∧ (s.seq 0).st_ < 63 ∧ heldBack s 0 .s true = false ∧ (n = 1 ∨ (rriAddr k 1 0).toNat % n ≠ 0)) ∧
    (let k := kM 0x200000 .f32; let s := sM 0x200000 .f32
      Operable s k (snames [2, 1]) (snames [2, 1]) ∧ (rriAddr k 1 0).toNat % n = 0 ∧ isError (dataSegs s 0 .s { w := true } (rriAddr k 1 0) n) = true) := by
  unfold Operable; decide +kernel
/-- An index vector of zeros: every element of the gather or scatter lies at the address. -/
theorem witness_gather : ∀ f ∈ [Fmt.f32, .f64, .i32, .i64, .z32, .z64], let k := kM 0x1000 f; let s := sM 0x1000 f
    Operable s k (vnames 1 [5, 2] ++ snames [1]) (vnames 1 [2] ++ snames [1]) ∧ (s.seq 0).ld < 63 ∧ heldBack s 0 .s false = false ∧ portsReady s 0 [2] [5] = true ∧
    portsOf [2, 5] = [] ∧ AllPass (portChecks s 0 [2] [5]) ∧ fmtVF k.fmt = f ∧
    (match gatherSegs s 0 { r := true } 0 (Fp.width (fmtVF k.fmt) / 8) ((List.range (count (fmtVF k.fmt))).map fun e =>
      (k.rs 1 + ((operand s k 1 [2] 2).extractLsb' (32 * e) 32).signExtend 64, e * (Fp.width (fmtVF k.fmt) / 8))) with
      | .ok l => decide (l.length = count f)
      | .error _ => false) = true := by
  unfold Operable AllPass; decide +kernel
theorem witness_scatter : ∀ f ∈ [Fmt.f32, .f64, .i32, .i64, .z32, .z64], let k := kM 0x1000 f; let s := sM 0x1000 f
    Operable s k (vnames 1 [1, 2] ++ snames [1]) (vnames 1 [1, 2] ++ snames [1]) ∧ (s.seq 0).st_ < 63 ∧ heldBack s 0 .s true = false ∧ portsReady s 0 [1, 2] [] = true ∧
    portsOf [1, 2] = [] ∧ AllPass (portChecks s 0 [1, 2] []) ∧ fmtVF k.fmt = f ∧
    (match gatherSegs s 0 { w := true } 1 (Fp.width (fmtVF k.fmt) / 8) ((List.range (count (fmtVF k.fmt))).map fun e =>
      (k.rs 1 + ((operand s k 1 [1, 2] 2).extractLsb' (32 * e) 32).signExtend 64, e * (Fp.width (fmtVF k.fmt) / 8))) with
      | .ok l => decide (l.length = count f)
      | .error _ => false) = true := by
  unfold Operable AllPass; decide +kernel

/-! ### Bank operations, fences, fills and copies -/

theorem witness_bank : ∀ ty ∈ [BankTy.i32, .i64, .z32, .f32], let n := if ty = .i64 then 8 else 4; let k := kM 0x1008 .f32; let s := sM 0x1008 .f32
    Operable s k (snames [5, 1, 2]) (snames [1, 2]) ∧ Operable s k (snames [5, 1, 2]) (snames [5, 1, 2]) ∧ (s.seq 0).ld < 63 ∧ heldBack s 0 .b true = false ∧
    (k.rs 1).toNat % n = 0 ∧ isOk (dataSegs s 0 .b { r := true, w := true } (k.rs 1) n) [sgB 0x1008 n] = true ∧ bauHomed (localPa (sgB 0x1008 n).pa) = true := by
  unfold Operable; decide +kernel
theorem witness_vbred : ∀ f ∈ [Fmt.f32, .f16, .bf16, .i32, .z32, .i16, .z16], let k := kM 0x1200 f; let s := sM 0x1200 f
    Operable s k (vnames 1 [1] ++ snames [1]) (vnames 1 [1] ++ snames [1]) ∧ (s.seq 0).st_ < 63 ∧ heldBack s 0 .b true = false ∧ portsReady s 0 [1] [] = true ∧ portsOf [1] = [] ∧
    AllPass (portChecks s 0 [1] []) ∧ fmtVF k.fmt = f ∧ (k.rs 1).toNat % 512 = 0 ∧
    isOk (dataSegs s 0 .b { r := true, w := true } (k.rs 1) 512) [sgB 0x1200 512] = true ∧ bauHomed (localPa (sgB 0x1200 512).pa) = true := by
  unfold Operable AllPass; decide +kernel
theorem witness_updates : ∀ al ∈ [32, 64], let k := kM 0x1040 .f32; let s := sM 0x1040 .f32
    Operable s k (snames [1, 2]) (snames [1, 2]) ∧ (s.seq 0).st_ < 63 ∧ heldBack s 0 .b true = false ∧ (k.rs 2).toNat % 2 ^ 20 ≠ 0 ∧ (k.rs 1).toNat % al = 0 ∧
    isOk (barrierSegs s 0 { r := true, w := true } (k.rs 1) al) [sgB 0x1040 al] = true ∧ (sgB 0x1040 al).fab = false ∧ bauHomed (localPa (sgB 0x1040 al).pa) = true := by
  unfold Operable; decide +kernel

theorem witness_fences : (sM 0 .f32).issue = some (kM 0 .f32) ∧ (let k := kM 0x1001 .f32; let s := sM 0x1001 .f32
      Operable s k (snames [1]) (snames [1]) ∧ isOk (dataSegs s 0 .s { r := true } (k.rs 1) 1) [sgB 0x1001 1] = true ∧ (sgB 0x1001 1).fab = false ∧
      replicaEntry s (localPa (sgB 0x1001 1).pa) = none) := by
  unfold Operable; decide +kernel
theorem witness_fill : let k := kM 0x1040 .f32; let s := sM 0x1040 .f32
    Operable s k (snames [1] ++ vnames 1 [1]) (snames [1] ++ vnames 1 [1]) ∧ (s.seq 0).xf < 63 ∧ heldBack s 0 .x true = false ∧ portsReady s 0 [1] [] = true ∧ portsOf [1] = [] ∧
    AllPass (portChecks s 0 [1] []) ∧ (k.rs 1).toNat % 64 = 0 ∧ isOk (segs s (coreOf 0) .etlb (asidOf s 0) .x { w := true } (k.rs 1).toNat 512) [sgB 0x1040 512] = true := by
  unfold Operable AllPass; decide +kernel
/-- The aperture of core 0, mapped at 0x800000. -/
def apW : State := homeW.modCore 0 fun c => { c with dtlb := ((List.range 16).map fun i =>
  { pageW with va := 0x800000 + 0x1000 * i, pa := 0x040000000000 + 0x1000 * i, size := 0x1000 }) ++ c.dtlb }
theorem witness_copy_slot : let k := kM 0x800000 .f32; let s := onW apW k
    Operable s k (snames [2, 1]) (snames [2, 1]) ∧ (rriAddr k 1 0).toNat % 8 = 0 ∧ (apertureOf s 0 (rriAddr k 1 0)).isSome = true ∧ (s.seq 0).xf < 63 ∧
    ((s.core 0).bte.getD ((apertureOf s 0 (rriAddr k 1 0)).getD 0) []).length < 4 ∧ heldBack s 0 .x true = false ∧ heldBack s 0 .s true = false := by
  unfold Operable; decide +kernel

/-! ### Matrix operations -/

/-- The fields of a shape record (spec/08 R155). -/
def shapeRec (m n kk af bf fsrc t sa sb tida tidb rsa esa rsb esb : Nat) : Nat :=
  m + n * 2 ^ 8 + kk * 2 ^ 16 + af * 2 ^ 32 + bf * 2 ^ 36 + fsrc * 2 ^ 40 + t * 2 ^ 41 + sa * 2 ^ 42 + sb * 2 ^ 43 + tida * 2 ^ 48 + tidb * 2 ^ 56 + rsa * 2 ^ 64 +
  esa * 2 ^ 96 + rsb * 2 ^ 128 + esb * 2 ^ 160
/-- The bundle in hand with shape record 1, under a value of FMT, and landing slots. -/
def kT (f shape : Nat) : Issue := let k := issueW (BitVec.ofNat 32 f) [(1, 0x1000), (2, 0x2000)]; { k with regs := k.regs.write 576 64 shape }
def sT (f shape : Nat) (ls : List Landing) : State := ((onW homeW (kT f shape)).modCore 0 fun c => { c with ls := ls }).modCtx 0 fun c =>
  { c with tensors := [(1, { bpr := 4, dbase := 0x1000, saddr := 0x100 }), (2, { bpr := 2, dbase := 0x2000, saddr := 0x200 })] }
def lsW : List Landing := [{ owner := some 1 }, { owner := some 0, tile := some 3 }, { owner := some 0 }]
theorem witness_mma_opens : let h := shapeRec 8 16 64 0 0 0 1 0 0 0 0 128 2 128 2; let k := kT 0x880 h; let s := sT 0x880 h lsW; let c := s.core 0
    Operable s k ([.tile 4, .shape 1] ++ snames [1, 2]) ([.shape 1] ++ snames [1, 2]) ∧ MatrixRoom s k ∧
    (let f := mtxFmts (shapeAt k 1) k.fmt; mtxFmtOk f.1 f.2 k.fmt false = true ∧ shapeValid (shapeAt k 1) f.1 f.2 (fmtSC k.fmt) false = true) ∧
    (slotOf c 0 4 = none ∧ slotFree c 0 = some 2) ∧ (k.rs 1).toNat % 2 = 0 ∧ (k.rs 2).toNat % 2 = 0 ∧ fmtSC k.fmt = false := by
  unfold Operable MatrixRoom; decide +kernel
/-- Integers into a slot already open, the latch as A, and the scales of both operands. -/
theorem witness_mma_goes_on : let f := 6 * 2 ^ 7 + 6 * 2 ^ 11 + 2 ^ 19; let h := shapeRec 8 16 64 6 6 0 1 0 0 0 0 64 1 64 1
    let k := kT f h; let s := sT f h [{ owner := some 0, tile := some 3, int_ := true }, { owner := some 0 }]; let c := s.core 0
    Operable s k ([.tile 3, .shape 1] ++ snames [1, 2]) ([.shape 1] ++ snames [1, 2]) ∧ MatrixRoom s k ∧
    (let g := mtxFmts (shapeAt k 1) k.fmt; mtxFmtOk g.1 g.2 k.fmt false = true ∧ shapeValid (shapeAt k 1) g.1 g.2 (fmtSC k.fmt) false = true) ∧
    (slotOf c 0 3 = some 0 ∧ (landingAt c 0).int_ = fmtACC k.fmt) := by
  unfold Operable MatrixRoom; decide +kernel
theorem witness_mma_scaled : let f := 4 * 2 ^ 7 + 4 * 2 ^ 11 + 2 ^ 18; let h := shapeRec 8 8 64 0 0 0 1 1 1 1 2 64 1 64 1
    let k := kT f h; let s := sT f h lsW; let x := shapeAt k 1; let tensor := fun id => tensorIssued s 0 id
    Operable s k ([.tile 4, .shape 1] ++ snames [1, 2]) ([.shape 1] ++ snames [1, 2]) ∧
    (let g := mtxFmts x k.fmt; mtxFmtOk g.1 g.2 k.fmt false = true ∧ shapeValid x g.1 g.2 (fmtSC k.fmt) false = true ∧
      scaleOk (tensor (shTidA x)) (k.rs 1).toNat (shRSA x) (shESA x) (shK x) (shM x) (Fp.width g.1 = 4) = true ∧
      scaleOk (tensor (shTidB x)) (k.rs 2).toNat (shRSB x) (shESB x) (shK x) (shN x) (Fp.width g.2 = 4) = true) ∧ (fmtSC k.fmt && shSA x && shSB x) = true := by
  unfold Operable; decide +kernel
theorem witness_mmaD : let h := shapeRec 8 16 64 0 0 0 1 0 0 0 0 128 2 128 2; let k := kT 0x880 h; let s := sT 0x880 h lsW; let c := s.core 0
    Operable s k ([.tile 4, .shape 1] ++ snames [2]) ([.shape 1] ++ snames [2]) ∧ MatrixRoom s k ∧
    (let f := mtxFmts (shapeAt k 1) k.fmt; mtxFmtOk f.1 f.2 k.fmt true = true ∧ shapeValid (shapeAt k 1) f.1 f.2 (fmtSC k.fmt) true = true) ∧
    (slotOf c 0 4 = none ∧ slotFree c 0 = some 2) ∧ (k.rs 2).toNat % 2 = 0 ∧ fmtSC k.fmt = false := by
  unfold Operable MatrixRoom; decide +kernel
theorem witness_matrix_slots : let k := kT 0x880 0; let s := sT 0x880 0 lsW
    (Operable s k [.tile 3] [] ∧ MatrixRoom s k ∧ slotOf (s.core 0) 0 3 = some 1) ∧ (Operable s k [.tile 15] [] ∧ slotOf (s.core 0) 0 15 = none) ∧
    (let k := { kT 0 0 with regs := (kT 0 0).regs.write 16 8 0x0001000000002000 }; let s := onW homeW k
      Operable s k (snames [1, 2]) (snames [1, 2]) ∧ MatrixRoom s k ∧ (k.rs 1).toNat % 2 = 0 ∧ ((k.rs 2) >>> 48).toNat ≠ 0) := by
  unfold Operable MatrixRoom; decide +kernel
/-- The bundle in hand with a vector 1. -/
def kU (v : Nat) : Issue := vecsW (issueW 0 [(1, 0x1000)]) [(1, v)]
theorem witness_mshape : (let k := kU (shapeRec 8 16 64 0 0 0 1 0 0 0 0 128 2 128 2); let s := onW homeW k
      VecRuns s k 1 [] [1] false [.shape 7] [] anyFmt ∧ shapeLoadable ((operand s k 1 [1] 1).setWidth 512) = true) ∧
    (let k := kU (shapeRec 64 64 512 3 14 1 1 1 1 0 0 128 2 128 0 + 2 ^ 44); let s := onW homeW k
      VecRuns s k 1 [] [1] false [.shape 7] [] anyFmt ∧ shapeLoadable ((operand s k 1 [1] 1).setWidth 512) = false) := by
  unfold VecRuns Operable AllPass; decide +kernel

/-! ### Streams, descriptors, amplitudes -/

def pdM (out : Bool) (base c : Nat) : BitVec 512 := BitVec.ofNat 512 (base + out.toNat * 2 ^ 64 + 2 * 2 ^ 65 + c * 2 ^ 128 + 4 * 2 ^ 160 + 2 ^ 192 + 2 ^ 256 + 2 ^ 320)
theorem witness_pcfg : (let k := kU (pdM true 0x2000 300).toNat; let s := onW homeW k
      VecRuns s k 1 [] [1] false [.portd 7] [] anyFmt ∧ holdsOutput k.before 7 = false ∧ pdValid ((operand s k 1 [1] 1).setWidth 512) = true) ∧
    (let k := kU (pdM true 0x2001 300).toNat; let s := onW homeW k
      VecRuns s k 1 [] [1] false [.portd 7] [] anyFmt ∧ holdsOutput k.before 7 = false ∧ pdValid ((operand s k 1 [1] 1).setWidth 512) = false) := by
  unfold VecRuns Operable AllPass; decide +kernel

def portsM : List Port := [{ v := true, desc := pdM false 0x2000 300, asked := 1, buf := [{ id := 4 }] }, { v := true, desc := pdM true 0x3000 300 }] ++
  List.replicate 6 ({} : Port)
def kPorts : Issue := kOf (fun q => { q with ports := portsM }) [(1, 0x1000), (2, 5)] 0

/-- The second port is forwarded: a splice that names it without KEEP. -/
def kFwd : Issue := { kPorts with before := { kPorts.before with fwd := [(1, 0, [])] } }
def sFwd : State := (onW homeW kFwd).modCtx 0 fun c => { c with splice := some { pkid := 1, ckid := 2, pairs := [(1, 0, 0, false)] } }
theorem witness_pflush_forwarded : sFwd.issue = some kFwd ∧ (kFwd.before.ports.getD 1 {}).v = true ∧ pdOut (kFwd.before.ports.getD 1 {}).desc = true ∧ (fwdOut kFwd.before 1).isSome = true ∧
    fwdKeep sFwd 0 1 = false ∧ (sFwd.seq 0).xf < 63 := by decide +kernel
theorem witness_pflush : let s := onW homeW kPorts; let x := fun p => kPorts.before.ports.getD p {}
    fwdOut kPorts.before 1 = none ∧ s.issue = some kPorts ∧ (x 7).v = false ∧ ((x 0).v = true ∧ pdOut (x 0).desc = false) ∧ ((x 1).v = true ∧ pdOut (x 1).desc = true ∧ (s.seq 0).xf < 63) := by decide +kernel
theorem witness_descriptor_slots : let k := kM 0x1080 .f32; let s := sM 0x1080 .f32
    (Operable s k (snames [5, 1]) (snames [1]) ∧ (s.seq 0).xf < 63 ∧ heldBack s 0 .x true = false ∧ (k.rs 1).toNat % 128 = 0 ∧
      isOk (segs s (coreOf 0) .etlb (asidOf s 0) .x { r := true, w := true } (k.rs 1).toNat 128) [sgB 0x1080 128] = true) ∧
    (Operable s k (snames [5, 1, 2]) (snames [1, 2]) ∧ (k.rs 1).toNat % 64 = 0 ∧
      isOk (segs s (coreOf 0) .etlb (asidOf s 0) .x { r := true } (k.rs 1).toNat 64) [sgB 0x1080 64] = true) := by
  unfold Operable; decide +kernel

/-- A state descriptor of `n` qubits, `l` of them local, over two chips, dies and modules. -/
def stateDesc (n l f : Nat) : BitVec 512 := BitVec.ofNat 512 (n + l * 2 ^ 8 + 2 ^ 16 + 2 ^ 24 + f * 2 ^ 40 + 0xE4 * 2 ^ 48 + 0xE4 * 2 ^ 56 + ((List.range n).map fun q => q * 2 ^ (8 * (16 + q))).sum)
def rW : AeReg := ⟨stateDesc 6 4 0, 0x10000, 0⟩
def kAe (q : Nat) : Issue := kOf (fun y => { y with ae := { y.ae with reg := some rW } }) [(1, 0x1000), (2, q)] 0
def sAe (q : Nat) : State := onW homeW (kAe q)
theorem witness_amplitude : let k := kAe (2 + 3 * 64 + 2 ^ 12); let s := sAe (2 + 3 * 64 + 2 ^ 12); let q := fun j => (k.rs 2).toNat / 2 ^ (6 * j) % 64
    (∀ m ∈ [1, 2, 3, 4], Operable s k (snames [1, 2]) (snames [1, 2]) ∧ (s.seq 0).ae.cmd = none ∧ (s.seq 0).xf < 63 ∧ heldBack s 0 .a true = false ∧ (s.seq 0).ae.reg = some rW ∧
      (∀ j < m, q j < adN rW.desc) ∧ ((List.range m).map q).Nodup ∧ m ≤ adL rW.desc ∧ (k.rs 1).toNat % 16 = 0 ∧
      (let e := if adFmt rW.desc = .f32 then 8 else 16
       isOk (segs s (coreOf 0) .shared (asidOf s 0) .a { r := true } (k.rs 1).toNat (4 ^ m * e)) [sgB 0x1000 (4 ^ m * e)] = true)) ∧
    isOk (segs s (coreOf 0) .shared (asidOf s 0) .a { w := true } (k.rs 1).toNat 16) [sgB 0x1000 16] = true := by
  unfold Operable; decide +kernel
theorem witness_amap : let k := kAe 0x2000; let s := sAe 0x2000
    Operable s k (snames [1, 2]) (snames [1, 2]) ∧ (s.seq 0).ae.cmd = none ∧ (s.seq 0).xf < 63 ∧ heldBack s 0 .a true = false ∧ (k.rs 1).toNat % 64 = 0 ∧ (k.rs 2).toNat % 4096 = 0 ∧
    isOk (segs s (coreOf 0) .shared (asidOf s 0) .a { r := true } (k.rs 1).toNat 64) [sgB 0x1000 64] = true := by
  unfold Operable; decide +kernel
theorem witness_anorm_aswap : let k := kAe (5 + 0 * 64); let s := sAe (5 + 0 * 64); Operable s k (snames [1]) (snames [1]) ∧ Operable s k (snames [2]) (snames [2]) ∧
    (∀ x ∈ [(k.rs 2).toNat % 64, (k.rs 2).toNat / 64 % 64], x < adN rW.desc) ∧ 0 % 1 = 0 := by
  unfold Operable; decide +kernel

/-! ### Channels and tasks -/

/-- A channel entry (spec/16 R301). -/
def ceW (decl fmt depth send pch pid : Nat) : BitVec 40 := BitVec.ofNat 40 (decl * 2 ^ 39 + fmt * 2 ^ 35 + depth * 2 ^ 28 + send * 2 ^ 27 + pch * 2 ^ 21 + pid)
def kCh (c : Chan) (v : Nat) : Issue := vecsW (kOf (fun q => { q with chans := [(3, c)] }) [(1, v)] 0) [(1, 5), (2, 0)]
def sCh (c : Chan) (v : Nat) : State := onW homeW (kCh c v)
def openC (e : BitVec 40) : Chan := { entry := e, cred := 3, buf := [77], pv := true, pm := true }
/-- Open, closed by the peer, closed by itself. -/
theorem witness_send : ∀ x ∈ [(openC (ceW 1 0 4 1 2 1), none), ({ openC (ceW 1 0 4 1 2 1) with peercl := true }, none),
      ({ openC (ceW 1 0 4 1 2 1) with owncl := true }, some ()), (openC (ceW 1 0 4 0 2 1), some ()), ({}, some ())], let k := kCh x.1 0; let s := sCh x.1 0
    Operable s k (vnames 1 [1]) (vnames 1 [1]) ∧ portPath s 0 [1] [] = true ∧ (s.seq 0).cm < 63 ∧ AllPass (portChecks s 0 [1] []) ∧ driftFull s 0 3 = false ∧
    (chanFault k.before 3 true).isSome = x.2.isSome ∧ (x.2 = none → (chanOf k.before 3).pv = true ∧ 0 < (chanOf k.before 3).cred) := by
  unfold Operable AllPass; decide +kernel
/-- A vector waits, or the peer has closed and none does; alone, and combined with a vector. -/
theorem witness_receive : ∀ x ∈ [openC (ceW 1 0 4 0 2 1), { openC (ceW 1 6 4 0 2 1) with peercl := true, buf := [] }], let k := kCh x 0; let s := sCh x 0
    Operable s k (vnames 1 [2]) [] ∧ portPath s 0 [] [2] = true ∧ AllPass (portChecks s 0 [] [2]) ∧
    Operable s k (vnames 1 [2, 1]) (vnames 1 [1]) ∧ portPath s 0 [1] [2] = true ∧ AllPass (portChecks s 0 [1] [2]) ∧
    chanFault k.before 3 false = none ∧ ceFmt (chanOf k.before 3).entry ∈ floats ++ ints ∧
    (chanOf ((popped s k []).seq 0) 3).buf = (chanOf k.before 3).buf ∧ (chanOf ((popped s k [1]).seq 0) 3).buf = (chanOf k.before 3).buf ∧
    ((chanOf k.before 3).buf ≠ [] ∨ (chanOf k.before 3).peercl = true) := by
  unfold Operable AllPass; decide +kernel
theorem witness_channel_slots : (let x := openC (ceW 1 0 4 0 2 1); let k := kCh x 0; let s := sCh x 0
      Operable s k (snames [63]) [] ∧ s.issue = some k ∧ ceDecl (chanOf (s.seq 0) 3).entry = true ∧ (chanOf (s.seq 0) 3).owncl = false ∧ ceDecl (chanOf (s.seq 0) 63).entry = false) ∧
    (∀ v ∈ [(ceW 1 0 4 0 2 1).toNat, (ceW 0 0 0 0 2 1).toNat, (ceW 0 0 65 0 2 1).toNat], let k := kCh {} v; let s := sCh {} v
      Operable s k (snames [1]) (snames [1]) ∧ (2 ^ 39 ≤ (k.rs 1).toNat ∨ ceDepth (BitVec.ofNat 40 (k.rs 1).toNat) = 0 ∨ 64 < ceDepth (BitVec.ofNat 40 (k.rs 1).toNat))) ∧
    (∀ v ∈ [(ceW 0 0 64 0 2 0).toNat, (ceW 0 5 1 1 2 0).toNat], let k := kCh {} v; let s := sCh {} v; let e := BitVec.ofNat 40 v
      Operable s k (snames [1]) (snames [1]) ∧ (k.rs 1).toNat = v ∧ ¬ (2 ^ 39 ≤ v ∨ ceDepth e = 0 ∨ 64 < ceDepth e ∨ peerOk s (k.before.ctx.getD 0) (cePeerId e) = false ∨
      (cePeerId e = seqId s 0 ∧ cePeerCh e = 3) ∨ (ceDecl (chanOf k.before 3).entry = true ∧ (chanOf k.before 3).owncl = false) ∨
      (ceSend e = false ∧ 512 < depthUsed s 0 3 + ceDepth e))) := by
  unfold Operable; decide +kernel

def kSp (flags : Nat) : Issue := issueW 0 [(1, 0x40), (2, 0x2000), (3, 0x3000), (4, flags)]
def taskS (s : State) : State := s.modCtx 0 fun c => { c with packet := 2 }
theorem witness_spawn_retire : (let k := kSp 32; let s := onW homeW k
      Operable s k (snames [1, 1 + 1, 1 + 2, 1 + 3]) (snames [1, 1 + 1, 1 + 2, 1 + 3]) ∧ (s.cluster 0).pushes = [] ∧ 32 ≤ (k.rs (1 + 3)).toNat) ∧
    (let k := kSp 0; let s := onW homeW k
      Operable s k (snames [1, 1 + 1, 1 + 2, 1 + 3]) (snames [1, 1 + 1, 1 + 2, 1 + 3]) ∧ (k.rs (1 + 3)).toNat < 32 ∧ (s.ctxOf 0).isTask = false) ∧
    (let k := kSp 0; let s := taskS (onW homeW k)
      Operable s k (snames [1, 1 + 1, 1 + 2, 1 + 3]) (snames [1, 1 + 1, 1 + 2, 1 + 3]) ∧ (s.ctxOf 0).isTask = true ∧
      pushTrap s 0 { code := (k.rs 1).toNat, frame := (k.rs (1 + 1)).toNat, join := (k.rs (1 + 2)).toNat, flags := (k.rs (1 + 3)).toNat, tenq := s.sys.dtime } = none) ∧
    (let k := kSp 0; Operable (onW homeW k) k (snames [61]) [] ∧ Operable (taskS (onW homeW k)) k (snames [61]) []) := by
  unfold Operable; decide +kernel
end Sys2Proof.Tests
end

