-- ==== Sys2Proof/Tests/WitnessContext.lean ====
section
/-! SUPPORT. Witnesses of LinksRun and ContextsRun: for each clause, a state that meets its hypotheses. -/
set_option maxRecDepth 20000
set_option Elab.async false
namespace Sys2Proof.Tests
open Sys2Proof Sys2Proof.Machine

/-! ### Links -/

/-- Port 2 with flits 5, 6 and 7 unacknowledged. -/
def linkW (f : Link → Link) : State := memW.modSys fun y => { y with links := y.links.set 2 (f { rxSeq := 4095, peer := some 3, replay := [(5, 50), (6, 60), (7, 70)] }) }
/-- A flit of the kind, that carries SEQ 4095 and acknowledges flit 6, or nothing. -/
def flitW (kind payload : Nat) (acks : Bool) : Nat := flitOf (flitHead 4095 6 kind 9 - if acks then 0 else 2 ^ 24) payload
theorem witness_LinksRun_flits : (∀ asked ∈ [true, false], ∀ w ∈ [flitW 0 5 true + 2 ^ 100, flitOf (flitHead 7 6 0 0) 5], let s := linkW fun x => { x with asked := asked }; let x := linkOf s 2
      2 < s.sys.links.length ∧ x.up = true ∧ x.training = false ∧ x.asked = asked ∧ (hopOk w = false ∨ fld w 11 0 ≠ x.rxSeq ∧ x.degraded = false)) ∧
    (∀ len ∈ [8, 512], let w := flitW 0 (({ kind := 1, addr := 0x401000, src := 6144, len := len, data := 5 } : Tx).image 0 % 2 ^ 1920) true; let s := linkW fun x => { x with replay := [] }; let x := linkOf s 2
      2 < s.sys.links.length ∧ x.up = true ∧ x.training = false ∧ hopOk w = true ∧ fld w 11 0 = x.rxSeq ∧ fld w 31 28 = 0 ∧ x.replay = [] ∧ x.partial_ = [] ∧
        ((Tx.ofImage (fld w 1983 64)).bytes ≤ 176 ↔ len = 8)) ∧
    (let s := linkW id; let x := linkOf s 2; let w := flitW 2 0 true; let y := flitW 3 0 false
      2 < s.sys.links.length ∧ x.up = true ∧ x.training = false ∧ hopOk w = true ∧ fld w 11 0 = x.rxSeq ∧ fld w 31 28 = 2 ∧ bit w 24 = true ∧ x.replay = [(5, 50)] ++ (fld w 23 12, 60) :: [(7, 70)] ∧
        (∀ e ∈ [(5, 50)], e.1 ≠ fld w 23 12) ∧ s.sys.remote = [] ∧ s.sys.loose = [] ∧ hopOk y = true ∧ fld y 11 0 = x.rxSeq ∧ fld y 31 28 = 3 ∧ bit y 24 = false) := by decide +kernel
theorem witness_LinksRun_replay : ∀ y ∈ [true, false], let s := linkW fun x => { x with training := y, again := some 6 }
    2 < s.sys.links.length ∧ (linkOf s 2).up = true ∧ (linkOf s 2).freed = 0 ∧ (linkOf s 2).replay = [(5, 50)] ++ (6, 60) :: [(7, 70)] ∧ (∀ e ∈ [(5, 50)], e.1 ≠ 6) ∧
      (linkOf s 2).training = y ∧ (linkOf s 2).again = some 6 ∧ s.sys.remote = [] ∧ s.sys.loose = [] := by decide +kernel
theorem witness_LinksRun_lanes : ∀ lane ∈ [0, 7, 8, 15], ∀ y ∈ [true, false], let s := linkW fun x => { x with degraded := y }
    2 < s.sys.links.length ∧ lane < 16 ∧ (linkOf s 2).up = true ∧ (linkOf s 2).lanes / 2 ^ lane % 2 = 1 ∧ (linkOf s 2).degraded = y := by decide +kernel
/-- A store to module 3, to which no port leads. -/
def farW : Seg := { sg 0x1000 8 with pa := 3 * 2 ^ 46 + 0x1000, fab := true }
def lostW : Remote := { id := 30, tx := { kind := txWrite, addr := 3 * 2 ^ 46 + 0x1000, src := 0, data := 5, len := 8 }, seq := 0 }
def rerouteW : State := (flyW [{ id := 30, path := .s, kind := .store, segs := [farW] }] id).modSys fun y => { y with remote := [lostW], links := List.replicate 16 {} }
theorem witness_LinksRun_reroute : rerouteW.sys.remote = [lostW] ∧ lostW.port = none ∧ lostW.answer = none ∧ lostW.tx.isAnswer = false ∧ routed rerouteW lostW.tx.to = false ∧
    rerouteW.sys.away.contains lostW.tx.to = false ∧ copyChannel rerouteW (coreOf lostW.seq) lostW.id = none ∧ (∀ m ∈ rerouteW.msgs, m.id ≠ lostW.id) ∧
    accOf rerouteW 0 30 = some { id := 30, path := .s, kind := .store, segs := [farW] } ∧ farW.fab = true ∧ farW.pa = lostW.tx.addr ∧ 0 < farW.len := by decide +kernel
/-- A transaction of module 3 has come over port 2, whole or with a bit lost. -/
def txW (kind op len : Nat) : Tx := { kind := kind, addr := 0x401000, src := 6145, num := 77, len := len, data := 1, op := op, chan := 2, dchan := 3 }
def comeW (v : Nat) (inb : List (Nat × Nat × Nat)) : State := ((linkW fun x => { x with whole := [v, 9] }).modSys fun y => { y with inbound := inb }).modSeq 0 fun q =>
  { q with chans := [(3, { entry := BitVec.ofNat 40 (2 ^ 39 + 4 * 2 ^ 28 + 2 * 2 ^ 21 + 6145) })] }
theorem witness_LinksRun_arrival : (∀ e ∈ [(0, 0, 8), (1, 0, 8), (9, 2, 8)], let v := (txW e.1 e.2.1 e.2.2).image (txW e.1 e.2.1 e.2.2).crc; let s := comeW v []; let x := Tx.ofImage v; let pa := localPa x.addr
      2 < s.sys.links.length ∧ (linkOf s 2).whole = v :: [9] ∧ s.sys.remote = [] ∧ s.sys.told = false ∧ imageOk v = true ∧ regionOf pa = .hbm 0 ∧ dieAnswers s 0 = true ∧ s.sys.replicas = [] ∧ 0 < x.len ∧
        pa + x.len ≤ 0x030000000000 ∧ poisoned s pa x.len = false ∧ x.arg = 0 ∧ x.kind = e.1 ∧ x.op = e.2.1 ∧ (x.kind ≠ 9 → x.op % 4 = 0) ∧
        ∀ n ∈ [x.len, 16], plainOk s { va := 0, pa := pa, len := n, at_ := 0, key := x.key } = true) ∧
    (∀ inb ∈ [[], [(3, 77, 2)]], let v := (txW 0 0 8).image ((txW 0 0 8).crc + 1); let s := comeW v inb; let x := Tx.ofImage v
      (linkOf s 2).whole = v :: [9] ∧ s.sys.remote = [] ∧ s.sys.told = false ∧ imageOk v = false ∧ x.kind = 0 ∧ s.sys.inbound = inb ∧ x.from_ = 3 ∧ x.num = 77) := by decide +kernel
theorem witness_LinksRun_vector : let y := { txW 2 0 512 with addr := 0x400000 }; let v := y.image y.crc; let s := comeW v []; let x := Tx.ofImage v; let n := x.addr % 2048; let e := chanOf (s.seq n) x.dchan
    (linkOf s 2).whole = v :: [9] ∧ s.sys.remote = [] ∧ s.sys.told = false ∧ imageOk v = true ∧ x.kind = 2 ∧ x.from_ ≠ s.sys.modid ∧ ctxOfEnd s n (x.launch, x.fabric) = some 0 ∧ drifts s 0 n = false ∧
      ceDecl e.entry = true ∧ ceSend e.entry = false ∧ e.owncl = false ∧ cePeerId e.entry = x.src ∧ cePeerCh e.entry = x.chan ∧ x.gen = 0 := by decide +kernel

/-! ### Stops -/

def causeW : Trap := { cause := .translation, addr := 0x800000, pc := some 16, slot := 2 }
/-- Sequencers 0 and 1 of context 0. -/
def pairW (f g : Seq → Seq) (h : Ctx → Ctx) : State := ((memW.modSeq 0 f).modSeq 1 fun q => g { q with ctx := some 0, st := .running }).modCtx 0 fun x =>
  h { x with seqs := [0, 1], cores := [0], asid := 1, func := 3, lrec := 0x1000 * 2 ^ (8 * 128) }
theorem witness_ContextsRun_decode : (onW homeW (issueW 0 [])).issue = some (issueW 0 []) := by decide +kernel
theorem no_mwait (q : Seq) (h : q.wait = none) : NoMwait q := fun _ _ e => by rw [h] at e; cases e
def causesW (st : SqState) (q : Seq) : Seq := { q with causes := [causeW, causeW], st := st }
theorem witness_ContextsRun_boundary : ∀ st ∈ [SqState.running, .waiting, .idle, .retired], let s := pairW (causesW st) id id
    (s.seq 0).causes = causeW :: [causeW] ∧ (s.seq 0).ctx = some 0 ∧ (s.seq 0).st = st ∧ (s.ctx 0).st = .released ∧ s.issue = none ∧ firstFault s 0 = true ∧ stopDue s 0 = false ∧ (s.seq 0).redo = none ∧ 0 ∈ (s.ctx 0).seqs ∧ (s.ctx 0).seqs.Nodup ∧
      ∀ m ∈ (s.ctx 0).seqs, (s.seq m).wait = none := by decide +kernel
theorem witness_ContextsRun_handler : let s := memW.modSeq 0 fun q => { q with ulist := 2, ulimask := 3, ulivec := 16 }
    uliPending (s.seq 0) = some 1 ∧ (s.seq 0).st = .running ∧ (s.seq 0).causes = [] ∧ (s.seq 0).halting = none ∧ s.issue = none ∧ stopDue s 0 = false := by decide +kernel
theorem witness_ContextsRun_stopped : let s := pairW (fun q => { q with st := .faulted }) (fun q => { q with st := .preempted }) fun x => { x with st := .stopping, frec := 0x123 }
    (s.ctx 0).st = .stopping ∧ ctxQuiet s 0 = true ∧ feLive s s.sys.leader (s.ctx 0).asid (saveAt (s.ctx 0)) 64 = true ∧
    isOk (feSegs s s.sys.leader (s.ctx 0).asid { w := true } (saveAt (s.ctx 0)) 64) [{ sg 0x1000 64 with atomic := true }] = true ∧ PlainSeg s (sg 0x1000 64) ∧ regBusy s [sg 0x1000 64] = false := by
  simp only [plain_iff]; decide +kernel
/-- A stop was requested 20 µs ago, or a moment ago. -/
def stopW (now : Nat) : State := (pairW (fun q => { q with stopReq := true, prebud := 20000 }) id fun x => { x with stopAt := some 7 }).modSys fun y => { y with dtime := now }
theorem witness_ContextsRun_prebud : ∀ now ∈ [20007, 20006], let s := stopW now
    (s.ctxOf 0).stopAt = some 7 ∧ (s.seq 0).stopReq = true ∧ (s.seq 0).st = .running ∧ s.issue = none ∧ (s.seq 0).wait = none ∧ (7 + (s.seq 0).prebud ≤ s.sys.dtime ↔ now = 20007) := by decide +kernel
def quietW (st : SqState) (q : Seq) : Seq := { q with st := st, prev := .running }
theorem witness_ContextsRun_preempted : ∀ st ∈ [CtxSt.released, .faulted], let s := pairW (quietW .preempted) (quietW .preempted) fun x => { x with stopAt := some 7, st := st }
    (s.ctx 0).stopAt = some 7 ∧ (s.ctx 0).st = st ∧ launchOver s 0 = false ∧ ctxQuiet s 0 = true ∧ s.sys.freeze = none ∧ ∀ n ∈ (s.ctx 0).seqs, (s.seq n).ctx = some 0 → (s.seq n).st ≠ .running ∧ (s.seq n).st ≠ .waiting ∧ (s.seq n).st ≠ .calved := by decide +kernel
/-- A page that holds the save area, and one on which it does not fit. -/
def bigPage : Tlb := { pageW with size := 2 ^ 41 + 2 ^ 20 }
def saveW (big : Bool) (st : CtxSt) : State := (pairW (quietW .preempted) (quietW .preempted) fun x => { x with stopAt := some 7, st := st, packet := 1 }).modDie 0 fun d => { d with tlb := if big then [bigPage] else [] }
theorem witness_ContextsRun_save : ∀ big ∈ [true, false], let s := saveW big .saving; let x := s.ctx 0
    x.st = .saving ∧ x.isTask = false ∧ s.sys.freeze = none ∧ killAdmitted s 0 = true ∧ feLive s s.sys.leader x.asid (saveAt x) (saveLen x) = true ∧
      (big = true → isError (feSegs s s.sys.leader x.asid { r := true, w := true } (saveAt x) (saveLen x)) = false) ∧
      (big = false → isError (feSegs s s.sys.leader x.asid { r := true, w := true } (saveAt x) (saveLen x)) = true) := by decide +kernel
/-- The save of that context, and its sequencers free again, or one of them taken. -/
def savedW (taken : Bool) : State := let s := saveW true .saving
  (((s.modSeq 0 fun _ => if taken then { st := .running } else {}).modSeq 1 fun _ => {}).modCore 0 fun c => { c with ls := List.replicate 4 {}, regs := [] }).modCtx 0 fun x => { x with st := .saved, saved := some (saveImage s 0).bare, stopAt := none }
theorem witness_ContextsRun_resume : ∀ taken ∈ [true, false], let s := savedW taken; let x := s.ctx 0; let v := (saveImage (saveW true .saving) 0).bare
    x.st = .saved ∧ x.faulted = [] ∧ serving s = true ∧ leaderOk s = true ∧ wanted s 0 = false ∧ x.saved = some v ∧ placeFree s 0 v = !taken ∧
      isError (feSegs s s.sys.leader x.asid { r := true, w := true } (saveAt x) (saveLen x)) = false ∧ x.seqs.Nodup ∧ (v.seqs.map (·.1)).Nodup ∧ v.seqs.map (·.1) = [0, 1] := by decide +kernel
/-- Function 3 commands a running context, and faulted ones. -/
def faultedW (code : Nat) : State := pairW (quietW .faulted) (quietW .preempted) fun x => { x with st := .faulted, frec := BitVec.ofNat 512 code, faulted := [0] }
theorem witness_ContextsRun_command : (∀ s ∈ [pairW id id id, faultedW 0x13, faultedW 7], Commands s 3 0 ∧ hostOpen s = true ∧ killAdmitted s 0 = true) ∧ isFaulted ((pairW id id id).ctx 0) = false ∧
    (∀ s ∈ [faultedW 0x13, faultedW 7], isFaulted (s.ctx 0) = true) ∧ ((faultedW 0x13).ctx 0).frec.toNat % 256 = 0x13 ∧ ((faultedW 7).ctx 0).frec.toNat % 256 ≠ 0x13 ∧
    (let s := faultedW 7; serving s = true ∧ (s.ctx 0).stopAt = none ∧ (s.ctx 0).st = .faulted ∧ (s.ctx 0).saved = none ∧ (s.ctx 0).seqs.Nodup ∧ ungated s (s.ctx 0).cores = true ∧ ∀ g ∈ (s.ctx 0).cores, dieLive s (dieOf g) = true ∧ codeFree s 0 g = true) := by
  unfold Commands; decide +kernel
/-- A core with two boundaries in its history. -/
def strikeW : State := { memW with hist := [(0, [{ cycle := 9, core := { (memW.core 0) with regs := [(8, 1)] }, seqs := [(0, { pc := 32 })], firstId := 60 }, { cycle := 5, core := memW.core 0, seqs := [], firstId := 50 }])] }
theorem witness_ContextsRun_strike : strikeW.issue = none ∧ (strikeW.core 0).twinOf = none ∧ (∀ k < 2, ((strikeW.hist.getD 0 [])[k]?).isSome = true) ∧
    ∀ p ∈ strikeW.hist.getD 0 [], ∀ i < 4, (strikeW.seq i).epoch = (p.seqs.getD i {}).epoch := by decide +kernel
/-- Core 1 repeats core 0, whose sequencer has a store in flight under identity 61: no difference noted, one of another slot, or one of its own. -/
def twinW (slot : Nat) : State := ((strikeW.modSeq 0 fun q => { q with acc := [{ id := 61, path := .s, kind := .store, segs := [sg 0x1000 8], data := 5, pc := 32, slot := 1 }], st_ := 1 }).modCore 1 fun c => { c with twinOf := some 0 }).modCore 0 fun c =>
  { c with twin := if slot < 4 then [{ id := 55, addr := 0x1000, data := 5, pc := 32, slot := slot, seq := 0, repeated := true }] else [] }
theorem witness_ContextsRun_twin : ∀ slot ∈ [1, 2, 4], let s := twinW slot
    s.issue = none ∧ (s.core 1).twinOf = some 0 ∧ (s.hist.getD 0 [])[1]?.isSome = true ∧ twinEffect s 0 61 = some { id := 61, addr := 0x1000, data := 5, pc := 32, slot := 1, seq := 0 } ∧
      (slot = 1 ↔ ∃ x ∈ (s.core 0).twin, x.pc = 32 ∧ x.slot = 1 ∧ x.held = false ∧ x.seq = 0) := by decide +kernel
/-! A dump, whose length is free: on a page that no dump fills, and on none. -/

/-- An access that lies on one page is one segment. -/
theorem segs_one (s : State) (g : Nat) (wh : Which) (asid : Nat) (path : Path) (n : Needs) (va len : Nat) (e : Tlb) (hv : va < 2 ^ 64) (h0 : 0 < len)
    (hl : lookup s g wh asid va = .ok e) (hc : checkPart s g path n e va len = none) (he : va + len ≤ e.va + e.size) :
    segs s g wh asid path n va len = .ok [{ va := va, pa := e.pa + (va - e.va), fab := !isLocal s e.fab (e.pa + (va - e.va)), len := len, at_ := 0, frame := e.pa, key := e.key, cache := e.c, atomic := e.a }] := by
  have done : ∀ k v l, segsGo s g wh asid path n k v 0 l = .ok [] := fun k v l => by cases k <;> simp [segsGo]
  have hm : Nat.min len (e.va + e.size - va) = len := Nat.min_eq_left (by omega)
  rw [segs, Nat.mod_eq_of_lt hv, segsGo]
  simp only [hl, hc, hm, Nat.sub_self, done, if_neg (Nat.pos_iff_ne_zero.1 h0)]
theorem dump_len (s : State) (c : Nat) (h : (s.ctx c).splice = none) (hr : ((dumpSeqs s c).flatMap fun e => aeBytes e.2.1) = []) :
    0 < (dumpBytes s c).2 ∧ (dumpBytes s c).2 < 2 ^ 37 + 2 ^ 10 := by
  have h2 := Nat.mod_lt (Config.dumpBody 2 ((dumpSeqs s c).flatMap fun e => dumpSeq s (s.ctx c) e.1 e.2.1 e.2.2)).2 (show 0 < 2 ^ 36 by decide)
  have h5 := Nat.mod_lt (Config.dumpBody 5 [(s.ctx c).energy, (s.ctx c).shared.toNat]).2 (show 0 < 2 ^ 36 by decide)
  simp only [dumpBytes, h, hr, dumpSection, freeBody, List.cons_append, List.nil_append, Option.map_none, Option.getD_none, joinBytes]
  omega
/-- A page over the HBM of three dies. -/
def widePage : Tlb := { pageW with size := 0x6000000000, pa := 0x2000000000 }
theorem wide_checked (s : State) (n : Needs) (va len : Nat) (h0 : 0 < len) (h : va + len ≤ 0x6000000000) : checkPart s 0 .f n widePage va len = none := by
  have one : ∀ v, v < 0x6000000000 → checkPage s 0 .f n widePage v = none := fun v hv => by
    have hm : (0x2000000000 + v) % 70368744177664 = 0x2000000000 + v := Nat.mod_eq_of_lt (by omega)
    have hr : regionOf (0x2000000000 + v) = .hbm ((0x2000000000 + v) / 0x2000000000) := by
      rw [regionOf, if_pos (by omega), if_neg (by omega)]
    simp [checkPage, widePage, pageW, isLocal, hm, hr, admitted]
  rw [checkPart, one va (by omega)]
  simp only [List.findSome?_eq_none_iff, List.mem_range]
  intro k hk
  refine one _ ?_
  simp only [widePage, pageW] at hk ⊢
  omega
def dumpW (da : Nat) : State := ((faultedW 7).modFunc 3 fun x => { x with lasid := 1, ctxda := da }).modDie 0 fun d => { d with tlb := [widePage] }
def dumpSeg : Seg := { va := 0x10000, pa := 0x2000010000, len := (dumpBytes (dumpW 0x10000) 0).2, at_ := 0, frame := 0x2000000000, cache := true, atomic := true }
theorem dump_segs (n : Needs) : let s := dumpW 0x10000
    0 < dumpSeg.len ∧ dumpSeg.len < 2 ^ 37 + 2 ^ 10 ∧ feSegs s s.sys.leader (s.func 3).lasid n (s.func 3).ctxda (dumpBytes s 0).2 = .ok [dumpSeg] := by
  have hlen := dump_len (dumpW 0x10000) 0 (by decide +kernel) (by decide +kernel)
  refine ⟨hlen.1, hlen.2, ?_⟩
  have h := segs_one (dumpW 0x10000) 0 .shared 1 .f n 0x10000 (dumpBytes (dumpW 0x10000) 0).2 widePage (by decide) hlen.1 rfl (wide_checked _ n _ _ hlen.1 (by omega)) (by
    have : widePage.va + widePage.size = 0x6000000000 := rfl
    omega)
  exact h
theorem witness_ContextsRun_dump : let s := dumpW 0x10000
    Commands s 3 0 ∧ hostOpen s = true ∧ (s.ctx 0).st = .faulted ∧ feLive s s.sys.leader (s.func 3).lasid (s.func 3).ctxda (dumpBytes s 0).2 = true ∧ feSegs s s.sys.leader (s.func 3).lasid { w := true } (s.func 3).ctxda (dumpBytes s 0).2 = .ok [dumpSeg] ∧ PlainSeg s dumpSeg ∧
      dumpSeg.len = (dumpBytes s 0).2 ∧ regBusy s [dumpSeg] = false := by
  have hlen := dump_segs { w := true }
  refine ⟨by unfold Commands; decide +kernel, by decide +kernel, by decide +kernel, ?_, hlen.2.2, ⟨rfl, rfl, hlen.1, ?_, fun i _ => rfl, fun u hu => (List.not_mem_nil hu).elim, rfl, fun i _ _ => rfl⟩, rfl, ?_⟩
  · rw [feLive, (dump_segs {}).2.2]
    decide +kernel
  · have : localPa dumpSeg.pa = 0x2000010000 := by decide +kernel
    rw [this]
    have : dumpSeg.len = (dumpBytes (dumpW 0x10000) 0).2 := rfl
    omega
  · rfl
theorem witness_ContextsRun_dump_fault : let s := dumpW 0x40000000000
    Commands s 3 0 ∧ hostOpen s = true ∧ (s.ctx 0).st = .faulted ∧ feLive s s.sys.leader (s.func 3).lasid (s.func 3).ctxda (dumpBytes s 0).2 = true ∧ ∃ e, feSegs s s.sys.leader (s.func 3).lasid { w := true } (s.func 3).ctxda (dumpBytes s 0).2 = .error e := by
  have hlen := dump_len (dumpW 0x40000000000) 0 (by decide +kernel) (by decide +kernel)
  obtain ⟨f, hf⟩ := (isError_iff (lookup (dumpW 0x40000000000) 0 .shared 1 0x40000000000)).1 (by decide +kernel)
  have hs : ∀ n, segs (dumpW 0x40000000000) 0 .shared 1 .f n 0x40000000000 (dumpBytes (dumpW 0x40000000000) 0).2 = .error f := fun n => by
    rw [segs, Nat.mod_eq_of_lt (by decide), segsGo]
    simp only [hf, if_neg (Nat.pos_iff_ne_zero.1 hlen.1)]
  refine ⟨by unfold Commands; decide +kernel, by decide +kernel, by decide +kernel, ?_, f, hs _⟩
  have h : feSegs (dumpW 0x40000000000) (dumpW 0x40000000000).sys.leader ((dumpW 0x40000000000).func 3).lasid {} ((dumpW 0x40000000000).func 3).ctxda (dumpBytes (dumpW 0x40000000000) 0).2 = .error f := hs {}
  rw [feLive, h]
end Sys2Proof.Tests
end

