-- ==== Sys2Proof/Tests/WitnessEvents.lean ====
section
/-! SUPPORT. Witnesses for the statements about encodings, steps and bundles, and about how accesses, streams and copies
end: for each clause, a concrete state that meets its hypotheses. -/
set_option maxRecDepth 20000
set_option synthInstance.maxSize 1000
set_option Elab.async false
namespace Sys2Proof.Tests
open Sys2Proof Sys2Proof.Machine

/-! ### Encodings and steps -/

theorem witness_encodings : ((Instr.addi 4 4 64).wf = true ∧ encode (.addi 4 4 64) = some 0x22010440) ∧
    ((Instr.vctrap true 5 21 38 2).wf = true ∧ (encode (.vctrap true 5 21 38 2)).isSome = true) ∧ 0xA2010440 < 2 ^ 32 := by decide +kernel
theorem witness_decoded : decodeSlot 0xA2010440 = .ok (.addi 4 4 64) := rfl

theorem witness_step_free : Free homeW 0 ∧ decodeFault (homeW.seq 0).pc (wordsAt homeW 0) = none := by
  unfold Free; decide +kernel
/-- A bundle of one word, `nop` with S. -/
theorem witness_step_one : Free homeW 0 ∧ wordsAt homeW 0 = [0x90000000] ∧ decodeFault (homeW.seq 0).pc [0x90000000] = none ∧
    itemsAt homeW 0 = [{ pos := 0, word := 0x90000000 }] := by
  unfold Free; decide +kernel
theorem witness_step_item : decodeSlot (0x90000000 : BitVec 32).toNat = .ok .nop ∧ (∃ u, exec .nop (homeW.modIssue (atSlot { pos := 0, word := 0x90000000 })) = .next u) ∧
    ∃ u, exec .nop ((settleT (beginIssue homeW 0 [0x90000000]) 0).modIssue (atSlot { pos := 0, word := 0x90000000 })) = .next u := ⟨rfl, ⟨_, rfl⟩, ⟨_, rfl⟩⟩
/-- The core's first sequencer has the turn and issues. -/
def stepW : State := { homeW with schedule := [.issue 0] }
theorem witness_step_core : stepW.schedule = .issue 0 :: [] ∧ stepW.sys.power ≠ .dormant ∧ isPaused (stepW.core 0) = false ∧ issueOrder stepW 0 = 0 :: [1, 2, 3] ∧
    (match turnOf { stepW with schedule := [] } 0 with
      | .issued _ w _ => !overLimit (stepW.core 0) (w + engineWeight (stepW.core 0))
      | _ => false) = true := by decide +kernel
theorem witness_step_event : let s := { homeW with schedule := [.event .patrolScrub [1, 2]] }
    s.schedule = .event .patrolScrub [1, 2] :: [] ∧ s.sys.power ≠ .dormant := by decide +kernel
theorem witness_bundle : let b : Issue := { issueW 0 [] with raised := [⟨4, 2, { cause := .permission }⟩, ⟨3, 1, { cause := .illegalInstr }⟩] }
    let t := { homeW with issue := some b }
    (t.issue = some b ∧ b.stall = none ∧ firstRaised b.raised = some ⟨3, 1, { cause := .illegalInstr }⟩ ∧ ∀ r ∈ b.raised, r.phase ≠ 1) ∧
    (let c := { b with stall := some .notReady }; c.stall = some .notReady ∧ ∀ r ∈ c.raised, r.phase ≠ 1) ∧
    (let c := { b with raised := [], stall := some (.wait .slot) }; c.stall = some (.wait .slot) ∧ ∀ r ∈ c.raised, r.phase ≠ 1) := by decide +kernel
theorem witness_step_memory : homeW.mem.wf = true ∧ (∃ t, step stepW = .next t) := ⟨by decide +kernel, ⟨_, rfl⟩⟩

/-! ### Accesses that end -/

def loadA (w : Nat) : Access := { id := 4, path := .s, kind := .load (.bytes 40 8) w true, segs := [sg 0x1000 w] }
def otherA : Access := { id := 9, path := .s, kind := .store, segs := [sg 0x1F00 8], data := 5 }
theorem witness_plain : ∀ x ∈ [sg 0x1000 1, sg 0x1000 8, sg 0x1000 512, sg 0x1078 8, sg 0x1020 32, sg 0x1FFFFF 1], PlainSeg memW x := by
  simp only [plain_iff]; decide +kernel
/-- The widths of a scalar load, and a load that ends with its line. -/
theorem witness_load_complete : ∀ a ∈ [loadA 1, loadA 2, loadA 4, loadA 8, { loadA 8 with segs := [sg 0x1078 8] }], let s := flyW [otherA, a] id
    accOf s 0 4 = some a ∧ loadTurn (s.seq 0) 4 = true ∧ depsMet s 0 a.after = true ∧ a.calved = false ∧ a.home = false ∧ a.path = .s ∧
    (∀ x ∈ a.segs, PlainSeg s x ∧ (localPa x.pa) % 128 + x.len ≤ 128) ∧ segsLive s a.segs = true := by
  simp only [plain_iff]; decide +kernel
theorem witness_load_abort : let a := { loadA 8 with kind := .load .discard 8 true }; let s := { flyW [otherA, a] id with poison := [0x401000] }
    accOf s 0 4 = some a ∧ loadTurn (s.seq 0) 4 = true ∧ depsMet s 0 a.after = true ∧ a.calved = false ∧ a.home = false ∧ farDone s 0 a = true ∧ segsLive s a.segs = true ∧
    loadPoisoned s 0 a.path (a.segs.filter (!·.fab)) a.fresh = some 0x1000 := by decide +kernel
theorem witness_store_applied : let a : Access := { id := 4, path := .s, kind := .store, segs := [sg 0x1000 8], data := 2 ^ 64 - 1 }
    let s := (flyW [otherA, a] id).modSeq 5 fun q => { q with watch := some (0x401000, 0x1000, false) }
    accOf s 0 4 = some a ∧ PlainSeg s (sg 0x1000 8) ∧ mayApply s 0 a = true ∧ (s.seq 5).watch = some (0x401000, 0x1000, false) ∧
    meet (localPa (sg 0x1000 8).pa) 8 0x401000 128 = true := by
  simp only [plain_iff]; decide +kernel
theorem witness_fill_complete : let a : Access := { id := 4, path := .x, kind := .fill, segs := [sg 0x1000 512], data := 77 }; let s := flyW [otherA, a] id
    accOf s 0 4 = some a ∧ mayApply s 0 a = true ∧ xClear s 0 4 [] [sg 0x1000 512] = true := by decide +kernel
/-- Each kind of bank operation. -/
theorem witness_bau : ∀ a ∈ ([{ id := 4, path := .b, kind := .bank .cas .i64 7 0x99AABBCCDDEEFF00 (.bytes 40 8), segs := [sg 0x1010 8] },
      { id := 4, path := .b, kind := .bank .min .f32 7 0 (.bytes 40 8), segs := [sg 0x1010 4] },
      { id := 4, path := .b, kind := .vbred .max .bf16, segs := [sg 0x1000 512], data := 5 }, { id := 4, path := .b, kind := .tb (.arrive 1), segs := [sg 0x1020 32] }] : List Access),
    let s := flyW [otherA, a] id
    accOf s 0 4 = some a ∧ a.path = .b ∧ (∀ x ∈ a.segs, PlainSeg s x) ∧ mayApply s 0 a = true := by
  simp only [plain_iff]; decide +kernel
theorem witness_other_ends : (let a := { loadA 8 with calved := true }; let s := flyW [a] id; accOf s 0 4 = some a ∧ a.calved = true ∧ a.stale = false ∧ segsLive s a.segs = true) ∧
    (let a := { loadA 8 with stale := true, calved := true }; let s := flyW [a] id; accOf s 0 4 = some a ∧ a.stale = true ∧ (∀ x ∈ a.segs, x.fab = false) ∧ s.sys.remote = [] ∧
      a.path = .s ∧ isOk (retranslate s (coreOf 0) .dtlb (asidOf s 0) a.path (needsOf a.kind) a.segs) [{ sg 0x1000 8 with atomic := true }] = true) ∧
    (regionOf 0x40001F = .hbm 0 ∧ memW.poison.contains (0x40001F / 32 * 32) = false ∧ (memW.func 5).msixMask.contains 2 = false) := by decide +kernel
/-- Tables of four levels for address space 3, one page of 4 KiB mapped at 0x405000. -/
def walkW : State := { memW with
  sys := { memW.sys with asids := memW.sys.asids.put 3 (BitVec.ofNat 128 (1 + 0x10000000)) }
  mem := (((memW.mem.write 0x10000000 8 (0x10001000 + 1)).write 0x10001000 8 (0x10002000 + 1)).write 0x10002010 8 (0x10003000 + 1)).write 0x10003028 8 (0x500000 + 0x7F) }
theorem witness_page_walk : isError (translate walkW 3 0x1000) = true ∧ isError (translate walkW 3 0x405123) = false := by decide +kernel

theorem witness_barrier_rules : BankTy.z32 ∈ [BankTy.i32, .z32] ∧ (2 ^ 20 - 1 < 2 ^ 20) ∧ (2 ^ 32 - 1 < 2 ^ 32) := by decide +kernel

/-! ### Streams and descriptors -/

def pdE (out : Bool) (base c : Nat) : BitVec 512 := BitVec.ofNat 512 (base + out.toNat * 2 ^ 64 + 2 * 2 ^ 65 + c * 2 ^ 128 + 4 * 2 ^ 160 + 2 ^ 192 + 2 ^ 256 + 2 ^ 320)
def inP (issued : Bool) (base : Nat) : Port := { v := true, desc := pdE false base 300, asked := 2, buf := [{ id := 2, issued := issued }, { id := 4 }] }
def outP : Port := { v := true, desc := pdE true 0x3000 300, buf := [{ id := 6, vec := some 5 }, { id := 16, vec := some 5 }] }
def portW (l : List Port) (acc : List Access) : State := memW.modSeq 1 fun _ => { memW.seq 0 with ports := l ++ List.replicate (8 - l.length) ({} : Port), acc := acc, xf := 4 }
def flushA (ids : List Nat) : Access := { id := 50, path := .f, kind := .flush ids, segs := [] }
theorem witness_pflush_complete : (let s := portW [inP false 0x1000, outP] [flushA [3, 99], { id := 3, path := .p, kind := .portOut 1 3, segs := [], home := true }]
      accOf s 1 50 = some (flushA [3, 99]) ∧ ∀ i ∈ [3, 99], (∀ x ∈ (s.seq 1).acc, x.id = i → x.home = true) ∧ ∀ x ∈ (s.seq 1).ports, pdOut x.desc = true → ∀ e ∈ x.buf, e.id ≠ i) ∧
    (let s := portW [inP false 0x1000, outP] [flushA [3], { id := 3, path := .p, kind := .portOut 1 3, segs := [] }];
      accOf s 1 50 = some (flushA [3]) ∧ ∃ i ∈ [3], ∃ x ∈ (s.seq 1).acc, x.id = i ∧ x.home = false) := by decide +kernel
theorem witness_generator : (let s := portW [inP false 0x1000, outP] []; let e : PortEntry := { id := 6, vec := some 5 }; let rest : List PortEntry := [{ id := 16, vec := some 5 }]
      genChoice s 0 1 = some 1 ∧ ((s.seq 1).ports.getD 1 {}).buf = e :: rest ∧ pdOut ((s.seq 1).ports.getD 1 {}).desc = true ∧ ∀ x ∈ rest, x.id ≠ e.id) ∧
    (let s := portW [inP false 0x1000, outP] []; let e : PortEntry := { id := 2 }; let rest : List PortEntry := [{ id := 4 }]
      genChoice s 0 0 = some 1 ∧ ((s.seq 1).ports.getD 0 {}).buf = e :: rest ∧ pdOut ((s.seq 1).ports.getD 0 {}).desc = false ∧ e.issued = false ∧ e.vec = none ∧ ∀ x ∈ rest, x.id ≠ e.id) := by
  decide +kernel
theorem witness_arrival : (let s := portW [inP true 0x1000, outP] []; let x := (s.seq 1).ports.getD 0 {}; let e : PortEntry := { id := 2, issued := true }; let rest : List PortEntry := [{ id := 4 }]
      0 < (s.seq 1).ports.length ∧ pdOut x.desc = false ∧ x.buf = e :: rest ∧ e.issued = true ∧ e.vec = none ∧ e.fault = none ∧ (∀ y ∈ rest, y.id ≠ e.id) ∧ depsMet s 1 e.after = true ∧
      (match entrySegs s 1 x 0 with
        | .ok l => segsLive s l && portClear s 1 e.id false l && loadPoisoned s 0 .p l = none
        | .error _ => false) = true) ∧
    (let s := portW [inP true 0x1FFF00, outP] []; let x := (s.seq 1).ports.getD 0 {}; isError (entrySegs s 1 x 0) = true) := by decide +kernel

/-- A record of two dimensions (spec/18 R335), unsealed. -/
def recBytes (base : Nat) (str : Nat) : Nat := base + 2 * 2 ^ 72 + 7 * 2 ^ 80 + 64 * 2 ^ 128 + 16 * 2 ^ 160 + 4 * 2 ^ 320 + str * 2 ^ 384 + 32 * 2 ^ 640 + 8 * 2 ^ 672
def sealedW (r : Nat) : Nat := r + recCrc r * 2 ^ 96
/-- A last over the records at 0x3000 and 0x3080 and the barrier at 0x3100. -/
def lastW (r1 r2 : Nat) : Nat := 0x3000 + 0x3080 * 2 ^ 64 + 0x3100 * 2 ^ 128 + 2 ^ 207 + recVersion r1 * 2 ^ 224 + recVersion r2 * 2 ^ 240 + recSeal r1 * 2 ^ 256 + recSeal r2 * 2 ^ 288
def recsW (r1 r2 e : Nat) : State := ({ memW with mem := ((memW.mem.write 0x403000 128 r1).write 0x403080 128 r2).write 0x403100 16 (5 + 16 + 2 ^ 24) } : State).modCtx 0 fun c =>
  { c with lasts := [(5, BitVec.ofNat 512 e)] }
def r1W : Nat := recBytes 0x4000 512
def r2W : Nat := recBytes 0x8000 256
def unitA (k : AccKind) (x : Seg) : Access := { id := 50, path := .x, kind := k, segs := [x], data := 50 }
def unitW (s : State) (a : Access) : State := s.modSeq 0 fun q => { q with acc := [a], xf := 3 }
/-- A record that seals, and one whose status is not zero. -/
theorem witness_pseal_complete : (∀ r ∈ [r1W, 0], let x := sg 0x3000 128; let a := unitA (.seal (.bytes 40 8)) x; let s := unitW (recsW r r2W 0) a
      accOf s 0 50 = some a ∧ PlainSeg s x ∧ depsMet s 0 a.after = true ∧ segsLive s [x] = true ∧ storesClear s 0 50 [x] = true ∧
      xClear s 0 50 [x] [x] = true ∧ causal s 0 50 = true) ∧ recStatus r1W = 0 ∧ recStatus 0 ≠ 0 := by
  simp only [plain_iff]; decide +kernel
theorem witness_lset_complete : ∀ d ∈ [0x3000 + 0x3080 * 2 ^ 64 + 0x3100 * 2 ^ 128, 2 ^ 207, 0x3001], let x := sg 0x3200 64; let a := unitA (.last (.bytes 40 8) 5) x
    let s := unitW { recsW (sealedW r1W) (sealedW r2W) 0 with mem := (recsW (sealedW r1W) (sealedW r2W) 0).mem.write 0x403200 64 d } a
    accOf s 0 50 = some a ∧ PlainSeg s x ∧ depsMet s 0 a.after = true ∧ segsLive s [x] = true ∧ storesClear s 0 50 [x] = true ∧ xClear s 0 50 [x] [] = true ∧ causal s 0 50 = true ∧
    lastFree s ((s.seq 0).ctx.getD 0) 5 a.data = true ∧ lastsLive s ((s.seq 0).ctx.getD 0) = true ∧ (match lastCheck s 0 50 5 (physRead s (localPa x.pa) 64 x.key) with
      | .status _ _ => true
      | _ => false) = true := by
  simp only [plain_iff]; decide +kernel

/-! ### Copies -/

def copyW : Copy := { seq := 0, ctx := 0, word := BitVec.ofNat 64 (5 + 2 ^ 12), pc := 8, slot := 2, id := 60 }
def channelW (s : State) (l : List Copy) : State := (s.modCore 0 fun x => { x with bte := x.bte.set 3 l }).modSeq 0 fun q => { q with xf := 3 }
/-- What a record read gave. -/
def recIs (r : RecRead) (v : Nat) : Bool := match r with
  | .ok _ x => x = v
  | _ => false
theorem recIs_iff (r : RecRead) (v : Nat) : recIs r v = true ↔ ∃ l, r = .ok l v := by
  cases r <;> simp [recIs]
/-- The head of channel 3, before its records are read. -/
theorem witness_copy_head : ∀ e ∈ [0, lastW (sealedW r1W) (sealedW r2W), lastW r1W (sealedW r2W)], let s := channelW (recsW (sealedW r1W) (sealedW r2W) e) [copyW]
    ((s.core 0).bte.getD 3 []) = [copyW] ∧ coreOf copyW.seq = 0 ∧ copyW.read = false ∧ engineOn s copyW.ctx 0 = true ∧ depsMet s copyW.seq copyW.after = true ∧ noHalf s 0 = true ∧ lastsLive s copyW.ctx = true ∧ copyW.entry = none ∧
    e % 2 ^ 512 = ((s.ctx copyW.ctx).lasts.getD (copyW.word.toNat % 4096) 0).toNat ∧ (∀ q ∈ s.seqs, q.2.acc = []) := by decide +kernel
/-- A last that is not valid, records that match it and a record that does not. -/
theorem witness_copy_records : lastV 0 = false ∧ (let e := lastW (sealedW r1W) (sealedW r2W); let p := sealedW r1W; let q := sealedW r2W
      let u := modCopy (leaves (channelW (recsW p q e) [copyW]) 0 60) 0 3 (fun c => { c with entry := some (BitVec.ofNat 512 e) })
      let row0 := copyW.word.toNat / 2 ^ 12 % 2 ^ 26; let col0 := copyW.word.toNat / 2 ^ 38
      let nib := decide (recElem p = 0) && !(recPaired p col0 && recPaired q col0)
      lastV e = true ∧ recIs (readRec u 0 60 (lastSrc e) 128 1) p = true ∧ recIs (readRec u 0 60 (lastDst e) 128 2) q = true ∧ recSealed p = true ∧ recSealed q = true ∧
      isOk (barrierOf u 0 (lastBar e)) [sgB 0x3100 32] = true ∧ recSeal p = lastSeal e false ∧ recVersion p = lastVer e false ∧ recSeal q = lastSeal e true ∧ recVersion q = lastVer e true ∧
      bauHere [sgB 0x3100 32] = true ∧ segsLive u [sgB 0x3100 32] = true ∧ copyW.stopped = none ∧ copyW.flying = [] ∧
      mergeRuns (recUnit p nib) ((recWalk p row0 col0 nib).zip (recWalk q row0 col0 nib)) ≠ []) ∧
    (let e := lastW r1W (sealedW r2W); lastV e = true ∧ recSealed (sealedW r1W) = true ∧ recSeal (sealedW r1W) ≠ lastSeal e false) := by decide +kernel
/-- A piece of a run longer than a piece, one that ends with its page, and a short one. -/
theorem witness_copy_piece : ∀ r ∈ [(0x4000, 0x8000, 9000), (0x1FFF00, 0x8000, 600), (0x4000, 0x8000, 128)], let c := { copyW with read := true, runs := [r, (5, 6, 7)], started := 4 }
    let s := channelW memW [c]
    headCopy s 0 3 = some c ∧ c.read = true ∧ c.stopped = none ∧ c.unit = 1 ∧ bteOn s c.ctx 0 3 = true ∧ isError (pageRoom s 0 (asidOf s c.seq) { r := true } r.1) = false ∧
    isError (pageRoom s 0 (asidOf s c.seq) { w := true } r.2.1) = false ∧ xClear s c.seq c.id [sg r.1 256] [sg r.2.1 256] = true := by decide +kernel
/-- A piece of 256 bytes. -/
def pieceW : Piece := { no := 4, src := [sg 0x1000 256], dst := [sg 0x8010 256], a := 0x1000, b := 0x8010, len := 256 }
/-- The last piece of a copy with an interrupt, and one that leaves more to do. -/
theorem witness_copy_complete : ∀ runs ∈ ([[], [(1, 2, 3)]] : List (List (Nat × Nat × Nat))),
    let c := { copyW with read := true, runs := runs, flying := [pieceW], started := 5, bar := 0x403100, uli := true }
    let s := channelW (recsW (sealedW r1W) (sealedW r2W) 0) [c, { copyW with id := 61 }]
    (s.core 0).bte.getD 3 [] = [c, { copyW with id := 61 }] ∧ c.stopped = none ∧ c.read = true ∧
    c.flying.find? (fun p => p.no = 4) = some pieceW ∧ pieceW.stale = false ∧ c.bar % 32 = 0 ∧ s.sys.replicas = [] ∧ causal s c.seq 0 = true ∧ barLive s c = true ∧
    segsLive s [sg 0x1000 256, sg 0x8010 256] = true ∧ c.bar + 32 ≤ localPa (sg 0x8010 256).pa ∧ (∀ p ∈ c.flying, p.no = 4) := by decide +kernel
theorem witness_copy_plain : ∀ x ∈ [sg 0x1000 256, sg 0x8010 256], PlainSeg (recsW (sealedW r1W) (sealedW r2W) 0) x := by
  simp only [plain_iff]; decide +kernel
end Sys2Proof.Tests
end

