-- ==== Sys2Proof/Tests/WitnessFront.lean ====
section
/-! SUPPORT. Witnesses of FrontEndRuns and LaunchesRun: for each clause, a state that meets its hypotheses. -/
set_option maxRecDepth 20000
set_option Elab.async false
namespace Sys2Proof.Tests
open Sys2Proof Sys2Proof.Machine

/-- Ring 5 of function 3, on, of 64 packets at 0x10000, whose 70th entry holds this packet. -/
def ringW (head tail : Nat) (p : Nat) (f : Ring → Ring) : State :=
  let s := { memW with mem := (memW.mem.write 0x410180 64 p).write 0x403000 8 9 }
  let s := s.modFunc 3 fun x => { x with lasid := 1 }
  s.modRing 3 5 fun x => f { x with rbase := 0x10000, rctl := 0xD, tail := tail, head := head }
def packetW (p : Nat) : Packet := { raw := BitVec.ofNat 512 p, at_ := 0x10180, next := (71, []) }
/-- The packet is the first of those read ahead, with the context of a launch packet. -/
def headW (p : Nat) (c : Option Nat) (hold : Option Hold) : State := ringW 70 71 p fun x => { x with ahead := [(packetW p, c)], hold := hold }

/-- A ring that is off, one that is on, an empty one, and one whose TAIL is out of range. -/
theorem witness_FrontEndRuns_registers : hostOpen (ringW 70 71 0 id) = true ∧ bit ((ringW 70 71 0 fun x => { x with rctl := 0 }).ring 3 5).rctl 0 = false ∧ bit ((ringW 70 71 0 id).ring 3 5).rctl 0 = true ∧
    ((ringW 70 71 0 fun x => { x with rstat := 0x503 }).ring 3 5).rstat % 8 &&& 3 = 3 := by decide +kernel
theorem witness_FrontEndRuns_fetch : (∀ p ∈ [5, 4, 14], let s := ringW 70 71 p id; let x := s.ring 3 5
      ringOn s 3 5 = true ∧ x.ahead = [] ∧ x.stack = [] ∧ x.head ≠ x.tail ∧ (x.tail + 2 ^ 32 - x.head) % 2 ^ 32 ≤ 64 ∧ feLive s s.sys.leader (s.func 3).lasid 0x10180 64 = true ∧
      isOk (feRead (feSeen s s.sys.leader (s.func 3).lasid 0x10180 64) s.sys.leader (s.func 3).lasid 0x10180 64) p = true) ∧
    packetCode homeW 3 0 5 = 0 ∧ pkType 5 = 5 ∧ packetCode homeW 3 0 4 ≠ 0 ∧ packetCode homeW 3 0 14 ≠ 0 ∧
    ringOn (ringW 70 70 5 id) 3 5 = true ∧ ringOn (ringW 70 135 5 id) 3 5 = true ∧ 64 < (135 + 2 ^ 32 - 70) % 2 ^ 32 := by decide +kernel
/-- A gang packet whose record's address is odd is read as a launch, of status 2. -/
def oddW : Nat := 1 + 0x3001 * 2 ^ 64
theorem witness_FrontEndRuns_launch : packetCode homeW 3 0 oddW = 0 ∧ pkType oddW = 1 ∧
    (let u := feSeen (ringW 70 71 oddW id) 0 1 0x10180 64
    launchLive u 3 oddW = true ∧ isOk (readLaunch u 3 5 oddW) { func := 3, ring := 5, asid := 1, packet := BitVec.ofNat 512 oddW, status := 2 } = true) := by decide +kernel
/-- A granted launch that waits for a victim, one not yet granted, one refused: of both packet types. -/
def launchW (type : Nat) (c : Ctx) : State := (headW (type + 0x3000 * 2 ^ 64) (some 4) none).modCtx 4 fun _ => { c with func := 3, ring := 5, asid := 1 }
theorem witness_FrontEndRuns_issue : ∀ type ∈ [1, 2], ∀ c ∈ [({ st := .granted, victims := [0] } : Ctx), { st := .queued }, { st := .queued, status := 2 }],
    let s := launchW type c
    ringOn s 3 5 = true ∧ (s.ring 3 5).hold = none ∧ (s.ring 3 5).ahead.head? = some (packetW (type + 0x3000 * 2 ^ 64), some 4) ∧ (s.ctx 4).second = none ∧
      launchOut s 3 5 = false ∧ pkType (packetW (type + 0x3000 * 2 ^ 64)).raw.toNat = type := by decide +kernel
/-- CALL, RET, JOIN with and without a launch out, FENCE below and above its value, WAKEAT before and after its time. -/
def otherPackets : List Nat := [3 + 0x4000 * 2 ^ 64 + 2 * 2 ^ 128, 4, 5, 6 + 0x3000 * 2 ^ 64 + 9 * 2 ^ 128, 6 + 0x3000 * 2 ^ 64 + 10 * 2 ^ 128, 9, 9 + 5 * 2 ^ 64]
theorem witness_FrontEndRuns_others : (∀ p ∈ otherPackets, AtHead (headW p none none) 3 5 (packetW p) none ∧ launchOut (headW p none none) 3 5 = false ∧
      launchOut ((headW p none none).modCtx 4 fun _ => { st := .released, issued := true, func := 3, ring := 5 }) 3 5 = true ∧
      feLive (headW p none none) 0 1 0x3000 8 = true ∧
      isOk (feRead (feSeen (headW p none none) 0 1 0x3000 8) (headW p none none).sys.leader ((headW p none none).func 3).lasid 0x3000 8) 9 = true ∧
      IssuedPlain (headW p none none) 3 5) ∧ (headW 9 none none).sys.dtime < 5 := by unfold AtHead IssuedPlain; decide +kernel
theorem witness_FrontEndRuns_held : (∀ h ∈ [Hold.fence 0x3000 9 0, .wakeAt 0], let s := headW 6 none (some h)
    ringOn s 3 5 = true ∧ (s.ring 3 5).hold = some h ∧ (s.ring 3 5).ahead.head? = some (packetW 6, none) ∧ 0 ≤ s.sys.dtime) ∧
    (let s := memW.modCtx 4 fun _ => { st := .queued, lrec := 8 * 2 ^ 800 + 5 * 2 ^ 1088 }
     ctxAlive s 4 = true ∧ isHib (s.ctx 4) = true ∧ (s.ctx 4).st = .queued) := by decide +kernel

/-! ### Launches -/

/-- A launch of one sequencer of core 3, at the head of ring 5 of function 3. -/
def gangCtx (st : CtxSt) : Ctx := { st := st, func := 3, ring := 5, asid := 1, issued := decide (st = .granted), cores := [3], lrec := 2 ^ (8 * 101) + 2 ^ (8 * 192 + 3)
                                    packet := BitVec.ofNat 512 (1 + 0x3000 * 2 ^ 64 + 0x3100 * 2 ^ 128), image := { entry := 0x40, win := 4096, code := [0x90000000] } }
def gangW (st : CtxSt) : State := (headW (1 + 0x3000 * 2 ^ 64) (some 4) none).modCtx 4 fun _ => gangCtx st
theorem witness_LaunchesRun_grant : grantChoice (gangW .queued) = some (0, 3, 5, 4) ∧ leaderOk (gangW .queued) = true ∧ victimsFor (gangW .queued) 4 = some [] := by decide +kernel
/-- A launch that can be released, and one whose synchronisation word lies on a page that nothing maps. -/
def badSync (c : Ctx) : Ctx := { c with lrec := c.lrec + 0x3200 * 2 ^ (8 * 88) + 2 ^ (8 * 96) }
def gangBad : State := { (gangW .granted).modCtx 4 badSync with mem := (gangW .granted).mem.write 0x403200 8 0x900000 }
theorem witness_LaunchesRun_release : (∀ s ∈ [gangW .granted, gangBad], let x := s.ctx 4
      s.sys.power = .run ∧ leaderOk s = true ∧ s.sys.freeze = none ∧ x.isTask = false ∧ x.st = .granted ∧ x.issued = true ∧ x.victims = [] ∧ x.lr 80 8 ≤ s.sys.dtime ∧
      ungated s (reservedCores x) = true ∧ launchFits s [] 4 = true ∧ prepareLive s 4 = true ∧ x.again = none) ∧
    (let s0 := fun (s : State) => (s.ctx 4).cores.foldl (fun s g => loadCore s 4 g) s
     (prepare (s0 (gangW .granted)) 4 false).2 = true ∧ (prepare (s0 (gangW .granted)) 4 false).1.ctx 4 = (gangW .granted).ctx 4 ∧ (prepare (s0 gangBad) 4 false).2 = false) := by decide +kernel
/-- A launch whose one sequencer has retired. -/
def overW : State := (homeW.modSeq 0 fun q => { q with st := .retired }).modCtx 0 fun c => { c with seqs := [0] }
theorem witness_LaunchesRun_complete : launchOver overW 0 = true ∧ allPerformed overW 0 = true ∧ overW.sys.freeze = none ∧ (overW.seq 0).ctx = some 0 ∧ 0 ∈ (overW.ctx 0).seqs := by decide +kernel
/-- The lease holds; the lease has run out, and die 2 is the lowest whose checks pass. -/
def lateLease : State := homeW.modSys fun y => { y with dtime := 10000001 }
theorem witness_LaunchesRun_lease : leaderOk homeW = true ∧ serving homeW = true ∧ lateLease.sys.lease < lateLease.sys.dtime ∧ 2 ≠ lateLease.sys.leader ∧ bit 12 2 = true ∧ dieLive lateLease 2 = true ∧
    ∀ e < 2, e = lateLease.sys.leader ∨ bit 12 e = false ∨ dieLive lateLease e = false := by decide +kernel
end Sys2Proof.Tests
end

