-- ==== Sys2Proof/Tests/WitnessFreeze.lean ====
section
/-! SUPPORT. Witnesses of FreezeThawCheckpoint: for each clause, a state that meets its hypotheses. -/
set_option maxRecDepth 20000
set_option Elab.async false
set_option synthInstance.maxSize 1000
namespace Sys2Proof.Tests
open Sys2Proof Sys2Proof.Machine

/-! ### Freeze -/

/-- A module in FREEZE whose sequencer stands frozen; address space 1 is function 0's. -/
def frozenW (z : Freeze) : State := (memW.modSeq 0 fun q => { q with st := .frozen, below := some .running, stepno := 6 }).modSys fun y =>
  { y with power := .freeze, freeze := some z, charge := 1000, asids := [(1, 1)], links := y.links.set 2 { peer := some 3 } }
theorem witness_FreezeThawCheckpoint_stopped : let s := frozenW { stage := 0 }
    s.sys.freeze = some { stage := 0 } ∧ (∀ n ∈ s.seqs.map (·.1), seqQuiet s n = true) ∧ (linkOf s 2).up = true ∧ (linkOf s 2).peer.isSome = true ∧ s.sys.links.length = 16 := by decide +kernel
/-- One region of 4 KiB at 0x1000: skipped for its reserved bits, cut off by the reserve, and drained. -/
def drainW (rsv : Bool) (len : Nat) : Drain := { va := 0x1000, len := len, asid := 1, v := true, rsv := rsv.toNat * 2 ^ 48 }
def drainZ (e : Nat) (rsv : Bool) (len : Nat) : Freeze := { stage := 2, released := true, e := e, todo := [(4, drainW rsv len), (7, {})], quotas := [(0, 2 ^ 47)] }
theorem witness_FreezeThawCheckpoint_drain : (let s := frozenW { stage := 1, released := true }; s.sys.freeze = some { stage := 1, released := true }) ∧
    drainSkipped (frozenW (drainZ 1000 true 4096)) (drainZ 1000 true 4096) (drainW true 4096) = true ∧
    (let z := drainZ 150 false 4096; let s := frozenW z; drainSkipped s z (drainW false 4096) = false ∧ z.trunc = 0xFFFFFFFF ∧ Nat.min ((z.e - 150) * 16000000000 / 21) (448 * 2 ^ 30) < z.summed + drainSize s z (drainW false 4096)) ∧
    (let z := drainZ 151 false 4096; let s := frozenW z; drainSkipped s z (drainW false 4096) = false ∧ (drainW false 4096).wc = false ∧ z.summed + 4096 ≤ Nat.min ((z.e - 150) * 16000000000 / 21) (448 * 2 ^ 30) ∧
      isOk (feRead s 0 1 0x1000 4096) (0x1122334455667788 + 0x99AABBCCDDEEFF00 * 2 ^ 128) = true) := by decide +kernel
theorem witness_FreezeThawCheckpoint_write : (frozenW { stage := 3 }).sys.freeze = some { stage := 3 } ∧ (moraineBody (frozenW { stage := 3 }) { stage := 3 }).1 ≤ 0x3FFFF000 ∧
    poisoned (frozenW { stage := 3 }) (slotBase 0 + 0x3FFFF000) 3309 = false ∧ poisoned (frozenW { stage := 4 }) (slotBase 0 + 0x3FFFFFC0) 16 = false := by decide +kernel

/-! ### Thaw -/

/-- A moraine in slot 0 with these fields, at the stage named. -/
def thawW (stage : Nat) (l : List (Nat × Nat × Nat)) (f : Sys → Sys) (decided : List (Nat × Nat)) : State :=
  { (memW.modSys fun y => f { y with power := .thaw, thaw := some { stage := stage, decided := decided } }) with mem := l.foldl (fun m e => m.write (slotBase 0 + e.1) e.2.1 e.2.2) memW.mem }
theorem witness_FreezeThawCheckpoint_command : Thawing (thawW 0 [] id []) {} 0 ∧ Thawing (thawW 1 [(16, 8, 77)] id []) { stage := 1 } 1 ∧ moraineField (thawW 1 [(16, 8, 77)] id []) 0 36 2 = 0 := by
  unfold Thawing; decide +kernel
/-- A region of 16 bytes whose digest is not the one kept: the kept one is one more. -/
def regionLen : List (Nat × Nat × Nat) := [(36, 2, 1), (0x1008, 8, 16)]
def wrongDigest : Nat := (sha3 16 0 + 1#256).toNat
def badRegion : State := let s := thawW 1 regionLen id []; { s with mem := s.mem.write (slotBase 0 + 0x1020) 32 wrongDigest }
theorem wrong_digest (x : BitVec 256) : x ≠ BitVec.ofNat 256 ((x + 1#256).toNat) := by
  rw [BitVec.ofNat_toNat, BitVec.setWidth_eq]
  intro h
  have := congrArg BitVec.toNat h
  simp only [BitVec.toNat_add] at this
  have := x.isLt
  simp at *
/-- The digest and its field. -/
theorem witness_FreezeThawCheckpoint_digest : Thawing badRegion { stage := 1 } 1 ∧ moraineField badRegion 0 36 2 = 1 ∧ regionField badRegion 0 0 19 1 % 8 = 0 ∧
    sha3 (regionField badRegion 0 0 8 8) (badRegion.mem.readNat (areaBase (moraineField badRegion 0 6 1 % 2) + regionField badRegion 0 0 24 8) (regionField badRegion 0 0 8 8)) ≠
      BitVec.ofNat 256 (regionField badRegion 0 0 32 32) := by
  have e : badRegion.mem = (thawW 1 regionLen id []).mem.write (slotBase 0 + 0x1020) 32 wrongDigest := rfl
  have other : ∀ b k, b + k ≤ slotBase 0 + 0x1020 ∨ slotBase 0 + 0x1020 + 32 ≤ b → badRegion.mem.readNat b k = (thawW 1 regionLen id []).mem.readNat b k := fun b k h => by
    rw [e, mem_readNat_write_other _ _ _ _ _ _ h]
  have f1 : moraineField badRegion 0 36 2 = 1 := (other _ _ (by decide)).trans (by decide +kernel)
  have f2 : regionField badRegion 0 0 19 1 = 0 := (other _ _ (by decide)).trans (by decide +kernel)
  have f3 : regionField badRegion 0 0 8 8 = 16 := (other _ _ (by decide)).trans (by decide +kernel)
  have f4 : moraineField badRegion 0 6 1 = 0 := (other _ _ (by decide)).trans (by decide +kernel)
  have f5 : regionField badRegion 0 0 24 8 = 0 := (other _ _ (by decide)).trans (by decide +kernel)
  have f6 : badRegion.mem.readNat (areaBase 0 + 0) 16 = 0 := (other _ _ (by decide)).trans (by decide +kernel)
  have f7 : regionField badRegion 0 0 32 32 = wrongDigest := by
    have h : regionField badRegion 0 0 32 32 = badRegion.mem.readNat (slotBase 0 + 0x1020) 32 := rfl
    rw [h, e, mem_readNat_write_same]
    exact Nat.mod_eq_of_lt (BitVec.isLt _)
  refine ⟨⟨rfl, rfl, rfl⟩, f1, by rw [f2], ?_⟩
  rw [f3, f4, f5, Nat.zero_mod, f6, f7]
  exact wrong_digest _
/-- Context 5 in record 0 of the moraine, with flags, modules and what the firn tier keeps of it. -/
def ctxKept : Ctx := { st := .released, asid := 1, issued := true, seqs := [0] }
def imageKept : SaveImage := { seqs := [(0, { st := .frozen, below := some .running, ctx := some 5, pc := 64 })] }
def recordW (flags modules : Nat) (v : Option SaveImage) (valid : Bool) (decided : List (Nat × Nat)) : State :=
  thawW 2 [(38, 2, 1), (0x8000 + 256, 2, 5), (0x8000 + 258, 2, 1), (0x8000 + 261, 1, flags), (0x8000 + 264, 4, 6), (0x8000 + 280, 128, modules)]
    (fun y => { y with firn := [(5, (ctxKept, v))], asids := if valid then [(1, 1)] else [] }) decided
theorem witness_FreezeThawCheckpoint_decide : ∀ s ∈ [recordW 2 1 none true [], recordW 1 1 none false [], recordW 1 9 none true [], recordW 0 1 none true [], recordW 1 1 (some imageKept) true []],
    Thawing s { stage := 2 } 2 ∧ recordOf s 0 5 = some 0 ∧ (s.sys.firn.find? (0 * 65536 + 5)).isSome = true ∧ ctxKept.func = 0 ∧ ctxKept.saved = none ∧ poisoned s (slotBase 0 + 0x3FFFFFD0) 8 = false := by unfold Thawing; decide +kernel
theorem witness_FreezeThawCheckpoint_outcomes : let fl := fun (s : State) => recordField s 0 0 261 1; let others := fun (s : State) => (recordPeers s 0 0).filter (· ≠ s.sys.modid)
    bit (fl (recordW 2 1 none true [])) 1 = true ∧
    (let s := recordW 1 1 none false []; bit (fl s) 1 = false ∧ bit (asidEntry s (recordField s 0 0 258 2)) 0 = false) ∧
    (let s := recordW 1 9 none true []; bit (fl s) 1 = false ∧ bit (asidEntry s (recordField s 0 0 258 2)) 0 = true ∧ asidFunc s (recordField s 0 0 258 2) = 0 ∧ others s = [3]) ∧
    (let s := recordW 0 1 none true []; bit (fl s) 1 = false ∧ bit (asidEntry s (recordField s 0 0 258 2)) 0 = true ∧ others s = [] ∧ exactOk s { stage := 2 } 0 = false ∧ bit (fl s) 3 = false) ∧
    (let s := recordW 1 1 (some imageKept) true []; others s = [] ∧ exactOk s { stage := 2 } 0 = true ∧ s.sys.firn.find? (0 * 65536 + 5) = some (ctxKept, some imageKept) ∧ (imageKept.seqs.map (·.1)).Nodup) ∧
    (let s := recordW 1 1 none true [(5, 0)]; ∀ i < moraineField s 0 38 2, ∃ e ∈ [(5, 0)], e.1 = recordField s 0 i 256 2 ∧ e.2 ≠ 3) := by decide +kernel
/-- The context waits for module 3: it has not come, it has come with a step too far away, and with the same step. -/
def splitW (peers : List (Nat × Nat × Nat)) : State := (recordW 0 9 none true [(5, 3)]).modCtx 5 fun _ => { ctxKept with st := .split, peers := peers }
theorem witness_FreezeThawCheckpoint_rejoin : ∀ peers ∈ [[], [(3, 9, 0)], [(3, 6, 0)]], let s := splitW peers
    Thawing s { stage := 2, decided := [(5, 3)] } 2 ∧ recordOf s 0 5 = some 0 ∧ (recordPeers s 0 0).filter (· ≠ s.sys.modid) = [3] ∧ recordField s 0 0 264 4 = 6 ∧ (s.ctx 5).peers = peers ∧
      exactOk s { stage := 2, decided := [(5, 3)] } 0 = false ∧ bit (recordField s 0 0 261 1) 3 = false := by unfold Thawing; decide +kernel

/-- A valid moraine, not consumed: what a module that boots thaws. -/
def moraineMem : Mem := [(0, 4, 0x4E524F4D), (4, 2, 1), (40, 8, 48), (0x3FFFFFC0, 8, 1)].foldl (fun m (e : Nat × Nat × Nat) => m.write (slotBase 0 + e.1) e.2.1 e.2.2) []
def sealW : Nat := Config.sign (sha3 48 (moraineMem.readNat (slotBase 0) 48))
def moraineW : State := { homeW with mem := moraineMem.write (slotBase 0 + 0x3FFFF000) 3309 sealW }
theorem witness_PowerSupply_moraine : acceptSlot moraineW.sys = some 0 ∧ validMoraine moraineW = some 0 ∧ moraineField moraineW 0 0x3FFFFFD0 8 = 0 := by
  have other : ∀ b k, b + k ≤ slotBase 0 + 0x3FFFF000 ∨ slotBase 0 + 0x3FFFF000 + 3309 ≤ b → moraineW.mem.readNat b k = moraineMem.readNat b k := fun b k h =>
    mem_readNat_write_other _ _ _ _ _ _ h
  have f : ∀ off n v, off + n ≤ 0x3FFFF000 ∨ 0x3FFFF000 + 3309 ≤ off → moraineMem.readNat (slotBase 0 + off) n = v → moraineField moraineW 0 off n = v := fun off n v h e =>
    (other _ _ (by omega)).trans e
  have g : moraineField moraineW 0 0x3FFFF000 3309 = sealW % 2 ^ 26472 := mem_readNat_write_same _ _ _ _
  have v1 : moraineValid moraineW 1 = false := by
    have : moraineField moraineW 1 0 4 = 0 := (other _ _ (by decide)).trans (by decide +kernel)
    simp [moraineValid, this]
  have v0 : moraineValid moraineW 0 = true := by
    have b : moraineField moraineW 0 40 8 = 48 := f _ _ _ (by decide) (by decide +kernel)
    have hb : moraineField moraineW 0 0 48 = moraineMem.readNat (slotBase 0) 48 := f _ _ _ (by decide) rfl
    have p : poisoned moraineW (slotBase 0) 48 = false ∧ poisoned moraineW (slotBase 0 + 1073737728) 4096 = false := ⟨rfl, rfl⟩
    simp [moraineValid, p, b, g, hb, signed, sealW, f 0 4 0x4E524F4D (by decide) (by decide +kernel), f 4 2 1 (by decide) (by decide +kernel), f 24 2 0 (by decide) (by decide +kernel),
      f 0x3FFFFFC0 8 1 (by decide) (by decide +kernel), f 0x3FFFFFC8 8 0 (by decide) (by decide +kernel), f 8 8 0 (by decide) (by decide +kernel),
      show moraineW.sys.modid = 0 from rfl]
  refine ⟨by decide +kernel, ?_, f _ _ _ (by decide) (by decide +kernel)⟩
  simp [validMoraine, v0, v1]

/-! ### Checkpoints -/

/-- A CKPT packet that names a list of one region at 0x3000. -/
def ckptW : Nat := 8 + 0x3000 * 2 ^ 64 + 3 * 2 ^ 128
def ckptState (launch : Bool) : State :=
  let s := headW ckptW none none
  let s := { s with mem := ((s.mem.write 0x403000 16 1).write 0x403010 16 (0x1000 + 0x8000 * 2 ^ 64)).write 0x403020 8 4096 }
  if launch then s.modCtx 4 fun _ => { st := .released, issued := true, func := 3, ring := 5, asid := 1 } else s
theorem witness_FreezeThawCheckpoint_packet : (∀ launch ∈ [true, false], AtHead (ckptState launch) 3 5 (packetW ckptW) none ∧ lastLaunch (ckptState launch) 3 5 = if launch then some 4 else none) ∧
    pkType (packetW ckptW).raw.toNat = 8 ∧ isOk (readRegions (ckptState true) ((ckptState true).ctx 4).asid (fld (packetW ckptW).raw.toNat 127 64)) (some [(0x1000, 0x8000, 4096)]) = true ∧
    regionsLive (ckptState true) ((ckptState true).ctx 4).asid (fld (packetW ckptW).raw.toNat 127 64) = true := by unfold AtHead; decide +kernel
/-- Every member of the module domain waits in `step`, and the checkpoint is armed, or copied. -/
def armedW (copied : Bool) : State := (memW.modSeq 0 fun q => { q with st := .waiting, wait := some .step, dmr := 4, stepno := 9 }).modCtx 0 fun x => { x with seqs := [0], asid := 1, armed := some (0, [(0x1000, 0x8000, 64)], copied) }
def copyFrom : Seg := { sg 0x1000 64 with atomic := true }
def copyTo : Seg := { sg 0x8000 64 with atomic := true }
theorem witness_FreezeThawCheckpoint_copy : (let s := armedW false
      (s.ctx 0).armed = some (0, [(0x1000, 0x8000, 64)], false) ∧ (s.ctx 0).st = .released ∧ stepsIn s 0 = true ∧ 0 ∉ s.sys.away ∧ copyLive s 0 [(0x1000, 0x8000, 64)] = true ∧
        isOk (segs s (128 * s.sys.leader) .shared (s.ctx 0).asid .x { r := true } 0x1000 64) [copyFrom] = true ∧ isOk (segs s (128 * s.sys.leader) .shared (s.ctx 0).asid .x { w := true } 0x8000 64) [copyTo] = true ∧
        PlainSeg s copyFrom ∧ PlainSeg s copyTo) := by simp only [plain_iff]; decide +kernel
def ckptHeld : State := (headW ckptW none (some (.ckpt 4))).modCtx 4 fun _ => { func := 3, ring := 5, armed := some (0, [], true) }
theorem witness_FreezeThawCheckpoint_complete : ((armedW true).ctx 0).armed = some (0, [(0x1000, 0x8000, 64)], true) ∧ (∀ r ∈ (armedW true).sys.remote, r.id ≠ ckptMark 0) ∧ (∀ r ∈ ckptHeld.sys.remote, r.id ≠ ckptMark 4) ∧ (ckptHeld.ctx 4).armed = some (0, [], true) ∧
    (ckptHeld.ring 3 5).hold = some (.ckpt 4) ∧ (ckptHeld.ring 3 5).ahead = [(packetW ckptW, none)] ∧ (ckptHeld.ctx 4).func = 3 ∧ (ckptHeld.ctx 4).ring = 5 := by decide +kernel
end Sys2Proof.Tests
end

