-- ==== Sys2Proof/Tests/WitnessHost.lean ====
section
/-! SUPPORT. Witnesses of TablesAndHostPort and PowerSupply: for each clause, a state that meets its hypotheses. -/
set_option maxRecDepth 20000
set_option Elab.async false
namespace Sys2Proof.Tests
open Sys2Proof Sys2Proof.Machine

/-! ### Tables -/

/-- An INVAL of 16 pages of address space 1 from 0x1000. -/
def invalW : Nat := 7 + 2 ^ 64 + 2 ^ 140 + 16 * 2 ^ 192
def heldInval (hold : Hold) (acc : List Access) : State := (headW invalW none (some hold)).modSeq 0 fun q => { q with acc := acc }
def storeW : Access := { id := 20, path := .s, kind := .store, segs := [sg 0x1800 8] }
def loadOfFrame : Access := { id := 21, path := .s, kind := .load .discard 8 false, segs := [sg 0x1800 8] }
theorem witness_TablesAndHostPort_inval : AtHead (headW invalW none none) 3 5 (packetW invalW) none ∧ pkType (packetW invalW).raw.toNat = 7 ∧
    ∀ acc ∈ [[], [storeW]], let s := heldInval (.inval 1 0x1000 0x10000 false false 30) acc
      ringOn s 3 5 = true ∧ (s.ring 3 5).hold = some (.inval 1 0x1000 0x10000 false false 30) ∧ (s.ring 3 5).ahead.head? = some (packetW invalW, none) ∧
        (coverBusy s (coverArgs s 1 0x1000 0x10000 false false) 30 = true ↔ acc ≠ []) := by unfold AtHead; decide +kernel
theorem witness_TablesAndHostPort_acks : (let s := memW.modSys fun y => { y with acks := [(0, 7, 30), (1, 2, 31)] }
      s.sys.acks = (0, 7, 30) :: [(1, 2, 31)] ∧ coverBusy s { asid := 7 } 30 = false) ∧
    ∀ k < 3, ∀ acc ∈ [[], [loadOfFrame]], let s := (memW.modSys fun y => { y with acks := [(2 + k, 0x401000, 30)] }).modSeq 0 fun q => { q with acc := acc }
      s.sys.acks = (2 + k, 0x401000, 30) :: [] ∧ (replicaBusy s 0x401000 (replicaSize k) 30 = true ↔ acc ≠ []) := by decide +kernel
/-- A frame of die 0 with a replica on die 1; an entry of reserved size; one that is cleared. -/
def replicaW : Nat := 1 + 2 * 2 ^ 4 + 0x401 * 2 ^ 12 + 0x2000000 * 2 ^ 140
theorem witness_TablesAndHostPort_replica : hostOpen memW = true ∧ replicaRefused memW 9 (replicaOf replicaW) = false ∧ replicaRefused memW 9 (replicaOf (1 + 3 * 2 ^ 10)) = true ∧ (1 + 3 * 2 ^ 10) % 2 = 1 ∧ 0 % 2 = 0 := by decide +kernel
def seedW : State := memW.modSys fun y => { y with replicas := [(9, replicaOf replicaW)] }
theorem witness_TablesAndHostPort_seed : seedW.sys.replicas.find? 9 = some (replicaOf replicaW) ∧ (replicaOf replicaW).v = true ∧ (replicaOf replicaW).rdy = false ∧ seedW.mem.wf = true ∧
    seedW.updates = [] ∧ (List.range 4).filter (bit (replicaOf replicaW).dmask) = [1] := by decide +kernel
/-- The entry is valid, and is cleared: its frame changes. -/
theorem witness_TablesAndHostPort_change : seedW.sys.replicas.find? 9 = some (replicaOf replicaW) ∧ (replicaOf replicaW).v = true ∧ (replicaOf replicaW).home ≠ (replicaOf 0).home ∧ (replicaOf 0).v = false ∧
    memW.sys.replicas.find? 9 = none := by decide +kernel

/-! ### The host -/

def mboxW (st : Nat) : State := (memW.modSys fun y => { y with mboxStat := st, mboxNonce := 99 }).modFunc 3 fun x => { x with msixMask := [1, 2], msixPba := [1], lasid := 1 }
theorem witness_TablesAndHostPort_mailbox : (mboxW 1).sys.mboxStat = 1 ∧ (mboxW 3).sys.mboxStat ≠ 1 ∧ hostOpen (mboxW 3) = true ∧ 68 ∉ ((mboxW 1).func 0).msixMask ∧ 1 ∈ ((mboxW 1).func 3).msixPba ∧ 2 ∉ ((mboxW 1).func 3).msixPba := by decide +kernel
def failedBoot : State := memW.modSys fun y => { y with bootfail := true }
theorem witness_TablesAndHostPort_registers : failedBoot.sys.bootfail = true ∧ memW.sys.bootfail = false ∧ memW.sys.power ≠ .dormant ∧ memW.sys.freeze = none ∧ memW.sys.seenRelease = false ∧ (memW.modSys fun y => { y with seenRelease := true }).sys.seenRelease = true := by decide +kernel
/-- The window reaches a mapped byte, an unmapped one, and one of a die at retention. -/
def asleep : State := (mboxW 0).modDie 0 fun d => { d with calv := .retained }
theorem witness_TablesAndHostPort_window : (∀ w < 2, let need : Needs := { r := w ≠ 1, w := w = 1 }
      isOk (feSegs (mboxW 0) (mboxW 0).sys.leader (lasidOf (mboxW 0) 3) need 0x1000 8) [{ sg 0x1000 8 with atomic := true }] = true ∧ segsLive (mboxW 0) [{ sg 0x1000 8 with atomic := true }] = true ∧
      isError (feSegs (mboxW 0) (mboxW 0).sys.leader (lasidOf (mboxW 0) 3) need 0x800000 8) = true ∧
      isOk (feSegs asleep asleep.sys.leader (lasidOf asleep 3) need 0x1000 8) [{ sg 0x1000 8 with atomic := true }] = true ∧ segsLive asleep [{ sg 0x1000 8 with atomic := true }] = false) ∧
    regionOf (localPa 0x401000) ≠ .control ∧ PlainSeg (mboxW 0) { sg 0x1000 8 with atomic := true } ∧ regBusy (mboxW 0) [{ sg 0x1000 8 with atomic := true }] = false ∧ 0x800000 + 8 ≤ 2 ^ 36 ∧ 2 ^ 36 < 2 ^ 36 - 4 + 8 := by
  simp only [plain_iff]; decide +kernel
/-- The local address spaces of functions 0 and 3 map the control range. -/
def controlPage : Tlb := { pageW with pa := 0x050000000000, c := false, a := false }
def controlW : State := (((mboxW 0).modFunc 0 fun x => { x with lasid := 1 }).modDie 0 fun d => { d with tlb := [controlPage] })
def controlSeg : Seg := { va := 0x1000, pa := 0x050000001000, len := 8, at_ := 0, frame := 0x050000000000 }
theorem witness_TablesAndHostPort_control : ∀ f ∈ [0, 3], isOk (feSegs controlW controlW.sys.leader (lasidOf controlW f) { r := true } 0x1000 8) [controlSeg] = true ∧
    segsLive controlW [controlSeg] = true ∧ regionOf (localPa controlSeg.pa) = .control ∧ controlSeg.fab = false := by decide +kernel
/-- Register space of core 5. -/
def regPaW : Nat := 0x030000500010
theorem witness_TablesAndHostPort_regspace : hostOpen memW = true ∧ regionOf regPaW = .regspace 5 ∧ regBusy memW [{ va := regPaW, pa := regPaW, len := 8, at_ := 0 }] = false ∧ regPaW % 0x100000 + 8 ≤ 0x100000 ∧
    dieAnswers memW (dieOf 5) = true ∧ dieAnswers asleep (dieOf 5) = false ∧ poisoned memW regPaW 8 = false ∧ regBusy asleep [{ va := regPaW, pa := regPaW, len := 8, at_ := 0 }] = false := by decide +kernel

/-! ### Supply -/

def powerW (p : Power) (f : Sys → Sys) : State := memW.modSys fun y => f { y with power := p }
theorem witness_PowerSupply_dormant : (powerW .dormant id).sys.power = .dormant ∧ (powerW .dormant id).schedule = [] ∧
    (∀ m ∈ [Move.event .coldReset [], .event .powerUp []], ({ powerW .dormant id with schedule := [m] } : State).schedule = m :: []) ∧ (Move.event .coldReset []).isPowerUp = false := by decide +kernel
theorem witness_PowerSupply_boot : acceptSlot (powerW .run fun y => { y with slots := [(false, 0, 0), (true, 1, 0)], fuse := 2 }).sys = none ∧ acceptSlot (powerW .run id).sys = some 0 ∧
    acceptSlot (powerW .dormant fun y => { y with slots := [(false, 0, 0), (true, 2, 0)], fuse := 2 }).sys = some 1 := by decide +kernel
/-- Samples: deep dip, ten below 40 V, 2000 in the band, 50 below 42 V, recovery, a quiet one. -/
theorem witness_PowerSupply_samples :
    (∀ p ∈ [Power.run, .warn, .calved, .thaw], (powerW p id).sys.power = p ∧ (37999 < 38000 ∨ 39999 < 40000 ∧ 9 ≤ (powerW p fun y => { y with below40 := 9 }).sys.below40)) ∧
    1999 ≤ (powerW .run fun y => { y with band := 1999 }).sys.band ∧ (49 ≤ (powerW .run fun y => { y with below42 := 49 }).sys.below42 ∧ (powerW .run fun y => { y with below42 := 49 }).sys.band < 1999) ∧
    (9999 ≤ (powerW .warn fun y => { y with above44 := 9999 }).sys.above44 ∧ (powerW .warn id).sys.pf = false) ∧ 10000 ≤ (powerW .warn fun y => { y with above44 := 10000 }).sys.above44 := by decide +kernel
theorem witness_PowerSupply_order : hostOpen memW = true ∧ [0, 27 % 4, 27 / 4 % 4, 27 / 16 % 4].Nodup ∧ ¬ [0, 5 % 4, 5 / 4 % 4, 5 / 16 % 4].Nodup := by decide +kernel
/-- Calved with one die asleep, and with none left to calve. -/
def calvedW (c1 c2 c3 : Calving) (order : List Nat) : State :=
  ((((powerW .calved fun y => { y with vin := 43000, series := true, calvedOrder := order, dtime := 1000000 }).modDie 1 fun d => { d with calv := c1 }).modDie 2 fun d => { d with calv := c2 }).modDie 3 fun d => { d with calv := c3 })
theorem witness_PowerSupply_calve : (let s := calvedW .live .live .retained [3]
      s.sys.power = .calved ∧ s.sys.series = true ∧ s.sys.calvedOrder.length < 3 ∧ s.sys.calvedAt + 1000000 ≤ s.sys.dtime ∧ nextToCalve s = some 2 ∧ s.sys.leader ≠ 2) ∧
    nextToCalve (calvedW .retained .retained .retained [1, 2]) = none ∧ ((calvedW .live .live .retained [3]).modSys fun y => { y with leader := 2 }).sys.leader = 2 ∧
    memW.sys.series = false ∧ (powerW .calved id).sys.series = false ∧ (powerW .calved id).sys.power = .calved := by decide +kernel
/-- Sequencer 1024 runs on die 2, which is being calved. -/
def calvingW (st : SqState) (below : Option SqState) : State := (calvedW .live .stopping .live [2]).modSeq 1024 fun q => { q with st := st, ctx := some 0, below := below }
theorem witness_PowerSupply_stop : ∀ st ∈ [SqState.running, .waiting, .faulted], let s := calvingW st none
    (s.die (dieOf (coreOf 1024))).calv = .stopping ∧ s.issue = none ∧ (s.seq 1024).st = st ∧ (s.seq 1024).wait = none ∧ (s.seq 1024).below = none := by decide +kernel
theorem witness_PowerSupply_retain : let s := calvingW .calved (some .running)
    (s.die 2).calv = .stopping ∧ ∀ n ∈ seqsOfDie s 2, seqQuiet s n = true ∧ (s.seq n).st ≠ .faulted := by decide +kernel
theorem witness_PowerSupply_wake : (let s := (calvedW .live .retained .live [2]).modSys fun y => { y with above46 := 5000 }
      s.sys.calvedOrder = 2 :: [] ∧ s.sys.power = .calved ∧ 5000 ≤ s.sys.above46 ∧ (s.die 2).calv = .retained) ∧
    (let s := (calvingW .calved (some .running)).modDie 2 fun d => { d with calv := .waking };
      (s.die 2).calv = .waking ∧ (s.seqs.map (·.1)).Nodup ∧ s.sys.records = [] ∧ dieOf (coreOf 1024) = 2 ∧ (s.seq 1024).st = .calved ∧ (s.ctxOf 1024).st = .released) := by decide +kernel
theorem witness_PowerSupply_flr : ctxAlive memW 0 = true ∧ (memW.ctx 0).func = 0 ∧ memW.sys.power = .run ∧ bit (asidEntry (memW.modSys fun y => { y with asids := [(4, 1)] }) 4) 0 = true := by decide +kernel

/-! ### Points, gating, heat -/

theorem witness_PowerSupply_point : (memW.ctx 0).st = .released ∧ leaderOk memW = true ∧
    ((memW.modCtx 0 fun x => { x with seqs := [0] }).ctx 0).seqs.filter (fun m => dieOf (coreOf m) = 0 && (memW.seq m).ctx = some 0 && (memW.seq m).st = .running) = 0 :: [] ∧
    memW.sys.ops = [] ∧ phaseOn (memW.ctx 0) 0 = none ∧
    phaseOn ((memW.modCtx 0 fun x => { x with intervals := [(0, 5, 7)] }).ctx 0) 0 = some 5 := by decide +kernel
theorem witness_PowerSupply_market : (List.replicate 16 100).length = 16 ∧ (powerW .thaw id).sys.power = .thaw ∧ State.reset.sys.power = .run ∧ State.reset.sys.seenRelease = false ∧
    leaderOk (powerW .thaw id) = true ∧ (∀ d < 4, d ≠ 0 → fixedDie (powerW .thaw id) d = false) ∧ (List.replicate 16 100).sum ≤ 3000 - 1000 ∧ 3000 - 1000 < ((List.replicate 16 100).set 5 2001).getD (4 * 1 + 1) 0 := by decide +kernel
/-- Cluster 4 has been quiet; the window of its one waiting sequencer goes to the area of die 1. -/
def gatedW (gated : Bool) : State := (((memW.modCluster 4 fun k => { k with quiet := 50000, gated := gated, parked := if gated then [(128, 4096, 4096, 0x10000000)] else [] }).modDie 1 fun d => { d with gatecfg := BitVec.ofNat 64 (2 ^ 48 + 0x10000000) }).modSeq 512 fun q =>
  { q with st := .waiting, ctx := some 0, winBase := 4096, winSize := 4096 }).modCore 128 fun c => { c with regs := [(4100, 5)] }
theorem witness_PowerSupply_gate : (let s := gatedW false; (s.cluster 4).gated = false ∧ 50000 ≤ (s.cluster 4).quiet ∧ ((s.die (4 / 4)).gatecfg.toNat / 2 ^ 48) ≠ 0 ∧
      gateBytes s 4 ≤ (s.die (4 / 4)).gatecfg.toNat / 2 ^ 48 * 2 ^ 20 ∧ (s.die (4 / 4)).gatecfg.toNat % 2 ^ 48 + (s.die (4 / 4)).gatecfg.toNat / 2 ^ 48 * 2 ^ 20 < 0x030000000000 ∧
      (∀ i < 4, i ≠ 0 → (s.cluster (4 + i)).parked = []) ∧ gatePlace s 4 = some 0x10000000 ∧ s.keyOf = []) ∧
    ((gatedW true).cluster 4).gated = true ∧ ((gatedW true).cluster 4).parked = [(128, 4096, 4096, 0x10000000)] := by decide +kernel
/-- A trial that lowered die 1's point, and an entry that may begin one. -/
theorem witness_PowerSupply_trial : (let e : OpPoint := { tried := some 1, ej := 50 }; e.tried = some 1 ∧ 40 < e.ej ∧ e.ej ≤ 60 ∧ 1 < e.points.length) ∧
    (let e : OpPoint := { measured := true }; e.tried = none ∧ e.settled = false ∧ e.measured = true ∧ 1 < e.points.length) := by decide +kernel
/-- A second cluster of the die goes behind the first. -/
theorem witness_PowerSupply_place : gatePlace ((gatedW true).modSeq 640 fun q => { q with st := .waiting, ctx := some 0, winSize := 4096 }) 5 = some 0x10001000 := by decide +kernel
theorem witness_PowerSupply_quiet : ∀ n, clusterOf (coreOf n) = 4 → ((gatedW false).seq n).st ≠ .running ∧ ((gatedW false).seq n).acc = [] ∧ (isDet ((gatedW false).ctxOf n) = true → ((gatedW false).seq n).st ≠ .waiting) := by
  intro n h
  by_cases h0 : n = 0
  · subst h0; revert h; decide +kernel
  by_cases h1 : n = 512
  · subst h1; decide +kernel
  have hl : (gatedW false).seqs.map (·.1) = [0, 512] := by decide +kernel
  have : (gatedW false).seq n = {} := seq_unlisted _ _ (by
    rw [List.all_eq_true]
    intro e he
    have : e.1 ∈ [0, 512] := hl ▸ List.mem_map_of_mem he
    have : e.1 ≠ n := fun hn => by rw [hn] at this; simp [h0, h1] at this
    simpa using this)
  rw [this]
  exact ⟨nofun, rfl, fun _ => nofun⟩
theorem witness_PowerSupply_heat : 1150 ≤ 1150 ∧ memW.sys.power = .run ∧ (memW.die 1).levelAt = none ∧ levelAfter (memW.die 1).level 1050 ≠ (memW.die 1).level ∧ levelAfter (memW.die 1).level 900 = (memW.die 1).level := by decide +kernel
end Sys2Proof.Tests
end

