-- ==== Sys2Proof/Tests/WitnessMatrix.lean ====
section
/-! SUPPORT. Witnesses of MatrixQueueRuns and AmplitudeEngineRuns: for each clause, a state that meets its hypotheses. -/
set_option maxRecDepth 20000
set_option Elab.async false
namespace Sys2Proof.Tests
open Sys2Proof Sys2Proof.Machine

/-- A shape of 8 by 16 by 8 with T, and the strides of row-major operands of `b` bytes an element. -/
def shapeW (b : Nat) : BitVec 512 := BitVec.ofNat 512 (8 + 16 * 2 ^ 8 + 8 * 2 ^ 16 + 2 ^ 41 + 64 * 2 ^ 64 + b * 2 ^ 96 + 64 * 2 ^ 128 + b * 2 ^ 160)
/-- Core 0 with these entries in its queue and a landing slot that sequencer 0 owns, of integers or not. -/
def queueW (l : List MtxEntry) (ints : Bool) : State := (memW.modCore 0 fun c => { c with mq := l, ls := [{ owner := some 0, tile := some 1, int_ := ints, words := [(0, 0x40000000), (65, 7)] }] }).modSeq 0 fun q => { q with mt := l.length }
def mmaW (z neg : Bool) (fa fb : Fmt) (b fmt a1 a2 : Nat) : MtxEntry :=
  { id := 7, seq := 0, op := .mma z neg false (shapeW b) fa fb none none a1 a2, tile := 1, ls := some 0, fmt := BitVec.ofNat 32 fmt, resumed := true, pc := 8, slot := 2, flags := 3 }
def nextW : MtxEntry := { id := 8, seq := 0, op := .zero, tile := 0 }

/-- A read that ends well gives a state and bytes. -/
theorem read_ok (r : State × List Nat × Option MtxRead) (h : r.2.2.isNone = true) : ∃ u l, r = (u, l, none) := by
  obtain ⟨u, l, o⟩ := r
  cases o with
  | none => exact ⟨u, l, rfl⟩
  | some _ => cases h

def mmaReadsW (e : MtxEntry) (ints : Bool) (fa fb : Fmt) (b a1 a2 : Nat) : Prop :=
  let s := queueW [e, nextW] ints
  let x := shapeW b
  (s.core 0).mq = [e, nextW] ∧ (∀ y ∈ [nextW], y.id ≠ e.id) ∧ mqHead s 0 = some e ∧ coreOf e.seq = 0 ∧ 0 < (s.core 0).ls.length ∧ e.done = false ∧ headReady s e = true ∧ e.resumed = true ∧ e.panel = 0 ∧ e.segsA = [] ∧ e.segsB = [] ∧
    0 < shK x ∧ shK x ≤ 64 ∧ shT x = true ∧ fmtSC e.fmt = false ∧
    ∃ u1 bw u2 aw, readAll (fun u r => mtxRead u 0 (asidOf s e.seq) (segmentB x fb a2 0 r) 0) (modEntry s 0 e.id fun e => { e with resumed := true, begun := true }) (List.range (shN x)) [] = (u1, bw, none) ∧
      readAll (fun u r => mtxRead u 0 (asidOf s e.seq) (segmentA x fa a1 0 r) 0) u1 (List.range (shM x)) [] = (u2, aw, none)
theorem mma_reads (e : MtxEntry) (ints : Bool) (fa fb : Fmt) (b a1 a2 : Nat)
    (h : let s := queueW [e, nextW] ints
      let x := shapeW b
      (s.core 0).mq = [e, nextW] ∧ (∀ y ∈ [nextW], y.id ≠ e.id) ∧ mqHead s 0 = some e ∧ coreOf e.seq = 0 ∧ 0 < (s.core 0).ls.length ∧ e.done = false ∧ headReady s e = true ∧ e.resumed = true ∧ e.panel = 0 ∧ e.segsA = [] ∧ e.segsB = [] ∧
        0 < shK x ∧ shK x ≤ 64 ∧ shT x = true ∧ fmtSC e.fmt = false ∧
        (readAll (fun u r => mtxRead u 0 (asidOf s e.seq) (segmentB x fb a2 0 r) 0) (modEntry s 0 e.id fun e => { e with resumed := true, begun := true }) (List.range (shN x)) []).2.2.isNone = true ∧
        (readAll (fun u r => mtxRead u 0 (asidOf s e.seq) (segmentA x fa a1 0 r) 0)
          (readAll (fun u r => mtxRead u 0 (asidOf s e.seq) (segmentB x fb a2 0 r) 0) (modEntry s 0 e.id fun e => { e with resumed := true, begun := true }) (List.range (shN x)) []).1 (List.range (shM x)) []).2.2.isNone = true) :
    mmaReadsW e ints fa fb b a1 a2 := by
  obtain ⟨h1, i1, i2, i3, h2, h3, h4, h5, h6, h7, h8, h9, h10, h11, h12, hb, ha⟩ := h
  obtain ⟨u1, bw, e1⟩ := read_ok _ hb
  rw [e1] at ha
  obtain ⟨u2, aw, e2⟩ := read_ok _ ha
  exact ⟨h1, i1, i2, i3, h2, h3, h4, h5, h6, h7, h8, h9, h10, h11, h12, u1, bw, u2, aw, e1, e2⟩
/-- An integer product under FMT.ACC, one in floats, and one whose slot starts at zero and whose products are subtracted. -/
theorem witness_MatrixQueueRuns_mma :
    mmaReadsW (mmaW false false .i8 .z8 1 (2 ^ 19) 0x1000 0x1400) true .i8 .z8 1 0x1000 0x1400 ∧
    mmaReadsW (mmaW true true .f16 .bf16 2 0 0x1000 0x1400) false .f16 .bf16 2 0x1000 0x1400 := by
  constructor <;> apply mma_reads <;> decide +kernel
/-- B lies on a page that nothing maps. -/
theorem witness_MatrixQueueRuns_fault : let e := mmaW false false .i8 .z8 1 (2 ^ 19) 0x1000 0x800000
    let s := queueW [e, nextW] true
    (s.core 0).mq = [e, nextW] ∧ nextW.id ≠ e.id ∧ mqHead s 0 = some e ∧ headReady s e = true ∧ 0 < shN (shapeW 1) ∧
    ∃ f, mtxRead (modEntry s 0 e.id fun e => { e with resumed := true, begun := true }) 0 (asidOf s 0) (segmentB (shapeW 1) .z8 0x800000 0 0) 0 = .fault f := by
  refine ⟨by decide +kernel, by decide +kernel, by decide +kernel, by decide +kernel, by decide +kernel, ?_⟩
  exact ⟨_, rfl⟩
def tileW (op : MtxOp) : MtxEntry := { id := 7, seq := 0, op := op, tile := 1, ls := some 0, off := 0x4400, opens := true }
/-- A finished product, both commits, a zero and a tensor entry at the head of the queue. -/
theorem witness_MatrixQueueRuns_heads : let e := { mmaW false false .i8 .z8 1 (2 ^ 19) 0x1000 0x1400 with done := true }
    let q := fun op => queueW [tileW op, nextW] true
    (((queueW [e, nextW] true).core 0).mq = [e, nextW] ∧ nextW.id ≠ e.id ∧ mqHead (queueW [e, nextW] true) 0 = some e ∧ e.isMma = true ∧ e.done = true ∧ ((queueW [e, nextW] true).ctxOf 0).splice = none) ∧
    ∀ op ∈ [MtxOp.commit true, .commit false, .zero, .stab 3 { bpr := 2, dbase := 5, saddr := 8 }],
      ((q op).core 0).mq = [tileW op, nextW] ∧ nextW.id ≠ (tileW op).id ∧ mqHead (q op) 0 = some (tileW op) ∧ coreOf (tileW op).seq = 0 ∧ headReady (q op) (tileW op) = true ∧ tilePoison (q op) 0 0x4400 = none := by decide +kernel

/-! ### The amplitude engine -/

/-- A descriptor: N qubits, L of them local, cluster, die and module bits, and the format. -/
def adW (n l cb db mb f tag : Nat) : BitVec 512 :=
  BitVec.ofNat 512 (n + l * 2 ^ 8 + cb * 2 ^ 16 + db * 2 ^ 24 + mb * 2 ^ 32 + f * 2 ^ 40 + 0xE4 * 2 ^ 48 + 0xE4 * 2 ^ 56 + tag * 2 ^ 96 + ((List.range n).map fun q => q * 2 ^ (8 * (16 + q))).sum)
/-- Two qubits on one engine; two on two clusters. -/
def adOne : BitVec 512 := adW 2 2 0 0 0 0 9
def adTwo : BitVec 512 := adW 2 1 1 0 0 1 9
def cmdW (op : AeOp) (qubits : List Nat) (started : Bool) : AeCmd := { id := 20, op := op, addr := 0x1000, qubits := qubits, seg := [sg 0x1000 16], started := started, pc := 8, slot := 2, todo := if started then qubits else [] }
/-- Sequencer 0 alone, with a registration under this descriptor and a command. -/
def aeW (d : BitVec 512) (c : AeCmd) : State := memW.modSeq 0 fun q => { q with xf := 3, ulimask := 3, aeprog := 5 * 2 ^ 32, ae := { q.ae with reg := some ⟨d, 0x2000, 0⟩, cmd := some c, seqno := 4 } }
/-- Sequencers 0 and 128, of clusters 0 and 1, hold one vector's two shares. -/
def aePair (c1 c2 : AeCmd) : State := ((((aeW adTwo c1).modCtx 0 fun x => { x with seqs := [0, 128], cores := [0, 32] }).modCore 32 fun c => { c with dtlb := [pageW] })).modSeq 128 fun q =>
  { q with st := .running, ctx := some 0, xf := 2, ae := { q.ae with reg := some ⟨adTwo, 0x3000, 1⟩, cmd := some c2, seqno := 4 } }

theorem witness_AmplitudeEngineRuns_start : let s := aeW adOne (cmdW (.gate 1) [1] false)
    members s 0 9 = [0] ∧ (s.ctx 0).seqs = [0] ∧ depsMet s 0 [] = true ∧ engineOn s 0 0 = true ∧ segsLive s [sg 0x1000 16] = true ∧ engineCount adOne = 1 ∧ shareOf s adOne 0 = some 0 ∧ s.sys.away.contains s.sys.modid = false ∧
    localShares s adOne = [0] ∧ loadPoisoned s 0 .a [sg 0x1000 16] = none := by decide +kernel
/-- Two commands that differ in their qubits. -/
theorem witness_AmplitudeEngineRuns_differ : let x := cmdW .swap [0, 1] false; let y := cmdW .swap [1, 0] false; let s := aePair x y
    members s 0 9 = [0, 128] ∧ (s.ctx 0).seqs = [0, 128] ∧ (s.seq 0).ae.cmd = some x ∧ (s.seq 128).ae.cmd = some y ∧
    s.sys.away.contains s.sys.modid = false ∧ (∀ k ∈ [0, 128], depsMet s k [] = true ∧ engineOn s 0 (coreOf k) = true ∧ segsLive s [sg 0x1000 16] = true) ∧
    localShares s adTwo = [0, 1] ∧ engineCount adTwo = 2 ∧ shareOf s adTwo 0 = some 0 ∧ shareOf s adTwo 128 = some 1 ∧ x.qubits ≠ y.qubits := by decide +kernel
def mapW : AeCmd := { cmdW .map [] true with ready := true, matrix := adOne.toNat, addr := 0x5000 }
theorem witness_AmplitudeEngineRuns_register : 0 ∈ members (aeW adTwo mapW) 0 9 ∧ ((aeW adTwo mapW).seq 0).ae.cmd = some mapW ∧ mapW.op = .map ∧ mapW.started = true ∧ mapW.pass = 0 := by decide +kernel
/-- A swap of qubits 0 and 1: one amplitude of each share goes to the other. -/
def swapW : AeCmd := cmdW .swap [0, 1] true
def ampW (k va : Nat) : Seg := { va := va, pa := 0x400000 + va, len := k, at_ := 0, frame := 0x400000, cache := true, atomic := true }
theorem witness_AmplitudeEngineRuns_exchange : let s := aePair swapW swapW
    cmdRuns s 0 = some swapW ∧ cmdRuns s 128 = some swapW ∧ (s.seq 0).ae.seqno = (s.seq 128).ae.seqno ∧ s.sys.replicas = [] ∧ swapW.done = 0 ∧ swapW.sent = none ∧ swapW.acked = false ∧
    nextExchange (s.seq 0).ae swapW 1 2 = some (0, 1, 0, 1) ∧ (exchangePlan 1 0 0 1).map (fun p => (p.1, p.2.1, p.2.2 0)) = some (1, 1, 1, 0) ∧ (engineAt adTwo 1).1 = s.sys.modid ∧
    segsLive s [ampW 16 0x2010, ampW 16 0x3000] = true ∧ (∀ k ∈ [0, 128], causal s k swapW.id = true) ∧ holder s 0 ⟨adTwo, 0x2000, 0⟩ 1 = some 128 := by decide +kernel
theorem witness_AmplitudeEngineRuns_pieces : Pieces (aePair swapW swapW) 1 (ampBytes adTwo) (fun _ => ampW 16 0x2010) ∧
    Pieces (aePair swapW swapW) 1 (ampBytes adTwo) (fun _ => ampW 16 0x3000) := by
  simp only [Pieces, plain_iff]; decide +kernel
theorem witness_AmplitudeEngineRuns_partner : let s := modCmd (aePair swapW swapW) 0 fun c => { c with exchange := some (1, 0, 1) }
    holder s ((s.seq 0).ctx.getD 0) ⟨adTwo, 0x2000, 0⟩ 1 = some 128 ∧ nextExchange (s.seq 128).ae swapW 1 2 = some (0, 1, 0, 1) ∧
    isOk (ampSegs s 0 ⟨adTwo, 0x2000, 0⟩ { r := true, w := true } [1]) [ampW 16 0x2010] = true ∧
    isOk (ampSegs (modCmd (fillBuffer s 0 swapW ⟨adTwo, 0x2000, 0⟩ [1]).1 128 fun c => { c with exchange := some (1, 0, 1) }) 128 ⟨adTwo, 0x3000, 1⟩ { r := true, w := true } [0])
      [ampW 16 0x3000] = true := by decide +kernel
/-- A gate on both qubits of a two-qubit vector: one group of four. -/
def gateW : AeCmd := { cmdW (.gate 2) [0, 1] true with matrix := 0x3F800000 }
def groupW (j : Nat) : Seg := { ampW 8 (0x2000 + 8 * j) with at_ := 8 * j }
theorem witness_AmplitudeEngineRuns_gate : let s := aeW adOne gateW
    cmdRuns s 0 = some gateW ∧ adL adOne = 2 ∧ gateW.ready = false ∧ gateW.done = 0 ∧ nextExchange (s.seq 0).ae gateW 2 2 = none ∧ gateW.qubits.map (fun q => (s.seq 0).ae.pos.getD q q) = List.range 2 ∧
    segsLive s ((List.range (2 ^ 2)).map groupW) = true ∧ s.sys.replicas = [] ∧ causal s 0 gateW.id = true := by decide +kernel
theorem witness_AmplitudeEngineRuns_groups : Pieces (aeW adOne gateW) (2 ^ 2) (ampBytes adOne) groupW := by simp only [Pieces, plain_iff]; decide +kernel
theorem witness_AmplitudeEngineRuns_group : ampSegs (aeW adOne gateW) 0 ⟨adOne, 0x2000, 0⟩ { r := true, w := true } (List.range (2 ^ 2)) = .ok ((List.range (2 ^ 2)).map groupW) := rfl
/-- A gate whose chunks are done, and a norm whose sum is. -/
theorem witness_AmplitudeEngineRuns_complete :
    (let x := { gateW with ready := true }; let s := aeW adOne x
      members s 0 9 = [0] ∧ cmdRuns s 0 = some x ∧ cmdDesc (s.seq 0) = some adOne ∧ segsLive s x.seg = true ∧ x.ready = true) ∧
    (let x := { cmdW .norm [] true with ready := true, sum0 := 0x3FF0000000000000 }; let s := aeW adOne x
      members s 0 9 = [0] ∧ cmdRuns s 0 = some x ∧ cmdDesc (s.seq 0) = some adOne ∧ segsLive s x.seg = true ∧ causal s 0 x.id = true ∧ x.ready = true ∧ x.pass = 0 ∧ engineCount adOne = 1 ∧ localShares s adOne = [0] ∧ shareOf s adOne 0 = some 0 ∧
      (engineAt adOne 0).1 = s.sys.modid ∧ x.seg = [sg 0x1000 16] ∧ PlainSeg s (sg 0x1000 16) ∧ x.sum0 < 2 ^ 64) := by simp only [plain_iff]; decide +kernel
end Sys2Proof.Tests
end

