-- ==== Sys2Proof/Tests/WitnessSlots.lean ====
section
/-! SUPPORT. Witnesses for the statements about scalar, vector and control slots: concrete states that meet every
hypothesis together, one conjunct for each clause, with registers and fields at the ends of their ranges. -/
set_option maxRecDepth 20000
set_option Elab.async false
namespace Sys2Proof.Tests
open Sys2Proof Sys2Proof.Machine

/-- The bundle in hand, with scalars 1 and 2 put in place and two held slots. -/
def kA : Issue := kOf (fun q => { q with bank := { q.bank with held := [(2, { scope := .core, ext := none, word := 5 }), (7, { scope := .core, ext := none, word := 6 })] } })
  [(1, 0x40), (2, 0xFFFFFFFFFFFFFFFF), (63, 0x80)] 0
def sA : State := onW homeW kA
/-- The bundle in hand, an extension before it. -/
def kX (x : BitVec 17) : Issue := { issueW 0 [(1, 0x40)] with ext := some x }

/-! ### Scalars -/

theorem witness_three_operand : Operable sA kA (snames [3, 1, 2]) (snames [1, 2]) ∧ Operable sA kA (snames [3, 1, 2]) (snames [3, 1, 2]) ∧
    Operable sA kA (snames [0, 63, 63]) (snames [63, 63]) ∧ Operable sA kA (snames [63, 1, 0]) (snames [63, 1, 0]) := by
  unfold Operable; decide +kernel

theorem witness_immediate : Operable sA kA (snames [3, 1]) (snames [1]) ∧ Operable sA kA (snames [63, 0]) (snames [0]) ∧
    Operable (onW homeW (kX 0x1FFFF)) (kX 0x1FFFF) (snames [3, 1]) (snames [1]) ∧
    ((Instr.shli 3 1 63).wf = true ∧ (Instr.shri 3 1 0).wf = true ∧ (Instr.srai 3 1 63).wf = true ∧ kA.ext = none) ∧
    (Operable (onW homeW (kX 0)) (kX 0) (snames [3, 1]) (snames [1]) ∧ (kX 0).ext = some 0) ∧
    Operable sA kA (snames [3]) [] ∧ Operable sA kA (snames [3]) (snames [3]) := by
  unfold Operable; decide +kernel

theorem witness_counts_and_time : Operable sA kA (snames [3, 2]) (snames [2]) ∧ Operable sA kA (snames [63]) [] := by
  unfold Operable; decide +kernel

def kF (f : Nat) : Issue := issueW (BitVec.ofNat 32 f) [(1, 0x3F800000)]
/-- Every rounding mode, with and without saturation. -/
theorem witness_scalar_float : ∀ f ∈ [0, 0x8000, 0x10000, 0x18000, 0x20000, 0x38000],
    Operable (onW homeW (kF f)) (kF f) (snames [3, 1, 2]) (snames [1, 2]) ∧ Operable (onW homeW (kF f)) (kF f) (snames [3, 1, 2]) (snames [3, 1, 2]) ∧
    Operable (onW homeW (kF f)) (kF f) (snames [3, 1]) (snames [1]) := by
  unfold Operable; decide +kernel

/-! ### Registers and their frame -/

def kH : Issue := kOf (fun q => { q with inHandler := true, saved := some { pc := 0x80, loops := [], bank := {}, cons := none } }) [] 0

theorem witness_scalar_write_frame : (1 : Reg) ≠ 0 ∧ ¬ (kA.before.inHandler = true ∧ (1 : Reg).toNat < 16) ∧
    kH.before.inHandler = true ∧ (15 : Reg) ≠ 0 ∧ (15 : Reg).toNat < 16 ∧ (16 : Reg) ≠ 0 ∧ ¬ (kH.before.inHandler = true ∧ (16 : Reg).toNat < 16) := by
  decide +kernel

theorem witness_vector_write_frame : (sA.seq kA.n).masks.length = 8 ∧ (0 : BitVec 3) ≠ 7 := by decide +kernel

theorem witness_scalar_reads : (∃ b, (beginIssue sA 0 []).issue = some b) ∧ ((beginIssue (onW homeW kH) 0 []).issue.isSome = true ∧
    ((onW homeW kH).seq 0).inHandler = true) ∧ ((sA.seq 0).inHandler = false) := by
  refine ⟨⟨_, rfl⟩, ?_⟩
  decide +kernel

/-! ### Vectors -/

/-- The bundle in hand under a format, with bits in vectors 1 and 2. -/
def kV (f : Fmt) : Issue := vecsW (issueW (BitVec.ofNat 32 (fmtCode f * 8)) [(1, 9), (2, 3)]) [(1, 0x3C003C003F800000), (2, 5)]
def sV (f : Fmt) : State := onW homeW (kV f)
/-- A descriptor of a port over one dimension of `c` elements of four bytes. -/
def pdW (out : Bool) (base c : Nat) : BitVec 512 := BitVec.ofNat 512 (base + out.toNat * 2 ^ 64 + 2 * 2 ^ 65 + c * 2 ^ 128 + 4 * 2 ^ 160 + 2 ^ 192 + 2 ^ 256 + 2 ^ 320)
/-- Port 0 reads and holds its first vector, port 1 writes, port 2 is exhausted and the others are not loaded. -/
def portsW : List Port := [{ v := true, desc := pdW false 0x2000 300, asked := 2, buf := [{ id := 2, vec := some 99 }, { id := 4 }] },
  { v := true, desc := pdW true 0x3000 300 }, { v := true, desc := pdW false 0x2000 300, exh := true, moved := 3, asked := 3 }] ++ List.replicate 5 ({} : Port)
/-- The same with the ports. -/
def kP (f : Fmt) : Issue := { kV f with before := { (kV f).before with ports := portsW } }
def sP (f : Fmt) : State := onW homeW (kP f)

theorem witness_vector_elementwise : ∀ f ∈ anyFmt,
    VecRuns (sV f) (kV f) 1 [3] [1, 2] false [] [] [f] ∧ VecRuns (sV f) (kV f) 1 [3] [1, 2] true [] [] [f] ∧
    VecRuns (sV f) (kV f) 1 [55] [0] false [] [] [f] := by
  unfold VecRuns Operable AllPass; decide +kernel
/-- Both fields of the mode bits that choose the views above 0. -/
theorem witness_vector_views : viewOfM 0 = 1 ∧ ∀ w ∈ [viewOfM 1, viewOfM 2, viewOfM 3], VecRuns (sV .f32) (kV .f32) w [3] [1, 2] true [] [] floats := by
  unfold VecRuns Operable AllPass; decide +kernel
/-- A source that is a live input port, and a destination that is a live output port. -/
theorem witness_vector_ports : VecRuns (sP .f16) (kP .f16) 1 [57] [56, 2] false [] [] floats ∧ VecRuns (sP .z8) (kP .z8) 1 [3] [58, 56] true [] [] ints := by
  unfold VecRuns Operable AllPass; decide +kernel

theorem witness_vector_compare_select : (∀ f ∈ floats ++ ints, VecRuns (sV f) (kV f) 1 [] [1, 2] false [] [] [f]) ∧
    (∀ f ∈ notX, VecRuns (sV f) (kV f) 1 [3] [1] true [] [] [f]) := by
  unfold VecRuns Operable AllPass; decide +kernel

theorem witness_vector_lane_moves_scalar : ∀ f ∈ notX, VecRuns (sV f) (kV f) 1 [3] [] false (snames [1]) (snames [1]) [f] ∧
    VecRuns (sV f) (kV f) 1 [3] [1] false (snames [2]) (snames [2]) [f] ∧ VecRuns (sV f) (kV f) 1 [] [1] false (snames [5, 2]) (snames [2]) [f] ∧
    VecRuns (sV f) (kV f) 1 [3] [] true (snames [1, 2]) (snames [1, 2]) [f] := by
  unfold VecRuns Operable AllPass; decide +kernel
theorem witness_vector_moves : VecRuns (sV .i4x) (kV .i4x) 1 [3] [1] false [] [] anyFmt ∧
    (VecRuns (sV .i4x) (kV .i4x) 1 [] [1] false [] [] anyFmt ∧ (7 : Reg).toNat < 8) ∧ (VecRuns (sV .i4x) (kV .i4x) 1 [3] [] false [] [] anyFmt ∧ (0 : Reg).toNat < 8) ∧
    VecRuns (sV .i4x) (kV .i4x) 1 [] [] false [] [] anyFmt := by
  unfold VecRuns Operable AllPass; decide +kernel
theorem witness_vctrap :
    (VecRuns (sV .f32) (kV .f32) 1 [] [1, 2] false [] [] anyFmt ∧ operand (sV .f32) (kV .f32) 1 [1, 2] 1 ≠ operand (sV .f32) (kV .f32) 1 [1, 2] 2) ∧
    (VecRuns (sV .f32) (kV .f32) 1 [] [1, 1] false [] [] anyFmt ∧ operand (sV .f32) (kV .f32) 1 [1, 1] 1 = operand (sV .f32) (kV .f32) 1 [1, 1] 1) := by
  unfold VecRuns Operable AllPass; decide +kernel

/-- Narrowing, widening and equal widths at their last part, and blocks of i4x. -/
theorem witness_vector_conversions : (∀ x ∈ [(Fmt.f64, Fmt.i8, 3), (.f32, .f16, 1), (.f16, .f32, 1), (.i8, .f64, 3), (.f32, .z32, 0)],
      let p := BitVec.ofNat 2 x.2.2
      VecRuns (sV x.1) (kV x.1) 1 [3] [1] (decide (Fp.width x.2.1 < Fp.width (fmtVF (kV x.1).fmt))) [] [] anyFmt ∧ fmtVF (kV x.1).fmt ≠ .i4x ∧
      (let ws := Fp.width (fmtVF (kV x.1).fmt); let wt := Fp.width x.2.1
       (wt < ws → p.toNat < ws / wt) ∧ (ws < wt → p.toNat < wt / ws) ∧ (ws = wt → p = 0))) ∧
    (∀ x ∈ [(Fmt.f32, 3), (.f16, 3), (.i8, 1)], VecRuns (sV .i4x) (kV .i4x) 1 [3] [1] false [] [] anyFmt ∧ fmtVF (kV .i4x).fmt = .i4x ∧
      (BitVec.ofNat 2 x.2).toNat < Fp.width x.1 / 4) := by
  unfold VecRuns Operable AllPass; decide +kernel
theorem witness_vector_packs : (∀ x ∈ [(Fmt.i8, false, Fmt.i4), (.z8, false, .i4), (.i16, false, .i8), (.z16, true, .z8), (.i64, true, .z32), (.z64, false, .i32)],
      VecRuns (sV x.1) (kV x.1) 1 [3] [1, 2] false [] [] ints ∧ fmtVF (kV x.1).fmt = x.1 ∧
      (x.1, x.2.1, x.2.2) ∈ ([(.i8, false, .i4), (.z8, false, .i4), (.i16, false, .i8), (.z16, false, .i8), (.i16, true, .z8), (.z16, true, .z8),
      (.i32, false, .i16), (.z32, false, .i16), (.i32, true, .z16), (.z32, true, .z16),
      (.i64, false, .i32), (.z64, false, .i32), (.i64, true, .z32), (.z64, true, .z32)] : List (Fmt × Bool × Fmt))) ∧
    (∀ x ∈ ([(.i4, .i8), (.i8, .i16), (.i16, .i32), (.i32, .i64), (.z8, .z16), (.z16, .z32), (.z32, .z64)] : List (Fmt × Fmt)),
      VecRuns (sV x.1) (kV x.1) 1 [3] [1] false [] [] [.i4, .i8, .i16, .i32, .z8, .z16, .z32] ∧ fmtVF (kV x.1).fmt = x.1) := by
  unfold VecRuns Operable AllPass; decide +kernel

theorem witness_vector_dot_reduce : (∀ f ∈ [Fmt.i8, .z8, .f8e4, .f8e5], VecRuns (sV f) (kV f) 1 [3] [1, 2] true [] [] [f]) ∧
    (∀ f ∈ floats ++ ints, VecRuns (sV f) (kV f) 1 [3] [1] false [] [] [f]) ∧ (∀ f ∈ [Fmt.f32, .f64], VecRuns (sV f) (kV f) 1 [3] [1, 2] false [] [] [f]) := by
  unfold VecRuns Operable AllPass; decide +kernel

theorem witness_reduction_tree : 1 ≤ 12 ∧ 12 ≤ 12 ∧ 0 < 2 ^ 12 := by decide

/-- A missing port, an exhausted one, one of the other direction, a live input that has more to ask for and one that has not. -/
theorem witness_port_moves : portLive (((sP .f32).seq 0).ports.getD 7 {}) false = false ∧ portLive (((sP .f32).seq 0).ports.getD 2 {}) false = false ∧
    portLive (((sP .f32).seq 0).ports.getD 1 {}) false = false ∧
    (portLive (((sP .f32).seq 0).ports.getD 0 {}) false = true ∧ fwdIn ((sP .f32).seq 0) 0 = none ∧ 0 < ((sP .f32).seq 0).ports.length ∧
      (((sP .f32).seq 0).ports.getD 0 {}).asked < pdVectors (((sP .f32).seq 0).ports.getD 0 {}).desc) ∧
    (let q := { (sP .f32).seq 0 with ports := upd portsW 0 fun x => { x with asked := 3 } }
     portLive (q.ports.getD 0 {}) false = true ∧ fwdIn q 0 = none ∧ ¬ (q.ports.getD 0 {}).asked < pdVectors (q.ports.getD 0 {}).desc) ∧
    portLive (portsW.getD 0 {}) true = false ∧ (portLive (portsW.getD 1 {}) true = true ∧ 1 < portsW.length) := by decide +kernel

/-! ### Control -/

/-- The same state with a task context. -/
def taskW (s : State) : State := s.modCtx 0 fun c => { c with packet := 2 }
/-- The bundle in hand with its link to an address. -/
def kL (a : Nat) : Issue := issueW 0 [(63, a)]

theorem witness_transfers : sA.issue = some kA ∧ bundleStart (sA.core 0) (offsetTarget kA (15 : BitVec 20)).toNat = true ∧
    Operable sA kA (snames [2]) (snames [2]) ∧ condHolds .lt (kA.rs 2) = true ∧ condHolds .ge (kA.rs 2) = false ∧ condHolds .eq (kA.rs 0) = true ∧
    condHolds .ne (kA.rs 2) = true ∧ condHolds .gt (kA.rs 1) = true ∧ condHolds .le (kA.rs 2) = true ∧ condHolds .b0 (kA.rs 2) = true ∧
    bundleStart (sA.core 0) (offsetTarget kA (4 : BitVec 11)).toNat = true ∧
    (Operable sA kA (snames [0]) (snames [0]) ∧ bundleStart (sA.core 0) (kA.rs 0).toNat = true) ∧ Operable sA kA (snames [63]) [] ∧
    (Operable sA kA (snames [0, 63]) (snames [0]) ∧ bundleStart (sA.core 0) (kA.rs 0).toNat = true) := by
  unfold Operable; decide +kernel
theorem witness_returns :
    (Operable (onW homeW (kL 60)) (kL 60) (snames [63]) (snames [63]) ∧ (kL 60).rs 63 ≠ 0x40000 ∧ bundleStart ((onW homeW (kL 60)).core 0) ((kL 60).rs 63).toNat = true) ∧
    (Operable (onW homeW (kL 0x40000)) (kL 0x40000) (snames [63]) (snames [63]) ∧ (kL 0x40000).rs 63 = 0x40000 ∧ ((onW homeW (kL 0x40000)).ctxOf 0).isTask = false) ∧
    (Operable (taskW (onW homeW (kL 0x40000))) (kL 0x40000) (snames [63, 61]) (snames [63]) ∧ ((taskW (onW homeW (kL 0x40000))).ctxOf 0).isTask = true) ∧
    (sA.issue = some kA ∧ (sA.ctxOf 0).isTask = false) ∧ (Operable (taskW sA) kA (snames [61]) [] ∧ ((taskW sA).ctxOf 0).isTask = true) := by
  unfold Operable; decide +kernel

/-- Targets inside a bundle, off a word, and past the memory of instructions. -/
theorem witness_bad_targets : bundleStart (sA.core 0) (offsetTarget kA (17 : BitVec 20)).toNat = false ∧ bundleStart (sA.core 0) (offsetTarget kA (0xFFFFF : BitVec 20)).toNat = false ∧
    (sA.issue = some kA ∧ kA.before.loops.length < (1 : BitVec 3).toNat) ∧
    (Operable (onW homeW (kL 61)) (kL 61) (snames [63]) (snames [63]) ∧ (kL 61).rs 63 ≠ 0x40000 ∧ bundleStart ((onW homeW (kL 61)).core 0) ((kL 61).rs 63).toNat = false) ∧
    (Operable sA kA (snames [2]) (snames [2]) ∧ condHolds .lt (kA.rs 2) = true ∧ bundleStart (sA.core 0) (offsetTarget kA (17 : BitVec 11)).toNat = false) ∧
    (Operable sA kA (snames [2]) (snames [2]) ∧ bundleStart (sA.core 0) (kA.rs 2).toNat = false) := by
  unfold Operable; decide +kernel

/-- The bundle in hand before a loop: a count, levels around it. -/
def kO (count : Nat) (l : List Loop) : Issue := kOf (fun q => { q with loops := l }) [(1, count)] 0
theorem witness_loops : (let k := kO 0xFFFFFFFF [⟨3, 56, 0⟩, ⟨2, 60, 0⟩, ⟨2, 60, 0⟩, ⟨2, 60, 0⟩, ⟨2, 60, 0⟩]; let s := onW homeW k
      bundleStart (s.core 0) 56 = true ∧ k.next ≤ 56 ∧ k.next % 16 = 0 ∧ k.before.loops.head? = some ⟨3, 56, 0⟩ ∧ k.pc ≠ 56 ∧ weltHead s k = [] ∧ k.before.loops.length < 6 ∧
      Operable s k (snames [1]) (snames [1]) ∧ (k.rs 1).toNat % 2 ^ 32 = 0xFFFFFFFF ∧ 56 = k.pc + 4 * ((k.ext.elim 0 (·.toNat)) * 2 ^ 14 + (14 : BitVec 14).toNat) ∧
      (k.ext.elim 0 (·.toNat)) * 2 ^ 10 + (1023 : BitVec 10).toNat = 1023 ∧ 56 = k.pc + 4 * (14 : BitVec 10).toNat) ∧
    (let k := kO 0x100000000 []; let s := onW homeW k
      bundleStart (s.core 0) 40 = true ∧ k.next ≤ 40 ∧ k.next % 16 = 0 ∧ k.before.loops.head? = none ∧ weltHead s k = [] ∧
      bundleStart (s.core 0) (bundleAfter (s.core 0) 8 40) = true ∧ Operable s k (snames [1]) (snames [1]) ∧ (k.rs 1).toNat % 2 ^ 32 = 0 ∧
      40 = k.pc + 4 * ((k.ext.elim 0 (·.toNat)) * 2 ^ 14 + (10 : BitVec 14).toNat)) ∧
    (let k := kO 0 [⟨3, 56, 0⟩]; let s := onW homeW k
      s.issue = some k ∧ bundleStart (s.core 0) (BitVec.ofNat 64 k.pc + 4 * (15 : BitVec 17).signExtend 64).toNat = true ∧ (1 : BitVec 3).toNat ≤ k.before.loops.length ∧
      Operable s k (snames [5]) []) ∧
    ((⟨3, 56, 0⟩ : Loop).stop ≠ 40 ∧ 1 ≤ 5 ∧ 3 < 5 - 1 ∧ (⟨4, 64, 16⟩ : Loop).stop ≠ 60) := by
  unfold Operable; decide +kernel

/-- The sequencer with counters. -/
def kC (ld st xf mt cm : Nat) : Issue := kOf (fun q => { q with ld := ld, st_ := st, xf := xf, mt := mt, cm := cm }) [(1, 0x1000), (2, 3)] 0
theorem witness_waits : (let k := kC 63 0 14 3 0; let s := onW homeW k
      s.issue = some k ∧ ((15 : BitVec 4) = 15 ∧ k.before.st_ ≤ (0 : BitVec 4).toNat ∧ k.before.xf ≤ (14 : BitVec 4).toNat ∧ k.before.mt ≤ (3 : BitVec 4).toNat ∧ k.before.cm ≤ (0 : BitVec 4).toNat) ∧
      ¬ ((14 : BitVec 4) = 15 ∨ k.before.ld ≤ (14 : BitVec 4).toNat)) ∧
    (let k := kC 0 0 0 0 0; let s := onW homeW k
      Operable s k (snames [3, 1]) (snames [1]) ∧ s.sys.dtime < (k.rs 1).toNat ∧ (k.rs 0).toNat ≤ s.sys.dtime ∧
      s.issue = some k ∧ (s.ctxOf 0).isTask = false ∧ k.before.ctx = some 0) ∧
    (let k := kA; let s := onW homeW k
      s.issue = some k ∧ (s.ctxOf 0).isTask = false ∧ (∀ l ∈ [Level.cluster, .die, .module, .fabric], k.before.withdrawn.getLsbD (levelCode l) = false) ∧ k.before.ctx = some 0 ∧
      (s.ctxOf 0).armed = none ∧ ((s.modCtx 0 fun c => { c with armed := some (1, [], false) }).ctxOf 0).armed ≠ none) := by
  unfold Operable; decide +kernel
/-- `tbwait` on a barrier of another phase, and of the phase awaited. -/
theorem witness_tbwait : let k := kC 0 0 0 0 0; ∀ ph ∈ [((k.rs 2).toNat + 1) % 16, (k.rs 2).toNat % 16], let s := { onW homeW k with mem := homeW.mem.write 0x401000 16 (ph + 16 + 2 ^ 24) }
    Operable s k (snames [3, 1, 2]) (snames [1, 2]) ∧ isOk (barrierSegs s 0 { r := true } (k.rs 1) 16) [sgB 0x1000 16] = true ∧ (sgB 0x1000 16).len = 16 ∧ (k.rs 1).toNat % 32 = 0 ∧
    (sgB 0x1000 16).fab = false ∧ bauHomed (localPa (sgB 0x1000 16).pa) = true ∧ segsLive s [sgB 0x1000 16] = true ∧
    poisoned s (localPa (sgB 0x1000 16).pa) 16 = false ∧ k.before.order = [] ∧ s.updates = [] ∧ k.before.acc = [] ∧ barrierPhase s (sgB 0x1000 16) = ph := by
  unfold Operable; decide +kernel

theorem witness_format_views : (sA.issue = some kA ∧ Operable sA kA (snames [1]) (snames [1])) ∧ ((onW homeW (kX 0x1FFFF)).issue = some (kX 0x1FFFF)) ∧
    (let k := issueW 0 [(1, 0x0000004000000040)]; Operable (onW homeW k) k (snames [1]) (snames [1]) ∧
      (k.rs 1).toNat % 2 ^ 32 % 64 = 0 ∧ (k.rs 1).toNat / 2 ^ 32 % 64 = 0 ∧ (k.rs 1).toNat % 2 ^ 32 + (k.rs 1).toNat / 2 ^ 32 ≤ k.before.winSize) ∧
    (let k := issueW 0 [(1, 0x0000004000000041)]; Operable (onW homeW k) k (snames [1]) (snames [1]) ∧ ¬ (k.rs 1).toNat % 2 ^ 32 % 64 = 0) := by
  unfold Operable; decide +kernel

theorem witness_fmt_shadow : ({ fmt := 5 } : Bank).shadow = [] ∧
    (let k : Bank := { fmt := 5, shadow := [⟨9, 1⟩, ⟨9, 2⟩, ⟨9, 3⟩, ⟨9, 4⟩] }
     k.shadow.Pairwise (fun x y => x.count < y.count) ∧ ∀ e ∈ k.shadow, 1 ≤ e.count ∧ e.count ≤ 4) := by decide +kernel

theorem witness_control_registers : Operable sA kA (snames [63]) [] ∧ 7 < 8 ∧ Operable sA kA (snames [2]) (snames [2]) := by
  unfold Operable; decide +kernel

theorem witness_trap_instructions : (Operable sA kA (snames [1, 1]) (snames [1, 1]) ∧ kA.rs 1 = kA.rs 1) ∧ (Operable sA kA (snames [1, 2]) (snames [1, 2]) ∧ kA.rs 1 ≠ kA.rs 2) ∧
    ((onW homeW kH).issue = some kH ∧ kH.before.inHandler = true) ∧ (sA.issue = some kA ∧ kA.before.inHandler = false) ∧ Operable sA kA (snames [5]) [] ∧
    (Operable sA kA (snames [1]) (snames [1]) ∧ ∀ n ∈ [0x00, 0x0F, 0x10, 0x27], (Instr.cwr (BitVec.ofNat 8 n) 1).wf = true ∧
      BitVec.ofNat 8 n ∉ ([0x05, 0x06, 0x07, 0x08, 0x0E, 0x15] : List (BitVec 8))) := by
  unfold Operable; decide +kernel

/-- View 0 covers one scalar only, and scalar 2 awaits a load. -/
def kN : Issue := kOf (fun q => { q with views := q.views.set 0 ⟨0, 64⟩ }) [] 0
def kW : Issue := kOf (fun q => { q with acc := [{ id := 3, path := .s, kind := .load (.bytes 16 8) 8 true, segs := [sg 0x1000 8] }] }) [] 0
theorem witness_slot_checks :
    (let needs : Issue → SlotNeeds := fun _ => { names := snames [7, 8] }; let s := onW homeW kN
     s.issue = some kN ∧ (needs kN).ready = true ∧ (∃ x ∈ (needs kN).names, x.ok kN.before = false) ∧
     (needs kN).badTarget s kN = none ∧ ∀ x ∈ (needs kN).names, x.ok kN.before = true → x.ready kN = true) ∧
    (let needs : Issue → SlotNeeds := fun _ => { names := snames [7, 8], early := some { cause := .badTarget } }; let s := onW homeW kN
     s.issue = some kN ∧ (needs kN).badTarget s kN = some { cause := .badTarget }) ∧
    (let needs : Issue → SlotNeeds := fun _ => { names := snames [1], checks := [none, some { cause := .permission }] }
     Operable sA kA (needs kA).names (needs kA).reads ∧ (needs kA).ready = true ∧ (needs kA).early = none ∧ (needs kA).view = true ∧ (needs kA).fmtOk = true ∧
     firstSome (needs kA).checks = some { cause := .permission }) ∧
    (let s := onW homeW kW; s.issue = some kW ∧ Name.scalar 2 ∈ snames [2] ∧ (Name.scalar 2).ok kW.before = true ∧ (Name.scalar 2).ready kW = false) ∧
    homeW.issue = none ∧ 15 < 16 ∧
    (Operable (sV .i4x) (kV .i4x) (vnames 1 ([3] ++ [1, 2]) ++ []) (vnames 1 ([1, 2] ++ if false then [3] else []) ++ []) ∧
     portsReady (sV .i4x) 0 [1, 2] [3] = true ∧ portsOf [1, 2] ++ portsOf [3] = [] ∧ decide (fmtVF (kV .i4x).fmt ∈ floats) = false) := by
  unfold Operable; decide +kernel

/-! ### Traps, stops and handlers -/

/-- A context of two sequencers. -/
def twoW : State := (((homeW.modCtx 0 fun c => { c with seqs := [0, 1] }).modSeq 1 fun _ => { homeW.seq 0 with pc := 32 }))
theorem witness_trap_taken : (twoW.seq 0).ctx = some 0 ∧ 0 ∈ (twoW.ctx 0).seqs ∧ (twoW.ctx 0).seqs.Nodup ∧ (∀ m ∈ (twoW.ctx 0).seqs, (twoW.seq m).wait = none) ∧
    (1 ∈ (twoW.ctx 0).seqs ∧ 1 ≠ 0 ∧ (twoW.seq 1).st = .running) ∧ 5 ∉ (twoW.ctx 0).seqs := by decide +kernel

theorem witness_fault_record : let t : Trap := { cause := .permission, flags := 32, slot := 7, held := true, xlat := 5 }
    t.code = false ∧ t.flags + (if t.held then 1 else 0) + (if true then 64 else 0) < 128 ∧ t.slot < 8 ∧ (kernelAt (homeW.ctxOf 0) 0).1 < 2 ^ 32 ∧
    (kernelAt (homeW.ctxOf 0) 0).2 < 2 ^ 32 ∧ seqId homeW 0 < 2 ^ 32 ∧ (homeW.seq 0).ctx.getD 0 < 2 ^ 16 ∧ (homeW.ctxOf 0).asid < 2 ^ 16 ∧ t.xlat < 2 ^ 32 ∧
    (homeW.seq 0).stepno < 2 ^ 64 := by decide +kernel

theorem witness_return_from_stop : ((homeW.modSeq 0 fun q => { q with st := .preempted, prev := .waiting }).seq 0).st = .preempted ∧
    (let q := (homeW.modSeq 0 fun q => { q with st := .faulted, prev := .running }).seq 0; q.st = .faulted ∧ q.prev ≠ .idle ∧ q.prev ≠ .retired) ∧
    (∀ p ∈ [SqState.idle, .retired], let q := (homeW.modSeq 0 fun q => { q with st := .faulted, prev := p }).seq 0; q.st = .faulted ∧ (q.prev = .idle ∨ q.prev = .retired)) ∧
    ((homeW.seq 0).st ≠ .faulted ∧ (homeW.seq 0).st ≠ .preempted) := by decide +kernel

theorem witness_handler : (homeW.seq 0).wait = none ∧ 1 < 2 ∧ (homeW.seq 0).shadow.length = 16 ∧ (homeW.seq 0).pendDom = none ∧ (homeW.seq 0).pendT = none ∧
    (homeW.seq 0).watch = none ∧ (uliPending { homeW.seq 0 with ulist := 3, ulimask := 3 } = some 0) ∧ (uliPending { homeW.seq 0 with ulist := 3, ulimask := 2 } = some 1) := by
  decide +kernel
end Sys2Proof.Tests
end

