-- ==== Sys2Proof/Tests/WitnessTask.lean ====
section
/-! SUPPORT. Witnesses of TasksAndMessagesRun and WaitsEnd: for each clause, a state that meets its hypotheses. -/
set_option maxRecDepth 20000
set_option Elab.async false
namespace Sys2Proof.Tests
open Sys2Proof Sys2Proof.Machine

/-! ### Tasks -/

theorem witness_TasksAndMessagesRun_halt : let s := homeW.modSeq 0 fun q => { q with halting := some .halt }
    (s.seq 0).halting = some .halt ∧ (s.seq 0).st = .running ∧ drained (s.seq 0) = true ∧ (s.seq 0).causes = [] := by decide +kernel
/-- A retiring sequencer whose s61 names a join object, of this count, word and continuation, or is zero. -/
def retireW (join count word code : Nat) : State :=
  let s := { memW with mem := (((memW.mem.write 0x402000 8 count).write 0x402008 8 word).write 0x402020 8 code).write 0x402038 8 6 }
  (s.modSeq 0 fun q => { q with halting := some .retire }).modCore 0 fun c => { c with regs := c.regs.write 488 8 join }
def joinW : Seg := { sg 0x2000 64 with atomic := true }
theorem witness_TasksAndMessagesRun_retire : (∀ s ∈ [retireW 0 0 0 0, retireW 0x2000 1 0 0x40, retireW 0x2000 1 1 0x40, retireW 0x2000 2 0 0x40, retireW 0x2000 0 0 0x40],
      (s.seq 0).halting = some .retire ∧ (s.seq 0).st = .running ∧ drained (s.seq 0) = true ∧ (s.seq 0).acc = [] ∧ (s.seq 0).causes = [] ∧ depsMet s 0 (releaseDeps s 0 .module) = true ∧ noHalf s 0 = true ∧ scalarPoison s 0 61 = none) ∧
    scalarNow (retireW 0 0 0 0) 0 61 = 0 := by decide +kernel
theorem witness_TasksAndMessagesRun_join : ∀ s ∈ [retireW 0x2000 1 0 0x40, retireW 0x2000 1 1 0x40, retireW 0x2000 2 0 0x40, retireW 0x2000 0 0 0x40],
    scalarNow s 0 61 ≠ 0 ∧ isOk (segs s 0 .dtlb (asidOf s 0) .b { r := true, w := true } (scalarNow s 0 61) 64) [joinW] = true ∧ PlainSeg s joinW ∧ bauHere [joinW] = true ∧ segsLive s [joinW] = true := by
  unfold PlainSeg; decide +kernel
/-- Cluster 2 with records and spill rings of context 0, whose cores are those of the cluster. -/
def cqW (levels : List (List CqRec)) (spill : List (Nat × Nat)) : State :=
  ((memW.modCluster 2 fun k => { k with levels := levels, spill := spill, launch := some 0, enrolled := [265, 264] }).modCtx 0 fun x =>
    { x with seqs := [264, 265], cores := [66], image := { views := (homeW.seq 0).views, win := 262144 }, lrec := 2 ^ (8 * 100) + 0x4000 * 2 ^ (8 * 112) + 16384 * 2 ^ (8 * 120) }).modCore 66 fun c => { c with imem := [(0, 0x90000000)] }
def recW (code flags tenq : Nat) : CqRec := { code := code, frame := 0x77, join := 0x2000, flags := flags, tenq := tenq }
theorem witness_TasksAndMessagesRun_ageing : ∀ l ∈ [1, 2, 3], ∀ now ∈ [1000003, 1000002], let s := (cqW ((List.replicate 4 []).set l [recW 0 l 3]) (List.replicate 4 (0, 0))).modSys fun y => { y with dtime := now }
    (s.cluster 2).levels = (List.replicate 4 []).set l [recW 0 l 3] ∧ (recW 0 l 3).flags % 4 = l ∧ (s.cluster 2).spill = List.replicate 4 (0, 0) ∧ (s.cluster 2).overflow = none ∧ dieLive s (2 / 4) = true ∧
      ((recW 0 l 3).tenq + 1000000 ≤ s.sys.dtime ∨ s.sys.dtime < (recW 0 l 3).tenq + 1000000) := by decide +kernel
theorem witness_TasksAndMessagesRun_pop : ∀ r ∈ [recW 0 9 3, recW 0x40000 1 3, recW 2 1 3], let s := cqW [[], [r, recW 0 1 4], [], []] (List.replicate 4 (0, 0))
    popTarget s 2 = some 264 ∧ popLevel (s.cluster 2) (fun _ => true) = some 1 ∧ (s.cluster 2).launch = some 0 ∧ (s.cluster 2).levels.getD 1 [] = [r, recW 0 1 4] ∧ agesNow s 2 = false ∧ ((newCycle s 2).cluster 2).pops < 4 ∧
    (r.code % 4 = 0 ∧ r.code < 0x40000 ∧ bundleStart ((loadCode s 0 (coreOf 264)).core (coreOf 264)) r.code = true ∨ r.code % 4 ≠ 0 ∨ 0x40000 ≤ r.code) ∧ elemOk ((s.ctx 0).image.views.getD 0 {}) 63 64 8 = true := by decide +kernel
/-- Cluster 3 of the same launch holds a pinned record and one that can be taken. -/
def takeW : State := (cqW (List.replicate 4 []) (List.replicate 4 (0, 0))).modCluster 3 fun k => { k with levels := [[], [], [recW 0 18 1, recW 0 2 2], []], launch := some 0 }
theorem witness_TasksAndMessagesRun_take : (popTarget takeW 2).isSome = true ∧ (popLevel (takeW.cluster 2) fun _ => true) = none ∧ (∀ x ∈ (takeW.cluster 2).spill, x.2 = 0) ∧ dieLive takeW (2 / 4) = true ∧
    (takeOrder 2).find? (fun o => (takeW.cluster o).launch = (takeW.cluster 2).launch && dieLive takeW (o / 4) && (popLevel (takeW.cluster o) takeable).isSome) = some 3 ∧
    agesNow takeW 3 = false ∧ popsNow takeW 3 = false ∧ popLevel (takeW.cluster 3) takeable = some 2 ∧ takeFirst ((takeW.cluster 3).levels.getD 2 []) = some (recW 0 2 2, [recW 0 18 1]) := by decide +kernel
def pushW : State := (cqW (List.replicate 4 []) (List.replicate 4 (0, 0))).modCluster 2 fun k => { k with pushes := [{ id := 30, r := recW 0 1 0, seq := 264, bau := false }] }
theorem witness_TasksAndMessagesRun_accept : (pushW.cluster 2).overflow = none ∧ (pushW.cluster 2).pushes = [{ id := 30, r := recW 0 1 0, seq := 264, bau := false }] ∧ depsMet pushW 264 [] = true ∧ noHalf pushW 0 = true ∧ agesNow pushW 2 = false ∧ popsNow pushW 2 = false ∧ takesNow pushW 2 = false ∧ spillStops pushW 2 = false ∧ dieLive pushW (2 / 4) = true ∧
    (onChip (pushW.cluster 2) ((recW 0 1 0).flags % 4)).length < 256 ∧ (spilled (pushW.cluster 2) ((recW 0 1 0).flags % 4)).2 = 0 := by decide +kernel
def spillW : State := let s := cqW (List.replicate 4 []) [(0, 0), (3, 2), (0, 0), (0, 0)]; { s with mem := s.mem.write 0x4050C0 40 (recNat (recW 0 1 0) + 5 * 2 ^ 256) }
theorem witness_TasksAndMessagesRun_refill : 0 < (spilled (spillW.cluster 2) 1).2 ∧ (onChip (spillW.cluster 2) 1).length < 256 ∧ spillW.ctx 0 = spillW.ctx ((spillW.cluster 2).launch.getD 0) ∧
    dieLive spillW (2 / 4) = true ∧ feLive spillW (2 / 4) (spillW.ctx 0).asid (spillAddr (spillW.ctx 0) 1 (spilled (spillW.cluster 2) 1).1) 64 = true ∧
    isOk (feRead spillW (2 / 4) (spillW.ctx 0).asid (spillAddr (spillW.ctx 0) 1 (spilled (spillW.cluster 2) 1).1) 64) (recNat (recW 0 1 0) + 5 * 2 ^ 256) = true := by decide +kernel

/-! ### Messages -/

/-- Channel 3 of sequencer 0 and channel 2 of sequencer 1 face each other. -/
def entryW (send : Bool) : BitVec 40 := BitVec.ofNat 40 (2 ^ 39 + 4 * 2 ^ 28 + (if send then 2 ^ 27 else 0) + 2 * 2 ^ 21 + 1)
def msgW (send : Bool) (m : Msg) (f : Seq → Seq) : State :=
  let s := memW.modSeq 0 fun q => f { q with chans := [(3, { entry := entryW send, cred := 2, buf := [5], pv := true, pm := true })], cm := 4 }
  { s with msgs := [{ id := 40, launch := 0, fabric := false, msg := .close 1 2 0 3 true }, { id := 41, launch := 0, fabric := false, msg := m }, { id := 42, launch := 0, fabric := false, msg := m }] }.modCtx 0 fun x => { x with seqs := [0, 1], cores := [0] }
def preW : Flight := { id := 40, launch := 0, fabric := false, msg := .close 1 2 0 3 true }
def flightW (m : Msg) : Flight := { id := 41, launch := 0, fabric := false, msg := m }
def messages : List (Bool × Msg) := [(false, .vector 1 2 0 3 77), (true, .credit 0 3 1 2), (false, .declare 0 3 { src := 1, chan := 2, entry := entryW true, launch := 0, fabric := false }), (false, .close 0 3 1 2 true)]
theorem witness_TasksAndMessagesRun_arrive : ∀ e ∈ messages, let s := msgW e.1 e.2 id; let x := chanOf (s.seq 0) 3
    MayArrive s [preW] (flightW e.2) [{ id := 42, launch := 0, fabric := false, msg := e.2 }] 0 0 ∧ drifts s 0 0 = false ∧ e.2.dst = (0, 3) ∧ e.2.src = (1, 2) ∧
      ceDecl x.entry = true ∧ x.owncl = false ∧ cePeerId x.entry = 1 ∧ cePeerCh x.entry = 2 ∧ ceSend x.entry = e.1 ∧ ForNow (flightW e.2) x := by unfold MayArrive ForNow; decide +kernel
theorem witness_TasksAndMessagesRun_drift : ∀ e ∈ messages, let s := msgW e.1 e.2 fun q => { q with st := .preempted }
    MayArrive s [preW] (flightW e.2) [{ id := 42, launch := 0, fabric := false, msg := e.2 }] 0 0 ∧ drifts s 0 0 = true ∧ ringFull (s.ctx 0).drift = false ∧
      e.2.kind = (match e.2 with | .vector .. => 0 | .close .. => 1 | .declare .. => 2 | .credit .. => 3) := by unfold MayArrive; decide +kernel
theorem witness_TasksAndMessagesRun_replay : let s := (msgW false (.close 1 2 0 3 true) id).modCtx 0 fun x => { x with drift := { tail := 7, recs := [(5, flightW (.vector 1 2 0 3 0)), (6, flightW (.close 0 3 1 2 true))] } }
    let x := chanOf (s.seq 0) 3
    (s.seq 0).ctx = some 0 ∧ (s.seq 0).st = .running ∧ (s.ctx 0).st = .released ∧ (s.ctx 0).drift.recs = (5, flightW (.vector 1 2 (seqId s 0) 3 0)) :: [(6, flightW (.close 0 3 1 2 true))] ∧ ceDecl x.entry = true ∧ ceSend x.entry = false ∧
      x.owncl = false ∧ cePeerId x.entry = 1 ∧ cePeerCh x.entry = 2 ∧ x.buf.length < ceDepth x.entry ∧ ForNow (flightW (.vector 1 2 0 3 0)) x ∧
      poisoned s (driftSlotAt 0 5) 576 = false := by unfold ForNow; decide +kernel

/-! ### Waits -/

def waitW (w : Wait) (f : Seq → Seq) : State := memW.modSeq 0 fun q => f { q with st := .waiting, wait := some w }
/-- A `wait` on counters of zero, and on one that is not; a `waitt` whose time has come, and one whose time has not. -/
def slotW (ld : Nat) : State := ((waitW .slot fun q => { q with ld := ld }).modCore 0 fun c => { c with imem := (List.range 16).map fun k => (k, if k = 0 then 0x90B00000 else 0x90000000) })
theorem witness_WaitsEnd_slot : ∀ ld ∈ [0, 1], let s := slotW ld; (s.seq 0).st = .waiting ∧ (s.seq 0).wait = some .slot ∧ bundleWaitsMet s 0 = decide (ld = 0) := by decide +kernel
theorem witness_WaitsEnd_time : (∀ y ∈ [0, 1], let s := waitW .waitt fun q => { q with pendT := some (.bytes 40 8, y, false) }
      (s.seq 0).st = .waiting ∧ (s.seq 0).wait = some .waitt ∧ (s.seq 0).pendT = some (.bytes 40 8, y, false) ∧ (y ≤ s.sys.dtime ∨ s.sys.dtime < y)) ∧
    ∀ u ∈ [some 0, some 1, none], ∀ y ∈ [none, some (0x401000, 0x1000, true)], let s := waitW (.mwait (.bytes 40 8) u) fun q => { q with watch := y }
      (s.seq 0).st = .waiting ∧ (s.seq 0).wait = some (.mwait (.bytes 40 8) u) ∧ triggered (s.seq 0) = y.isSome := by decide +kernel
theorem witness_WaitsEnd_barrier : ∀ x ∈ [8, 9], let s := waitW (.tbwait 0x401000 x 0) id
    (s.seq 0).st = .waiting ∧ (s.seq 0).wait = some (.tbwait 0x401000 x 0) ∧ (physRead s (localPa 0x401000) 16 0 % 16 = x ↔ x = 8) := by decide +kernel
/-- Sequencers 0 and 1 of the same cluster: both arrived, or only the first. -/
def domainW (l : Level) (both : Bool) : State :=
  ((waitW .dsync fun q => { q with pendDom := some (l, 7) }).modSeq 1 fun q => { q with st := .waiting, wait := some .dsync, ctx := some 0, dmr := 15, withdrawn := 0, pendDom := some (l, 7) }).modCtx 0 fun x =>
    { x with seqs := [0, 1], mask := [0], arrived := (levelCode l * 16, 0) :: if both then [(levelCode l * 16, 1)] else [] }
theorem witness_WaitsEnd_domain : ∀ l ∈ [Level.cluster, .die, .fabric], ∀ both ∈ [true, false], let s := domainW l both
    levelOf (levelCode l) = some l ∧ (s.ctx 0).arrived.any (fun e => e.1 = levelCode l * 16 + 0) = true ∧ (s.ctx 0).seqs.Nodup ∧ (s.ctx 0).mask.all (· = s.sys.modid) = true ∧ (s.ctx 0).saved = none ∧
      (both = true ↔ ∀ n ∈ domainMembers s 0 l 0, memberDone s 0 (levelCode l * 16 + 0) n = true) := by decide +kernel
/-- Thirty-one cycles of weight 1 leave no room for a bundle of weight 2 below a limit of 32. -/
theorem witness_WaitsEnd_limit : let s := homeW.modCore 0 fun c => { c with cwlim := 32, weights := List.replicate 31 1 }
    (s.core 0).cwlim.toNat < ((s.core 0).weights.take 31).sum + 2 ∧ ((s.core 0).weights.take 31).sum ≠ 0 := by decide +kernel
end Sys2Proof.Tests
end

section
/-! SUPPORT. Operands of events, folds over units, tables changed in place, and bytes that stay. -/
namespace Sys2Proof.Machine
open Sys2Proof

/-! ### Operands of an event -/

/-- An operand is the item of the list that stands in the state. -/
theorem State.arg_eq {s : State} {l : List Nat} (h : s.args = l) (k : Nat) : s.arg k = l.getD k 0 := by
  rw [State.arg, h]

/-! ### Folds over units -/

/-- A fold that changes each unit named once, by a function of that unit alone, where `P` holds of it. -/
theorem foldl_each {α : Type} {get : State → Nat → α} {f : State → Nat → State} (P : α → Prop) (h : α → α)
    (same : ∀ s n, P (get s n) → get (f s n) n = h (get s n))
    (other : ∀ s n m, m ≠ n → P (get s n) → get (f s n) m = get s m) (l : List Nat) (hl : l.Nodup) (s : State)
    (hP : ∀ n ∈ l, P (get s n)) (m : Nat) : get (l.foldl f s) m = if m ∈ l then h (get s m) else get s m := by
  induction l generalizing s with
  | nil => simp
  | cons n t ih =>
    obtain ⟨hn, ht⟩ := List.nodup_cons.mp hl
    have hnP : P (get s n) := hP n (by simp)
    have htP : ∀ k ∈ t, P (get (f s n) k) := fun k hk => by
      rw [other s n k (fun e => hn (e ▸ hk)) hnP]; exact hP k (by simp [hk])
    rw [List.foldl_cons, ih ht _ htP]
    by_cases hm : m = n
    · subst hm; simp [hn, same s m hnP]
    · simp [hm, other s n m hm hnP]

/-- A fold in which, where `I` holds, every step keeps `I`, gives its own unit a property and takes it from no other one. -/
theorem foldl_establishes {α β : Type} {get : State → Nat → α} {f : State → β → State} {key : β → Nat} {Q : α → Prop} (I : State → Prop)
    (inv : ∀ s x, I s → I (f s x)) (gives : ∀ s x, I s → Q (get (f s x) (key x))) (keeps : ∀ s x m, I s → Q (get s m) → Q (get (f s x) m))
    (l : List β) (s : State) (hI : I s) : ∀ x ∈ l, Q (get (l.foldl f s) (key x)) := by
  induction l generalizing s with
  | nil => intro x hx; cases hx
  | cons y t ih =>
    intro x hx
    rcases List.mem_cons.mp hx with rfl | hx
    · refine (List.foldlRecOn t f (motive := fun s => I s ∧ Q (get s (key x))) ⟨inv s x hI, gives s x hI⟩ ?_).2
      exact fun s hs y _ => ⟨inv s y hs.1, keeps s y _ hs.1 hs.2⟩
    · exact ih (f s y) (inv s y hI) x hx

/-! ### Window bytes written (spec/09 R188) -/

section
variable (s : State) (n off len v : Nat)

@[simp] theorem State.writeWin_mem : (s.writeWin n off len v).mem = s.mem := by
  unfold State.writeWin; dsimp only; split <;> rfl
@[simp] theorem State.writeWin_seqs : (s.writeWin n off len v).seqs = s.seqs := by
  unfold State.writeWin; dsimp only; split <;> rfl
@[simp] theorem State.writeWin_seq (m : Nat) : (s.writeWin n off len v).seq m = s.seq m := by
  simp [State.seq]
@[simp] theorem State.writeWin_regs :
    ((s.writeWin n off len v).core (coreOf n)).regs = (s.core (coreOf n)).regs.write ((s.seq n).winBase + off) len v := by
  have h : ((s.modCore (coreOf n) fun c => { c with regs := c.regs.write ((s.seq n).winBase + off) len v }).core (coreOf n)).regs =
      (s.core (coreOf n)).regs.write ((s.seq n).winBase + off) len v := by rw [State.core_modCore_same]
  unfold State.writeWin; dsimp only; split <;> exact h

end

/-! ### No register and no byte of memory changes -/

theorem SameBytes.refl (s : State) : SameBytes s s := ⟨rfl, rfl, fun _ => rfl⟩
theorem SameBytes.trans {s t u : State} (h : SameBytes s t) (k : SameBytes t u) : SameBytes s u :=
  let ⟨hmem, hkey, hregs⟩ := h
  let ⟨kmem, kkey, kregs⟩ := k
  ⟨kmem.trans hmem, kkey.trans hkey, fun g => (kregs g).trans (hregs g)⟩
/-- Changing a core but for its registers. -/
theorem sameBytes_modCore (s : State) (g : Nat) {f : Core → Core} (h : ∀ c, (f c).regs = c.regs) : SameBytes s (s.modCore g f) := by
  refine ⟨rfl, rfl, fun j => ?_⟩
  by_cases hj : j = g
  · subst hj; rw [State.core_modCore_same, h]
  · rw [State.core_modCore_other _ _ _ _ hj]

/-! ### Tables whose entries are changed in place -/

theorem tab_find_map {α β : Type} (t : Tab α) (g : α → β) (k : Nat) : Tab.find? (t.map fun e => (e.1, g e.2)) k = (t.find? k).map g := by
  induction t with
  | nil => rfl
  | cons e t ih =>
    simp only [List.map_cons, Tab.find?, ih]
    split <;> rfl
theorem tab_getD_map {α β : Type} (t : Tab α) (g : α → β) (k : Nat) (d : α) : Tab.getD (t.map fun e => (e.1, g e.2)) k (g d) = g (t.getD k d) := by
  simp only [Tab.getD, tab_find_map, Option.getD_map]

end Sys2Proof.Machine
end

section
/-! SUPPORT. What writes of the front end, operating points and energy samples leave as it was. -/
namespace Sys2Proof.Machine
open Sys2Proof

/-! ### Writes of the front end (spec/10 R199, R205, spec/14 R277) -/

/-- Contexts stay as they are, and of the sequencers only a watch may trigger. -/
def Undisturbed (s t : State) : Prop := t.ctxs = s.ctxs ∧ SameSeqs s t

theorem Undisturbed.of_eq {s t : State} (hc : t.ctxs = s.ctxs) (hs : t.seqs = s.seqs) : Undisturbed s t :=
  ⟨hc, fun n => by simp only [State.seq, hs]⟩
theorem Undisturbed.refl (s : State) : Undisturbed s s := .of_eq rfl rfl
theorem Undisturbed.trans {s t u : State} (h : Undisturbed s t) (k : Undisturbed t u) : Undisturbed s u :=
  ⟨k.1.trans h.1, fun n => by rw [k.2 n, h.2 n]⟩
theorem Undisturbed.ctx {s t : State} (h : Undisturbed s t) (c : Nat) : t.ctx c = s.ctx c := by simp only [State.ctx, h.1]
theorem undisturbed_foldl {β : Type} {f : State → β → State} (h : ∀ s x, Undisturbed s (f s x)) (l : List β) (s : State) :
    Undisturbed s (l.foldl f s) :=
  List.foldlRecOn (motive := Undisturbed s) l f (.refl s) fun t ht x _ => ht.trans (h t x)

theorem TlbOnly.undisturbed {s t : State} (h : TlbOnly s t) : Undisturbed s t := by
  rw [h.1]; exact .of_eq rfl rfl

/-- A sequencer after a write of `len` bytes. -/
def notified (pa len : Nat) (q : Seq) : Seq := match q.watch with
  | some (l, v, _) => if meet pa len l 128 then { q with watch := some (l, v, true) } else q
  | none => q

theorem notify_seq (s : State) (pa len n : Nat) : (notify s pa len).seq n = notified pa len (s.seq n) :=
  tab_getD_map s.seqs (notified pa len) n {}

theorem notify_undisturbed (s : State) (pa len : Nat) : Undisturbed s (notify s pa len) := by
  refine ⟨rfl, fun n => ?_⟩
  rw [notify_seq, notified]
  split
  · split <;> rfl
  · rfl

theorem renewed_undisturbed (s : State) (pa len : Nat) : Undisturbed s (renewed s pa len) :=
  (Undisturbed.of_eq rfl rfl : Undisturbed s (unmark (clearPoison s pa len) pa len)).trans (notify_undisturbed _ _ _)

theorem msix_undisturbed (s : State) (f v : Nat) : Undisturbed s (s.msix f v) := by
  unfold State.msix
  split <;> exact .of_eq rfl rfl

theorem rekey_undisturbed (s : State) (sector key : Nat) : Undisturbed s (rekey s sector key) := by
  unfold rekey
  split <;> exact .of_eq rfl rfl

theorem physWrite_undisturbed (s : State) (pa len key v : Nat) : Undisturbed s (physWrite s pa len key v) := by
  unfold physWrite
  split
  · refine undisturbed_foldl (fun s p => ?_) _ _
    exact .of_eq rfl rfl
  · refine Undisturbed.trans (t := if pa % 32 = 0 && len % 32 = 0 then s else rekey (rekey s (pa / 32) key) ((pa + len - 1) / 32) key) ?_ (.of_eq rfl rfl)
    split
    · exact .refl s
    · exact (rekey_undisturbed _ _ _).trans (rekey_undisturbed _ _ _)

theorem errorInterrupt_undisturbed (s : State) (f pa who : Nat) : Undisturbed s (errorInterrupt s f pa who) :=
  (msix_undisturbed s f 2).trans (.of_eq rfl rfl)

theorem homeWrite_undisturbed (s : State) (f pa len key v who : Nat) : Undisturbed s (homeWrite s f pa len key v who) := by
  unfold homeWrite
  split
  · exact errorInterrupt_undisturbed _ _ _ _
  · exact ((physWrite_undisturbed s pa len key v).trans (.of_eq rfl rfl)).trans (notify_undisturbed _ _ _)

theorem mark_undisturbed (s : State) (pa len : Nat) (m : Mark) : Undisturbed s (mark s pa len m) := by
  unfold mark
  split
  · exact .refl s
  · exact .of_eq rfl rfl

theorem storeSeg_undisturbed (s : State) (id f : Nat) (path : Option Path) (m : Mark) (x : Seg) (v : Nat) :
    Undisturbed s (storeSeg s id f path m x v) := by
  unfold storeSeg
  dsimp only
  split
  · exact notify_undisturbed _ _ _
  · split
    · exact errorInterrupt_undisturbed _ _ _ _
    · exact ((homeWrite_undisturbed _ _ _ _ _ _ _).trans (mark_undisturbed _ _ _ _)).trans (.of_eq rfl rfl)

theorem applyUpdate_undisturbed (s : State) (u : Update) : Undisturbed s (applyUpdate s u) := by
  unfold applyUpdate
  split
  · exact (homeWrite_undisturbed _ _ _ _ _ _ _).trans (mark_undisturbed _ _ _ _)
  · exact .refl s

theorem updateWhere_undisturbed (s : State) (p : Update → Bool) : Undisturbed s (updateWhere s p) :=
  (Undisturbed.of_eq rfl rfl : Undisturbed s { s with updates := (splitUpdates p s.updates).2 }).trans (undisturbed_foldl applyUpdate_undisturbed _ _)

theorem writeAll_undisturbed (s : State) (f : Nat) (l : List Seg) (v who : Nat) : Undisturbed s (writeAll s f l v who) :=
  (undisturbed_foldl (fun s x => storeSeg_undisturbed s _ _ _ _ x _) l s).trans (updateWhere_undisturbed _ _)

theorem feWrite_undisturbed {s t : State} {d f asid va len v : Nat} (h : feWrite s d f asid va len v = .ok t) : Undisturbed s t := by
  unfold feWrite at h
  split at h
  · cases h
  · split at h
    · cases h
    · cases h
      exact (tlbOnly_installSegs _ _ _ _ _).undisturbed.trans (writeAll_undisturbed _ _ _ _ _)

theorem ringFault_undisturbed (s : State) (f r code va : Nat) : Undisturbed s (ringFault s f r code va) :=
  (Undisturbed.of_eq rfl rfl).trans (msix_undisturbed _ _ _)

theorem ringXFault_undisturbed (s : State) (f r : Nat) (x : XFault) : Undisturbed s (ringXFault s f r x) := by
  unfold ringXFault
  split
  · refine Undisturbed.trans ?_ ((msix_undisturbed _ 0 0).trans (.of_eq rfl rfl))
    exact .of_eq rfl rfl
  · exact ringFault_undisturbed _ _ _ _ _

theorem completionRecord_undisturbed (s : State) (f r : Nat) (packet : BitVec 512) (status : Nat) (late : Bool) :
    Undisturbed s (completionRecord s f r packet status late) := by
  unfold completionRecord
  dsimp only
  split
  · exact .of_eq rfl rfl
  · split
    · exact (tlbOnly_installSegs _ _ _ _ _).undisturbed.trans (ringXFault_undisturbed _ _ _ _)
    · next t ht =>
      split
      · exact (feWrite_undisturbed ht).trans (msix_undisturbed _ _ _)
      · exact feWrite_undisturbed ht

/-- A completed context is as it was: its records go to memory or wait. -/
theorem completeCtx_undisturbed (s : State) (c status : Nat) : Undisturbed s (completeCtx s c status) := by
  unfold completeCtx
  dsimp only
  split
  · exact (completionRecord_undisturbed _ _ _ _ _ _).trans (completionRecord_undisturbed _ _ _ _ _ _)
  · exact completionRecord_undisturbed _ _ _ _ _ _

/-! ### Operating points and energy samples (spec/22 R426, R430) -/

theorem setPoint_frame (s : State) (d p : Nat) : (setPoint s d p).ctxs = s.ctxs ∧ (setPoint s d p).seqs = s.seqs ∧ (setPoint s d p).sys = s.sys := by
  unfold setPoint
  split <;> exact ⟨rfl, rfl, rfl⟩
theorem setPoint_undisturbed (s : State) (d p : Nat) : Undisturbed s (setPoint s d p) :=
  let ⟨hctxs, hseqs, _⟩ := setPoint_frame s d p
  .of_eq hctxs hseqs
theorem settleDies_undisturbed (s : State) (l : List Nat) : Undisturbed s (settleDies s l) :=
  undisturbed_foldl (fun s d => setPoint_undisturbed s d _) l s

/-- Sequencers, the count of releases and what a launch is doing stay as they are. -/
def SameRuns (s t : State) : Prop :=
  t.seqs = s.seqs ∧ t.sys.releases = s.sys.releases ∧
    ∀ c, (t.ctx c).st = (s.ctx c).st ∧ (t.ctx c).order = (s.ctx c).order ∧ (t.ctx c).seqs = (s.ctx c).seqs

theorem SameRuns.of_eq {s t : State} (hs : t.seqs = s.seqs) (hr : t.sys.releases = s.sys.releases) (hc : t.ctxs = s.ctxs) : SameRuns s t :=
  ⟨hs, hr, fun c => by simp only [State.ctx, hc, and_self]⟩
theorem SameRuns.refl (s : State) : SameRuns s s := .of_eq rfl rfl rfl
theorem SameRuns.trans {s t u : State} (h : SameRuns s t) (k : SameRuns t u) : SameRuns s u := by
  obtain ⟨hseqs, hrel, hctx⟩ := h
  obtain ⟨kseqs, krel, kctx⟩ := k
  refine ⟨kseqs.trans hseqs, krel.trans hrel, fun c => ?_⟩
  rw [(kctx c).1, (kctx c).2.1, (kctx c).2.2]
  exact hctx c
theorem sameRuns_foldl {β : Type} {f : State → β → State} (h : ∀ s x, SameRuns s (f s x)) (l : List β) (s : State) : SameRuns s (l.foldl f s) :=
  List.foldlRecOn (motive := SameRuns s) l f (.refl s) fun t ht x _ => ht.trans (h t x)
theorem sameRuns_modCtx (s : State) (c : Nat) {f : Ctx → Ctx} (h : ∀ x, (f x).st = x.st ∧ (f x).order = x.order ∧ (f x).seqs = x.seqs) :
    SameRuns s (s.modCtx c f) := by
  refine ⟨rfl, rfl, fun d => ?_⟩
  by_cases hd : d = c
  · subst hd; rw [State.ctx_modCtx_same]; exact h _
  · rw [State.ctx_modCtx_other _ _ _ _ hd]; exact ⟨rfl, rfl, rfl⟩

theorem sampleEnergy_sameRuns (s : State) (cl : Nat) : SameRuns s (sampleEnergy s cl) := by
  unfold sampleEnergy
  dsimp only
  split
  · exact .of_eq rfl rfl rfl
  · exact (SameRuns.of_eq rfl rfl rfl).trans (sameRuns_modCtx _ _ fun _ => ⟨rfl, rfl, rfl⟩)
theorem sampleCtx_sameRuns (s : State) (c : Nat) : SameRuns s (sampleCtx s c) := sameRuns_foldl sampleEnergy_sameRuns _ s

theorem setPoint_sameRuns (s : State) (d p : Nat) : SameRuns s (setPoint s d p) :=
  let ⟨hctxs, hseqs, hsys⟩ := setPoint_frame s d p
  .of_eq hseqs (congrArg Sys.releases hsys) hctxs
theorem settleCtx_sameRuns (s : State) (c : Nat) : SameRuns s (settleCtx s c) := sameRuns_foldl (fun s d => setPoint_sameRuns s d _) _ s
theorem beginOn_sameRuns (s : State) (c d ph : Nat) : SameRuns s (beginOn s c d ph) :=
  (SameRuns.of_eq rfl rfl rfl).trans (sameRuns_modCtx _ _ fun _ => ⟨rfl, rfl, rfl⟩)
theorem startPoints_sameRuns (s : State) (c : Nat) : SameRuns s (startPoints s c) := by
  refine SameRuns.trans ?_ ((sameRuns_foldl (fun s d => beginOn_sameRuns s c d 0) _ _).trans (settleCtx_sameRuns _ _))
  split
  · exact sameRuns_modCtx _ _ fun _ => ⟨rfl, rfl, rfl⟩
  · exact .refl s

end Sys2Proof.Machine
end

section
/-! PROOF. The checks of a slot in the order of their phases. -/
namespace Sys2Proof.Machine
open Sys2Proof

/-! ### The checks of a slot, one lemma per way to fail (spec/02 R442) -/

section
variable {s : State} {k : Issue} {needs : Issue → SlotNeeds} {effect : Issue → State → State}

/-- A slot without a taken transfer's bad target has none to raise. -/
theorem SlotNeeds.badTarget_none {r : SlotNeeds} (h : r.early = none) : r.badTarget s k = none := by
  simp [SlotNeeds.badTarget, h]

theorem slot_badTarget {t : Trap} (hi : s.issue = some k) (hb : (needs k).badTarget s k = some t) :
    slot s needs effect = s.raise 1 t := by
  simp [slot, hi, hb]

/-- One accessible register that is awaited stalls the slot. -/
theorem slot_stalled {x : Name} (hi : s.issue = some k) (hb : (needs k).badTarget s k = none) (hx : x ∈ (needs k).names)
    (hok : x.ok k.before = true) (hready : x.ready k = false) : slot s needs effect = s.stalled .notReady := by
  have hawaited : ((needs k).names.all fun x => !x.ok k.before || x.ready k) = false := by
    rw [List.all_eq_false]; exact ⟨x, hx, by simp [hok, hready]⟩
  simp [slot, hi, hb, hawaited]

/-- One register outside its view traps in phase 2, once those inside are ready. -/
theorem slot_viewOut {x : Name} (hi : s.issue = some k) (hb : (needs k).badTarget s k = none) (hr : (needs k).ready = true)
    (hx : x ∈ (needs k).names) (hout : x.ok k.before = false)
    (hready : ∀ x ∈ (needs k).names, x.ok k.before = true → x.ready k = true) :
    slot s needs effect = s.raise 2 { cause := .viewOut } := by
  have hawaited : ((needs k).names.all fun x => !x.ok k.before || x.ready k) = true := by
    rw [List.all_eq_true]; intro y hy
    cases hok : y.ok k.before with
    | false => rfl
    | true => simpa using hready y hy hok
  have hview : ((needs k).names.all fun x => x.ok k.before) = false := by
    rw [List.all_eq_false]; exact ⟨x, hx, by simp [hout]⟩
  simp [slot, hi, hb, hr, hawaited, hview]

/-- A format that the slot does not accept traps in phase 3. -/
theorem slot_format (h : Operable s k (needs k).names (needs k).reads) (hr : (needs k).ready = true)
    (he : (needs k).early = none) (hv : (needs k).view = true) (hf : (needs k).fmtOk = false) :
    slot s needs effect = s.raise 3 { cause := .illegalInstr, flags := flagFormat } := by
  obtain ⟨hi, hn, -⟩ := h
  have hview : ((needs k).names.all fun x => x.ok k.before) = true := by
    rw [List.all_eq_true]; exact fun x hx => (hn x hx).1
  have hawaited : ((needs k).names.all fun x => !x.ok k.before || x.ready k) = true := by
    rw [List.all_eq_true]; intro x hx; simp [(hn x hx).2]
  simp [slot, hi, SlotNeeds.badTarget_none he, hr, hawaited, hview, hv, hf]

end

/-! ### The view check by kind of register (spec/04 R63, R64) -/

theorem elemOk_eq (v : View) (k count size : Nat) : elemOk v k count size = decide (k < count ∧ size * k + size ≤ v.size) := by
  rw [elemOk, Nat.add_mul, Nat.one_mul, Nat.mul_comm k, Bool.decide_and]

/-- The view check of a vector field: codes from 56 on are no registers of the view. -/
theorem Name.ok_vec (q : Seq) (w c : Nat) :
    Name.ok q (.vec w c) = (decide (56 ≤ c) || decide (512 * c + 512 ≤ (viewAt q w).size)) := by
  rw [Name.ok, elemOk_eq, Bool.eq_iff_iff]
  simp only [Bool.or_eq_true, decide_eq_true_eq]
  omega

/-- Settles O31: each check of `slot` in the order of its phases. -/
theorem slotChecksOrder : Obligations.SlotChecksOrder := by
  unfold Obligations.SlotChecksOrder
  refine ⟨?badTarget, ?viewOut, ?checks, ?awaited, ?outside, ?scalar, ?vec, ?tile, ?format⟩
  case badTarget => exact fun s k needs effect t hi hb => slot_badTarget hi hb
  case viewOut => exact fun s k needs effect hi hb hr ⟨x, hx, hout⟩ hready => slot_viewOut hi hb hr hx hout hready
  case checks => exact fun s k needs effect t h hr he hv hf hc => slot_checks h hr he hv hf hc
  case awaited => exact fun s k needs effect x hi hb hx hok hready => slot_stalled hi hb hx hok hready
  case outside => exact fun s needs effect hi => slot_idle hi
  case scalar => intro q r; rw [Name.ok, elemOk_eq]; simp
  case vec => exact Name.ok_vec
  case tile => intro q t ht; rw [Name.ok, elemOk_eq]; simp [ht]
  case format =>
    intro s k w dst src old other reads acc own late effect h hports hacc
    exact slot_format (by simpa only [Bool.and_true] using h) hports rfl rfl hacc

end Sys2Proof.Machine
end

section
/-! PROOF. A step runs the decoded slots of the bundle at the PC. -/
namespace Sys2Proof.Machine
open Sys2Proof

/-! ### A turn and a step (spec/01 R13, R14, spec/20 R383) -/

/-- A free sequencer goes on to its bundle: nothing at its boundary comes first. -/
theorem turnOf_free {s : State} {n : Nat} (h : Free s n) : turnOf s n = tryBundle s n := by
  obtain ⟨hst, hctx, hgated, htwin, hstop, hcauses, hhalt, hredo, huli, howed⟩ := h
  have hno : ((s.seq n).ctx.isNone) = false := by simpa using hctx
  have hdue : stopDue s n = false := by simp [stopDue, hstop]
  simp only [turnOf, hst, hno, hdue, hgated, htwin, hcauses, hhalt, hredo, huli, howed]
  simp [SqState.live]

/-- A bundle without fault in framing or decoding runs its slots and closes. -/
theorem tryBundle_fetched {s : State} {n : Nat} (h : fetchFault (s.core (coreOf n)) (s.seq n).pc (wordsAt s n) = none) :
    tryBundle s n = closeTurn s ((itemsAt s n).foldl runSlot (settleT (beginIssue s n (wordsAt s n)) n)) n (itemsAt s n) := by
  simp only [wordsAt] at h
  simp only [tryBundle, h, itemsAt, wordsAt]

theorem runSlot_decoded {s : State} {x : SlotItem} {i : Instr} {u : State} (hd : decodeSlot x.word.toNat = .ok i)
    (hx : exec i (s.modIssue (atSlot x)) = .next u) : runSlot s x = u := by
  simp [runSlot, hd, hx, stateOf]

/-- A cycle of a core whose first sequencer's bundle issues and is admitted by the limiter. -/
theorem coreCycle_issued {s u : State} {g n w v : Nat} {l : List Nat} (hp : isPaused (s.core g) = false) (ho : issueOrder s g = n :: l)
    (ht : turnOf s n = .issued u w v) (hl : overLimit (s.core g) (w + engineWeight (s.core g)) = false) :
    coreCycle s g = (remember s u g).modCore g fun c =>
      runCycle w 1 v (waitingOn u g) (if 64 < (s.core g).droop then 1 else 0) { c with last := sqOf n } := by
  simp [coreCycle, hp, ho, pick, ht, hl]

/-- A powered module makes the first move of its schedule. -/
theorem step_scheduled {s : State} {m : Move} {rest : List Move} (hs : s.schedule = m :: rest) (hp : s.sys.power ≠ .dormant) :
    step s = moveOnce m { s with schedule := rest } := by
  simp [step, hs, hp]

/-- Settles O4: a free sequencer's turn is its bundle, and a step is the first move of the schedule. -/
theorem stepRunsDecoded : Obligations.StepRunsDecoded := by
  unfold Obligations.StepRunsDecoded
  refine ⟨?bundle, ?slot, ?single, ?cycle, ?event⟩
  case bundle => exact fun s n hfree hfetch => (turnOf_free hfree).trans (tryBundle_fetched hfetch)
  case slot => exact fun s x i hd u hx => runSlot_decoded hd hx
  case single =>
    intro s n w i x hfree hw hfetch hitems hword hd u hx
    have hturn := (turnOf_free hfree).trans (tryBundle_fetched (hw.symm ▸ hfetch))
    rw [hturn, hitems, hw, List.foldl_cons, List.foldl_nil, runSlot_decoded (hword.symm ▸ hd) hx]
  case cycle =>
    intro s g rest n l u w v hs hpow hpause horder hturn hlimit
    rw [step_scheduled hs hpow]
    exact congrArg Host.Outcome.next (coreCycle_issued (s := { s with schedule := rest }) hpause horder hturn hlimit)
  case event => exact fun s i a rest hs hpow => step_scheduled hs hpow

end Sys2Proof.Machine
end

section
/-! PROOF. Taking a trap stops the context. -/
namespace Sys2Proof.Machine
open Sys2Proof

/-! ### What comes to the head of a matrix queue begins (spec/08 R174) -/

/-- From `s` to `t` only entries of matrix queues have begun. -/
def OnlyBegins (s t : State) : Prop :=
  t = { s with cores := t.cores } ∧ ∀ g, t.core g = { s.core g with mq := (t.core g).mq } ∧ SameQueue (t.core g).mq (s.core g).mq

theorem OnlyBegins.refl (s : State) : OnlyBegins s s := ⟨rfl, fun _ => ⟨rfl, rfl⟩⟩
theorem OnlyBegins.trans {s t u : State} (h : OnlyBegins s t) (k : OnlyBegins t u) : OnlyBegins s u := by
  obtain ⟨ht, hcore⟩ := h
  obtain ⟨hu, kcore⟩ := k
  refine ⟨by rw [hu, ht], fun g => ⟨?_, (kcore g).2.trans (hcore g).2⟩⟩
  rw [(kcore g).1, (hcore g).1]

/-- Marking entries begun leaves the queue the same. -/
theorem sameQueue_begin (l : List MtxEntry) (id : Nat) : SameQueue (l.map fun e => if e.id = id then { e with begun := true } else e) l := by
  rw [SameQueue, List.map_map]
  refine List.map_congr_left fun e _ => ?_
  simp only [Function.comp]
  split <;> rfl

theorem promote_onlyBegins (s : State) (g : Nat) (again : Bool) : OnlyBegins s (promote s g again) := by
  have hbegin : ∀ id, OnlyBegins s (modEntry s g id fun e => { e with begun := true }) := fun id => by
    refine ⟨rfl, fun j => ?_⟩
    by_cases hj : j = g
    · subst hj
      rw [modEntry, State.core_modCore_same]
      exact ⟨rfl, sameQueue_begin _ id⟩
    · rw [modEntry, State.core_modCore_other _ _ _ _ hj]
      exact ⟨rfl, rfl⟩
  unfold promote
  split
  · split
    · exact hbegin _
    · exact .refl s
  · exact .refl s

theorem foldl_promote_onlyBegins (s : State) (l : List Nat) : OnlyBegins s (l.foldl (fun s g => promote s g) s) :=
  List.foldlRecOn (motive := OnlyBegins s) _ _ (.refl s) fun t ht g _ => ht.trans (promote_onlyBegins t g false)

theorem OnlyBegins.seq {s t : State} (h : OnlyBegins s t) (n : Nat) : t.seq n = s.seq n := by rw [h.1]; rfl
theorem OnlyBegins.ctx {s t : State} (h : OnlyBegins s t) (c : Nat) : t.ctx c = s.ctx c := by rw [h.1]; rfl
theorem OnlyBegins.mem {s t : State} (h : OnlyBegins s t) : t.mem = s.mem := by rw [h.1]

/-! ### Stopping sequencers (spec/01 R17) -/

/-- A sequencer that stops without a wait. -/
def stoppedAs (dest : SqState) (q : Seq) : Seq := { q with prev := q.st, wait := none, watch := none, st := dest, stopReq := false }

theorem stopSeq_unwaiting {s : State} {n : Nat} (dest : SqState) (h : (s.seq n).wait = none) :
    stopSeq s n dest = s.modSeq n (stoppedAs dest) := by
  simp only [stopSeq, h, State.modSeq, stoppedAs, Option.map_none]

/-- Sequencers stop one after another. -/
def stopEach (dest : SqState) (s : State) (l : List Nat) : State := l.foldl (fun s m => stopSeq s m dest) s

section
variable {dest : SqState} {l : List Nat} {s : State} (hl : l.Nodup) (h : ∀ n ∈ l, (s.seq n).wait = none)
include hl h

/-- Stopping sequencers that await nothing changes sequencers alone. -/
theorem stopEach_frame : stopEach dest s l = { s with seqs := (stopEach dest s l).seqs } := by
  induction l generalizing s with
  | nil => rfl
  | cons n t ih =>
    obtain ⟨hn, ht⟩ := List.nodup_cons.mp hl
    rw [stopEach, List.foldl_cons, stopSeq_unwaiting dest (h n (by simp))]
    refine (ih ht fun m hm => ?_).trans rfl
    rw [State.seq_modSeq_other _ _ _ _ (ne_of_mem_of_not_mem hm hn)]
    exact h m (by simp [hm])

theorem stopEach_seq (m : Nat) : (stopEach dest s l).seq m = if m ∈ l then stoppedAs dest (s.seq m) else s.seq m := by
  refine foldl_each (get := State.seq) (fun q => q.wait = none) (stoppedAs dest) (fun s n hq => ?_) (fun s n m hm hq => ?_) l hl s h m
  · rw [stopSeq_unwaiting dest hq, State.seq_modSeq_same]
  · rw [stopSeq_unwaiting dest hq, State.seq_modSeq_other _ _ _ _ hm]

end

/-! ### Taking a trap -/

/-- The context of a trap as it begins to stop. -/
def trapped (s : State) (n : Nat) (t : Trap) (pc : Nat) (precise : Bool) (x : Ctx) : Ctx :=
  { x with st := .stopping, frec := faultRecord s n t pc precise, faulted := x.faulted.filter (· ≠ n) ++ [n], fromPf := t.stage2 }
/-- The other live sequencers of a context. -/
def othersLive (s : State) (c n : Nat) : List Nat := (s.ctx c).seqs.filter fun m => m ≠ n && (s.seq m).st.live
/-- The state in which every sequencer of the context of a trap has stopped. -/
def allStopped (s : State) (c n saved : Nat) : State :=
  (stopSeq (stopEach .preempted s (othersLive s c n)) n .faulted).modSeq n fun q => { q with pc := saved }

/-- Taking a trap in a context is that, its record, and the heads of its cores' matrix queues. -/
theorem takeTrap_onlyBegins {s : State} {n c : Nat} (t : Trap) (pc saved : Nat) (precise : Bool) (hc : (s.seq n).ctx = some c) :
    OnlyBegins ((allStopped s c n saved).modCtx c (trapped s n t pc precise)) (takeTrap s n t pc saved precise) := by
  simp only [takeTrap, hc]
  exact foldl_promote_onlyBegins _ _

section
variable {s : State} {n c saved : Nat} (hn : n ∈ (s.ctx c).seqs) (hd : (s.ctx c).seqs.Nodup) (hw : ∀ m ∈ (s.ctx c).seqs, (s.seq m).wait = none)
include hn hd hw

/-- What has stopped: the sequencer of the trap as faulted, the other live ones as preempted, and nothing else. -/
theorem allStopped_frame :
    allStopped s c n saved = { s with seqs := (allStopped s c n saved).seqs } ∧
    (allStopped s c n saved).seq n = { stoppedAs .faulted (s.seq n) with pc := saved } ∧
    ∀ m, m ≠ n → (allStopped s c n saved).seq m = if m ∈ othersLive s c n then stoppedAs .preempted (s.seq m) else s.seq m := by
  have hawait : ∀ m ∈ othersLive s c n, (s.seq m).wait = none := fun m hm => hw m (List.mem_of_mem_filter hm)
  have hnodup : (othersLive s c n).Nodup := hd.filter _
  have hframe := stopEach_frame (dest := .preempted) hnodup hawait
  have hseq := stopEach_seq (dest := .preempted) hnodup hawait
  have hself : n ∉ othersLive s c n := by simp [othersLive]
  have hsame : (stopEach .preempted s (othersLive s c n)).seq n = s.seq n := (hseq n).trans (if_neg hself)
  have hwait : ((stopEach .preempted s (othersLive s c n)).seq n).wait = none := by rw [hsame]; exact hw n hn
  rw [allStopped, stopSeq_unwaiting _ hwait]
  refine ⟨?_, ?_, fun m hm => ?_⟩
  · rw [hframe]; rfl
  · rw [State.seq_modSeq_same, State.seq_modSeq_same, hsame]
  · rw [State.seq_modSeq_other _ _ _ _ hm, State.seq_modSeq_other _ _ _ _ hm, hseq m]

end

/-- Settles O32: the sequencers by `allStopped_frame`, the context by its record, the cores by what begins there. -/
theorem trapIsTaken : Obligations.TrapIsTaken := by
  unfold Obligations.TrapIsTaken
  intro s n t pc saved precise c hc hn hd hw
  obtain ⟨hframe, hself, hothers⟩ := allStopped_frame (saved := saved) hn hd hw
  have hbegins := takeTrap_onlyBegins t pc saved precise hc
  have hctx : (allStopped s c n saved).ctx = s.ctx := by rw [hframe]; rfl
  have hcore : (allStopped s c n saved).core = s.core := by rw [hframe]; rfl
  have hseqn : (takeTrap s n t pc saved precise).seq n = { stoppedAs .faulted (s.seq n) with pc := saved } := (hbegins.seq n).trans hself
  have hseqm : ∀ m, m ≠ n → (takeTrap s n t pc saved precise).seq m = if m ∈ othersLive s c n then stoppedAs .preempted (s.seq m) else s.seq m :=
    fun m hm => (hbegins.seq m).trans (hothers m hm)
  have hctxc : (takeTrap s n t pc saved precise).ctx c = trapped s n t pc precise (s.ctx c) := by
    rw [hbegins.ctx, State.ctx_modCtx_same, hctx]
  dsimp only
  rw [hseqn, hctxc]
  refine ⟨rfl, rfl, rfl, rfl, rfl, rfl, rfl, fun m hm hmn hlive => ?_, fun m hm => ?_, fun d hdc => ?_, ?_, fun g => ?_⟩
  · have hother : m ∈ othersLive s c n := by simpa [othersLive, hm, hmn, SqState.live] using hlive
    rw [hseqm m hmn, if_pos hother]
    exact ⟨rfl, rfl, rfl⟩
  · have hother : m ∉ othersLive s c n := fun h => hm (List.mem_of_mem_filter h)
    rw [hseqm m (ne_of_mem_of_not_mem hn hm).symm, if_neg hother]
  · rw [hbegins.ctx, State.ctx_modCtx_other _ _ _ _ hdc, hctx]
  · rw [hbegins.mem, State.modCtx_mem, hframe]
  · simpa only [State.core_modCtx, hcore] using hbegins.2 g

end Sys2Proof.Machine
end

section
/-! PROOF. Waits, domain barriers, device time and throttling. -/
namespace Sys2Proof.Machine
open Sys2Proof

/-! ### A sequencer that runs again -/

/-- Changing one sequencer changes no byte. -/
theorem sameBytes_modSeq (s : State) (n : Nat) (f : Seq → Seq) : SameBytes s (s.modSeq n f) := ⟨rfl, rfl, fun _ => rfl⟩

theorem woken_modSeq_wake (s : State) (n : Nat) : Woken s (s.modSeq n wake) n :=
  ⟨State.seq_modSeq_same s n wake, fun m hm => State.seq_modSeq_other s n wake m hm, sameBytes_modSeq s n wake, rfl, rfl⟩

/-! ### `wait` and COM slots -/

theorem waitingWake_met {s : State} {n : Nat} (hs : (s.seq n).st = .waiting) (hw : (s.seq n).wait = some .slot)
    (hm : bundleWaitsMet s n = true) : EventGives .waitingWake [n] s fun t => Woken s t n := by
  intro ha
  refine ⟨_, rfl, ?_⟩
  simp only [State.arg_eq ha, List.getD_cons_zero, hs, hw, hm]
  exact woken_modSeq_wake s n

theorem waitingWake_unmet {s : State} {n : Nat} (hm : bundleWaitsMet s n = false) :
    EventGives .waitingWake [n] s fun t => t = s := by
  intro ha
  refine ⟨_, rfl, ?_⟩
  simp [State.arg_eq ha, hm]

/-! ### `waitt` (spec/19 R370) -/

theorem waittWake_passed {s : State} {n : Nat} {y : Dest × Nat × Bool} (hs : (s.seq n).st = .waiting)
    (hw : (s.seq n).wait = some .waitt) (hy : (s.seq n).pendT = some y) (ht : y.2.1 ≤ s.sys.dtime) :
    EventGives .waittWake [n] s fun t => Woken s t n := by
  intro ha
  refine ⟨_, rfl, ?_⟩
  simp only [State.arg_eq ha, List.getD_cons_zero, hs, hw, hy, ht]
  exact woken_modSeq_wake s n

theorem waittWake_early {s : State} {n : Nat} {y : Dest × Nat × Bool} (hw : (s.seq n).wait = some .waitt)
    (hy : (s.seq n).pendT = some y) (ht : s.sys.dtime < y.2.1) : EventGives .waittWake [n] s fun t => t = s := by
  intro ha
  refine ⟨_, rfl, ?_⟩
  simp [State.arg_eq ha, hw, hy, Nat.not_le.mpr ht]

/-! ### `mwait` (spec/10 R205, spec/11 R224) -/

/-- What the end of an `mwait` does: it runs, its watch is disarmed, and its reason stands in its register. -/
def MwaitEnds (s t : State) (n o l code : Nat) : Prop :=
  (t.seq n).st = .running ∧ (t.seq n).wait = none ∧ (t.seq n).watch = none ∧
    (t.core (coreOf n)).regs.readNat ((s.seq n).winBase + o) l = code % 2 ^ (8 * l) ∧ t.mem = s.mem

theorem endMwait_ends {s : State} {n o l : Nat} {u : Option Nat} (code : Nat) (hw : (s.seq n).wait = some (.mwait (.bytes o l) u)) :
    MwaitEnds s (endMwait s n code) n o l code := by
  simp [MwaitEnds, endMwait, hw, deliver, wake, mem_readNat_write_same]

section
variable {s : State} {n o l : Nat} {u : Option Nat}

theorem mwaitTimeout_passed {T : Nat} (hs : (s.seq n).st = .waiting) (hw : (s.seq n).wait = some (.mwait (.bytes o l) (some T)))
    (ht : T ≤ s.sys.dtime) :
    EventGives .mwaitTimeout [n] s fun t => MwaitEnds s t n o l (if triggered (s.seq n) then 0 else 1) := by
  intro ha
  refine ⟨_, rfl, ?_⟩
  simp only [State.arg_eq ha, List.getD_cons_zero, hs, hw, ht]
  exact endMwait_ends _ hw

theorem mwaitTimeout_early {T : Nat} (hw : (s.seq n).wait = some (.mwait (.bytes o l) (some T))) (ht : s.sys.dtime < T) :
    EventGives .mwaitTimeout [n] s fun t => t = s := by
  intro ha
  refine ⟨_, rfl, ?_⟩
  simp [State.arg_eq ha, hw, Nat.not_le.mpr ht]

theorem monitorTrigger_triggered (hs : (s.seq n).st = .waiting) (hw : (s.seq n).wait = some (.mwait (.bytes o l) u))
    (ht : triggered (s.seq n) = true) : EventGives .monitorTrigger [n] s fun t => MwaitEnds s t n o l 0 := by
  intro ha
  refine ⟨_, rfl, ?_⟩
  simp only [State.arg_eq ha, List.getD_cons_zero, hs, ht]
  exact endMwait_ends _ hw

theorem monitorTrigger_untriggered (ht : triggered (s.seq n) = false) : EventGives .monitorTrigger [n] s fun t => t = s := by
  intro ha
  refine ⟨_, rfl, ?_⟩
  simp [State.arg_eq ha, ht]

end

/-! ### `tbwait` (spec/19 R364) -/

/-- The die of an address answers; an address on no die needs none. -/
def addrAnswers (s : State) (a : Nat) : Bool := match dieOfPa (localPa a) with
  | some d => dieAnswers s d
  | none => true

/-- The re-read of a `tbwait` as a choice: it ends where the die answers and the granule is lost or PHASE has moved on. -/
theorem tbwaitReread_eq {s : State} {n a x key : Nat} (ha : s.args = [n]) (hs : (s.seq n).st = .waiting)
    (hw : (s.seq n).wait = some (.tbwait a x key)) :
    exec .tbwaitReread s = .next (if addrAnswers s a = true ∧ (poisoned s a 16 = true ∨ physRead s (localPa a) 16 key % 16 ≠ x)
      then s.modSeq n wake else s) := by
  have hphase : fld (physRead s (localPa a) 16 key) 3 0 = physRead s (localPa a) 16 key % 16 := by simp [fld, bits]
  refine (show exec .tbwaitReread s = execTbwaitReread s from rfl).trans ?_
  simp [execTbwaitReread, State.arg_eq ha, hw, hs, segsLive, barrierPhase, hphase, addrAnswers] <;> rfl

/-! ### Domain barriers (spec/19 R366, R367) -/

/-- A sequencer of the unit as its domain's phase ends: membership of the next phase is its DMR bit, and a `dsync` on the
domain is over. -/
def phaseOver (l : Level) (q : Seq) : Seq :=
  let b := BitVec.ofNat 4 (2 ^ levelCode l)
  let q := { q with withdrawn := (q.withdrawn &&& ~~~ b) ||| (b &&& ~~~ q.dmr) }
  match q.pendDom with
  | some (l', _) => if l' = l then
      { q with pendDom := none, st := if q.wait = some .dsync && q.st = .waiting then .running else q.st, wait := if q.wait = some .dsync then none else q.wait }
    else q
  | none => q
/-- The phase of a domain is counted, and its arrivals are forgotten. -/
def phaseCounted (key : Nat) (x : Ctx) : Ctx :=
  { x with phases := x.phases.put key (x.phases.getD key 0 + 1), arrived := x.arrived.filter fun e => e.1 ≠ key }
/-- The phase ends for one sequencer. -/
def releaseMember (l : Level) (s : State) (n : Nat) : State := (leaves s (coreOf n) s.nextId).modSeq n (phaseOver l)
/-- Sequencers of a context in the unit of a domain. -/
def unitSeqs (s : State) (c : Nat) (l : Level) (unit : Nat) : List Nat := (s.ctx c).seqs.filter fun n => unitOf l (coreOf n) = unit
/-- The state after the phase of a domain. -/
def phaseEnded (s : State) (c : Nat) (l : Level) (unit : Nat) : State :=
  let u := s.modCtx c (phaseCounted (levelCode l * 16 + unit))
  (unitSeqs u c l unit).foldl (releaseMember l) u
/-- Does something keep the phase of a domain open (spec/19 R366, spec/21 R413). -/
def phaseOpen (s : State) (c : Nat) (l : Level) (unit others : Nat) : Bool :=
  !(s.ctx c).arrived.any (fun e => e.1 = levelCode l * 16 + unit) || !(domainMembers s c l unit).all (memberDone s c (levelCode l * 16 + unit)) ||
    (l = .fabric && (s.ctx c).mask.any (· ≠ s.sys.modid) && (others ≠ 1 || (s.ctx c).mask.any fun m => s.sys.away.contains m)) || (s.ctx c).saved.isSome

theorem dsyncPhaseComplete_eq {s : State} {c lc unit others : Nat} {l : Level} (ha : s.args = [c, lc, unit, others]) (hl : levelOf lc = some l) :
    exec .dsyncPhaseComplete s = .next (if phaseOpen s c l unit others = true then s else phaseEnded s c l unit) := by
  refine (show exec .dsyncPhaseComplete s = execDsyncPhaseComplete s from rfl).trans ?_
  simp only [execDsyncPhaseComplete, State.arg_eq ha, List.getD_cons_zero, List.getD_cons_succ, hl]
  rfl

/-- The bit of a level taken from the complement of `d`. -/
theorem getLsbD_level (l : Level) (w d : BitVec 4) :
    ((w &&& ~~~ BitVec.ofNat 4 (2 ^ levelCode l)) ||| (BitVec.ofNat 4 (2 ^ levelCode l) &&& ~~~ d)).getLsbD (levelCode l) = !d.getLsbD (levelCode l) := by
  cases l <;> simp [levelCode]
theorem phaseOver_withdrawn (l : Level) (q : Seq) : (phaseOver l q).withdrawn.getLsbD (levelCode l) = !q.dmr.getLsbD (levelCode l) := by
  unfold phaseOver
  dsimp only
  split
  · split <;> exact getLsbD_level l _ _
  · exact getLsbD_level l _ _


theorem unitSeqs_counted (s : State) (c key unit : Nat) (l : Level) : unitSeqs (s.modCtx c (phaseCounted key)) c l unit = unitSeqs s c l unit := by
  simp [unitSeqs, phaseCounted]

theorem releaseMember_seq_same (l : Level) (s : State) (n : Nat) : (releaseMember l s n).seq n = phaseOver l (s.seq n) :=
  State.seq_modSeq_same (leaves s (coreOf n) s.nextId) n (phaseOver l)
theorem releaseMember_seq_other (l : Level) (s : State) {n m : Nat} (h : m ≠ n) : (releaseMember l s n).seq m = s.seq m :=
  State.seq_modSeq_other (leaves s (coreOf n) s.nextId) n (phaseOver l) m h

/-- The end of a phase changes neither a byte nor a context but the one of the domain. -/
theorem phaseEnded_frame (s : State) (c : Nat) (l : Level) (unit : Nat) :
    SameBytes s (phaseEnded s c l unit) ∧ (phaseEnded s c l unit).ctx c = phaseCounted (levelCode l * 16 + unit) (s.ctx c) := by
  refine List.foldlRecOn (motive := fun t => SameBytes s t ∧ t.ctx c = phaseCounted (levelCode l * 16 + unit) (s.ctx c)) _ _
    ⟨⟨rfl, rfl, fun _ => rfl⟩, State.ctx_modCtx_same s c _⟩ ?_
  intro t ht n _
  exact ht

theorem phaseEnded_seq {s : State} {c unit n : Nat} {l : Level} (hd : (s.ctx c).seqs.Nodup) (hn : n ∈ (s.ctx c).seqs)
    (hu : unitOf l (coreOf n) = unit) : (phaseEnded s c l unit).seq n = phaseOver l (s.seq n) := by
  have hmem : n ∈ unitSeqs s c l unit := by simp [unitSeqs, hn, hu]
  rw [phaseEnded, unitSeqs_counted, foldl_each (get := State.seq) (fun _ => True) (phaseOver l) (fun s n _ => releaseMember_seq_same l s n)
    (fun s n m h _ => releaseMember_seq_other l s h) (unitSeqs s c l unit) (hd.filter _) _ (fun _ _ => trivial), if_pos hmem]
  rfl

theorem phaseOver_own {l : Level} {q : Seq} {x : Nat} (h : q.pendDom = some (l, x)) :
    (phaseOver l q).pendDom = none ∧ (q.wait = some .dsync → q.st = .waiting → (phaseOver l q).st = .running ∧ (phaseOver l q).wait = none) := by
  simp only [phaseOver, h, ↓reduceIte, true_and]
  exact fun hw hs => by simp [hw, hs]
theorem phaseOver_none {l : Level} {q : Seq} (h : q.pendDom = none) : (phaseOver l q).st = q.st ∧ (phaseOver l q).wait = q.wait := by
  simp [phaseOver, h]

theorem phaseOpen_false {s : State} {c unit others : Nat} {l : Level}
    (harr : (s.ctx c).arrived.any (fun e => e.1 = levelCode l * 16 + unit) = true)
    (hfar : l = .fabric → (s.ctx c).mask.all (· = s.sys.modid) = true ∨ others = 1 ∧ ∀ m ∈ (s.ctx c).mask, s.sys.away.contains m = false)
    (hsaved : (s.ctx c).saved = none) (hdone : ∀ n ∈ domainMembers s c l unit, memberDone s c (levelCode l * 16 + unit) n = true) :
    phaseOpen s c l unit others = false := by
  have hall : (domainMembers s c l unit).all (memberDone s c (levelCode l * 16 + unit)) = true := List.all_eq_true.mpr hdone
  have hothers : (l = .fabric && (s.ctx c).mask.any (· ≠ s.sys.modid) && (others ≠ 1 || (s.ctx c).mask.any fun m => s.sys.away.contains m) : Bool) = false := by
    by_cases hl : l = .fabric
    · rcases hfar hl with hhere | ⟨hone, haway⟩
      · have : (s.ctx c).mask.any (· ≠ s.sys.modid) = false := by simpa using hhere
        rw [this, Bool.and_false, Bool.false_and]
      · have : (s.ctx c).mask.any (fun m => s.sys.away.contains m) = false := by simpa using haway
        rw [this, hone, Bool.or_false]; exact Bool.and_false _
    · simp [hl]
  simp only [phaseOpen, harr, hall, hothers, hsaved]
  rfl

theorem phaseOpen_member {s : State} {c unit others n : Nat} {l : Level} (hn : n ∈ domainMembers s c l unit)
    (h : memberDone s c (levelCode l * 16 + unit) n = false) : phaseOpen s c l unit others = true := by
  have : (domainMembers s c l unit).all (memberDone s c (levelCode l * 16 + unit)) = false :=
    List.all_eq_false.mpr ⟨n, hn, by simp [h]⟩
  simp [phaseOpen, this]

/-! ### Device time (spec/19 R368) -/

/-- Whether a launch is ready does not depend on the lock of the timing port. -/
theorem readyNow_dtlock (s : State) (b : Bool) (c : Nat) : readyNow { s with sys := { s.sys with dtlock := b } } c = readyNow s c := rfl

theorem ptpSync_running {s : State} (h : anyRunning s = true) :
    exec .ptpSync s = .next { s with sys := { s.sys with dtlock := true } } := by
  refine (show exec .ptpSync s = execPtpSync s from rfl).trans ?_
  have : anyRunning (s.modSys fun y => { y with dtlock := true }) = true := h
  simp only [execPtpSync, this]
  rfl

theorem ptpSync_stepped {s : State} (h : anyRunning s = false) :
    exec .ptpSync s = .next (passTime { s with sys := { s.sys with dtlock := true } } (Nat.max s.sys.dtime (s.arg 0))) := by
  refine (show exec .ptpSync s = execPtpSync s from rfl).trans ?_
  have : anyRunning (s.modSys fun y => { y with dtlock := true }) = false := h
  simp only [execPtpSync, this]
  rfl

/-- A granted launch whose RELT passes before it is ready is late. -/
theorem passTime_late {s : State} {t : Nat} {e : Nat × Ctx} (he : e ∈ s.ctxs) (hst : e.2.st = .granted) (hr : e.2.lr 80 8 ≠ 0)
    (hge : s.sys.dtime ≤ e.2.lr 80 8) (hlt : e.2.lr 80 8 < t) (hn : readyNow s e.1 = false) :
    (e.1, { e.2 with late := true }) ∈ (passTime s t).ctxs := by
  refine List.mem_map.mpr ⟨e, he, ?_⟩
  simp [hst, hr, hge, hlt, hn]

/-! ### Throttling (spec/19 R371-R373) -/

theorem overLimit_eq (c : Core) (w : Nat) :
    overLimit c w = decide (c.cwlim.toNat < (c.weights.take 31).sum + w ∧ (c.weights.take 31).sum ≠ 0) := by
  rw [overLimit, windowSum, ← List.sum_eq_foldl]; simp

theorem currentLimitFreezeCycle_over {s : State} {g w : Nat} (h : overLimit (s.core g) w = true) :
    EventGives .currentLimitFreezeCycle [g, w] s fun t => t = s.modCore g (freezeCycle (waitingOn s g)) := by
  intro ha
  refine ⟨_, rfl, ?_⟩
  simp [State.arg_eq ha, h]

/-- A core on which the droop detector's crossing falls. -/
def drooped (c : Core) : Core := { c with droop := 70, perf := { c.perf with drpev := c.perf.drpev + 1 } }

theorem droopCrossing_eq {s : State} {d : Nat} (ha : s.args = [d]) (hd : d < 4) :
    exec .droopCrossing s = .next ((coresOfDie d).foldl (fun s g => s.modCore g drooped) s) := by
  refine (show exec .droopCrossing s = execDroopCrossing s from rfl).trans ?_
  rw [execDroopCrossing, State.arg_eq ha, List.getD_cons_zero, Nat.mod_eq_of_lt hd]
  rfl

theorem mem_coresOfDie (d g : Nat) : g ∈ coresOfDie d ↔ g / 128 = d := by
  simp only [coresOfDie, List.mem_map, List.mem_range]
  exact ⟨fun ⟨i, hi, h⟩ => by omega, fun h => ⟨g % 128, by omega, by omega⟩⟩
theorem nodup_coresOfDie (d : Nat) : (coresOfDie d).Nodup := List.nodup_range.map fun _ _ h => Nat.add_left_cancel h

theorem foldl_drooped_core (s : State) (d g : Nat) :
    ((coresOfDie d).foldl (fun s g => s.modCore g drooped) s).core g = if g / 128 = d then drooped (s.core g) else s.core g := by
  rw [foldl_each (get := State.core) (fun _ => True) drooped (fun s n _ => State.core_modCore_same s n drooped)
    (fun s n m h _ => State.core_modCore_other s n drooped m h) _ (nodup_coresOfDie d) s (fun _ _ => trivial)]
  simp only [mem_coresOfDie]


theorem foldl_drooped_bytes (s : State) (d : Nat) : SameBytes s ((coresOfDie d).foldl (fun s g => s.modCore g drooped) s) :=
  List.foldlRecOn (motive := SameBytes s) _ _ (.refl s) fun t ht g _ => ht.trans (sameBytes_modCore t g fun _ => rfl)
theorem foldl_modCore_seqs (s : State) (l : List Nat) (f : Core → Core) : (l.foldl (fun s g => s.modCore g f) s).seqs = s.seqs := by
  induction l generalizing s with
  | nil => rfl
  | cons g t ih => exact ih _

/-- Settles O55: each wait ends on its condition alone, each event of time and throttling has its effect. -/
theorem waitsEnd : Obligations.WaitsEnd := by
  unfold Obligations.WaitsEnd
  refine ⟨?slot, ?waitt, ?mwait, ?tbwait, ?domain, ?sync, ?holdover, ?limit, ?droop⟩
  case slot => exact fun s n hs hw => ⟨waitingWake_met hs hw, waitingWake_unmet⟩
  case waitt => exact fun s n hs hw y hy => ⟨waittWake_passed hs hw hy, waittWake_early hw hy⟩
  case mwait =>
    intro s n o l u hs hw
    refine ⟨?_, ?_, fun ht => ?_, monitorTrigger_untriggered⟩
    · rintro T rfl ht; exact mwaitTimeout_passed hs hw ht
    · rintro T rfl ht; exact mwaitTimeout_early hw ht
    · simpa only [MwaitEnds, Nat.zero_mod] using monitorTrigger_triggered hs hw ht
  case tbwait =>
    intro s n a x key hs hw
    refine ⟨fun hlive hend ha => ⟨_, tbwaitReread_eq ha hs hw, ?_⟩, fun hnot ha => ⟨_, tbwaitReread_eq ha hs hw, ?_⟩⟩
    · rw [if_pos ⟨hlive, hend⟩]; exact woken_modSeq_wake s n
    · refine if_neg fun ⟨hlive, hend⟩ => ?_
      rcases hnot with hdead | ⟨hclean, hsame⟩
      · exact Bool.false_ne_true (hdead.symm.trans hlive)
      · simp [hclean, hsame] at hend
  case domain =>
    intro s c lc unit others l hl harr hd hfar hsaved
    refine ⟨fun hdone ha => ⟨_, dsyncPhaseComplete_eq ha hl, ?_⟩, fun ⟨n, hn, hopen⟩ ha => ⟨_, dsyncPhaseComplete_eq ha hl, ?_⟩⟩
    · rw [phaseOpen_false harr hfar hsaved hdone, if_neg Bool.false_ne_true]
      obtain ⟨hbytes, hctx⟩ := phaseEnded_frame s c l unit
      refine ⟨hbytes, ?_, ?_, fun n hn hu => ?_⟩
      · rw [hctx]; exact tab_getD_put_same _ _ _ _
      · rw [hctx]; rfl
      · rw [phaseEnded_seq hd hn hu]
        exact ⟨phaseOver_withdrawn l _, fun x hx => phaseOver_own hx, phaseOver_none⟩
    · rw [phaseOpen_member hn hopen, if_pos rfl]
  case sync =>
    intro s v ha
    cases hrun : anyRunning s with
    | true => exact ⟨_, ptpSync_running hrun, rfl, by simp, fun _ => rfl, by simp⟩
    | false =>
      refine ⟨_, ptpSync_stepped hrun, rfl, ?_, by simp, fun _ e he hst hr hge hlt hn => ?_⟩
      · rw [State.arg_eq ha]; rfl
      · refine passTime_late he hst hr hge ?_ ((readyNow_dtlock s true _).trans hn)
        rw [State.arg_eq ha]; exact Nat.lt_of_lt_of_le hlt (Nat.le_max_right _ _)
  case holdover => exact fun s => rfl
  case limit =>
    intro s g w hsum hne ha
    obtain ⟨t, ht, rfl⟩ := currentLimitFreezeCycle_over (by rw [overLimit_eq, decide_eq_true ⟨hsum, hne⟩]) ha
    refine ⟨_, ht, ?_⟩
    simp only [State.core_modCore_same]
    exact ⟨rfl, rfl, rfl, sameBytes_modCore s g fun _ => rfl, rfl⟩
  case droop =>
    intro s d hd ha
    refine ⟨_, droopCrossing_eq ha hd, foldl_drooped_bytes s d, foldl_modCore_seqs s _ drooped, fun g _ => ⟨fun h => ?_, fun h => ?_⟩⟩
    · rw [foldl_drooped_core, if_pos h]; rfl
    · rw [foldl_drooped_core, if_neg h]

end Sys2Proof.Machine
end

section
/-! PROOF. Grant, release and completion of launches; the lease. -/
namespace Sys2Proof.Machine
open Sys2Proof

/-! ### The grant of a launch (spec/14 R281) -/

theorem launchGrant_gives {s : State} {k f r c : Nat} (hchoice : grantChoice s = some (k, f, r, c)) (hleader : leaderOk s = true)
    (hvictims : victimsFor s c = some []) : EventGives .launchGrant [c] s fun t =>
      (t.ctx c).st = .granted ∧ (t.ctx c).victims = [] ∧ SameBytes s t ∧ t.seqs = s.seqs := by
  intro ha
  refine ⟨_, rfl, ?_⟩
  simp [hchoice, State.arg_eq ha, hleader, hvictims, SameBytes]

/-! ### The sequencers of a gang launch start (spec/01 R26) -/

/-- A sequencer that runs for a launch from its entry, through the views of its image. -/
def Launched (c : Nat) (x : Ctx) (q : Seq) : Prop := q.st = .running ∧ q.pc = x.image.entry ∧ q.ctx = some c ∧ q.views = x.image.views

section
variable (s : State) (c n pc rank : Nat) (pre : List (Nat × Word)) (uli : Option (BitVec 2))

theorem startSeq_frame : (startSeq s c n pc rank pre uli).ctxs = s.ctxs ∧ (startSeq s c n pc rank pre uli).sys = s.sys := ⟨rfl, rfl⟩
theorem startSeq_seq_other {m : Nat} (h : m ≠ n) : (startSeq s c n pc rank pre uli).seq m = s.seq m := tab_getD_put_other _ _ _ _ _ h
theorem startSeq_launched {x : Ctx} (h : s.ctx c = x) : Launched c x ((startSeq s c n x.image.entry rank pre uli).seq n) := by
  subst h
  have hseq : ∀ q, (s.setSeq n q).seq n = q := fun q => tab_getD_put_same _ _ _ _
  unfold startSeq
  exact ⟨congrArg Seq.st (hseq _), congrArg Seq.pc (hseq _), congrArg Seq.ctx (hseq _), congrArg Seq.views (hseq _)⟩

end

/-- The sequencers that a gang launch takes. -/
def gangSeqs (s : State) (x : Ctx) : List Nat := (x.cores.map fun g => (freeSeqs s [] g).take (seqnOf x)).flatten


/-- One sequencer of a gang launch starts, with its rank. -/
def startMember (c : Nat) (x : Ctx) (t : State) (e : Nat × Nat) : State := startSeq t c e.1 x.image.entry e.2 (gangPresets x e.1 e.2 none) none

/-- On the way from `s`, contexts and the module's registers are as they were, and the sequencers of a list run for the
launch. -/
def GangRuns (s : State) (c : Nat) (x : Ctx) (l : List Nat) (t : State) : Prop :=
  t.ctxs = s.ctxs ∧ t.sys = s.sys ∧ ∀ n ∈ l, Launched c x (t.seq n)

section
variable {s : State} {c : Nat} {x : Ctx} {l : List Nat}

theorem startMember_launched {t : State} (hx : s.ctx c = x) (ht : t.ctxs = s.ctxs) (e : Nat × Nat) : Launched c x ((startMember c x t e).seq e.1) :=
  startSeq_launched t c e.1 e.2 _ none (by rw [← hx]; simp only [State.ctx, ht])

theorem gangRuns_start (hx : s.ctx c = x) : GangRuns s c x l (l.zipIdx.foldl (startMember c x) s) := by
  refine ⟨?_, ?_, fun n hn => ?_⟩
  · exact List.foldlRecOn (motive := fun t => State.ctxs t = s.ctxs) _ _ rfl fun t ht e _ => ht
  · exact List.foldlRecOn (motive := fun t => State.sys t = s.sys) _ _ rfl fun t ht e _ => ht
  · obtain ⟨e, he, rfl⟩ := List.mem_map.mp (show n ∈ l.zipIdx.map Prod.fst by rwa [List.zipIdx_map_fst])
    refine foldl_establishes (get := State.seq) (f := startMember c x) (key := Prod.fst) (fun t => t.ctxs = s.ctxs) (fun t e ht => ht)
      (fun t e ht => startMember_launched hx ht e) (fun t e m ht hm => ?_) _ s rfl e he
    by_cases h : m = e.1
    · subst h; exact startMember_launched hx ht e
    · rw [startMember, startSeq_seq_other _ _ _ _ _ _ _ h]; exact hm

theorem GangRuns.modCore {t : State} (h : GangRuns s c x l t) (g : Nat) (f : Core → Core) : GangRuns s c x l (t.modCore g f) := h

theorem GangRuns.modSeq {t : State} (h : GangRuns s c x l t) (n : Nat) {f : Seq → Seq} (hf : ∀ q, Launched c x q → Launched c x (f q)) :
    GangRuns s c x l (t.modSeq n f) := by
  obtain ⟨hctxs, hsys, hruns⟩ := h
  refine ⟨hctxs, hsys, fun m hm => ?_⟩
  by_cases hmn : m = n
  · subst hmn; rw [State.seq_modSeq_same]; exact hf _ (hruns m hm)
  · rw [State.seq_modSeq_other _ _ _ _ hmn]; exact hruns m hm

theorem GangRuns.foldl {β : Type} {f : State → β → State} {t : State} (h : GangRuns s c x l t)
    (hf : ∀ t y, GangRuns s c x l t → GangRuns s c x l (f t y)) (k : List β) : GangRuns s c x l (k.foldl f t) :=
  List.foldlRecOn (motive := GangRuns s c x l) k f h fun t ht y _ => hf t y ht

end

/-- The start of a gang launch: it names the sequencers it takes, each of which runs from the entry of its image; the rest of
the launch and the module's own registers stay. -/
theorem startGang_runs {s : State} {c : Nat} {x : Ctx} (hx : s.ctx c = x) :
    (startGang s c none).sys = s.sys ∧ ((startGang s c none).ctx c).seqs = gangSeqs s x ∧
      ∀ n ∈ gangSeqs s x, Launched c x ((startGang s c none).seq n) := by
  subst hx
  have hseqs := gangRuns_start (s := s) (c := c) (l := gangSeqs s (s.ctx c)) rfl
  have hordered := hseqs.foldl (f := fun t n => t.modSeq n fun q =>
    { q with ordered := decide (pkAcq (s.ctx c).packet.toNat ≠ 0) && decide (s.updates ≠ []) }) (fun t n h => h.modSeq n fun q hq => hq) (gangSeqs s (s.ctx c))
  have howned := hordered.foldl (f := fun t g => t.modCore g fun k => { k with owner := some c }) (fun t g h => h.modCore g _) (s.ctx c).cores
  have htwins := howned.foldl (f := fun t g => t.modCore (g + 1) fun k => { k with twinOf := some g }) (fun t g h => h.modCore (g + 1) _) (s.ctx c).cores
  unfold startGang
  dsimp only
  cases htwin : (s.ctx c).twin with
  | false => exact ⟨howned.2.1, congrArg Ctx.seqs (State.ctx_modCtx_same _ _ _), howned.2.2⟩
  | true => exact ⟨htwins.2.1, congrArg Ctx.seqs (State.ctx_modCtx_same _ _ _), htwins.2.2⟩

/-- A launch that runs as the next released, before its dies and samples take note. -/
def nowReleased (s : State) (c : Nat) : State :=
  (s.modCtx c fun x => { x with st := .released, order := s.sys.releases }).modSys fun y => { y with releases := y.releases + 1, seenRelease := true }

/-- A release goes on from there by points and samples alone. -/
theorem released_sameRuns (s : State) (c : Nat) : SameRuns (nowReleased s c) (released s c) :=
  (startPoints_sameRuns (nowReleased s c) c).trans (sampleCtx_sameRuns (startPoints (nowReleased s c) c) c)

theorem nowReleased_ctx (s : State) (c : Nat) : (nowReleased s c).ctx c = { s.ctx c with st := .released, order := s.sys.releases } :=
  (State.ctx_modCtx_same s c fun x => { x with st := .released, order := s.sys.releases } :)

/-! ### Release of a gang launch (spec/01 R20, spec/14 R283) -/

/-- A granted gang launch may be released now. -/
structure MayRelease (s : State) (c : Nat) : Prop where
  power : s.sys.power = .run
  leads : leaderOk s = true
  thawed : s.sys.freeze = none
  gang : (s.ctx c).isTask = false
  granted : (s.ctx c).st = .granted
  issued : (s.ctx c).issued = true
  alone : (s.ctx c).victims = []
  due : (s.ctx c).lr 80 8 ≤ s.sys.dtime
  powered : ungated s (reservedCores (s.ctx c)) = true
  fits : launchFits s [] c = true
  live : prepareLive s c = true
  fresh : (s.ctx c).again = none

theorem MayRelease.readyNow {s : State} {c : Nat} (h : MayRelease s c) : readyNow s c = true := by
  simp [Machine.readyNow, h.power, h.leads, h.thawed, h.granted, h.issued, h.alone, h.powered, h.fits]

theorem launchRelease_eq {s : State} {c : Nat} (h : MayRelease s c) (ha : s.args = [c]) :
    exec .launchRelease s = .next (releaseLaunch s c none) := by
  refine (show exec .launchRelease s = execLaunchRelease s from rfl).trans ?_
  simp [execLaunchRelease, State.arg_eq ha, h.gang, h.readyNow, h.live, h.due, h.fresh]

/-- The state in which the words of a release are written: its code is loaded. -/
def codeLoaded (s : State) (c : Nat) : State := (s.ctx c).cores.foldl (fun s g => loadCore s c g) s

/-- An ACQ launch clears the L1 of its cores. -/
def cleared (s : State) (x : Ctx) : State :=
  if pkAcq x.packet.toNat = 0 then s else x.cores.foldl (fun s g => s.modCore g fun k => { k with l1 := [] }) s

theorem releaseLaunch_written {s u : State} {c : Nat} (h : MayRelease s c) (hp : prepare (codeLoaded s c) c false = (u, true)) :
    releaseLaunch s c none = released (startGang (cleared u (s.ctx c)) c none) c := by
  have hp' : prepare ((s.ctx c).cores.foldl (fun s g => loadCore s c g) s) c (none : Option Nat).isSome = _ := hp
  simp only [releaseLaunch, h.gang, Bool.false_eq_true, if_false, hp']
  rfl

theorem releaseLaunch_refused {s u : State} {c : Nat} (h : MayRelease s c) (hp : prepare (codeLoaded s c) c false = (u, false)) :
    releaseLaunch s c none = completeCtx (u.modCtx c fun x => { x with st := .complete, status := 2 }) c 2 := by
  have hp' : prepare ((s.ctx c).cores.foldl (fun s g => loadCore s c g) s) c (none : Option Nat).isSome = _ := hp
  simp only [releaseLaunch, h.gang, Bool.false_eq_true, if_false, hp']

theorem cleared_frame (s : State) (x : Ctx) : (cleared s x).ctxs = s.ctxs ∧ (cleared s x).sys = s.sys := by
  unfold cleared
  split
  · exact ⟨rfl, rfl⟩
  · exact List.foldlRecOn (motive := fun t => State.ctxs t = s.ctxs ∧ State.sys t = s.sys) _ _ ⟨rfl, rfl⟩ fun t ht g _ => ht

theorem cleared_ctx (s : State) (x : Ctx) (c : Nat) : (cleared s x).ctx c = s.ctx c := by
  simp only [State.ctx, (cleared_frame s x).1]

theorem launchRelease_runs {s u : State} {c : Nat} (h : MayRelease s c) (hp : prepare (codeLoaded s c) c false = (u, true))
    (hu : u.ctx c = s.ctx c) : EventGives .launchRelease [c] s fun t => (t.ctx c).st = .released ∧ t.sys.releases = u.sys.releases + 1 ∧
      (t.ctx c).order = u.sys.releases ∧ ∀ n ∈ (t.ctx c).seqs, Launched c (s.ctx c) (t.seq n) := by
  intro ha
  refine ⟨_, (launchRelease_eq h ha).trans (congrArg _ (releaseLaunch_written h hp)), ?_⟩
  obtain ⟨hgsys, hgseqs, hgruns⟩ := startGang_runs (s := cleared u (s.ctx c)) (c := c) (x := s.ctx c) ((cleared_ctx u (s.ctx c) c).trans hu)
  obtain ⟨hseqs, hrel, hctx⟩ := released_sameRuns (startGang (cleared u (s.ctx c)) c none) c
  obtain ⟨hst, horder, hnamed⟩ := hctx c
  have hreleases : (startGang (cleared u (s.ctx c)) c none).sys.releases = u.sys.releases := by rw [hgsys, (cleared_frame u _).2]
  rw [nowReleased_ctx] at hst horder hnamed
  refine ⟨hst, ?_, horder.trans hreleases, fun n hn => ?_⟩
  · rw [hrel, ← hreleases]; rfl
  · rw [State.seq, hseqs]
    exact hgruns n (by rwa [hnamed, hgseqs] at hn)

theorem launchRelease_refused {s u : State} {c : Nat} (h : MayRelease s c) (hp : prepare (codeLoaded s c) c false = (u, false)) :
    EventGives .launchRelease [c] s fun t => (t.ctx c).st = .complete ∧ (t.ctx c).status = 2 := by
  intro ha
  refine ⟨_, (launchRelease_eq h ha).trans (congrArg _ (releaseLaunch_refused h hp)), ?_⟩
  dsimp only
  rw [(completeCtx_undisturbed _ c 2).ctx, State.ctx_modCtx_same]
  exact ⟨rfl, rfl⟩

/-! ### Completion of a launch (spec/01 R23) -/

/-- A sequencer that is idle and of no context. -/
def Vacant (q : Seq) : Prop := q.st = .idle ∧ q.ctx = none

theorem Undisturbed.vacant {s t : State} (h : Undisturbed s t) {n : Nat} (hv : Vacant (s.seq n)) : Vacant (t.seq n) := by
  rw [Vacant, h.2 n]; exact hv

theorem toIdle_vacant (s : State) (n : Nat) : Vacant ((toIdle s n).seq n) := by
  rw [toIdle, State.seq_modSeq_same]; exact ⟨rfl, rfl⟩
theorem toIdle_seq_other (s : State) {n m : Nat} (h : m ≠ n) : (toIdle s n).seq m = s.seq m := by
  rw [toIdle, State.seq_modSeq_other _ _ _ _ h, State.seq_modCore, discardUnits, State.seq_modCore, State.seq_modSeq_other _ _ _ _ h]

/-- A sequencer leaves its context, which is complete or goes unfinished. -/
def leave (out : Bool) (s : State) (n : Nat) : State := (toIdle s n).modSeq n fun q => if out then emptied q else q

theorem leave_vacant (out : Bool) (s : State) (n : Nat) : Vacant ((leave out s n).seq n) := by
  rw [leave, State.seq_modSeq_same]
  cases out <;> exact toIdle_vacant s n
theorem leave_seq_other (out : Bool) (s : State) {n m : Nat} (h : m ≠ n) : (leave out s n).seq m = s.seq m := by
  rw [leave, State.seq_modSeq_other _ _ _ _ h, toIdle_seq_other s h]

theorem foldl_leave_vacant (out : Bool) (l : List Nat) (s : State) : ∀ n ∈ l, Vacant ((l.foldl (leave out) s).seq n) :=
  foldl_establishes (get := State.seq) (f := leave out) (key := id) (fun _ => True) (fun _ _ _ => trivial) (fun s n _ => leave_vacant out s n)
    (fun s n m _ hm => by
      by_cases h : m = n
      · subst h; exact leave_vacant out s m
      · exact (leave_seq_other out s h).symm ▸ hm) l s trivial

/-- The sequencers of a context that are still its own become vacant. -/
theorem vacate_vacant {s : State} {c n : Nat} (out : Bool) (hn : n ∈ (s.ctx c).seqs) (hc : (s.seq n).ctx = some c) :
    Vacant ((vacate s c out).seq n) :=
  foldl_leave_vacant out ((s.ctx c).seqs.filter fun n => (s.seq n).ctx = some c) _ n (by simp [hn, hc])

theorem zeroScratch_undisturbed (s : State) (f g : Nat) : Undisturbed s (zeroScratch s f g) := by
  unfold zeroScratch
  split
  · exact .refl s
  · exact (Undisturbed.of_eq rfl rfl : Undisturbed s { s with mem := s.mem.zero (scratchBase g) 0x800000 }).trans (renewed_undisturbed _ _ _)

theorem leaveCores_undisturbed (s : State) (c : Nat) : Undisturbed s (leaveCores s c) := by
  refine (settleDies_undisturbed s _).trans (undisturbed_foldl (fun s g => ?_) _ _)
  exact (Undisturbed.of_eq rfl rfl : Undisturbed s _).trans (zeroScratch_undisturbed _ _ _)

/-- A context that no longer waits for `c` to be saved. -/
def withoutVictim (c : Nat) (x : Ctx) : Ctx := { x with victims := x.victims.filter (· ≠ c) }

theorem dropVictim_ctx (s : State) (c d : Nat) : (dropVictim s c).ctx d = withoutVictim c (s.ctx d) :=
  tab_getD_map s.ctxs (withoutVictim c) d {}
theorem dropVictim_st (s : State) (c d : Nat) : ((dropVictim s c).ctx d).st = (s.ctx d).st := by
  rw [dropVictim_ctx]; rfl

/-- A launch that has completed, its sequencers gone, before its cores and its record. -/
def nowComplete (s : State) (c : Nat) : State :=
  (vacate s c false).modCtx c fun x => { x with st := .complete, stopAt := none, splice := none, armed := none }

theorem launchCompletion_eq {s : State} {c : Nat} (hover : launchOver s c = true) (hdone : allPerformed s c = true)
    (hfreeze : s.sys.freeze = none) (ha : s.args = [c]) :
    exec .launchCompletion s = .next (completeCtx (dropVictim (leaveCores (nowComplete s c) c) c) c 0) := by
  refine (show exec .launchCompletion s = execLaunchCompletion s from rfl).trans ?_
  simp [execLaunchCompletion, State.arg_eq ha, hover, hdone, hfreeze, nowComplete]

theorem launchCompletion_gives {s : State} {c : Nat} (hover : launchOver s c = true) (hdone : allPerformed s c = true)
    (hfreeze : s.sys.freeze = none) : EventGives .launchCompletion [c] s fun t => (t.ctx c).st = .complete ∧
      ∀ n ∈ (s.ctx c).seqs, (s.seq n).ctx = some c → (t.seq n).st = .idle ∧ (t.seq n).ctx = none := by
  intro ha
  refine ⟨_, launchCompletion_eq hover hdone hfreeze ha, ?_, fun n hn hc => ?_⟩
  · rw [(completeCtx_undisturbed _ c 0).ctx, dropVictim_st, (leaveCores_undisturbed _ c).ctx, nowComplete, State.ctx_modCtx_same]
  · refine (completeCtx_undisturbed _ c 0).vacant ?_
    exact (leaveCores_undisturbed (nowComplete s c) c).vacant (vacate_vacant false hn hc)

/-! ### The lease of the leader (spec/14 R269, R270) -/

theorem resumeRings_frame (s : State) : SameBytes s (resumeRings s) ∧ (resumeRings s).seqs = s.seqs ∧ (resumeRings s).sys = s.sys := by
  refine List.foldlRecOn (motive := fun t => SameBytes s t ∧ State.seqs t = s.seqs ∧ State.sys t = s.sys) _ _ ⟨.refl s, rfl, rfl⟩ fun t ht e _ => ?_
  split
  · exact ht
  · exact ht

theorem leaseExpiry_eq {s : State} {mask d : Nat} (hout : s.sys.lease < s.sys.dtime) (hd : d < 4) (hself : d ≠ s.sys.leader)
    (hmask : bit mask d = true) (hlive : dieLive s d = true)
    (hfirst : ∀ e, e < d → e = s.sys.leader ∨ bit mask e = false ∨ dieLive s e = false) (ha : s.args = [mask]) :
    exec .leaseExpiry s = .next (newLeader s d) := by
  have hlost : leaderOk s = false := by simp [leaderOk, hout]
  have hnext : ((List.range 4).find? fun d => d ≠ s.sys.leader && bit mask d && dieLive s d) = some d := by
    rw [List.find?_range_eq_some]
    refine ⟨by simp [hself, hmask, hlive], List.mem_range.mpr hd, fun e he => ?_⟩
    rcases hfirst e he with rfl | h | h
    · simp
    · simp [h]
    · simp [h]
  refine (show exec .leaseExpiry s = execLeaseExpiry s from rfl).trans ?_
  simp only [execLeaseExpiry, State.arg_eq ha, List.getD_cons_zero, hlost, hnext]
  rfl

/-- Settles O53: the grant, the two ends of a release, the completion, and the lease. -/
theorem launchesRun : Obligations.LaunchesRun := by
  unfold Obligations.LaunchesRun
  refine ⟨?grant, ?release, ?completion, ?renewal, ?expiry⟩
  case grant => exact fun s k f r c hchoice hleader hvictims => launchGrant_gives hchoice hleader hvictims
  case release =>
    intro s u c x hpower hleads hthawed hgang hgranted hissued halone hdue hpowered hfits hlive hfresh s0
    have h : MayRelease s c := ⟨hpower, hleads, hthawed, hgang, hgranted, hissued, halone, hdue, hpowered, hfits, hlive, hfresh⟩
    exact ⟨fun hp hu => launchRelease_runs h hp hu, fun hp => launchRelease_refused h hp⟩
  case completion => exact fun s c hover hdone hfreeze => launchCompletion_gives hover hdone hfreeze
  case renewal =>
    intro s hleader hserving
    refine ⟨_, rfl, ?_⟩
    simp only [hleader, hserving]
    rfl
  case expiry =>
    intro s mask d hout hd hself hmask hlive hfirst ha
    refine ⟨_, leaseExpiry_eq hout hd hself hmask hlive hfirst ha, ?_⟩
    obtain ⟨hbytes, hseqs, hsys⟩ := resumeRings_frame (s.modSys fun y => { y with leader := d, lease := y.dtime + 10000000 })
    exact ⟨congrArg Sys.leader hsys, congrArg Sys.lease hsys, hbytes, hseqs⟩

end Sys2Proof.Machine
end

section
/-! PROOF. The layouts of slot operands, and what the checks of the decoder accept. -/
namespace Sys2Proof

/-! ### What the checks of the decoder accept (spec/02 R43) -/

theorem ifZero_eq_ok {x : Nat} {i j : Instr} : ifZero x i = .ok j ↔ x = 0 ∧ i = j := by
  unfold ifZero; split <;> simp_all
theorem ifSome_map_eq_ok {α : Type} {x : Option α} {f : α → Instr} {j : Instr} : ifSome (x.map f) = .ok j ↔ ∃ y, x = some y ∧ f y = j := by
  cases x <;> simp [ifSome]
theorem ifWf_eq_ok {x : Nat} {i j : Instr} : ifWf x i = .ok j ↔ x = 0 ∧ j.wf = true ∧ i = j := by
  unfold ifWf; split
  · next h => simp only [Except.ok.injEq, h.1, true_and]; exact ⟨fun e => ⟨e ▸ h.2, e⟩, And.right⟩
  · next h => simp only [reduceCtorEq, false_iff]; rintro ⟨hx, hj, rfl⟩; exact h ⟨hx, hj⟩
theorem ifReserved_eq_ok {x : Nat} {e : Except Reject Instr} {j : Instr} : (if x = 0 then e else .error .reserved) = .ok j ↔ x = 0 ∧ e = .ok j := by
  split <;> simp_all
theorem unless_eq_ok {b : Bool} {e : Except Reject Instr} {j : Instr} : (if b then .error .illegal else e) = .ok j ↔ b = false ∧ e = .ok j := by
  cases b <;> simp

/-! ### Codes of the sub-fields -/

theorem scopeOf_eq_some {x : Nat} {y : Scope} : scopeOf x = some y ↔ x = scopeCode y := by
  unfold scopeOf; split <;> cases y <;> simp_all [scopeCode]
theorem condOf_eq_some {x : Nat} {y : Cond} : condOf x = some y ↔ x = condCode y := by
  unfold condOf; split <;> cases y <;> simp_all [condCode]
theorem levelOf_eq_some {x : Nat} {y : Level} : levelOf x = some y ↔ x = levelCode y := by
  unfold levelOf; split <;> cases y <;> simp_all [levelCode]
theorem fenceOf_eq_some {x : Nat} {y : FenceKind} : fenceOf x = some y ↔ x = fenceCode y := by
  unfold fenceOf; split <;> cases y <;> simp_all [fenceCode]
theorem uliOf_eq_some {x : Nat} {y : UliOp} : uliOf x = some y ↔ x = uliCode y := by
  unfold uliOf; split <;> cases y <;> simp_all [uliCode]
theorem redOf_eq_some {x : Nat} {y : RedOp} : redOf x = some y ↔ x = redCode y := by
  unfold redOf; split <;> cases y <;> simp_all [redCode]
theorem pathOf_eq_some {x : Nat} {y : Path} : pathOf x = some y ↔ x = pathCode y ∧ y ≠ .f := by
  unfold pathOf; split <;> cases y <;> simp_all [pathCode]
theorem bankTyOf_eq {x : Nat} {y : BankTy} (h : x < 4) : bankTyOf x = y ↔ x = bankTyCode y := by
  unfold bankTyOf; split <;> cases y <;> simp_all [bankTyCode]; omega
theorem fmtOf_eq {x : Nat} {y : Fmt} (h : x < 16) : fmtOf x = y ↔ x = fmtCode y := by
  unfold fmtOf; split <;> cases y <;> simp_all [fmtCode]; omega

theorem scopeCode_lt (y : Scope) : scopeCode y < 8 := by cases y <;> decide
theorem condCode_lt (y : Cond) : condCode y < 8 := by cases y <;> decide
theorem levelCode_lt (y : Level) : levelCode y < 8 := by cases y <;> decide
theorem fenceCode_lt (y : FenceKind) : fenceCode y < 4 := by cases y <;> decide
theorem uliCode_lt (y : UliOp) : uliCode y < 4 := by cases y <;> decide
theorem redCode_lt (y : RedOp) : redCode y < 4 := by cases y <;> decide
theorem pathCode_lt (y : Path) : pathCode y < 8 := by cases y <;> decide
theorem bankTyCode_lt (y : BankTy) : bankTyCode y < 4 := by cases y <;> decide
theorem fmtCode_lt (y : Fmt) : fmtCode y < 16 := by cases y <;> decide

theorem bits_lt (w hi lo : Nat) : bits w hi lo < 2 ^ (hi + 1 - lo) := Nat.mod_lt _ (Nat.two_pow_pos _)
theorem decide_eq_bit {x : Nat} {z : Bool} (h : x < 2) : decide (x = 1) = z ↔ x = z.toNat := by
  cases z <;> simp; omega

/-! ### The layouts: an operand holds these fields, and its reserved bits are zero (spec/02 R33) -/

section
variable {o : Nat}

theorem reg_zero_toNat : (0 : Reg).toNat = 0 := rfl

/-! #### Three registers -/

theorem eq_rrr {d a b : Reg} : o = rrr d a b 0 ↔ o < 2 ^ 20 ∧ bits o 1 0 = 0 ∧ fD o = d ∧ fA o = a ∧ fB o = b := by
  simp only [rrr, fD, fA, fB, bits, BitVec.toNat_eq, BitVec.toNat_ofNat]; omega
theorem eq_rrr_mask {d a b : Reg} {m : BitVec 2} : o = rrr d a b m.toNat ↔ o < 2 ^ 20 ∧ fD o = d ∧ fA o = a ∧ fB o = b ∧ fM o = m := by
  simp only [rrr, fD, fA, fB, fM, bits, BitVec.toNat_eq, BitVec.toNat_ofNat]; omega
theorem eq_rrr_bit0 {d a b : Reg} {z : Bool} : o = rrr d a b z.toNat ↔
    o < 2 ^ 20 ∧ bits o 1 1 = 0 ∧ fD o = d ∧ fA o = a ∧ fB o = b ∧ decide (bits o 0 0 = 1) = z := by
  rw [decide_eq_bit (bits_lt o 0 0)]
  have := z.toNat_lt
  simp only [rrr, fD, fA, fB, bits, BitVec.toNat_eq, BitVec.toNat_ofNat]; omega
theorem eq_rrr_bit1 {d a b : Reg} {z : Bool} : o = rrr d a b (z.toNat * 2) ↔
    o < 2 ^ 20 ∧ bits o 0 0 = 0 ∧ fD o = d ∧ fA o = a ∧ fB o = b ∧ decide (bits o 1 1 = 1) = z := by
  rw [decide_eq_bit (bits_lt o 1 1)]
  have := z.toNat_lt
  simp only [rrr, fD, fA, fB, bits, BitVec.toNat_eq, BitVec.toNat_ofNat]; omega
theorem eq_rrr_bits {d a b : Reg} {y z : Bool} : o = rrr d a b (y.toNat * 2 + z.toNat) ↔
    o < 2 ^ 20 ∧ fD o = d ∧ fA o = a ∧ fB o = b ∧ decide (bits o 1 1 = 1) = y ∧ decide (bits o 0 0 = 1) = z := by
  rw [decide_eq_bit (bits_lt o 1 1), decide_eq_bit (bits_lt o 0 0)]
  have := y.toNat_lt
  have := z.toNat_lt
  simp only [rrr, fD, fA, fB, bits, BitVec.toNat_eq, BitVec.toNat_ofNat]; omega
theorem eq_rrr_bank {d a b : Reg} {t : BankTy} : o = rrr d a b (bankTyCode t) ↔
    o < 2 ^ 20 ∧ fD o = d ∧ fA o = a ∧ fB o = b ∧ bankTyOf (bits o 1 0) = t := by
  rw [bankTyOf_eq (bits_lt o 1 0)]
  have := bankTyCode_lt t
  simp only [rrr, fD, fA, fB, bits, BitVec.toNat_eq, BitVec.toNat_ofNat]; omega
theorem eq_ab {a b : Reg} : o = rrr 0 a b 0 ↔ o < 2 ^ 20 ∧ bits o 19 14 + bits o 1 0 = 0 ∧ fA o = a ∧ fB o = b := by
  simp only [rrr, fA, fB, bits, BitVec.toNat_eq, BitVec.toNat_ofNat, reg_zero_toNat]; omega
theorem eq_ab_red {a b : Reg} {p : RedOp} : o = rrr 0 a b (redCode p) ↔
    o < 2 ^ 20 ∧ bits o 19 14 = 0 ∧ fA o = a ∧ fB o = b ∧ redOf (bits o 1 0) = some p := by
  rw [redOf_eq_some]
  have := redCode_lt p
  simp only [rrr, fA, fB, bits, BitVec.toNat_eq, BitVec.toNat_ofNat, reg_zero_toNat]; omega
theorem eq_kab_mask {k : BitVec 3} {a b : Reg} {m : BitVec 2} : o = k.toNat * 2 ^ 14 + rrr 0 a b m.toNat ↔
    o < 2 ^ 20 ∧ bits o 19 17 = 0 ∧ BitVec.ofNat 3 (bits o 16 14) = k ∧ fA o = a ∧ fB o = b ∧ fM o = m := by
  simp only [rrr, fA, fB, fM, bits, BitVec.toNat_eq, BitVec.toNat_ofNat, reg_zero_toNat]; omega
theorem eq_qkab_mask {q : Bool} {k : BitVec 3} {a b : Reg} {m : BitVec 2} : o = q.toNat * 2 ^ 17 + k.toNat * 2 ^ 14 + rrr 0 a b m.toNat ↔
    o < 2 ^ 20 ∧ bits o 19 18 = 0 ∧ decide (bits o 17 17 = 1) = q ∧ BitVec.ofNat 3 (bits o 16 14) = k ∧ fA o = a ∧ fB o = b ∧ fM o = m := by
  rw [decide_eq_bit (bits_lt o 17 17)]
  have := q.toNat_lt
  simp only [rrr, fA, fB, fM, bits, BitVec.toNat_eq, BitVec.toNat_ofNat, reg_zero_toNat]; omega

/-! #### Two registers -/

theorem eq_rr {d a : Reg} : o = rrr d a 0 0 ↔ o < 2 ^ 20 ∧ bits o 7 0 = 0 ∧ fD o = d ∧ fA o = a := by
  simp only [rrr, fD, fA, bits, BitVec.toNat_eq, BitVec.toNat_ofNat, reg_zero_toNat]; omega
theorem eq_rri {d a : Reg} {x : BitVec 8} : o = rri d a x ↔ o < 2 ^ 20 ∧ fD o = d ∧ fA o = a ∧ BitVec.ofNat 8 (bits o 7 0) = x := by
  simp only [rri, fD, fA, bits, BitVec.toNat_eq, BitVec.toNat_ofNat]; omega
theorem eq_rr_mask {d a : Reg} {m : BitVec 2} : o = rrr d a 0 m.toNat ↔ o < 2 ^ 20 ∧ bits o 7 2 = 0 ∧ fD o = d ∧ fA o = a ∧ fM o = m := by
  simp only [rrr, fD, fA, fM, bits, BitVec.toNat_eq, BitVec.toNat_ofNat, reg_zero_toNat]; omega
theorem eq_rr_bit0 {d a : Reg} {z : Bool} : o = rrr d a 0 z.toNat ↔
    o < 2 ^ 20 ∧ bits o 7 1 = 0 ∧ fD o = d ∧ fA o = a ∧ decide (bits o 0 0 = 1) = z := by
  rw [decide_eq_bit (bits_lt o 0 0)]
  have := z.toNat_lt
  simp only [rrr, fD, fA, bits, BitVec.toNat_eq, BitVec.toNat_ofNat, reg_zero_toNat]; omega
theorem eq_rr_fmts {d a : Reg} {t f : Fmt} : o = rrr d a 0 (fmtCode t * 16 + fmtCode f) ↔
    o < 2 ^ 20 ∧ fD o = d ∧ fA o = a ∧ fmtOf (bits o 7 4) = t ∧ fmtOf (bits o 3 0) = f := by
  rw [fmtOf_eq (bits_lt o 7 4), fmtOf_eq (bits_lt o 3 0)]
  have := fmtCode_lt t
  have := fmtCode_lt f
  simp only [rrr, fD, fA, bits, BitVec.toNat_eq, BitVec.toNat_ofNat, reg_zero_toNat]; omega
theorem eq_rr_vcvt {d a : Reg} {p m : BitVec 2} {t : Fmt} : o = rrr d a 0 (p.toNat * 64 + fmtCode t * 4 + m.toNat) ↔
    o < 2 ^ 20 ∧ fD o = d ∧ fA o = a ∧ BitVec.ofNat 2 (bits o 7 6) = p ∧ fmtOf (bits o 5 2) = t ∧ fM o = m := by
  rw [fmtOf_eq (bits_lt o 5 2)]
  have := fmtCode_lt t
  simp only [rrr, fD, fA, fM, bits, BitVec.toNat_eq, BitVec.toNat_ofNat, reg_zero_toNat]; omega
theorem eq_rr_vsel {d a : Reg} {k : BitVec 3} {m : BitVec 2} : o = rrr d a 0 (k.toNat * 4 + m.toNat) ↔
    o < 2 ^ 20 ∧ bits o 7 5 = 0 ∧ fD o = d ∧ fA o = a ∧ BitVec.ofNat 3 (bits o 4 2) = k ∧ fM o = m := by
  simp only [rrr, fD, fA, fM, bits, BitVec.toNat_eq, BitVec.toNat_ofNat, reg_zero_toNat]; omega
theorem eq_rr_vmov {d a : Reg} {k m : BitVec 2} : o = rrr d a 0 (k.toNat * 4 + m.toNat) ↔
    o < 2 ^ 20 ∧ bits o 7 4 = 0 ∧ fD o = d ∧ fA o = a ∧ BitVec.ofNat 2 (bits o 3 2) = k ∧ fM o = m := by
  simp only [rrr, fD, fA, fM, bits, BitVec.toNat_eq, BitVec.toNat_ofNat, reg_zero_toNat]; omega
theorem eq_rr_red {d a : Reg} {e : Bool} {k : BitVec 3} {p : RedOp} {m : BitVec 2} :
    o = rrr d a 0 (e.toNat * 128 + k.toNat * 16 + redCode p * 4 + m.toNat) ↔ o < 2 ^ 20 ∧ redOf (bits o 3 2) = some p ∧
      fD o = d ∧ fA o = a ∧ decide (bits o 7 7 = 1) = e ∧ BitVec.ofNat 3 (bits o 6 4) = k ∧ fM o = m := by
  rw [redOf_eq_some, decide_eq_bit (bits_lt o 7 7)]
  have := redCode_lt p
  have := e.toNat_lt
  simp only [rrr, fD, fA, fM, bits, BitVec.toNat_eq, BitVec.toNat_ofNat, reg_zero_toNat]; omega
theorem eq_rr_agate {d a : Reg} {m : BitVec 2} : o = rrr d a 0 (m.toNat * 64) ↔
    o < 2 ^ 20 ∧ bits o 5 0 = 0 ∧ fD o = d ∧ fA o = a ∧ BitVec.ofNat 2 (bits o 7 6) = m := by
  simp only [rrr, fD, fA, bits, BitVec.toNat_eq, BitVec.toNat_ofNat, reg_zero_toNat]; omega
theorem eq_rr_fill {d a : Reg} {z : Bool} : o = d.toNat * 2 ^ 14 + a.toNat * 2 ^ 8 + z.toNat * 128 ↔
    o < 2 ^ 20 ∧ bits o 6 0 = 0 ∧ fD o = d ∧ fA o = a ∧ decide (bits o 7 7 = 1) = z := by
  rw [decide_eq_bit (bits_lt o 7 7)]
  have := z.toNat_lt
  simp only [fD, fA, bits, BitVec.toNat_eq, BitVec.toNat_ofNat]; omega

/-! #### One register and an immediate -/

theorem eq_d {d : Reg} : o = d.toNat * 2 ^ 14 ↔ o < 2 ^ 20 ∧ bits o 13 0 = 0 ∧ fD o = d := by
  simp only [fD, bits, BitVec.toNat_eq, BitVec.toNat_ofNat]; omega
theorem eq_onlyA {a : Reg} : o = onlyA a ↔ o < 2 ^ 20 ∧ bits o 19 14 + bits o 7 0 = 0 ∧ fA o = a := by
  simp only [onlyA, fA, bits, BitVec.toNat_eq, BitVec.toNat_ofNat]; omega
theorem eq_d_imm14 {d : Reg} {x : BitVec 14} : o = d.toNat * 2 ^ 14 + x.toNat ↔ o < 2 ^ 20 ∧ fD o = d ∧ BitVec.ofNat 14 (bits o 13 0) = x := by
  simp only [fD, bits, BitVec.toNat_eq, BitVec.toNat_ofNat]; omega
theorem eq_d_level {d : Reg} {j : BitVec 3} : o = d.toNat * 2 ^ 14 + j.toNat * 2 ^ 11 ↔
    o < 2 ^ 20 ∧ bits o 10 0 = 0 ∧ fD o = d ∧ BitVec.ofNat 3 (bits o 13 11) = j := by
  simp only [fD, bits, BitVec.toNat_eq, BitVec.toNat_ofNat]; omega
theorem eq_crd {d : Reg} {n : BitVec 8} : o = d.toNat * 2 ^ 14 + n.toNat * 2 ^ 6 ↔
    o < 2 ^ 20 ∧ bits o 5 0 = 0 ∧ fD o = d ∧ BitVec.ofNat 8 (bits o 13 6) = n := by
  simp only [fD, bits, BitVec.toNat_eq, BitVec.toNat_ofNat]; omega
theorem eq_cwr {n : BitVec 8} {a : Reg} : o = n.toNat * 2 ^ 6 + a.toNat ↔
    o < 2 ^ 20 ∧ bits o 19 14 = 0 ∧ BitVec.ofNat 8 (bits o 13 6) = n ∧ BitVec.ofNat 6 (bits o 5 0) = a := by
  simp only [bits, BitVec.toNat_eq, BitVec.toNat_ofNat]; omega
theorem eq_bc {c : Cond} {a : Reg} {x : BitVec 11} : o = condCode c * 2 ^ 17 + a.toNat * 2 ^ 11 + x.toNat ↔
    o < 2 ^ 20 ∧ condOf (bits o 19 17) = some c ∧ BitVec.ofNat 6 (bits o 16 11) = a ∧ BitVec.ofNat 11 (bits o 10 0) = x := by
  rw [condOf_eq_some]
  have := condCode_lt c
  simp only [bits, BitVec.toNat_eq, BitVec.toNat_ofNat]; omega
theorem eq_vset {w : BitVec 3} {a : Reg} : o = w.toNat * 2 ^ 17 + a.toNat * 2 ^ 11 ↔
    o < 2 ^ 20 ∧ bits o 10 0 = 0 ∧ BitVec.ofNat 3 (bits o 19 17) = w ∧ BitVec.ofNat 6 (bits o 16 11) = a := by
  simp only [bits, BitVec.toNat_eq, BitVec.toNat_ofNat]; omega
theorem eq_shape {h : BitVec 3} {a : Reg} {m : BitVec 2} : o = h.toNat * 2 ^ 17 + a.toNat * 2 ^ 11 + m.toNat * 2 ^ 9 ↔
    o < 2 ^ 20 ∧ bits o 8 0 = 0 ∧ BitVec.ofNat 3 (bits o 19 17) = h ∧ BitVec.ofNat 6 (bits o 16 11) = a ∧ BitVec.ofNat 2 (bits o 10 9) = m := by
  simp only [bits, BitVec.toNat_eq, BitVec.toNat_ofNat]; omega

/-! #### Tiles -/

theorem eq_mma {t : BitVec 4} {h : BitVec 3} {a b : Reg} : o = t.toNat * 2 ^ 16 + h.toNat * 2 ^ 13 + a.toNat * 2 ^ 7 + b.toNat * 2 ↔
    o < 2 ^ 20 ∧ bits o 0 0 = 0 ∧ BitVec.ofNat 4 (bits o 19 16) = t ∧ BitVec.ofNat 3 (bits o 15 13) = h ∧
      BitVec.ofNat 6 (bits o 12 7) = a ∧ BitVec.ofNat 6 (bits o 6 1) = b := by
  simp only [bits, BitVec.toNat_eq, BitVec.toNat_ofNat]; omega
theorem eq_mmaD {t : BitVec 4} {h : BitVec 3} {b : Reg} : o = t.toNat * 2 ^ 16 + h.toNat * 2 ^ 13 + b.toNat * 2 ↔
    o < 2 ^ 20 ∧ bits o 12 7 + bits o 0 0 = 0 ∧ BitVec.ofNat 4 (bits o 19 16) = t ∧ BitVec.ofNat 3 (bits o 15 13) = h ∧
      BitVec.ofNat 6 (bits o 6 1) = b := by
  simp only [bits, BitVec.toNat_eq, BitVec.toNat_ofNat]; omega
theorem eq_tile {t : BitVec 4} : o = t.toNat * 2 ^ 16 ↔ o < 2 ^ 20 ∧ bits o 15 0 = 0 ∧ BitVec.ofNat 4 (bits o 19 16) = t := by
  simp only [bits, BitVec.toNat_eq, BitVec.toNat_ofNat]; omega
theorem eq_mstab {t : BitVec 8} {a b : Reg} : o = t.toNat * 2 ^ 12 + a.toNat * 2 ^ 6 + b.toNat ↔
    o < 2 ^ 20 ∧ BitVec.ofNat 8 (bits o 19 12) = t ∧ BitVec.ofNat 6 (bits o 11 6) = a ∧ BitVec.ofNat 6 (bits o 5 0) = b := by
  simp only [bits, BitVec.toNat_eq, BitVec.toNat_ofNat]; omega

/-! #### Immediates and codes alone -/

theorem eq_imm20 {x : BitVec 20} : o = x.toNat ↔ o < 2 ^ 20 ∧ BitVec.ofNat 20 o = x := by
  simp only [BitVec.toNat_eq, BitVec.toNat_ofNat]; omega
theorem eq_imm14 {x : BitVec 14} : o = x.toNat ↔ o < 2 ^ 20 ∧ bits o 19 14 = 0 ∧ BitVec.ofNat 14 (bits o 13 0) = x := by
  simp only [bits, BitVec.toNat_eq, BitVec.toNat_ofNat]; omega
theorem eq_imm10 {x y : BitVec 10} : o = x.toNat * 2 ^ 10 + y.toNat ↔
    o < 2 ^ 20 ∧ BitVec.ofNat 10 (bits o 19 10) = x ∧ BitVec.ofNat 10 (bits o 9 0) = y := by
  simp only [bits, BitVec.toNat_eq, BitVec.toNat_ofNat]; omega
theorem eq_imm3 {x : BitVec 3} : o = x.toNat * 2 ^ 17 ↔ o < 2 ^ 20 ∧ bits o 16 0 = 0 ∧ BitVec.ofNat 3 (bits o 19 17) = x := by
  simp only [bits, BitVec.toNat_eq, BitVec.toNat_ofNat]; omega
theorem eq_imm3_imm17 {x : BitVec 3} {y : BitVec 17} : o = x.toNat * 2 ^ 17 + y.toNat ↔
    o < 2 ^ 20 ∧ BitVec.ofNat 3 (bits o 19 17) = x ∧ BitVec.ofNat 17 (bits o 16 0) = y := by
  simp only [bits, BitVec.toNat_eq, BitVec.toNat_ofNat]; omega
theorem eq_wait {l s x m c : BitVec 4} : o = l.toNat * 2 ^ 16 + s.toNat * 2 ^ 12 + x.toNat * 2 ^ 8 + m.toNat * 16 + c.toNat ↔
    o < 2 ^ 20 ∧ BitVec.ofNat 4 (bits o 19 16) = l ∧ BitVec.ofNat 4 (bits o 15 12) = s ∧ BitVec.ofNat 4 (bits o 11 8) = x ∧
      BitVec.ofNat 4 (bits o 7 4) = m ∧ BitVec.ofNat 4 (bits o 3 0) = c := by
  simp only [bits, BitVec.toNat_eq, BitVec.toNat_ofNat]; omega
theorem eq_scope {l : Scope} : o = scopeCode l * 2 ^ 17 ↔ o < 2 ^ 20 ∧ bits o 16 0 = 0 ∧ scopeOf (bits o 19 17) = some l := by
  rw [scopeOf_eq_some]
  have := scopeCode_lt l
  simp only [bits]; omega
theorem eq_level {l : Level} : o = levelCode l * 2 ^ 17 ↔ o < 2 ^ 20 ∧ bits o 16 0 = 0 ∧ levelOf (bits o 19 17) = some l := by
  rw [levelOf_eq_some]
  have := levelCode_lt l
  simp only [bits]; omega
theorem eq_uli {p : UliOp} {b : BitVec 2} : o = uliCode p * 2 ^ 18 + b.toNat ↔
    o < 2 ^ 20 ∧ bits o 17 2 = 0 ∧ uliOf (bits o 19 18) = some p ∧ fM o = b := by
  rw [uliOf_eq_some]
  have := uliCode_lt p
  simp only [fM, bits, BitVec.toNat_eq, BitVec.toNat_ofNat]; omega
theorem eq_fence {k : FenceKind} : o = fenceCode k * 2 ^ 18 ↔ o < 2 ^ 20 ∧ bits o 17 0 = 0 ∧ fenceOf (bits o 19 18) = some k := by
  rw [fenceOf_eq_some]
  have := fenceCode_lt k
  simp only [bits]; omega
theorem eq_xfence {p q : Path} (hp : p ≠ .f) (hq : q ≠ .f) : o = pathCode p * 2 ^ 17 + pathCode q * 2 ^ 14 ↔
    o < 2 ^ 20 ∧ bits o 13 0 = 0 ∧ pathOf (bits o 19 17) = some p ∧ pathOf (bits o 16 14) = some q := by
  rw [pathOf_eq_some, pathOf_eq_some, and_iff_left hp, and_iff_left hq]
  have := pathCode_lt p
  have := pathCode_lt q
  simp only [bits]; omega
end
end Sys2Proof
end

section
/-! PROOF. Decoding what is encoded. -/
namespace Sys2Proof

/-- The decoder of a class. -/
def decodeClass (c op o : Nat) : Except Reject Instr := match c with
  | 0 => decodePfx op o
  | 1 => decodeCtl op o
  | 2 => decodeSca op o
  | 3 => decodeVec op o
  | 4 => decodeMtx op o
  | 5 => decodeMem op o
  | 6 => decodeXfr op o
  | _ => decodeCom op o

theorem decodeSlot_eq (w : Nat) : decodeSlot w = decodeClass (slotClass w) (slotOp w) (slotOperand w) := rfl

/-- Class, opcode and operand fit their places in a slot (spec/02 R30). -/
def Fits (c p o : Nat) : Prop := c < 8 ∧ p < 128 ∧ o < 2 ^ 20

/-- An instruction is encoded in a class, opcode and operand that fit their places and that the decoder reads back. -/
def ReadBack (i : Instr) : Prop :=
  ∃ c p x, encode i = some (word c p x) ∧ ∀ o, o = x → Fits c p o ∧ decodeClass c p o = .ok i

theorem rrr_d (d : Reg) : rrr d 0 0 0 = d.toNat * 2 ^ 14 := by simp [rrr]
theorem memOp_lt (f r : Bool) {b : Nat} (h : b < 32) : memOp f r b < 128 := by
  have := f.toNat_lt
  have := r.toNat_lt
  simp only [memOp]; omega

theorem readBack_of_encode {i : Instr} {w : Nat} (hwf : i.wf = true) (he : encode i = some w) : ReadBack i := by
  cases i
  all_goals cases he
  all_goals refine ⟨_, _, _, rfl, fun o ho => ?_⟩
  case add | sub | mul | mulh | mulhz | div | divz | rem | remz | and | or | xor | andn | shl | shr | sra | slt | sltz | seq | min | max | minz | maxz
      | sel | bfi | lset =>
    obtain ⟨hlt, hz, rfl, rfl, rfl⟩ := eq_rrr.1 ho
    exact ⟨⟨by decide, by decide, hlt⟩, ifZero_eq_ok.2 ⟨hz, rfl⟩⟩
  case lea | vadd | vsub | vmul | vfma | vfms | vmin | vmax | vdiv | vand | vor | vxor | vshl | vshr | vsra | vdot4 | vperm | vslide | vcmul | vext | vins
      | recvadd | recvmax =>
    obtain ⟨hlt, rfl, rfl, rfl, rfl⟩ := eq_rrr_mask.1 ho
    exact ⟨⟨by decide, by decide, hlt⟩, rfl⟩
  case tbwait | fadd | fsub | fmul | fma | fdiv | fmin | fmax | vpack =>
    obtain ⟨hlt, hz, rfl, rfl, rfl, rfl⟩ := eq_rrr_bit0.1 ho
    exact ⟨⟨by decide, by decide, hlt⟩, ifZero_eq_ok.2 ⟨hz, rfl⟩⟩
  case bfx =>
    obtain ⟨hlt, hz, rfl, rfl, rfl, rfl⟩ := eq_rrr_bit1.1 ho
    exact ⟨⟨by decide, by decide, hlt⟩, ifZero_eq_ok.2 ⟨hz, rfl⟩⟩
  case fcmp =>
    obtain ⟨hlt, rfl, rfl, rfl, rfl, rfl⟩ := eq_rrr_bits.1 ho
    exact ⟨⟨by decide, by decide, hlt⟩, rfl⟩
  case badd | bmin | bmax =>
    obtain ⟨hlt, rfl, rfl, rfl, rfl⟩ := eq_rrr_bank.1 ho
    exact ⟨⟨by decide, by decide, hlt⟩, rfl⟩
  case band | bor | bxor | bswp | bcas =>
    obtain ⟨hlt, rfl, rfl, rfl, rfl⟩ := eq_rrr_bank.1 ho
    exact ⟨⟨by decide, by decide, hlt⟩, ifWf_eq_ok.2 ⟨rfl, hwf, rfl⟩⟩
  case ctrap | jinit | tbarv | tbexp | tbinit =>
    obtain ⟨hlt, hz, rfl, rfl⟩ := eq_ab.1 ho
    exact ⟨⟨by decide, by decide, hlt⟩, ifZero_eq_ok.2 ⟨hz, rfl⟩⟩
  case vbred =>
    obtain ⟨hlt, hz, rfl, rfl, hp⟩ := eq_ab_red.1 ho
    exact ⟨⟨by decide, by decide, hlt⟩, ifReserved_eq_ok.2 ⟨hz, ifSome_map_eq_ok.2 ⟨_, hp, rfl⟩⟩⟩
  case vceq | vclt | vcle =>
    obtain ⟨hlt, hz, rfl, rfl, rfl, rfl⟩ := eq_kab_mask.1 ho
    exact ⟨⟨by decide, by decide, hlt⟩, ifZero_eq_ok.2 ⟨hz, rfl⟩⟩
  case vctrap =>
    obtain ⟨hlt, hz, rfl, rfl, rfl, rfl, rfl⟩ := eq_qkab_mask.1 ho
    exact ⟨⟨by decide, by decide, hlt⟩, ifZero_eq_ok.2 ⟨hz, rfl⟩⟩
  case waitt | mwait | clz | ctz | popc | pseal | amap | ameas | acoll | chdecl | chpoll =>
    obtain ⟨hlt, hz, rfl, rfl⟩ := eq_rr.1 ho
    exact ⟨⟨by decide, by decide, hlt⟩, ifZero_eq_ok.2 ⟨hz, rfl⟩⟩
  case addi | andi | ori | xori | slti =>
    obtain ⟨hlt, rfl, rfl, rfl⟩ := eq_rri.1 ho
    exact ⟨⟨by decide, by decide, hlt⟩, rfl⟩
  case shli | shri | srai =>
    obtain ⟨hlt, rfl, rfl, rfl⟩ := eq_rri.1 ho
    exact ⟨⟨by decide, by decide, hlt⟩, ifWf_eq_ok.2 ⟨rfl, hwf, rfl⟩⟩
  case ld8 f r d a x | ld16 f r d a x | ld32 f r d a x | ld64 f r d a x | ldz8 f r d a x | ldz16 f r d a x | ldz32 f r d a x | vld f r d a x =>
    obtain ⟨hlt, rfl, rfl, rfl⟩ := eq_rri.1 ho
    refine ⟨⟨by decide, memOp_lt f r (by decide), hlt⟩, ?_⟩
    cases f <;> cases r <;> rfl
  case st8 r d a x | st16 r d a x | st32 r d a x | st64 r d a x | vst r d a x =>
    obtain ⟨hlt, rfl, rfl, rfl⟩ := eq_rri.1 ho
    refine ⟨⟨by decide, memOp_lt false r (by decide), hlt⟩, ?_⟩
    cases r <;> rfl
  case vgat f r d a b m =>
    obtain ⟨hlt, rfl, rfl, rfl, rfl⟩ := eq_rrr_mask.1 ho
    refine ⟨⟨by decide, memOp_lt f r (by decide), hlt⟩, ?_⟩
    cases f <;> cases r <;> rfl
  case vsct r d a b m =>
    obtain ⟨hlt, rfl, rfl, rfl, rfl⟩ := eq_rrr_mask.1 ho
    refine ⟨⟨by decide, memOp_lt false r (by decide), hlt⟩, ?_⟩
    cases r <;> rfl
  case vabs | vneg | vsqrt | vrcp | vrsq | vexp2 | vlog2 | vbcst | vidx | send | recv =>
    obtain ⟨hlt, hz, rfl, rfl, rfl⟩ := eq_rr_mask.1 ho
    exact ⟨⟨by decide, by decide, hlt⟩, ifZero_eq_ok.2 ⟨hz, rfl⟩⟩
  case fsqrt | vunpk =>
    obtain ⟨hlt, hz, rfl, rfl, rfl⟩ := eq_rr_bit0.1 ho
    exact ⟨⟨by decide, by decide, hlt⟩, ifZero_eq_ok.2 ⟨hz, rfl⟩⟩
  case fcvt =>
    obtain ⟨hlt, rfl, rfl, rfl, rfl⟩ := eq_rr_fmts.1 ho
    exact ⟨⟨by decide, by decide, hlt⟩, ifWf_eq_ok.2 ⟨rfl, hwf, rfl⟩⟩
  case vcvt =>
    obtain ⟨hlt, rfl, rfl, rfl, rfl, rfl⟩ := eq_rr_vcvt.1 ho
    exact ⟨⟨by decide, by decide, hlt⟩, ifWf_eq_ok.2 ⟨rfl, hwf, rfl⟩⟩
  case vsel =>
    obtain ⟨hlt, hz, rfl, rfl, rfl, rfl⟩ := eq_rr_vsel.1 ho
    exact ⟨⟨by decide, by decide, hlt⟩, ifZero_eq_ok.2 ⟨hz, rfl⟩⟩
  case vmov =>
    obtain ⟨hlt, hz, rfl, rfl, rfl, rfl⟩ := eq_rr_vmov.1 ho
    exact ⟨⟨by decide, by decide, hlt⟩, ifWf_eq_ok.2 ⟨hz, hwf, rfl⟩⟩
  case vred | vscan =>
    obtain ⟨hlt, hp, rfl, rfl, rfl, rfl, rfl⟩ := eq_rr_red.1 ho
    exact ⟨⟨by decide, by decide, hlt⟩, ifSome_map_eq_ok.2 ⟨_, hp, rfl⟩⟩
  case agate =>
    obtain ⟨hlt, hz, rfl, rfl, rfl⟩ := eq_rr_agate.1 ho
    exact ⟨⟨by decide, by decide, hlt⟩, ifZero_eq_ok.2 ⟨hz, rfl⟩⟩
  case fill =>
    obtain ⟨hlt, hz, rfl, rfl, rfl⟩ := eq_rr_fill.1 ho
    exact ⟨⟨by decide, by decide, hlt⟩, ifZero_eq_ok.2 ⟨hz, rfl⟩⟩
  case unhold =>
    obtain ⟨hlt, hz, rfl⟩ := eq_d.1 ho
    exact ⟨⟨by decide, by decide, hlt⟩, ifZero_eq_ok.2 ⟨hz, rfl⟩⟩
  case tnow | cyc | anorm | chclose =>
    obtain ⟨hlt, hz, rfl⟩ := eq_d.1 (ho.trans (rrr_d _))
    exact ⟨⟨by decide, by decide, hlt⟩, ifZero_eq_ok.2 ⟨hz, rfl⟩⟩
  case jmp | callr | fmt | mon | aswap =>
    obtain ⟨hlt, hz, rfl⟩ := eq_onlyA.1 ho
    exact ⟨⟨by decide, by decide, hlt⟩, ifZero_eq_ok.2 ⟨hz, rfl⟩⟩
  case spawn =>
    obtain ⟨hlt, hz, rfl⟩ := eq_onlyA.1 ho
    exact ⟨⟨by decide, by decide, hlt⟩, ifWf_eq_ok.2 ⟨hz, hwf, rfl⟩⟩
  case loop | li | lih =>
    obtain ⟨hlt, rfl, rfl⟩ := eq_d_imm14.1 ho
    exact ⟨⟨by decide, by decide, hlt⟩, rfl⟩
  case lidx =>
    obtain ⟨hlt, hz, rfl, rfl⟩ := eq_d_level.1 ho
    exact ⟨⟨by decide, by decide, hlt⟩, ifWf_eq_ok.2 ⟨hz, hwf, rfl⟩⟩
  case crd =>
    obtain ⟨hlt, hz, rfl, rfl⟩ := eq_crd.1 ho
    exact ⟨⟨by decide, by decide, hlt⟩, ifWf_eq_ok.2 ⟨hz, hwf, rfl⟩⟩
  case cwr =>
    obtain ⟨hlt, hz, rfl, rfl⟩ := eq_cwr.1 ho
    exact ⟨⟨by decide, by decide, hlt⟩, ifWf_eq_ok.2 ⟨hz, hwf, rfl⟩⟩
  case bc =>
    obtain ⟨hlt, hc, rfl, rfl⟩ := eq_bc.1 ho
    exact ⟨⟨by decide, by decide, hlt⟩, ifSome_map_eq_ok.2 ⟨_, hc, rfl⟩⟩
  case vset =>
    obtain ⟨hlt, hz, rfl, rfl⟩ := eq_vset.1 ho
    exact ⟨⟨by decide, by decide, hlt⟩, ifZero_eq_ok.2 ⟨hz, rfl⟩⟩
  case mshape | pcfg =>
    obtain ⟨hlt, hz, rfl, rfl, rfl⟩ := eq_shape.1 ho
    exact ⟨⟨by decide, by decide, hlt⟩, ifZero_eq_ok.2 ⟨hz, rfl⟩⟩
  case mma z n t h a b =>
    obtain ⟨hlt, hz, rfl, rfl, rfl, rfl⟩ := eq_mma.1 ho
    refine ⟨⟨by decide, by cases z <;> cases n <;> decide, hlt⟩, ?_⟩
    cases z <;> cases n <;> exact ifZero_eq_ok.2 ⟨hz, rfl⟩
  case mmaD z n t h b =>
    obtain ⟨hlt, hz, rfl, rfl, rfl⟩ := eq_mmaD.1 ho
    refine ⟨⟨by decide, by cases z <;> cases n <;> decide, hlt⟩, ?_⟩
    cases z <;> cases n <;> exact ifZero_eq_ok.2 ⟨hz, rfl⟩
  case mzero | mcommit =>
    obtain ⟨hlt, hz, rfl⟩ := eq_tile.1 ho
    exact ⟨⟨by decide, by decide, hlt⟩, ifZero_eq_ok.2 ⟨hz, rfl⟩⟩
  case mstab =>
    obtain ⟨hlt, rfl, rfl, rfl⟩ := eq_mstab.1 ho
    exact ⟨⟨by decide, by decide, hlt⟩, rfl⟩
  case nop | ret | step | uret | retire | halt =>
    subst ho
    exact ⟨⟨by decide, by decide, by decide⟩, rfl⟩
  case br | call | trap =>
    obtain ⟨hlt, rfl⟩ := eq_imm20.1 ho
    exact ⟨⟨by decide, by decide, hlt⟩, rfl⟩
  case fmti =>
    obtain ⟨hlt, rfl⟩ := eq_imm20.1 ho
    exact ⟨⟨by decide, by decide, hlt⟩, ifWf_eq_ok.2 ⟨rfl, hwf, rfl⟩⟩
  case phase =>
    obtain ⟨hlt, hz, rfl⟩ := eq_imm14.1 ho
    exact ⟨⟨by decide, by decide, hlt⟩, ifZero_eq_ok.2 ⟨hz, rfl⟩⟩
  case loopi =>
    obtain ⟨hlt, rfl, rfl⟩ := eq_imm10.1 ho
    exact ⟨⟨by decide, by decide, hlt⟩, rfl⟩
  case pflush =>
    obtain ⟨hlt, hz, rfl⟩ := eq_imm3.1 ho
    exact ⟨⟨by decide, by decide, hlt⟩, ifZero_eq_ok.2 ⟨hz, rfl⟩⟩
  case imx =>
    obtain ⟨hlt, rfl, rfl⟩ := eq_imm3_imm17.1 ho
    exact ⟨⟨by decide, by decide, hlt⟩, rfl⟩
  case lbrk =>
    obtain ⟨hlt, rfl, rfl⟩ := eq_imm3_imm17.1 ho
    exact ⟨⟨by decide, by decide, hlt⟩, ifWf_eq_ok.2 ⟨rfl, hwf, rfl⟩⟩
  case wait =>
    obtain ⟨hlt, rfl, rfl, rfl, rfl, rfl⟩ := eq_wait.1 ho
    exact ⟨⟨by decide, by decide, hlt⟩, rfl⟩
  case scope =>
    obtain ⟨hlt, hz, hl⟩ := eq_scope.1 ho
    exact ⟨⟨by decide, by decide, hlt⟩, ifReserved_eq_ok.2 ⟨hz, ifSome_map_eq_ok.2 ⟨_, hl, rfl⟩⟩⟩
  case dsync =>
    obtain ⟨hlt, hz, hl⟩ := eq_level.1 ho
    exact ⟨⟨by decide, by decide, hlt⟩, ifReserved_eq_ok.2 ⟨hz, ifSome_map_eq_ok.2 ⟨_, hl, rfl⟩⟩⟩
  case ulimask =>
    obtain ⟨hlt, hz, hp, rfl⟩ := eq_uli.1 ho
    exact ⟨⟨by decide, by decide, hlt⟩, ifReserved_eq_ok.2 ⟨hz, ifSome_map_eq_ok.2 ⟨_, hp, rfl⟩⟩⟩
  case fence =>
    obtain ⟨hlt, hz, hk⟩ := eq_fence.1 ho
    exact ⟨⟨by decide, by decide, hlt⟩, ifReserved_eq_ok.2 ⟨hz, ifSome_map_eq_ok.2 ⟨_, hk, rfl⟩⟩⟩
  case xfence p q =>
    obtain ⟨hp, hq⟩ : p ≠ .f ∧ q ≠ .f := by simpa [Instr.wf] using hwf
    obtain ⟨hlt, hz, hpp, hqq⟩ := (eq_xfence hp hq).1 ho
    exact ⟨⟨by decide, by decide, hlt⟩, ifReserved_eq_ok.2 ⟨hz, by rw [hpp, hqq]; rfl⟩⟩
end Sys2Proof
end

section
/-! PROOF. The decoder and the encoder agree. -/
namespace Sys2Proof

/-- S and H have places of their own (spec/02 R30). -/
theorem slot_fields {c p o : Nat} (h : Fits c p o) (stop hold : Bool) :
    let w := word c p o + stop.toNat * 2 ^ 31 + hold.toNat * 2 ^ 27
    slotClass w = c ∧ slotOp w = p ∧ slotOperand w = o := by
  obtain ⟨hc, hp, ho⟩ := h
  have := stop.toNat_lt
  have := hold.toNat_lt
  simp only [slotClass, slotOp, slotOperand, bits, word]
  omega

theorem decodeSlot_word {c p o : Nat} (h : Fits c p o) (stop hold : Bool) :
    decodeSlot (word c p o + stop.toNat * 2 ^ 31 + hold.toNat * 2 ^ 27) = decodeClass c p o := by
  obtain ⟨hc, hp, ho⟩ := slot_fields h stop hold
  rw [decodeSlot_eq, hc, hp, ho]

theorem word_lt {c p o : Nat} (h : Fits c p o) : word c p o < 2 ^ 31 ∧ slotHold (word c p o) = false := by
  obtain ⟨hc, hp, ho⟩ := h
  exact ⟨by simp only [word]; omega, decide_eq_false (by simp only [bits, word]; omega)⟩

/-- Settles O1: each layout is read back, and S and H have places of their own. -/
theorem decodeOfEncode : Obligations.DecodeOfEncode := by
  unfold Obligations.DecodeOfEncode
  intro i w stop hold hwf he
  obtain ⟨c, p, x, hx, hread⟩ := readBack_of_encode hwf he
  obtain ⟨hfits, hdec⟩ := hread x rfl
  obtain rfl : word c p x = w := by simpa [hx] using he
  obtain ⟨hlt, hhold⟩ := word_lt hfits
  have hplain : decodeSlot (word c p x) = .ok i := by simpa [hdec] using decodeSlot_word hfits false false
  refine ⟨(decodeSlot_word hfits stop hold).trans hdec, hlt, hhold, ?_⟩
  rw [decodeTableWord, Nat.mod_eq_of_lt (Nat.lt_trans hlt (by decide)), hplain]

/-! ### Every accepted word is an encoding (spec/02 R42, R43) -/

theorem unlessEither_eq_ok {b c : Bool} {e : Except Reject Instr} {j : Instr} :
    (if b || c then .error .illegal else e) = .ok j ↔ (b = false ∧ c = false) ∧ e = .ok j := by
  rw [unless_eq_ok, Bool.or_eq_false_iff]
theorem encodes {i : Instr} {c p o x : Nat} (he : encode i = some (word c p x)) (ho : o = x) : encode i = some (word c p o) := ho ▸ he

theorem decodePfx_sound {p o : Nat} {i : Instr} (ho : o < 2 ^ 20) (h : decodePfx p o = .ok i) : i.wf = true ∧ encode i = some (word 0 p o) := by
  unfold decodePfx at h
  split at h
  next =>
    obtain ⟨hz, h⟩ := ifReserved_eq_ok.1 h
    obtain ⟨l, hl, rfl⟩ := ifSome_map_eq_ok.1 h
    exact ⟨rfl, encodes rfl (eq_scope.2 ⟨ho, hz, hl⟩)⟩
  next =>
    cases h
    exact ⟨rfl, encodes rfl (eq_imm3_imm17.2 ⟨ho, rfl, rfl⟩)⟩
  next => cases h

theorem decodeCtl_sound {p o : Nat} {i : Instr} (ho : o < 2 ^ 20) (h : decodeCtl p o = .ok i) : i.wf = true ∧ encode i = some (word 1 p o) := by
  unfold decodeCtl at h
  split at h
  case h_1 | h_7 | h_21 | h_24 | h_27 | h_29 =>
    obtain ⟨rfl, rfl⟩ := ifZero_eq_ok.1 h
    exact ⟨rfl, rfl⟩
  case h_2 | h_5 | h_23 =>
    cases h
    exact ⟨rfl, encodes rfl (eq_imm20.2 ⟨ho, rfl⟩)⟩
  case h_3 =>
    obtain ⟨c, hc, rfl⟩ := ifSome_map_eq_ok.1 h
    exact ⟨rfl, encodes rfl (eq_bc.2 ⟨ho, hc, rfl, rfl⟩)⟩
  case h_4 | h_6 | h_16 =>
    obtain ⟨hz, rfl⟩ := ifZero_eq_ok.1 h
    exact ⟨rfl, encodes rfl (eq_onlyA.2 ⟨ho, hz, rfl⟩)⟩
  case h_8 =>
    cases h
    exact ⟨rfl, encodes rfl (eq_d_imm14.2 ⟨ho, rfl, rfl⟩)⟩
  case h_9 =>
    cases h
    exact ⟨rfl, encodes rfl (eq_imm10.2 ⟨ho, rfl, rfl⟩)⟩
  case h_10 =>
    obtain ⟨-, hwf, rfl⟩ := ifWf_eq_ok.1 h
    exact ⟨hwf, encodes rfl (eq_imm3_imm17.2 ⟨ho, rfl, rfl⟩)⟩
  case h_11 =>
    obtain ⟨hz, hwf, rfl⟩ := ifWf_eq_ok.1 h
    exact ⟨hwf, encodes rfl (eq_d_level.2 ⟨ho, hz, rfl, rfl⟩)⟩
  case h_12 =>
    cases h
    exact ⟨rfl, encodes rfl (eq_wait.2 ⟨ho, rfl, rfl, rfl, rfl, rfl⟩)⟩
  case h_13 | h_14 =>
    obtain ⟨hz, rfl⟩ := ifZero_eq_ok.1 h
    exact ⟨rfl, encodes rfl (eq_rr.2 ⟨ho, hz, rfl, rfl⟩)⟩
  case h_15 =>
    obtain ⟨hz, h⟩ := ifReserved_eq_ok.1 h
    obtain ⟨l, hl, rfl⟩ := ifSome_map_eq_ok.1 h
    exact ⟨rfl, encodes rfl (eq_level.2 ⟨ho, hz, hl⟩)⟩
  case h_17 =>
    obtain ⟨-, hwf, rfl⟩ := ifWf_eq_ok.1 h
    exact ⟨hwf, encodes rfl (eq_imm20.2 ⟨ho, rfl⟩)⟩
  case h_18 =>
    obtain ⟨hz, rfl⟩ := ifZero_eq_ok.1 h
    exact ⟨rfl, encodes rfl (eq_vset.2 ⟨ho, hz, rfl, rfl⟩)⟩
  case h_19 =>
    obtain ⟨hz, rfl⟩ := ifZero_eq_ok.1 h
    exact ⟨rfl, encodes rfl (eq_d.2 ⟨ho, hz, rfl⟩)⟩
  case h_20 =>
    obtain ⟨hz, rfl⟩ := ifZero_eq_ok.1 h
    exact ⟨rfl, encodes rfl (eq_imm14.2 ⟨ho, hz, rfl⟩)⟩
  case h_22 | h_28 =>
    obtain ⟨hz, rfl⟩ := ifZero_eq_ok.1 h
    exact ⟨rfl, encodes rfl (eq_ab.2 ⟨ho, hz, rfl, rfl⟩)⟩
  case h_25 =>
    obtain ⟨hz, h⟩ := ifReserved_eq_ok.1 h
    obtain ⟨q, hq, rfl⟩ := ifSome_map_eq_ok.1 h
    exact ⟨rfl, encodes rfl (eq_uli.2 ⟨ho, hz, hq, rfl⟩)⟩
  case h_26 =>
    obtain ⟨hz, hwf, rfl⟩ := ifWf_eq_ok.1 h
    exact ⟨hwf, encodes rfl (eq_onlyA.2 ⟨ho, hz, rfl⟩)⟩
  case h_30 =>
    obtain ⟨hz, hwf, rfl⟩ := ifWf_eq_ok.1 h
    exact ⟨hwf, encodes rfl (eq_crd.2 ⟨ho, hz, rfl, rfl⟩)⟩
  case h_31 =>
    obtain ⟨hz, hwf, rfl⟩ := ifWf_eq_ok.1 h
    exact ⟨hwf, encodes rfl (eq_cwr.2 ⟨ho, hz, rfl, rfl⟩)⟩
  case h_32 =>
    obtain ⟨hz, rfl⟩ := ifZero_eq_ok.1 h
    exact ⟨rfl, encodes rfl (eq_rrr_bit0.2 ⟨ho, hz, rfl, rfl, rfl, rfl⟩)⟩
  case h_33 => cases h

theorem decodeSca_sound {p o : Nat} {i : Instr} (ho : o < 2 ^ 20) (h : decodeSca p o = .ok i) : i.wf = true ∧ encode i = some (word 2 p o) := by
  unfold decodeSca at h
  dsimp only at h
  split at h
  case h_1 | h_2 | h_3 | h_4 | h_5 | h_6 | h_7 | h_8 | h_9 | h_10 | h_11 | h_12 | h_13 | h_14 | h_15 | h_16 | h_17 | h_18 | h_19 | h_20
      | h_21 | h_22 | h_23 | h_24 | h_29 =>
    obtain ⟨hz, rfl⟩ := ifZero_eq_ok.1 h
    exact ⟨rfl, encodes rfl (eq_rrr.2 ⟨ho, hz, rfl, rfl, rfl⟩)⟩
  case h_25 | h_26 | h_27 =>
    obtain ⟨hz, rfl⟩ := ifZero_eq_ok.1 h
    exact ⟨rfl, encodes rfl (eq_rr.2 ⟨ho, hz, rfl, rfl⟩)⟩
  case h_28 =>
    obtain ⟨hz, rfl⟩ := ifZero_eq_ok.1 h
    exact ⟨rfl, encodes rfl (eq_rrr_bit1.2 ⟨ho, hz, rfl, rfl, rfl, rfl⟩)⟩
  case h_30 =>
    cases h
    exact ⟨rfl, encodes rfl (eq_rrr_mask.2 ⟨ho, rfl, rfl, rfl, rfl⟩)⟩
  case h_31 | h_32 | h_33 | h_34 | h_38 =>
    cases h
    exact ⟨rfl, encodes rfl (eq_rri.2 ⟨ho, rfl, rfl, rfl⟩)⟩
  case h_35 | h_36 | h_37 =>
    obtain ⟨-, hwf, rfl⟩ := ifWf_eq_ok.1 h
    exact ⟨hwf, encodes rfl (eq_rri.2 ⟨ho, rfl, rfl, rfl⟩)⟩
  case h_39 | h_40 =>
    cases h
    exact ⟨rfl, encodes rfl (eq_d_imm14.2 ⟨ho, rfl, rfl⟩)⟩
  case h_41 | h_42 | h_43 | h_44 | h_45 | h_47 | h_48 =>
    obtain ⟨hz, rfl⟩ := ifZero_eq_ok.1 h
    exact ⟨rfl, encodes rfl (eq_rrr_bit0.2 ⟨ho, hz, rfl, rfl, rfl, rfl⟩)⟩
  case h_46 =>
    obtain ⟨hz, rfl⟩ := ifZero_eq_ok.1 h
    exact ⟨rfl, encodes rfl (eq_rr_bit0.2 ⟨ho, hz, rfl, rfl, rfl⟩)⟩
  case h_49 =>
    cases h
    exact ⟨rfl, encodes rfl (eq_rrr_bits.2 ⟨ho, rfl, rfl, rfl, rfl, rfl⟩)⟩
  case h_50 =>
    obtain ⟨-, hwf, rfl⟩ := ifWf_eq_ok.1 h
    exact ⟨hwf, encodes rfl (eq_rr_fmts.2 ⟨ho, rfl, rfl, rfl, rfl⟩)⟩
  case h_51 | h_52 =>
    obtain ⟨hz, rfl⟩ := ifZero_eq_ok.1 h
    exact ⟨rfl, encodes rfl ((eq_d.2 ⟨ho, hz, rfl⟩).trans (rrr_d _).symm)⟩
  case h_53 => cases h

theorem decodeVec_sound {p o : Nat} {i : Instr} (ho : o < 2 ^ 20) (h : decodeVec p o = .ok i) : i.wf = true ∧ encode i = some (word 3 p o) := by
  unfold decodeVec at h
  dsimp only at h
  split at h
  case h_1 | h_2 | h_3 | h_4 | h_5 | h_6 | h_7 | h_10 | h_16 | h_17 | h_18 | h_19 | h_20 | h_21 | h_29 | h_32 | h_34 | h_37 | h_39 | h_40 =>
    cases h
    exact ⟨rfl, encodes rfl (eq_rrr_mask.2 ⟨ho, rfl, rfl, rfl, rfl⟩)⟩
  case h_8 | h_9 | h_11 | h_12 | h_13 | h_14 | h_15 | h_33 | h_38 =>
    obtain ⟨hz, rfl⟩ := ifZero_eq_ok.1 h
    exact ⟨rfl, encodes rfl (eq_rr_mask.2 ⟨ho, hz, rfl, rfl, rfl⟩)⟩
  case h_22 | h_23 | h_24 =>
    obtain ⟨hz, rfl⟩ := ifZero_eq_ok.1 h
    exact ⟨rfl, encodes rfl (eq_kab_mask.2 ⟨ho, hz, rfl, rfl, rfl, rfl⟩)⟩
  case h_25 =>
    obtain ⟨hz, rfl⟩ := ifZero_eq_ok.1 h
    exact ⟨rfl, encodes rfl (eq_rr_vsel.2 ⟨ho, hz, rfl, rfl, rfl, rfl⟩)⟩
  case h_26 =>
    obtain ⟨-, hwf, rfl⟩ := ifWf_eq_ok.1 h
    exact ⟨hwf, encodes rfl (eq_rr_vcvt.2 ⟨ho, rfl, rfl, rfl, rfl, rfl⟩)⟩
  case h_27 =>
    obtain ⟨hz, rfl⟩ := ifZero_eq_ok.1 h
    exact ⟨rfl, encodes rfl (eq_rrr_bit0.2 ⟨ho, hz, rfl, rfl, rfl, rfl⟩)⟩
  case h_28 =>
    obtain ⟨hz, rfl⟩ := ifZero_eq_ok.1 h
    exact ⟨rfl, encodes rfl (eq_rr_bit0.2 ⟨ho, hz, rfl, rfl, rfl⟩)⟩
  case h_30 | h_31 =>
    obtain ⟨q, hq, rfl⟩ := ifSome_map_eq_ok.1 h
    exact ⟨rfl, encodes rfl (eq_rr_red.2 ⟨ho, hq, rfl, rfl, rfl, rfl, rfl⟩)⟩
  case h_35 =>
    obtain ⟨hz, hwf, rfl⟩ := ifWf_eq_ok.1 h
    exact ⟨hwf, encodes rfl (eq_rr_vmov.2 ⟨ho, hz, rfl, rfl, rfl, rfl⟩)⟩
  case h_36 =>
    obtain ⟨hz, rfl⟩ := ifZero_eq_ok.1 h
    exact ⟨rfl, encodes rfl (eq_qkab_mask.2 ⟨ho, hz, rfl, rfl, rfl, rfl, rfl⟩)⟩
  case h_41 => cases h

theorem decodeMtx_sound {p o : Nat} {i : Instr} (ho : o < 2 ^ 20) (h : decodeMtx p o = .ok i) : i.wf = true ∧ encode i = some (word 4 p o) := by
  unfold decodeMtx at h
  dsimp only at h
  split at h
  case h_1 | h_2 | h_3 | h_4 =>
    obtain ⟨hz, rfl⟩ := ifZero_eq_ok.1 h
    exact ⟨rfl, encodes rfl (eq_mma.2 ⟨ho, hz, rfl, rfl, rfl, rfl⟩)⟩
  case h_5 | h_6 | h_7 | h_8 =>
    obtain ⟨hz, rfl⟩ := ifZero_eq_ok.1 h
    exact ⟨rfl, encodes rfl (eq_mmaD.2 ⟨ho, hz, rfl, rfl, rfl⟩)⟩
  case h_9 | h_10 =>
    obtain ⟨hz, rfl⟩ := ifZero_eq_ok.1 h
    exact ⟨rfl, encodes rfl (eq_tile.2 ⟨ho, hz, rfl⟩)⟩
  case h_11 =>
    obtain ⟨hz, rfl⟩ := ifZero_eq_ok.1 h
    exact ⟨rfl, encodes rfl (eq_shape.2 ⟨ho, hz, rfl, rfl, rfl⟩)⟩
  case h_12 =>
    cases h
    exact ⟨rfl, encodes rfl (eq_mstab.2 ⟨ho, rfl, rfl, rfl⟩)⟩
  case h_13 => cases h

theorem memOp_bits {p : Nat} (hp : p < 128) : p = memOp (bits p 6 6 = 1) (bits p 5 5 = 1) (bits p 4 0) := by
  have h6 := (decide_eq_bit (bits_lt p 6 6)).1 rfl
  have h5 := (decide_eq_bit (bits_lt p 5 5)).1 rfl
  simp only [memOp, ← h6, ← h5]
  simp only [bits]
  omega

theorem decodeMem_sound {p o : Nat} {i : Instr} (hp : p < 128) (ho : o < 2 ^ 20) (h : decodeMem p o = .ok i) :
    i.wf = true ∧ encode i = some (word 5 p o) := by
  have hbits := memOp_bits hp
  unfold decodeMem at h
  generalize decide (bits p 6 6 = 1) = f, decide (bits p 5 5 = 1) = r, bits p 4 0 = b at h hbits
  subst hbits
  dsimp only at h
  split at h
  case h_1 | h_2 | h_3 | h_4 | h_5 | h_6 | h_7 | h_12 =>
    cases h
    exact ⟨rfl, encodes rfl (eq_rri.2 ⟨ho, rfl, rfl, rfl⟩)⟩
  case h_8 | h_9 | h_10 | h_11 | h_13 =>
    obtain ⟨rfl, h⟩ := unless_eq_ok.1 h
    cases h
    exact ⟨rfl, encodes rfl (eq_rri.2 ⟨ho, rfl, rfl, rfl⟩)⟩
  case h_14 =>
    cases h
    exact ⟨rfl, encodes rfl (eq_rrr_mask.2 ⟨ho, rfl, rfl, rfl, rfl⟩)⟩
  case h_15 =>
    obtain ⟨rfl, h⟩ := unless_eq_ok.1 h
    cases h
    exact ⟨rfl, encodes rfl (eq_rrr_mask.2 ⟨ho, rfl, rfl, rfl, rfl⟩)⟩
  case h_16 | h_17 | h_18 =>
    obtain ⟨⟨rfl, rfl⟩, h⟩ := unlessEither_eq_ok.1 h
    cases h
    exact ⟨rfl, encodes rfl (eq_rrr_bank.2 ⟨ho, rfl, rfl, rfl, rfl⟩)⟩
  case h_19 | h_20 | h_21 | h_22 | h_23 =>
    obtain ⟨⟨rfl, rfl⟩, h⟩ := unlessEither_eq_ok.1 h
    obtain ⟨-, hwf, rfl⟩ := ifWf_eq_ok.1 h
    exact ⟨hwf, encodes rfl (eq_rrr_bank.2 ⟨ho, rfl, rfl, rfl, rfl⟩)⟩
  case h_24 =>
    obtain ⟨⟨rfl, rfl⟩, h⟩ := unlessEither_eq_ok.1 h
    obtain ⟨hz, h⟩ := ifReserved_eq_ok.1 h
    obtain ⟨q, hq, rfl⟩ := ifSome_map_eq_ok.1 h
    exact ⟨rfl, encodes rfl (eq_ab_red.2 ⟨ho, hz, rfl, rfl, hq⟩)⟩
  case h_25 =>
    obtain ⟨⟨rfl, rfl⟩, h⟩ := unlessEither_eq_ok.1 h
    obtain ⟨hz, h⟩ := ifReserved_eq_ok.1 h
    obtain ⟨k, hk, rfl⟩ := ifSome_map_eq_ok.1 h
    exact ⟨rfl, encodes rfl (eq_fence.2 ⟨ho, hz, hk⟩)⟩
  case h_26 =>
    obtain ⟨⟨rfl, rfl⟩, h⟩ := unlessEither_eq_ok.1 h
    obtain ⟨hz, h⟩ := ifReserved_eq_ok.1 h
    cases hq : pathOf (bits o 19 17) with
    | none => rw [hq] at h; cases h
    | some q =>
      rw [hq] at h
      obtain ⟨r, hr, rfl⟩ := ifSome_map_eq_ok.1 h
      have hqf := (pathOf_eq_some.1 hq).2
      have hrf := (pathOf_eq_some.1 hr).2
      exact ⟨by simp [Instr.wf, hqf, hrf], encodes rfl ((eq_xfence hqf hrf).2 ⟨ho, hz, hq, hr⟩)⟩
  case h_27 =>
    obtain ⟨⟨rfl, rfl⟩, h⟩ := unlessEither_eq_ok.1 h
    obtain ⟨hz, rfl⟩ := ifZero_eq_ok.1 h
    exact ⟨rfl, encodes rfl (eq_onlyA.2 ⟨ho, hz, rfl⟩)⟩
  case h_28 | h_29 | h_30 =>
    obtain ⟨⟨rfl, rfl⟩, h⟩ := unlessEither_eq_ok.1 h
    obtain ⟨hz, rfl⟩ := ifZero_eq_ok.1 h
    exact ⟨rfl, encodes rfl (eq_ab.2 ⟨ho, hz, rfl, rfl⟩)⟩
  case h_31 => cases h

theorem decodeXfr_sound {p o : Nat} {i : Instr} (ho : o < 2 ^ 20) (h : decodeXfr p o = .ok i) : i.wf = true ∧ encode i = some (word 6 p o) := by
  unfold decodeXfr at h
  dsimp only at h
  split at h
  case h_1 =>
    obtain ⟨hz, rfl⟩ := ifZero_eq_ok.1 h
    exact ⟨rfl, encodes rfl (eq_rr_fill.2 ⟨ho, hz, rfl, rfl, rfl⟩)⟩
  case h_2 =>
    obtain ⟨hz, rfl⟩ := ifZero_eq_ok.1 h
    exact ⟨rfl, encodes rfl (eq_shape.2 ⟨ho, hz, rfl, rfl, rfl⟩)⟩
  case h_3 =>
    obtain ⟨hz, rfl⟩ := ifZero_eq_ok.1 h
    exact ⟨rfl, encodes rfl (eq_imm3.2 ⟨ho, hz, rfl⟩)⟩
  case h_4 | h_7 | h_8 | h_9 =>
    obtain ⟨hz, rfl⟩ := ifZero_eq_ok.1 h
    exact ⟨rfl, encodes rfl (eq_rr.2 ⟨ho, hz, rfl, rfl⟩)⟩
  case h_5 =>
    obtain ⟨hz, rfl⟩ := ifZero_eq_ok.1 h
    exact ⟨rfl, encodes rfl (eq_rrr.2 ⟨ho, hz, rfl, rfl, rfl⟩)⟩
  case h_6 =>
    obtain ⟨hz, rfl⟩ := ifZero_eq_ok.1 h
    exact ⟨rfl, encodes rfl (eq_rr_agate.2 ⟨ho, hz, rfl, rfl, rfl⟩)⟩
  case h_10 =>
    obtain ⟨hz, rfl⟩ := ifZero_eq_ok.1 h
    exact ⟨rfl, encodes rfl ((eq_d.2 ⟨ho, hz, rfl⟩).trans (rrr_d _).symm)⟩
  case h_11 =>
    obtain ⟨hz, rfl⟩ := ifZero_eq_ok.1 h
    exact ⟨rfl, encodes rfl (eq_onlyA.2 ⟨ho, hz, rfl⟩)⟩
  case h_12 => cases h

theorem decodeCom_sound {p o : Nat} {i : Instr} (ho : o < 2 ^ 20) (h : decodeCom p o = .ok i) : i.wf = true ∧ encode i = some (word 7 p o) := by
  unfold decodeCom at h
  dsimp only at h
  split at h
  case h_1 | h_2 =>
    obtain ⟨hz, rfl⟩ := ifZero_eq_ok.1 h
    exact ⟨rfl, encodes rfl (eq_rr_mask.2 ⟨ho, hz, rfl, rfl, rfl⟩)⟩
  case h_3 | h_4 =>
    cases h
    exact ⟨rfl, encodes rfl (eq_rrr_mask.2 ⟨ho, rfl, rfl, rfl, rfl⟩)⟩
  case h_5 | h_6 =>
    obtain ⟨hz, rfl⟩ := ifZero_eq_ok.1 h
    exact ⟨rfl, encodes rfl (eq_rr.2 ⟨ho, hz, rfl, rfl⟩)⟩
  case h_7 =>
    obtain ⟨hz, rfl⟩ := ifZero_eq_ok.1 h
    exact ⟨rfl, encodes rfl ((eq_d.2 ⟨ho, hz, rfl⟩).trans (rrr_d _).symm)⟩
  case h_8 => cases h

/-- Settles O2: class by class, each arm of the decoder reads a layout. -/
theorem encodeOfDecode : Obligations.EncodeOfDecode := by
  unfold Obligations.EncodeOfDecode
  intro w i hw h
  have ho : slotOperand w < 2 ^ 20 := bits_lt w 19 0
  have hp : slotOp w < 128 := bits_lt w 26 20
  have hc : slotClass w < 8 := bits_lt w 30 28
  rw [decodeSlot_eq] at h
  show i.wf = true ∧ encode i = some (word (slotClass w) (slotOp w) (slotOperand w))
  generalize slotClass w = c at h hc ⊢
  match c, hc with
  | 0, _ => exact decodePfx_sound ho h
  | 1, _ => exact decodeCtl_sound ho h
  | 2, _ => exact decodeSca_sound ho h
  | 3, _ => exact decodeVec_sound ho h
  | 4, _ => exact decodeMtx_sound ho h
  | 5, _ => exact decodeMem_sound hp ho h
  | 6, _ => exact decodeXfr_sound ho h
  | 7, _ => exact decodeCom_sound ho h

/-- Settles O3: the words of the spec's examples, decoded. -/
theorem specWordsDecode : Obligations.SpecWordsDecode := by
  unfold Obligations.SpecWordsDecode
  decide

end Sys2Proof
end

section
/-! PROOF. A bundle is all or nothing, and its slots read what stood before it. -/
namespace Sys2Proof.Machine
open Sys2Proof

/-! ### The first raised trap (spec/02 R442) -/

/-- What orders raised traps: phase, position, held repeats first. -/
def Raised.rank (x : Raised) : Nat ×ₗ Nat ×ₗ Bool := toLex (x.phase, toLex (x.pos, !x.trap.held))

theorem Raised.before_iff (x y : Raised) : x.before y = true ↔ x.rank < y.rank := by
  have hbool : ∀ a b : Bool, (!a) < (!b) ↔ a = true ∧ b = false := by decide
  simp [Raised.before, Raised.rank, Prod.Lex.toLex_lt_toLex, hbool, and_assoc]

theorem Raised.before_eq_false_iff (x y : Raised) : x.before y = false ↔ y.rank ≤ x.rank := by
  rw [← Bool.not_eq_true, Raised.before_iff, not_lt]

theorem firstRaised_eq_none {l : List Raised} (h : firstRaised l = none) : l = [] := by
  cases l with
  | nil => rfl
  | cons x t =>
    unfold firstRaised at h
    split at h
    · cases h
    · split at h <;> cases h

theorem firstRaised_isFirst {l : List Raised} {r : Raised} (h : firstRaised l = some r) : r ∈ l ∧ ∀ x ∈ l, x.before r = false := by
  simp only [Raised.before_eq_false_iff]
  induction l generalizing r with
  | nil => cases h
  | cons x t ih =>
    rw [firstRaised] at h
    cases ht : firstRaised t with
    | none =>
      obtain rfl : x = r := by simpa [ht] using h
      simp [firstRaised_eq_none ht]
    | some y =>
      obtain ⟨hy, hleast⟩ := ih ht
      by_cases hb : y.before x = true
      · obtain rfl : y = r := by simpa [ht, hb] using h
        have hyx : y.rank < x.rank := (Raised.before_iff y x).1 hb
        exact ⟨List.mem_cons_of_mem _ hy, List.forall_mem_cons.2 ⟨hyx.le, hleast⟩⟩
      · obtain rfl : x = r := by simpa [ht, hb] using h
        have hxy : x.rank ≤ y.rank := (Raised.before_eq_false_iff y x).1 (by simpa using hb)
        exact ⟨List.mem_cons_self, List.forall_mem_cons.2 ⟨le_rfl, fun z hz => hxy.trans (hleast z hz)⟩⟩

/-- No trap of phase 1 is raised. -/
theorem firstRaised_phase1_none {l : List Raised} (h : ∀ r ∈ l, r.phase ≠ 1) : firstRaised (l.filter fun r => r.phase = 1) = none := by
  rw [List.filter_eq_nil_iff.2 fun r hr => by simpa using h r hr]
  rfl

/-- Settles O5: the branches of `closeTurn`, and the least of the raised traps. -/
theorem bundleAllOrNothing : Obligations.BundleAllOrNothing := by
  unfold Obligations.BundleAllOrNothing
  refine ⟨?early, ?trapped, ?notReady, ?waits, fun l r h => firstRaised_isFirst h⟩
  case early => intro s t n items b hi r hr; simp [closeTurn, hi, hr]
  case trapped => intro s t n items b hi hs r hr hlate; simp only [closeTurn, hi, firstRaised_phase1_none hlate, hs, hr]
  case notReady => intro s t n items b hi hs hlate; simp only [closeTurn, hi, firstRaised_phase1_none hlate, hs]
  case waits => intro s t n items b w hi hs hlate; simp only [closeTurn, hi, firstRaised_phase1_none hlate, hs]

/-! ### What a slot reads (spec/02 R29, spec/04 R65, spec/20 R380) -/

section
variable {b : Issue} {r : Reg}

theorem Issue.rs_zero : b.rs 0 = 0 := by simp [Issue.rs]
theorem Issue.rs_shadow (h : r ≠ 0) (hh : b.before.inHandler = true) (hr : r.toNat < 16) : b.rs r = b.before.shadow.getD r.toNat 0 := by
  rw [Issue.rs, if_neg h, if_pos (by simp [hh, hr])]
theorem Issue.rs_window (h : r ≠ 0) (hh : ¬ (b.before.inHandler = true ∧ r.toNat < 16)) :
    b.rs r = BitVec.ofNat 64 (b.regs.readNat (b.before.winBase + ((viewAt b.before 0).base + 8 * r.toNat)) 8) := by
  simp only [Issue.rs, h, if_false, Bool.and_eq_true, decide_eq_true_eq, hh, elemOff, Nat.mul_comm]
end

/-- Settles O15: a bundle begins with its sequencer and the registers of its core as they stand. -/
theorem scalarReads : Obligations.ScalarReads := by
  unfold Obligations.ScalarReads
  intro s n words b hb
  obtain rfl := Option.some.inj hb
  refine ⟨Issue.rs_zero, fun r hr hh hlt => Issue.rs_shadow hr hh hlt, fun r hr hh => ?_⟩
  rw [Issue.rs_window hr hh, Nat.add_assoc]

/-- Settles O6: the meaning of each instruction and of each event is a next state. -/
theorem execAnswers : Obligations.ExecAnswers := by
  unfold Obligations.ExecAnswers
  intro i s
  cases i
  all_goals exact ⟨_, rfl⟩

end Sys2Proof.Machine
end

section
/-! PROOF. Transfers to no bundle start. -/
namespace Sys2Proof.Machine
open Sys2Proof

/-! ### Targets (spec/02 R44, spec/06 R98) -/

theorem toInt_toNat {w : Nat} (x : BitVec w) : toInt w x.toNat = x.toInt := by
  rw [toInt, Nat.mod_eq_of_lt x.isLt, BitVec.toInt_eq_toNat_cond]
  cases w with
  | zero => simp [BitVec.of_length_zero]
  | succ w =>
    have : 2 * x.toNat < 2 ^ (w + 1) ↔ x.toNat < 2 ^ (w + 1 - 1) := by rw [Nat.pow_succ]; simp only [Nat.add_sub_cancel]; omega
    simp only [this]

/-- An extension stands above its field (spec/02 R34). -/
theorem immWide_some {k : Issue} {w : Nat} (x : BitVec w) {e : BitVec 17} (h : k.ext = some e) : immWide k w x.toNat = (w + 17, (e ++ x).toNat) := by
  simp only [immWide, h, BitVec.toNat_append]
  rw [← Nat.shiftLeft_add_eq_or_of_lt x.isLt, Nat.shiftLeft_eq]

/-- The target of a transfer as a sum of words. -/
theorem branchTarget_eq (k : Issue) {w : Nat} (off : BitVec w) : branchTarget k w off.toNat = offsetTarget k off := by
  have hsum : ∀ x : Int, BitVec.ofInt 64 ((k.pc : Int) + 4 * x) = BitVec.ofNat 64 k.pc + 4 * BitVec.ofInt 64 x := fun x => by
    rw [BitVec.ofInt_add, BitVec.ofInt_mul, BitVec.ofInt_natCast]; rfl
  cases h : k.ext with
  | none =>
    simp only [branchTarget, offsetTarget, h, immWide, hsum, toInt_toNat]; rfl
  | some e =>
    simp only [branchTarget, offsetTarget, h, immWide_some off h, hsum]
    rw [Nat.add_comm w 17, toInt_toNat]; rfl

theorem bundleStart_iff (c : Core) (a : Nat) :
    bundleStart c a = true ↔ a % 4 = 0 ∧ a < 0x40000 ∧ (a = 0 ∨ (c.imem.getD ((a - 4) / 4) 0).msb = true) := by
  have hstop : ∀ w : BitVec 32, slotStop w.toNat = w.msb := fun w => by
    rw [BitVec.msb_eq_decide, slotStop]
    simp only [bits]
    congr 1
    simp only [eq_iff_iff]
    omega
  simp [bundleStart, instrWord, hstop, and_assoc]

theorem targetTrap_bad {s : State} {k : Issue} {t : Word} (h : bundleStart (s.core (coreOf k.n)) t.toNat = false) :
    targetTrap s k t = some { cause := .badTarget, addr := t.toNat } := by
  simp [targetTrap, h]

/-! ### A slot whose target is bad -/

theorem regAbort_nil (s : State) (k : Issue) : regAbort s k [] = none := by simp [regAbort]

/-- A bad target is raised once the operands it depends on can be read. -/
theorem SlotNeeds.badTarget_early {r : SlotNeeds} {s : State} {k : Issue} (h : Operable s k r.uses r.uses) : r.badTarget s k = r.early := by
  obtain ⟨-, hnames, habort⟩ := h
  have huses : (r.uses.all fun x => x.ok k.before && x.ready k) = true := List.all_eq_true.2 fun x hx => by simp [hnames x hx]
  simp [SlotNeeds.badTarget, huses, habort]

theorem slot_early {s : State} {k : Issue} {needs : Issue → SlotNeeds} {effect : Issue → State → State} {t : Trap}
    (h : Operable s k (needs k).uses (needs k).uses) (he : (needs k).early = some t) : slot s needs effect = s.raise 1 t :=
  slot_badTarget h.1 ((SlotNeeds.badTarget_early h).trans he)

/-- Where nothing is named nothing stands in the way. -/
theorem operable_nil {s : State} {k : Issue} (h : s.issue = some k) : Operable s k [] [] := ⟨h, by simp, regAbort_nil s k⟩

/-- Settles O24: a bad target is a slot's early trap, and an `lbrk` past DEPTH fails its check. -/
theorem badTargetTraps : Obligations.BadTargetTraps := by
  unfold Obligations.BadTargetTraps
  refine ⟨?br, ?call, ?bc, ?register, ?ret, ?lbrk, bundleStart_iff⟩
  case br =>
    intro s k off hi hb
    exact congrArg _ (slot_early (operable_nil hi) (by rw [branchTarget_eq]; exact targetTrap_bad hb))
  case call =>
    intro s k off hi hb
    exact congrArg _ (slot_early (operable_nil hi) (by rw [branchTarget_eq]; exact targetTrap_bad hb))
  case bc =>
    intro s k c a off h hc hb
    exact congrArg _ (slot_early h (by rw [if_pos hc, branchTarget_eq]; exact targetTrap_bad hb))
  case register =>
    intro s k a h hb
    exact ⟨congrArg _ (slot_early h (targetTrap_bad hb)), congrArg _ (slot_early h (targetTrap_bad hb))⟩
  case ret =>
    intro s k h hx hb
    exact congrArg _ (slot_early h ((if_neg hx).trans (targetTrap_bad hb)))
  case lbrk =>
    intro s k n off hi hn
    have hdeep : ¬ n.toNat ≤ k.before.loops.length := Nat.not_le.2 hn
    refine congrArg _ (slot_checks (operable_nil hi) rfl (if_neg hdeep) rfl rfl ?_)
    simp [need, hdeep, firstSome]

end Sys2Proof.Machine
end

section
/-! SUPPORT. A write of the front end to a plain segment is stored, and translations do not depend on sequencers. -/
namespace Sys2Proof.Machine
open Sys2Proof

/-! ### Plain segments (spec/09 R176, R188, spec/17 R327, R328) -/

/-- Where data is stored encrypted, as two ranges: high-bandwidth memory and the user's firn tier. -/
theorem encrypted_iff (pa : Nat) : encrypted pa = true ↔ pa < 0x008000000000 ∨ 0x100000000000 ≤ pa ∧ pa < 0x101F80000000 := by
  unfold encrypted regionOf
  split_ifs <;> simp <;> omega

/-- A 32-byte sector is encrypted as a whole. -/
theorem encrypted_sector (pa : Nat) : encrypted (32 * (pa / 32)) = encrypted pa := by
  rw [Bool.eq_iff_iff, encrypted_iff, encrypted_iff]
  omega

theorem poisonPart_of_clean {s : State} {pa len : Nat} (h : poisoned s pa len = false) : poisonPart s pa len = false := by
  rw [poisoned, List.any_eq_false] at h
  rw [poisonPart, List.any_eq_false]
  intro g hg
  simp [h g hg]

/-- Sectors already under the key of a write are not stored again. -/
theorem rekey_same {s : State} {sector key : Nat} (h : encrypted (32 * sector) = true → s.keyOf.getD sector 0 = key) :
    rekey s sector key = s := by
  unfold rekey
  cases he : encrypted (32 * sector) with
  | false => simp
  | true => simp [h he]

/-- The state in which ordinary memory has been written. -/
theorem physWrite_plain {s : State} {pa len key v : Nat} (hr : pa < 0x030000000000) (hlen : 0 < len)
    (hk : ∀ i < len, encrypted (pa + i) = true → s.keyOf.getD ((pa + i) / 32) 0 = key) :
    ∃ k, physWrite s pa len key v = { s with mem := s.mem.write pa len v, keyOf := k } := by
  have hin : inRegs pa = false := by simp [inRegs]; omega
  have hsector : ∀ i < len, rekey s ((pa + i) / 32) key = s := fun i hi =>
    rekey_same (by rw [encrypted_sector]; exact hk i hi)
  have hfirst : rekey s (pa / 32) key = s := hsector 0 hlen
  have hlast : rekey s ((pa + len - 1) / 32) key = s := by
    rw [Nat.add_sub_assoc hlen]; exact hsector (len - 1) (by omega)
  unfold physWrite
  rw [if_neg (by simp [hin]), hfirst, hlast, ite_self]
  exact ⟨_, rfl⟩

theorem homeWrite_plain {s : State} {f pa len key v who : Nat} (hr : pa < 0x030000000000) (hlen : 0 < len) (hp : poisoned s pa len = false)
    (hk : ∀ i < len, encrypted (pa + i) = true → s.keyOf.getD ((pa + i) / 32) 0 = key) :
    (homeWrite s f pa len key v who).mem = s.mem.write pa len v ∧ (homeWrite s f pa len key v who).updates = s.updates ∧
      (homeWrite s f pa len key v who).sys = s.sys := by
  obtain ⟨k, hw⟩ := physWrite_plain (v := v) hr hlen hk
  unfold homeWrite
  rw [if_neg (by simp [poisonPart_of_clean hp]), hw]
  exact ⟨rfl, rfl, rfl⟩

theorem mark_frame (s : State) (pa len : Nat) (m : Mark) :
    (mark s pa len m).mem = s.mem ∧ (mark s pa len m).updates = s.updates ∧ (mark s pa len m).sys = s.sys := by
  unfold mark
  split <;> exact ⟨rfl, rfl, rfl⟩

theorem copiesOf_nil {s : State} {pa : Nat} (h : replicaEntry s pa = none) : copiesOf s pa = [] := by
  simp [copiesOf, h]

/-- A segment is plain in a state that has the same directory, updates, poison and keys. -/
theorem PlainSeg.congr {s t : State} {x : Seg} (h : PlainSeg s x) (hsys : t.sys = s.sys) (hu : t.updates = s.updates)
    (hp : t.poison = s.poison) (hk : t.keyOf = s.keyOf) : PlainSeg t x := by
  simp only [PlainSeg, replicaEntry, poisoned] at h ⊢
  rw [hsys, hu, hp, hk]
  exact h

theorem PlainSeg.regBusy {s t : State} {x : Seg} (h : PlainSeg s x) : regBusy t [x] = false := by
  obtain ⟨-, -, hlen, haddr, -⟩ := h
  have hreg : ∀ g, regionOf (localPa x.pa) ≠ .regspace g := by
    intro g
    unfold regionOf
    split_ifs <;> simp
    omega
  unfold Machine.regBusy
  rw [List.any_cons, List.any_nil, Bool.or_false]
  split
  · next g hg => exact absurd hg (hreg g)
  · rfl

theorem storeSeg_plain {s : State} {x : Seg} (h : PlainSeg s x) (id f : Nat) (path : Option Path) (m : Mark) (v : Nat) :
    (storeSeg s id f path m x v).mem = s.mem.write (localPa x.pa) x.len v ∧ (storeSeg s id f path m x v).updates = s.updates := by
  obtain ⟨hfab, -, hlen, haddr, hrep, -, hpoison, hkey⟩ := h
  obtain ⟨hmem, hupd, -⟩ := homeWrite_plain (f := f) (v := v) (who := Nat.min m.writer noSeq) (by omega) hlen hpoison hkey
  obtain ⟨kmem, kupd, -⟩ := mark_frame (homeWrite s f (localPa x.pa) x.len x.key v (Nat.min m.writer noSeq)) (localPa x.pa) x.len m
  have hcopies : copiesOf s (localPa x.pa) = [] := copiesOf_nil (hrep 0 hlen)
  unfold storeSeg
  simp only [hfab, poisonPart_of_clean hpoison, hcopies]
  exact ⟨kmem.trans hmem, (List.append_nil _).trans (kupd.trans hupd)⟩

/-- A choice that selects no update leaves all of them. -/
theorem splitUpdates_none {p : Update → Bool} {l : List Update} (h : ∀ u ∈ l, p u = false) : splitUpdates p l = ([], l) := by
  induction l with
  | nil => rfl
  | cons u t ih =>
    have ht := ih fun w hw => h w (by simp [hw])
    rw [splitUpdates] at ht
    rw [splitUpdates, List.foldr_cons, ht]
    simp [h u (by simp)]

theorem updateWhere_none {s : State} {p : Update → Bool} (h : ∀ u ∈ s.updates, p u = false) : updateWhere s p = s := by
  simp [updateWhere, splitUpdates_none h]

theorem writeAll_plain {s : State} {x : Seg} (h : PlainSeg s x) (f v who : Nat) : Stored s (writeAll s f [x] v who) (localPa x.pa) x.len v := by
  obtain ⟨hmem, hupd⟩ := storeSeg_plain h 0 f none { writer := if who = noSeq then outside else who } (segData v x)
  obtain ⟨-, hat, -, -, -, hmeet, -⟩ := h
  have hall : writeAll s f [x] v who = storeSeg s 0 f none { writer := if who = noSeq then outside else who } x (segData v x) := by
    refine updateWhere_none fun u hu => ?_
    have hu' : u ∈ s.updates := hupd ▸ hu
    simp [hmeet u hu']
  rw [hall, Stored, hmem, mem_readNat_write_same, segData, hat]
  refine ⟨by simp, fun b hb => mem_get_write_other _ _ _ _ _ hb⟩

/-- A write of the front end to one plain segment is stored. -/
theorem feWrite_plain {s : State} {d f asid va len v : Nat} {x : Seg} (hs : feSegs s d asid { w := true } va len = .ok [x])
    (hx : PlainSeg s x) : ∃ t, feWrite s d f asid va len v = .ok t ∧ Stored s t (localPa x.pa) x.len v := by
  have ht := tlbOnly_installSegs s (128 * d) .shared asid [x]
  generalize hu : installSegs s (128 * d) .shared asid [x] = u at ht
  refine ⟨writeAll u f [x] v, ?_, ?_⟩
  · rw [feWrite, hs]
    simp [hx.regBusy, hu]
  · have hplain : PlainSeg u x := by
      obtain ⟨hu, -⟩ := ht
      exact hx.congr (by rw [hu]) (by rw [hu]) (by rw [hu]) (by rw [hu])
    have hmem : u.mem = s.mem := by rw [ht.1]
    have h := writeAll_plain hplain f v noSeq
    rwa [Stored, hmem] at h

/-! ### Translations do not depend on sequencers (spec/17 R320-R330) -/

section
variable (s : State) (x : Tab Seq)

theorem bytesUnder_seqs (key n pa : Nat) : bytesUnder { s with seqs := x } key n pa = bytesUnder s key n pa := by
  induction n generalizing pa with
  | zero => rfl
  | succ n ih => rw [bytesUnder, bytesUnder, ih]; rfl

theorem plainRead_seqs (pa len key : Nat) : plainRead { s with seqs := x } pa len key = plainRead s pa len key := by
  rw [plainRead, plainRead, bytesUnder_seqs]; rfl

theorem walk_seqs (stage va : Nat) {tab tab' : Nat → Except XFault (Nat × Nat)} (htab : tab' = tab) (l : List Nat) (a : Nat) :
    walk { s with seqs := x } stage va tab' l a = walk s stage va tab l a := by
  subst htab
  induction l generalizing a with
  | nil => rfl
  | cons lv more ih => simp only [walk, plainRead_seqs, ih]

theorem stage2_seqs (f va ipa : Nat) : stage2 { s with seqs := x } f va ipa = stage2 s f va ipa := by
  unfold stage2
  rw [walk_seqs s x 2 ipa rfl]
  rfl

theorem tableAt_seqs (f va : Nat) : tableAt { s with seqs := x } f va = tableAt s f va := by
  funext a
  unfold tableAt
  rw [stage2_seqs]
  rfl

theorem translate_seqs (asid va : Nat) : translate { s with seqs := x } asid va = translate s asid va := by
  unfold translate
  simp only [stage2_seqs, tableAt_seqs, walk_seqs s x 1 va rfl]
  rfl

theorem lookup_seqs (g : Nat) (wh : Which) (asid va : Nat) : lookup { s with seqs := x } g wh asid va = lookup s g wh asid va := by
  unfold lookup
  rw [translate_seqs]
  rfl

theorem segsGo_seqs (g : Nat) (wh : Which) (asid : Nat) (path : Path) (n : Needs) (fuel va len at_ : Nat) :
    segsGo { s with seqs := x } g wh asid path n fuel va len at_ = segsGo s g wh asid path n fuel va len at_ := by
  induction fuel generalizing va len at_ with
  | zero => rfl
  | succ fuel ih =>
    simp only [segsGo, lookup_seqs, ih]
    rfl

theorem feSegs_seqs (d asid : Nat) (n : Needs) (va len : Nat) : feSegs { s with seqs := x } d asid n va len = feSegs s d asid n va len :=
  segsGo_seqs s x _ _ _ _ _ _ _ _ _

end

end Sys2Proof.Machine
end

section
/-! PROOF. Traps of framing and decoding, causes and interrupts at a boundary, and stops that count. -/
namespace Sys2Proof.Machine
open Sys2Proof

/-! ### Framing and decoding (spec/02 R41, R42) -/

theorem illegalBundle_raises {s : State} {k : Issue} {p : Nat} (hi : s.issue = some k) : EventGives .illegalBundle [p] s fun t =>
    t = { s with issue := some { k with pos := p, raised := k.raised ++ [⟨1, p, { cause := .illegalBundle, slot := p, held := k.held }⟩] } } := by
  intro ha
  refine ⟨_, rfl, ?_⟩
  simp [State.raise, State.modIssue, State.arg_eq ha, hi]

theorem illegalInstruction_raises {s : State} {k : Issue} {p : Nat} (hi : s.issue = some k) : EventGives .illegalInstruction [p] s fun t =>
    t = { s with issue := some { k with pos := p, raised := k.raised ++ [⟨1, p, { cause := .illegalInstr, slot := p, held := k.held }⟩] } } := by
  intro ha
  refine ⟨_, rfl, ?_⟩
  simp [State.raise, State.modIssue, State.arg_eq ha, hi]

/-! ### Stopping outside an `mwait` (spec/01 R17, spec/20 R379) -/

/-- The wait that a stopped sequencer keeps: a `tbwait` is evaluated afresh. -/
def keptWait : Wait → Wait
  | .tbwait _ _ _ => .slot
  | w => w
/-- A sequencer that stops with the wait it has, if any. -/
def stoppedIn (dest : SqState) (q : Seq) : Seq := { q with prev := q.st, wait := q.wait.map keptWait, watch := none, st := dest, stopReq := false }

theorem stopSeq_noMwait {s : State} {n : Nat} (dest : SqState) (h : NoMwait (s.seq n)) : stopSeq s n dest = s.modSeq n (stoppedIn dest) := by
  simp only [stopSeq, State.modSeq, stoppedIn]
  cases hw : (s.seq n).wait with
  | none => simp [hw]
  | some w => cases w with
    | mwait d u => exact absurd hw (h d u)
    | _ => simp [hw, keptWait]

section
variable {dest : SqState} {l : List Nat} {s : State} (hl : l.Nodup) (h : ∀ n ∈ l, NoMwait (s.seq n))
include hl h

/-- Stopping sequencers outside an `mwait` changes sequencers alone. -/
theorem stopEach_noMwait_frame : stopEach dest s l = { s with seqs := (stopEach dest s l).seqs } := by
  induction l generalizing s with
  | nil => rfl
  | cons n t ih =>
    obtain ⟨hn, ht⟩ := List.nodup_cons.mp hl
    rw [stopEach, List.foldl_cons, stopSeq_noMwait dest (h n (by simp))]
    refine (ih ht fun m hm => ?_).trans rfl
    rw [State.seq_modSeq_other _ _ _ _ (ne_of_mem_of_not_mem hm hn)]
    exact h m (by simp [hm])

theorem stopEach_noMwait_seq (m : Nat) : (stopEach dest s l).seq m = if m ∈ l then stoppedIn dest (s.seq m) else s.seq m := by
  refine foldl_each (get := State.seq) NoMwait (stoppedIn dest) (fun s n hq => ?_) (fun s n m hm hq => ?_) l hl s h m
  · rw [stopSeq_noMwait dest hq, State.seq_modSeq_same]
  · rw [stopSeq_noMwait dest hq, State.seq_modSeq_other _ _ _ _ hm]

end

section
variable {s : State} {n c saved : Nat} (hn : n ∈ (s.ctx c).seqs) (hd : (s.ctx c).seqs.Nodup) (hw : ∀ m ∈ (s.ctx c).seqs, NoMwait (s.seq m))
include hn hd hw

/-- What has stopped where no sequencer is in an `mwait`: that of the trap as faulted, the other live ones as preempted. -/
theorem allStopped_noMwait :
    allStopped s c n saved = { s with seqs := (allStopped s c n saved).seqs } ∧
    (allStopped s c n saved).seq n = { stoppedIn .faulted (s.seq n) with pc := saved } ∧
    ∀ m, m ≠ n → (allStopped s c n saved).seq m = if m ∈ othersLive s c n then stoppedIn .preempted (s.seq m) else s.seq m := by
  have hothers : ∀ m ∈ othersLive s c n, NoMwait (s.seq m) := fun m hm => hw m (List.mem_of_mem_filter hm)
  have hnodup : (othersLive s c n).Nodup := hd.filter _
  have hframe := stopEach_noMwait_frame (dest := .preempted) hnodup hothers
  have hseq := stopEach_noMwait_seq (dest := .preempted) hnodup hothers
  have hself : n ∉ othersLive s c n := by simp [othersLive]
  have hsame : (stopEach .preempted s (othersLive s c n)).seq n = s.seq n := (hseq n).trans (if_neg hself)
  have hwait : NoMwait ((stopEach .preempted s (othersLive s c n)).seq n) := by rw [hsame]; exact hw n hn
  rw [allStopped, stopSeq_noMwait _ hwait]
  refine ⟨?_, ?_, fun m hm => ?_⟩
  · rw [hframe]; rfl
  · rw [State.seq_modSeq_same, State.seq_modSeq_same, hsame]
  · rw [State.seq_modSeq_other _ _ _ _ hm, State.seq_modSeq_other _ _ _ _ hm, hseq m]

end

/-! ### A cause at a boundary (spec/20 R376, R383) -/

/-- A trap as the record names it: its slot as the original bundle numbers it. -/
def namedTrap (s : State) (n : Nat) (x : Trap) : Trap := { x with slot := x.pc.elim x.slot fun p => slotAt s n p x.slot }

section
variable {s : State} {n c : Nat} {x : Trap} {rest : List Trap}

/-- The state in which the first waiting cause has left its sequencer. -/
def causeTaken (s : State) (n : Nat) (rest : List Trap) : State := s.modSeq n fun q => { q with causes := rest }

theorem trapAtBoundary_eq (hcauses : (s.seq n).causes = x :: rest) (hctx : (s.seq n).ctx = some c) (htakes : (s.seq n).st.takesCause = true)
    (hst : (s.ctx c).st = .released) (hissue : s.issue = none) (hfirst : firstFault s n = true) (hdue : stopDue s n = false)
    (hredo : (s.seq n).redo = none) (ha : s.args = [n]) :
    exec .trapAtBoundary s = .next (takeTrap (causeTaken s n rest) n (namedTrap (causeTaken s n rest) n x) (x.pc.getD (s.seq n).pc) (s.seq n).pc false) := by
  refine (show exec .trapAtBoundary s = execTrapAtBoundary s from rfl).trans ?_
  simp [execTrapAtBoundary, State.arg_eq ha, hcauses, hctx, htakes, hst, hissue, hfirst, hdue, hredo, causeTaken, namedTrap]

/-- Slots are numbered by the context's splice, which no cause changes. -/
theorem namedTrap_causeTaken : namedTrap (causeTaken s n rest) n x = namedTrap s n x := by
  have hctx : (causeTaken s n rest).ctxOf n = s.ctxOf n := by simp [State.ctxOf, causeTaken]
  simp only [namedTrap, slotAt, hctx]

theorem faultRecord_causeTaken (t : Trap) (pc : Nat) (precise : Bool) :
    faultRecord (causeTaken s n rest) n t pc precise = faultRecord s n t pc precise := by
  have hctx : (causeTaken s n rest).ctxOf n = s.ctxOf n := by simp [State.ctxOf, causeTaken]
  have hseq : (causeTaken s n rest).seq n = { s.seq n with causes := rest } := State.seq_modSeq_same _ _ _
  simp only [faultRecord, hctx, hseq, seqId]
  rfl

theorem causeTaken_seq_other {m : Nat} (h : m ≠ n) : (causeTaken s n rest).seq m = s.seq m := State.seq_modSeq_other _ _ _ _ h

theorem trapAtBoundary_taken (hcauses : (s.seq n).causes = x :: rest) (hctx : (s.seq n).ctx = some c)
    (hstate : (s.seq n).st ∈ [SqState.running, .waiting, .idle, .retired])
    (hst : (s.ctx c).st = .released) (hissue : s.issue = none) (hfirst : firstFault s n = true) (hdue : stopDue s n = false)
    (hredo : (s.seq n).redo = none) (hn : n ∈ (s.ctx c).seqs) (hd : (s.ctx c).seqs.Nodup) (hw : ∀ m ∈ (s.ctx c).seqs, NoMwait (s.seq m)) :
    EventGives .trapAtBoundary [n] s fun t => (t.seq n).st = .faulted ∧ (t.seq n).prev = (s.seq n).st ∧ (t.seq n).pc = (s.seq n).pc ∧ (t.seq n).causes = rest ∧
      (t.ctx c).st = .stopping ∧ (t.ctx c).frec = faultRecord s n (namedTrap s n x) (x.pc.getD (s.seq n).pc) false ∧ t.mem = s.mem ∧
      (∀ g, t.core g = { s.core g with mq := (t.core g).mq } ∧ SameQueue (t.core g).mq (s.core g).mq) ∧
      ∀ m ∈ (s.ctx c).seqs, m ≠ n → (s.seq m).st = .running ∨ (s.seq m).st = .waiting → (t.seq m).st = .preempted ∧ (t.seq m).prev = (s.seq m).st := by
  intro ha
  have htakes : (s.seq n).st.takesCause = true := by
    simp only [List.mem_cons, List.not_mem_nil, or_false] at hstate
    simpa [SqState.takesCause, SqState.live, or_assoc] using hstate
  refine ⟨_, trapAtBoundary_eq hcauses hctx htakes hst hissue hfirst hdue hredo ha, ?_⟩
  rw [namedTrap_causeTaken]
  have hseq : (causeTaken s n rest).seq n = { s.seq n with causes := rest } := State.seq_modSeq_same _ _ _
  have hctxs : (causeTaken s n rest).ctx = s.ctx := rfl
  have hwu : ∀ m ∈ ((causeTaken s n rest).ctx c).seqs, NoMwait ((causeTaken s n rest).seq m) := fun m hm => by
    by_cases hmn : m = n
    · subst hmn; rw [hseq]; exact hw m hm
    · rw [causeTaken_seq_other hmn]; exact hw m hm
  obtain ⟨hframe, hself, hothers⟩ := allStopped_noMwait (s := causeTaken s n rest) (saved := (s.seq n).pc) hn hd hwu
  have hbegins := takeTrap_onlyBegins (s := causeTaken s n rest) (namedTrap s n x) (x.pc.getD (s.seq n).pc) (s.seq n).pc false
    ((congrArg Seq.ctx hseq).trans hctx)
  generalize takeTrap (causeTaken s n rest) n (namedTrap s n x) (x.pc.getD (s.seq n).pc) (s.seq n).pc false = t at hbegins
  have hseqn : t.seq n = { stoppedIn .faulted { s.seq n with causes := rest } with pc := (s.seq n).pc } := by
    rw [hbegins.seq, State.seq_modCtx, hself, hseq]
  have hctxc : t.ctx c = trapped (causeTaken s n rest) n (namedTrap s n x) (x.pc.getD (s.seq n).pc) false (s.ctx c) := by
    rw [hbegins.ctx, State.ctx_modCtx_same, hframe]; rfl
  refine ⟨by rw [hseqn]; rfl, by rw [hseqn]; rfl, by rw [hseqn], by rw [hseqn]; rfl, by rw [hctxc]; rfl,
    by rw [hctxc, trapped, faultRecord_causeTaken], ?_, fun g => ?_, fun m hm hmn hlive => ?_⟩
  · rw [hbegins.mem, State.modCtx_mem, hframe]; rfl
  · have hcore : (allStopped (causeTaken s n rest) c n (s.seq n).pc).core g = s.core g := by rw [hframe]; rfl
    simpa only [State.core_modCtx, hcore] using hbegins.2 g
  · have hother : m ∈ othersLive (causeTaken s n rest) c n := by
      simp only [othersLive, List.mem_filter, causeTaken_seq_other hmn]
      exact ⟨hm, by simpa [hmn, SqState.live] using hlive⟩
    have hseqm : t.seq m = stoppedIn .preempted (s.seq m) := by
      rw [hbegins.seq, State.seq_modCtx, hothers m hmn, if_pos hother, causeTaken_seq_other hmn]
    rw [hseqm]
    exact ⟨rfl, rfl⟩

end

/-! ### User-level interrupts and pre-emption at a boundary (spec/20 R379, R380, R390) -/

theorem uliEntry_enters {s : State} {n b : Nat} (hb : uliPending (s.seq n) = some b) (hlive : (s.seq n).st = .running ∨ (s.seq n).st = .waiting)
    (hcauses : (s.seq n).causes = []) (hhalt : (s.seq n).halting = none) (hissue : s.issue = none) (hdue : stopDue s n = false) :
    EventGives .uliEntry [n] s fun t => t = enterHandler s n b := by
  intro ha
  have hl : (s.seq n).st.live = true := by simpa [SqState.live] using hlive
  refine ⟨_, rfl, ?_⟩
  simp [State.arg_eq ha, hb, hl, hcauses, hhalt, hissue, hdue]

section
variable {s : State} {n T : Nat} (hstop : (s.ctxOf n).stopAt = some T)
include hstop

theorem prebudExpiry_expired (hreq : (s.seq n).stopReq = true) (hlive : (s.seq n).st = .running ∨ (s.seq n).st = .waiting)
    (hissue : s.issue = none) (hw : NoMwait (s.seq n)) (hover : T + (s.seq n).prebud ≤ s.sys.dtime) :
    EventGives .prebudExpiry [n] s fun t => (t.seq n).st = .preempted ∧ (t.seq n).prev = (s.seq n).st ∧ (t.seq n).pc = (s.seq n).pc ∧
      (t.seq n).stopReq = false ∧ SameBytes s t ∧ ∀ m, m ≠ n → t.seq m = s.seq m := by
  intro ha
  have hl : (s.seq n).st.live = true := by simpa [SqState.live] using hlive
  have hb : overBudget s n = true := by simpa [overBudget, hstop] using hover
  have heq : exec .prebudExpiry s = .next (s.modSeq n (stoppedIn .preempted)) := by
    refine (show exec .prebudExpiry s = execPrebudExpiry s from rfl).trans ?_
    simp [execPrebudExpiry, State.arg_eq ha, hreq, hl, hb, hissue, stopSeq_noMwait _ hw]
  refine ⟨_, heq, ?_⟩
  dsimp only
  rw [State.seq_modSeq_same]
  exact ⟨rfl, rfl, rfl, rfl, sameBytes_modSeq _ _ _, fun m hm => State.seq_modSeq_other _ _ _ _ hm⟩

theorem prebudExpiry_within (hover : s.sys.dtime < T + (s.seq n).prebud) : EventGives .prebudExpiry [n] s fun t => t = s := by
  intro ha
  have hb : overBudget s n = false := by simpa [overBudget, hstop] using hover
  refine ⟨_, rfl, ?_⟩
  simp [State.arg_eq ha, hb]

end

/-! ### A stop counts (spec/14 R284, spec/20 R378) -/

/-- Sequencers stay where they are and what they are; nothing else but them differs. -/
def SamePlaces (s t : State) : Prop := t = { s with seqs := t.seqs } ∧ ∀ n, (t.seq n).st = (s.seq n).st ∧ (t.seq n).pc = (s.seq n).pc

theorem SamePlaces.refl (s : State) : SamePlaces s s := ⟨rfl, fun _ => ⟨rfl, rfl⟩⟩
theorem samePlaces_foldl_settlePorts (p : State → Nat → Bool) (l : List Nat) (s : State) :
    SamePlaces s (l.foldl (fun s n => if p s n then s.modSeq n settlePorts else s) s) := by
  refine List.foldlRecOn (motive := SamePlaces s) _ _ (.refl s) fun t ⟨ht, hseq⟩ n _ => ?_
  split
  · refine ⟨by rw [ht]; rfl, fun m => ?_⟩
    by_cases hm : m = n
    · subst hm; rw [State.seq_modSeq_same]; exact hseq m
    · rw [State.seq_modSeq_other _ _ _ _ hm]; exact hseq m
  · exact ⟨ht, hseq⟩

theorem Undisturbed.place {s t : State} (h : Undisturbed s t) (n : Nat) : (t.seq n).st = (s.seq n).st ∧ (t.seq n).pc = (s.seq n).pc := by
  rw [h.2 n]; exact ⟨rfl, rfl⟩

theorem msix_mem (s : State) (f v : Nat) : (s.msix f v).mem = s.mem := by
  unfold State.msix
  split <;> rfl

section
variable {s : State} {c : Nat}

/-- The context's sequencers have discarded what their input ports had buffered. -/
def portsSettled (s : State) (c : Nat) : State :=
  (s.ctx c).seqs.foldl (fun s n => if (s.seq n).ctx = some c then s.modSeq n settlePorts else s) s

theorem portsSettled_samePlaces (s : State) (c : Nat) : SamePlaces s (portsSettled s c) := by
  simpa only [decide_eq_true_eq, portsSettled] using samePlaces_foldl_settlePorts (fun s n => decide ((s.seq n).ctx = some c)) (s.ctx c).seqs s

theorem contextStopped_gives {x : Seg} (hst : (s.ctx c).st = .stopping) (hquiet : ctxQuiet s c = true)
    (hlive : feLive s s.sys.leader (s.ctx c).asid (saveAt (s.ctx c)) 64 = true)
    (hsegs : feSegs s s.sys.leader (s.ctx c).asid { w := true } (saveAt (s.ctx c)) 64 = .ok [x]) (hx : PlainSeg s x) (hlen : x.len = 64) :
    EventGives .contextStopped [c] s fun t => (t.ctx c).st = .faulted ∧ (t.ctx c).frec = (s.ctx c).frec ∧ Stored s t (localPa x.pa) 64 (s.ctx c).frec.toNat ∧
      ∀ n, (t.seq n).st = (s.seq n).st ∧ (t.seq n).pc = (s.seq n).pc := by
  intro ha
  obtain ⟨hframe, hplaces⟩ := portsSettled_samePlaces s c
  generalize hu : portsSettled s c = u at hframe hplaces
  have husegs : feSegs u s.sys.leader (s.ctx c).asid { w := true } (saveAt (s.ctx c)) 64 = .ok [x] := by
    rw [hframe, feSegs_seqs]; exact hsegs
  have hux : PlainSeg u x := hx.congr (by rw [hframe]) (by rw [hframe]) (by rw [hframe]) (by rw [hframe])
  obtain ⟨v, hv, hstored⟩ := feWrite_plain (f := (s.ctx c).func) (v := (s.ctx c).frec.toNat) husegs hux
  have hleader : u.sys.leader = s.sys.leader := by rw [hframe]
  have heq : exec .contextStopped s = .next ((v.modCtx c fun x => { x with st := .faulted }).msix (if (s.ctx c).fromPf then 0 else (s.ctx c).func) 0) := by
    refine (show exec .contextStopped s = execContextStopped s from rfl).trans ?_
    simp only [execContextStopped, State.arg_eq ha, List.getD_cons_zero, hst, hquiet, hlive]
    rw [portsSettled] at hu
    simp [hu, hleader, hv]
  refine ⟨_, heq, ?_⟩
  have hvu := feWrite_undisturbed hv
  have hmsix := msix_undisturbed (v.modCtx c fun x => { x with st := .faulted }) (if (s.ctx c).fromPf then 0 else (s.ctx c).func) 0
  dsimp only
  rw [hmsix.ctx, State.ctx_modCtx_same, hvu.ctx]
  refine ⟨rfl, by rw [hframe]; rfl, ?_, fun n => ?_⟩
  · have hmem : u.mem = s.mem := by rw [hframe]
    rw [Stored, msix_mem, State.modCtx_mem, ← hmem, ← hlen]
    exact hstored
  · obtain ⟨hmst, hmpc⟩ := hmsix.place n
    obtain ⟨hvst, hvpc⟩ := hvu.place n
    obtain ⟨hust, hupc⟩ := hplaces n
    exact ⟨hmst.trans (hvst.trans hust), hmpc.trans (hvpc.trans hupc)⟩

theorem preemptStopped_gives {T : Nat} (hstop : (s.ctx c).stopAt = some T) (hst : (s.ctx c).st = .released ∨ (s.ctx c).st = .faulted)
    (hover : launchOver s c = false) (hquiet : ctxQuiet s c = true) (hfreeze : s.sys.freeze = none)
    (hseqs : ∀ n ∈ (s.ctx c).seqs, (s.seq n).ctx = some c → (s.seq n).st ≠ .running ∧ (s.seq n).st ≠ .waiting ∧ (s.seq n).st ≠ .calved) :
    EventGives .preemptStopped [c] s fun t => (t.ctx c).st = .saving ∧ SameBytes s t ∧ ∀ n, (t.seq n).st = (s.seq n).st ∧ (t.seq n).pc = (s.seq n).pc := by
  intro ha
  have hstay : ((s.ctx c).seqs.filter fun n => (s.seq n).ctx = some c).any (fun n => (s.seq n).st.live || (s.seq n).st = .calved) = false := by
    rw [List.any_eq_false]
    intro n hn
    obtain ⟨hmem, hctx⟩ := List.mem_filter.mp hn
    simpa [SqState.live, and_assoc] using hseqs n hmem (by simpa using hctx)
  have hplaces := samePlaces_foldl_settlePorts (fun _ _ => true) ((s.ctx c).seqs.filter fun n => (s.seq n).ctx = some c) s
  simp only [if_true] at hplaces
  have heq : exec .preemptStopped s = .next ((((s.ctx c).seqs.filter fun n => (s.seq n).ctx = some c).foldl (fun s n => s.modSeq n settlePorts) s).modCtx c
      fun x => { x with st := .saving }) := by
    refine (show exec .preemptStopped s = execPreemptStopped s from rfl).trans ?_
    have hmay : (!((s.ctx c).st = .released || (s.ctx c).st = .faulted : Bool)) = false := by rcases hst with h | h <;> simp [h]
    simp only [execPreemptStopped, State.arg_eq ha, List.getD_cons_zero, hfreeze, hstop, hover, hquiet, hstay, hmay]
    simp
  refine ⟨_, heq, ?_⟩
  obtain ⟨hframe, hsame⟩ := hplaces
  refine ⟨by rw [State.ctx_modCtx_same], ?_, fun n => hsame n⟩
  rw [hframe]
  exact ⟨rfl, rfl, fun _ => rfl⟩

end

end Sys2Proof.Machine
end

section
/-! PROOF. Contexts saved and killed, and their commands. -/
namespace Sys2Proof.Machine
open Sys2Proof

/-! ### Kill (spec/20 R394) -/

/-- Contexts stay as they are, and every sequencer is of the context it was of. -/
def SameOwners (s t : State) : Prop := t.ctxs = s.ctxs ∧ ∀ n, (t.seq n).ctx = (s.seq n).ctx

theorem SameOwners.refl (s : State) : SameOwners s s := ⟨rfl, fun _ => rfl⟩
theorem SameOwners.trans {s t u : State} (h : SameOwners s t) (k : SameOwners t u) : SameOwners s u :=
  ⟨k.1.trans h.1, fun n => (k.2 n).trans (h.2 n)⟩
theorem Undisturbed.sameOwners {s t : State} (h : Undisturbed s t) : SameOwners s t := ⟨h.1, fun n => by rw [h.2 n]⟩
theorem sameOwners_foldl {β : Type} {f : State → β → State} (h : ∀ s x, SameOwners s (f s x)) (l : List β) (s : State) :
    SameOwners s (l.foldl f s) :=
  List.foldlRecOn (motive := SameOwners s) l f (.refl s) fun t ht x _ => ht.trans (h t x)

theorem post_undisturbed (s : State) (key : Nat × Bool) (m : Msg) (stays : Bool) (gen : Nat) : Undisturbed s (post s key m stays gen) :=
  .of_eq rfl rfl
theorem transmit_undisturbed (s : State) (n c : Nat) (m : Msg) : Undisturbed s (transmit s n c m) := post_undisturbed _ _ _ _ _
theorem returnCredits_undisturbed (s : State) (n c k : Nat) : Undisturbed s (returnCredits s n c k) := by
  induction k generalizing s with
  | zero => exact .refl s
  | succ k ih => exact (transmit_undisturbed _ _ _ _).trans (ih _)

theorem closeSaved_undisturbed (s : State) (c n : Nat) (q : Seq) : Undisturbed s (closeSaved s c n q) := by
  refine undisturbed_foldl (fun s e => ?_) _ _
  dsimp only
  split
  · exact .refl s
  · refine Undisturbed.trans ?_ (post_undisturbed _ _ _ _ _)
    split
    · exact .refl s
    · exact undisturbed_foldl (fun s _ => post_undisturbed s _ _ _ _) _ _

theorem sameOwners_modSeq (s : State) (n : Nat) {f : Seq → Seq} (h : ∀ q, (f q).ctx = q.ctx) : SameOwners s (s.modSeq n f) := by
  refine ⟨rfl, fun m => ?_⟩
  by_cases hm : m = n
  · subst hm; rw [State.seq_modSeq_same, h]
  · rw [State.seq_modSeq_other _ _ _ _ hm]

theorem closeEnd_sameOwners (s : State) (n c : Nat) : SameOwners s (closeEnd s n c) := by
  unfold closeEnd
  dsimp only
  split
  · exact .refl s
  · refine SameOwners.trans (SameOwners.trans ?_ (sameOwners_modSeq _ n fun q => ?_)) (transmit_undisturbed _ _ _ _).sameOwners
    · split
      · exact .refl s
      · exact (returnCredits_undisturbed _ _ _ _).sameOwners
    · rfl

/-- The channel ends of a context that is killed are closed, in place or in its save. -/
def endsClosed (s : State) (c : Nat) : State := match (s.ctx c).saved with
  | some v => v.seqs.foldl (fun s e => closeSaved s c e.1 e.2) s
  | none => ((s.ctx c).seqs.filter fun n => (s.seq n).ctx = some c).foldl (fun s n => ((s.seq n).chans.map (·.1)).foldl (fun s ch => closeEnd s n ch) s) s

theorem endsClosed_sameOwners (s : State) (c : Nat) : SameOwners s (endsClosed s c) := by
  unfold endsClosed
  split
  · exact sameOwners_foldl (fun s (e : Nat × Seq) => (closeSaved_undisturbed s c e.1 e.2).sameOwners) _ s
  · exact sameOwners_foldl (fun s n => sameOwners_foldl (fun s ch => closeEnd_sameOwners s n ch) _ s) _ s

/-- A killed context, its sequencers gone, before its cores and its record. -/
def nowKilled (s : State) (c : Nat) : State :=
  (vacate (endsClosed s c) c true).modCtx c fun x => { x with st := .killed, status := 3, saved := none, drift := {}, splice := none, arrived := [], faulted := [], armed := none }

theorem killCtx_eq {s : State} {c : Nat} (h : ctxAlive s c = true) :
    killCtx s c = completeCtx (dropVictim (if (s.ctx c).st.onCore then leaveCores (nowKilled s c) c else nowKilled s c) c) c 3 := by
  simp only [killCtx, h, nowKilled, endsClosed]
  rfl

/-- Nothing is left of a context that is killed: it has its status and no save, and its sequencers are vacant. -/
theorem killCtx_gives {s : State} {c : Nat} (h : ctxAlive s c = true) :
    ((killCtx s c).ctx c).st = .killed ∧ ((killCtx s c).ctx c).status = 3 ∧ ((killCtx s c).ctx c).saved = none ∧
      ∀ n ∈ (s.ctx c).seqs, (s.seq n).ctx = some c → Vacant ((killCtx s c).seq n) := by
  obtain ⟨hctxs, howner⟩ := endsClosed_sameOwners s c
  have hleft : Undisturbed (nowKilled s c) (if (s.ctx c).st.onCore then leaveCores (nowKilled s c) c else nowKilled s c) := by
    split
    · exact leaveCores_undisturbed _ c
    · exact .refl _
  have hrecord := completeCtx_undisturbed (dropVictim (if (s.ctx c).st.onCore then leaveCores (nowKilled s c) c else nowKilled s c) c) c 3
  rw [killCtx_eq h, hrecord.ctx, dropVictim_ctx, hleft.ctx, nowKilled, State.ctx_modCtx_same]
  refine ⟨rfl, rfl, rfl, fun n hn hc => ?_⟩
  refine hrecord.vacant (hleft.vacant ?_)
  refine vacate_vacant (s := endsClosed s c) true ?_ ((howner n).trans hc)
  simpa only [State.ctx, hctxs] using hn

theorem dropVictim_seq (s : State) (c n : Nat) : (dropVictim s c).seq n = s.seq n := rfl

/-! ### The save of a context (spec/14 R285, spec/20 R391) -/

theorem physFill_undisturbed (s : State) (pa len key : Nat) (m : Mem) : Undisturbed s (physFill s pa len key m) :=
  Undisturbed.trans (.of_eq rfl rfl) (renewed_undisturbed _ pa len)

theorem areaPut_undisturbed (s : State) (x : Ctx) (va len : Nat) (m : Mem) : Undisturbed s (areaPut s x va len m) := by
  unfold areaPut
  split
  · exact .refl s
  · refine undisturbed_foldl (fun s g => ?_) _ _
    split
    · exact writeAll_undisturbed _ _ _ _ _
    · exact physFill_undisturbed _ _ _ _ _

/-- A piece of the arranged part goes to the area, unless it cannot be written. -/
def putPiece (c : Nat) (x : Ctx) (s : State) (k va len : Nat) : State := match feWrite s s.sys.leader x.func x.asid va len (Config.saveBody k c s.free % 2 ^ (8 * len)) with
  | .error _ => s
  | .ok s => s

theorem putPiece_undisturbed (c : Nat) (x : Ctx) (s : State) (k va len : Nat) : Undisturbed s (putPiece c x s k va len) := by
  unfold putPiece
  split
  · exact .refl s
  · next h => exact feWrite_undisturbed h

theorem putArranged_undisturbed (s : State) (c : Nat) : Undisturbed s (putArranged s c) := by
  refine Undisturbed.trans (t := (s.ctx c).cores.foldl (fun t g => putPiece c (s.ctx c) t (g + 1) (partAt (s.ctx c) g 0x900000) 0x20000)
    (putPiece c (s.ctx c) s 0 (saveAt (s.ctx c) + 64) (0x80000 - 64))) ?_ (.of_eq rfl rfl)
  exact (putPiece_undisturbed _ _ _ _ _ _).trans (undisturbed_foldl (fun t g => putPiece_undisturbed _ _ _ _ _ _) _ _)

theorem storeSave_undisturbed (s : State) (c : Nat) (v : SaveImage) : Undisturbed s (storeSave s c v) := by
  have hlaid := (putArranged_undisturbed s c).trans
    (undisturbed_foldl (fun t (p : Nat × Nat × Nat × Mem) => areaPut_undisturbed t (s.ctx c) p.1 p.2.1 p.2.2.2) (saveParts (s.ctx c) v) _)
  unfold storeSave
  exact hlaid.trans (.of_eq rfl rfl)

/-- What stays beside the area does not depend on cached translations. -/
theorem saveImage_bare_tlbOnly {s t : State} (h : TlbOnly s t) (c : Nat) : (saveImage t c).bare = (saveImage s c).bare := by
  obtain ⟨hframe, hcore⟩ := h
  have hctx : t.ctx = s.ctx := by rw [hframe]; rfl
  have hseq : t.seq = s.seq := by rw [hframe]; rfl
  have hclusters : t.clusters = s.clusters := by rw [hframe]
  have hls : ∀ g, (t.core g).ls = (s.core g).ls := fun g => by rw [hcore g]
  have hmq : ∀ g, (t.core g).mq = (s.core g).mq := fun g => by rw [hcore g]
  have hbte : ∀ g, (t.core g).bte = (s.core g).bte := fun g => by rw [hcore g]
  simp only [SaveImage.bare, saveImage, hctx, hseq, hclusters, hls, hmq, hbte]

/-- The state in which the save of a context is complete, before its cores. -/
def nowSaved (s : State) (c : Nat) : State :=
  (vacate (storeSave s c (saveImage s c)) c true).modCtx c fun x => { x with st := .saved, saved := some (saveImage s c).bare, stopAt := none }

theorem nowSaved_ctx (s : State) (c : Nat) : ((nowSaved s c).ctx c).st = .saved ∧ ((nowSaved s c).ctx c).stopAt = none ∧
    ((nowSaved s c).ctx c).saved = some (saveImage s c).bare := by
  rw [nowSaved, State.ctx_modCtx_same]
  exact ⟨rfl, rfl, rfl⟩

theorem nowSaved_vacant {s : State} {c n : Nat} (hn : n ∈ (s.ctx c).seqs) (hc : (s.seq n).ctx = some c) : Vacant ((nowSaved s c).seq n) := by
  have hstored := storeSave_undisturbed s c (saveImage s c)
  rw [nowSaved, State.seq_modCtx]
  exact vacate_vacant true (by rw [hstored.ctx]; exact hn) (by rw [hstored.2 n]; exact hc)

/-- A context whose save is complete, and its sequencers, once its cores are left and no launch waits for it. -/
theorem savedLeft_gives {s : State} {c : Nat} {t : State} (ht : t = dropVictim (leaveCores (nowSaved s c) c) c) :
    (t.ctx c).st = .saved ∧ (t.ctx c).stopAt = none ∧ (t.ctx c).saved = some (saveImage s c).bare ∧
      ∀ n ∈ (s.ctx c).seqs, (s.seq n).ctx = some c → Vacant (t.seq n) := by
  have hleft := leaveCores_undisturbed (nowSaved s c) c
  subst ht
  obtain ⟨hst, hstop, hsaved⟩ := nowSaved_ctx s c
  simp only [dropVictim_ctx, hleft.ctx, withoutVictim, dropVictim_seq]
  exact ⟨hst, hstop, hsaved, fun n hn hc => hleft.vacant (nowSaved_vacant hn hc)⟩

section
variable {s : State} {c : Nat} (hst : (s.ctx c).st = .saving) (hfreeze : s.sys.freeze = none)
  (hlive : feLive s s.sys.leader (s.ctx c).asid (saveAt (s.ctx c)) (saveLen (s.ctx c)) = true)
include hst hfreeze hlive

theorem contextSaveComplete_saves {l : List Seg} (htask : (s.ctx c).isTask = false)
    (hsegs : feSegs s s.sys.leader (s.ctx c).asid { r := true, w := true } (saveAt (s.ctx c)) (saveLen (s.ctx c)) = .ok l) :
    EventGives .contextSaveComplete [c] s fun t => (t.ctx c).st = .saved ∧ (t.ctx c).stopAt = none ∧ (t.ctx c).saved = some (saveImage s c).bare ∧
      ∀ n ∈ (s.ctx c).seqs, (s.seq n).ctx = some c → (t.seq n).st = .idle ∧ (t.seq n).ctx = none := by
  intro ha
  have htlb : TlbOnly s (feSeen s s.sys.leader (s.ctx c).asid (saveAt (s.ctx c)) (saveLen (s.ctx c))) := tlbOnly_installSegs _ _ _ _ _
  generalize hu : feSeen s s.sys.leader (s.ctx c).asid (saveAt (s.ctx c)) (saveLen (s.ctx c)) = u at htlb
  have heq : exec .contextSaveComplete s = .next (dropVictim (leaveCores (nowSaved u c) c) c) := by
    refine (show exec .contextSaveComplete s = execContextSaveComplete s from rfl).trans ?_
    simp only [execContextSaveComplete, State.arg_eq ha, List.getD_cons_zero, hfreeze, hst, hlive, hsegs, hu, htask, nowSaved]
    simp
  obtain ⟨hsaved, hstop, himage, hseqs⟩ := savedLeft_gives (s := u) (c := c) rfl
  refine ⟨_, heq, hsaved, hstop, himage.trans (congrArg some (saveImage_bare_tlbOnly htlb c)), fun n hn hc => hseqs n ?_ ?_⟩
  · rw [htlb.undisturbed.ctx]; exact hn
  · rw [htlb.undisturbed.2 n]; exact hc

omit hfreeze hlive in
theorem ctxAlive_of_saving : ctxAlive s c = true := by
  unfold ctxAlive
  cases h : s.ctxs.find? c with
  | none => simp [State.ctx, Tab.getD, h] at hst
  | some x =>
    have : x.st = .saving := by simpa [State.ctx, Tab.getD, h] using hst
    simp [this]

theorem contextSaveComplete_kills {e : XFault}
    (hsegs : feSegs s s.sys.leader (s.ctx c).asid { r := true, w := true } (saveAt (s.ctx c)) (saveLen (s.ctx c)) = .error e)
    (hkill : killAdmitted s c = true) : EventGives .contextSaveComplete [c] s fun t => (t.ctx c).st = .killed ∧ (t.ctx c).status = 3 := by
  intro ha
  have heq : exec .contextSaveComplete s = .next (killCtx s c) := by
    refine (show exec .contextSaveComplete s = execContextSaveComplete s from rfl).trans ?_
    simp only [execContextSaveComplete, State.arg_eq ha, List.getD_cons_zero, hfreeze, hst, hlive, hsegs, hkill]
    rfl
  obtain ⟨hkilled, hstatus, -⟩ := killCtx_gives (ctxAlive_of_saving hst)
  exact ⟨_, heq, hkilled, hstatus⟩

end

/-! ### Commands (spec/22 R420) -/

section
variable {s : State} {f c : Nat}

/-- A command on a context of the function that is on its way is taken. -/
theorem ctxCommand_taken (h : Commands s f c) (dump : Bool) (go : State → State) : ctxCommand s f c dump go = go s := by
  obtain ⟨hfree, halive, hfunc⟩ := h
  simp [ctxCommand, hfree, halive, hfunc]

theorem ctxKill_kills (h : Commands s f c) (hopen : hostOpen s = true) (hkill : killAdmitted s c = true) : EventGives .ctxKill [f, c] s fun t =>
    (t.ctx c).st = .killed ∧ (t.ctx c).status = 3 ∧ (t.ctx c).saved = none ∧ (t.func f).cstat = 0 ∧
      ∀ n ∈ (s.ctx c).seqs, (s.seq n).ctx = some c → (t.seq n).st = .idle ∧ (t.seq n).ctx = none := by
  intro ha
  have heq : exec .ctxKill s = .next ((killCtx s c).modFunc f fun y => { y with cstat := 0 }) := by
    refine (show exec .ctxKill s = execCtxKill s from rfl).trans ?_
    have hfree : ¬ (s.func f).cstat % 4 = 1 := h.1
    simp only [execCtxKill, State.arg_eq ha, List.getD_cons_zero, List.getD_cons_succ, hopen, ctxKillOp, if_neg hfree,
      ctxCommand_taken h, hkill, if_true]
  obtain ⟨hkilled, hstatus, hsaved, hseqs⟩ := killCtx_gives h.2.1
  exact ⟨_, heq, hkilled, hstatus, hsaved, by rw [State.func_modFunc_same], hseqs⟩

/-! ### The dump of a context -/

theorem joinBytes_cons (v n : Nat) (t : List (Nat × Nat)) : (joinBytes ((v, n) :: t)).1 % 2 ^ (8 * n) = v % 2 ^ (8 * n) := by
  simp [joinBytes]

/-- A dump begins with its mark. -/
theorem dumpBytes_mark (s : State) (c : Nat) : (dumpBytes s c).1 % 2 ^ 32 = 0x504D445A := joinBytes_cons 0x504D445A 4 _

section
variable (h : Commands s f c) (hopen : hostOpen s = true) (hst : (s.ctx c).st = .faulted ∨ (s.ctx c).st = .saved)
  (hlive : feLive s s.sys.leader (s.func f).lasid (s.func f).ctxda (dumpBytes s c).2 = true)
include h hopen hst hlive

theorem ctxDump_eq (ha : s.args = [f, c]) : exec .ctxDump s =
    .next (match feWrite s s.sys.leader f (s.func f).lasid (s.func f).ctxda (dumpBytes s c).2 (dumpBytes s c).1 with
      | .error _ => s.modFunc f fun y => { y with cstat := cstatRefused 4, cmd := none }
      | .ok s => s.modFunc f fun y => { y with cstat := 0, cmd := none }) := by
  have hmay : (!((s.ctx c).st = .faulted || (s.ctx c).st = .saved : Bool)) = false := by rcases hst with h | h <;> simp [h]
  refine (show exec .ctxDump s = execCtxDump s from rfl).trans ?_
  simp only [execCtxDump, State.arg_eq ha, List.getD_cons_zero, List.getD_cons_succ, hopen, ctxDumpOp, ctxCommand_taken h, hmay, hlive]
  generalize feWrite s s.sys.leader f (s.func f).lasid (s.func f).ctxda (dumpBytes s c).2 (dumpBytes s c).1 = w
  cases w <;> simp

theorem ctxDump_stores {x : Seg} (hsegs : feSegs s s.sys.leader (s.func f).lasid { w := true } (s.func f).ctxda (dumpBytes s c).2 = .ok [x])
    (hx : PlainSeg s x) (hlen : x.len = (dumpBytes s c).2) : EventGives .ctxDump [f, c] s fun t =>
      (t.func f).cstat = 0 ∧ Stored s t (localPa x.pa) (dumpBytes s c).2 (dumpBytes s c).1 ∧ (t.ctx c).st = (s.ctx c).st := by
  intro ha
  obtain ⟨t, ht, hstored⟩ := feWrite_plain (f := f) (v := (dumpBytes s c).1) hsegs hx
  refine ⟨_, ctxDump_eq h hopen hst hlive ha, ?_⟩
  rw [ht]
  refine ⟨by rw [State.func_modFunc_same], hlen ▸ hstored, ?_⟩
  rw [State.ctx_modFunc, (feWrite_undisturbed ht).ctx]

theorem ctxDump_fails {e : XFault} (hsegs : feSegs s s.sys.leader (s.func f).lasid { w := true } (s.func f).ctxda (dumpBytes s c).2 = .error e) :
    EventGives .ctxDump [f, c] s fun t => t = { s with funcs := t.funcs } ∧ (t.func f).cstat = 0x402 := by
  intro ha
  have hw : feWrite s s.sys.leader f (s.func f).lasid (s.func f).ctxda (dumpBytes s c).2 (dumpBytes s c).1 = .error e := by rw [feWrite, hsegs]
  refine ⟨_, ctxDump_eq h hopen hst hlive ha, ?_⟩
  rw [hw]
  exact ⟨rfl, by rw [State.func_modFunc_same]; rfl⟩

end
end

end Sys2Proof.Machine
end

section
/-! PROOF. Contexts that run again, in place or from their save. -/
namespace Sys2Proof.Machine
open Sys2Proof

/-! ### Energy samples and points leave a resumed context alone -/

/-- Sequencers and memory stay, and of the contexts only what their energy counts. -/
def EnergyOnly (s t : State) : Prop :=
  t.seqs = s.seqs ∧ t.mem = s.mem ∧ ∀ c, t.ctx c = { s.ctx c with energy := (t.ctx c).energy, shared := (t.ctx c).shared }

theorem EnergyOnly.of_eq {s t : State} (hs : t.seqs = s.seqs) (hm : t.mem = s.mem) (hc : t.ctxs = s.ctxs) : EnergyOnly s t :=
  ⟨hs, hm, fun c => by simp only [State.ctx, hc]⟩
theorem EnergyOnly.refl (s : State) : EnergyOnly s s := .of_eq rfl rfl rfl
theorem EnergyOnly.trans {s t u : State} (h : EnergyOnly s t) (k : EnergyOnly t u) : EnergyOnly s u := by
  obtain ⟨hseqs, hmem, hctx⟩ := h
  obtain ⟨kseqs, kmem, kctx⟩ := k
  exact ⟨kseqs.trans hseqs, kmem.trans hmem, fun c => by rw [kctx c, hctx c]⟩
theorem energyOnly_foldl {β : Type} {f : State → β → State} (h : ∀ s x, EnergyOnly s (f s x)) (l : List β) (s : State) : EnergyOnly s (l.foldl f s) :=
  List.foldlRecOn (motive := EnergyOnly s) l f (.refl s) fun t ht x _ => ht.trans (h t x)

theorem energyOnly_modCtx (s : State) (c : Nat) {f : Ctx → Ctx} (h : ∀ x, f x = { x with energy := (f x).energy, shared := (f x).shared }) :
    EnergyOnly s (s.modCtx c f) := by
  refine ⟨rfl, rfl, fun d => ?_⟩
  by_cases hd : d = c
  · subst hd; rw [State.ctx_modCtx_same]; exact h _
  · rw [State.ctx_modCtx_other _ _ _ _ hd]

theorem sampleEnergy_energyOnly (s : State) (cl : Nat) : EnergyOnly s (sampleEnergy s cl) := by
  unfold sampleEnergy
  dsimp only
  split
  · exact .of_eq rfl rfl rfl
  · exact (EnergyOnly.of_eq rfl rfl rfl).trans (energyOnly_modCtx _ _ fun _ => rfl)
theorem sampleCtx_energyOnly (s : State) (c : Nat) : EnergyOnly s (sampleCtx s c) := energyOnly_foldl sampleEnergy_energyOnly _ s

theorem setPoint_mem (s : State) (d p : Nat) : (setPoint s d p).mem = s.mem := by
  unfold setPoint
  split <;> rfl
theorem settleCtx_energyOnly (s : State) (c : Nat) : EnergyOnly s (settleCtx s c) := by
  refine energyOnly_foldl (fun s d => ?_) _ s
  obtain ⟨hctxs, hseqs, -⟩ := setPoint_frame s d (Nat.min (requestedPoint s d) (cappedPoint s d))
  exact .of_eq hseqs (setPoint_mem _ _ _) hctxs

theorem OnlyBegins.energyOnly {s t : State} (h : OnlyBegins s t) : EnergyOnly s t := by
  rw [h.1]; exact .of_eq rfl rfl rfl

/-! ### The code of a core (spec/14 R281, spec/17 R329) -/

/-- Only cores and dies differ. -/
def CoresDies (s t : State) : Prop := t = { s with cores := t.cores, dies := t.dies }

theorem CoresDies.refl (s : State) : CoresDies s s := rfl
theorem CoresDies.trans {s t u : State} (h : CoresDies s t) (k : CoresDies t u) : CoresDies s u := by
  rw [CoresDies] at *; rw [k, h]
theorem coresDies_foldl {β : Type} {f : State → β → State} (h : ∀ s x, CoresDies s (f s x)) (l : List β) (s : State) : CoresDies s (l.foldl f s) :=
  List.foldlRecOn (motive := CoresDies s) l f (.refl s) fun t ht x _ => ht.trans (h t x)
theorem CoresDies.undisturbed {s t : State} (h : CoresDies s t) : Undisturbed s t := by
  rw [h]; exact .of_eq rfl rfl
theorem CoresDies.mem {s t : State} (h : CoresDies s t) : t.mem = s.mem := by rw [h]

theorem keepCode_coresDies (s : State) (x : Ctx) (d : Nat) : CoresDies s (keepCode s x d) := by
  unfold keepCode
  split <;> rfl

/-- The state in which the translations that a fill of a core's code uses are cached. -/
def fillSeen (s : State) (x : Ctx) (g : Nat) : State := if resident s x (dieOf g) then s
  else (x.image.sections.filter fun y => y.kind = 1 && y.size ≠ 0).foldl (fun s y =>
    installSegs s g .itlb x.asid (segsOk (segs s g .itlb x.asid .f { x := true } (x.image.va + y.off) y.size))) s

theorem fillSeen_coresDies (s : State) (x : Ctx) (g : Nat) : CoresDies s (fillSeen s x g) := by
  unfold fillSeen
  split
  · exact .refl s
  · exact coresDies_foldl (fun s y => (tlbOnly_installSegs s g .itlb x.asid _).1) _ s

theorem putCode_coresDies (s : State) (c g : Nat) : CoresDies s (putCode s c g) :=
  ((fillSeen_coresDies s (s.ctx c) g).trans (keepCode_coresDies _ (s.ctx c) (dieOf g))).trans rfl

theorem loadCode_coresDies (s : State) (c g : Nat) : CoresDies s (loadCode s c g) := by
  unfold loadCode
  split
  · exact .refl s
  · exact putCode_coresDies s c g

/-- The code of a context goes to its cores. -/
def codesLoaded (s : State) (c : Nat) (l : List Nat) : State := l.foldl (fun s g => loadCode s c g) s

theorem codesLoaded_coresDies (s : State) (c : Nat) (l : List Nat) : CoresDies s (codesLoaded s c l) :=
  coresDies_foldl (fun s g => loadCode_coresDies s c g) l s

/-! ### One sequencer runs again (spec/20 R378) -/

/-- Two sequencers stand at the same place in the same state of the same context, with the same views and masks. -/
structure SameStand (q r : Seq) : Prop where
  st : r.st = q.st
  prev : r.prev = q.prev
  pc : r.pc = q.pc
  views : r.views = q.views
  masks : r.masks = q.masks
  ctx : r.ctx = q.ctx

theorem SameStand.refl (q : Seq) : SameStand q q := ⟨rfl, rfl, rfl, rfl, rfl, rfl⟩
theorem SameStand.trans {q r u : Seq} (h : SameStand q r) (k : SameStand r u) : SameStand q u :=
  ⟨k.st.trans h.st, k.prev.trans h.prev, k.pc.trans h.pc, k.views.trans h.views, k.masks.trans h.masks, k.ctx.trans h.ctx⟩
theorem Undisturbed.stands {s t : State} (h : Undisturbed s t) (n : Nat) : SameStand (s.seq n) (t.seq n) := by
  rw [h.2 n]; exact ⟨rfl, rfl, rfl, rfl, rfl, rfl⟩

/-- Memory, contexts and every other sequencer stay, and of this one a relation holds. -/
def OneSeq (n : Nat) (r : Seq → Seq → Prop) (s t : State) : Prop :=
  t.mem = s.mem ∧ t.ctxs = s.ctxs ∧ (∀ m, m ≠ n → t.seq m = s.seq m) ∧ r (s.seq n) (t.seq n)

theorem OneSeq.trans {n : Nat} {p q r : Seq → Seq → Prop} {s t u : State} (h : OneSeq n p s t) (k : OneSeq n q t u)
    (hr : ∀ {x y z}, p x y → q y z → r x z) : OneSeq n r s u := by
  obtain ⟨hmem, hctxs, hother, hself⟩ := h
  obtain ⟨kmem, kctxs, kother, kself⟩ := k
  exact ⟨kmem.trans hmem, kctxs.trans hctxs, fun m hm => (kother m hm).trans (hother m hm), hr hself kself⟩
theorem oneSeq_refl (n : Nat) (s : State) : OneSeq n SameStand s s := ⟨rfl, rfl, fun _ _ => rfl, .refl _⟩
theorem oneSeq_modSeq (s : State) (n : Nat) {f : Seq → Seq} {r : Seq → Seq → Prop} (h : r (s.seq n) (f (s.seq n))) : OneSeq n r s (s.modSeq n f) :=
  ⟨rfl, rfl, fun m hm => State.seq_modSeq_other _ _ _ _ hm, by rw [State.seq_modSeq_same]; exact h⟩

theorem oneSeq_renumbered (s : State) (n k : Nat) {f : Seq → Seq} {r : Seq → Seq → Prop} (h : r (s.seq n) (f (s.seq n))) :
    OneSeq n r s { s.modSeq n f with nextId := k } := oneSeq_modSeq s n h

theorem resumeFence_stands (s : State) (n : Nat) : OneSeq n SameStand s (resumeFence s n) :=
  oneSeq_modSeq s n ⟨rfl, rfl, rfl, rfl, rfl, rfl⟩

theorem rereadPorts_stands (s : State) (n : Nat) : OneSeq n SameStand s (rereadPorts s n) := by
  refine List.foldlRecOn (motive := OneSeq n SameStand s) _ _ (oneSeq_refl n s) fun t ht p _ => ?_
  dsimp only
  split
  · exact ht
  · refine ht.trans (oneSeq_renumbered (r := SameStand) t n _ ?_) SameStand.trans
    exact ⟨rfl, rfl, rfl, rfl, rfl, rfl⟩

theorem retryCmd_stands (s : State) (n : Nat) : OneSeq n SameStand s (retryCmd s n) := by
  have hsame : ∀ a : Seq → Ae, OneSeq n SameStand s (s.modSeq n fun q => { q with ae := a q }) := fun a => oneSeq_modSeq s n ⟨rfl, rfl, rfl, rfl, rfl, rfl⟩
  unfold retryCmd
  split
  · split
    · exact oneSeq_refl n s
    · split
      · exact hsame _
      · exact (hsame _).trans (oneSeq_modSeq (r := SameStand) _ n ⟨rfl, rfl, rfl, rfl, rfl, rfl⟩) SameStand.trans
  · exact oneSeq_refl n s

/-- A sequencer that stood still runs again where it stood: a faulted one runs, a preempted one is what it was. -/
structure Resumed (q r : Seq) : Prop where
  pc : r.pc = q.pc
  views : r.views = q.views
  masks : r.masks = q.masks
  ctx : r.ctx = q.ctx
  faulted : q.st = .faulted → q.prev ≠ .idle → q.prev ≠ .retired → r.st = .running
  preempted : q.st = .preempted → r.st = q.prev

theorem Resumed.of_stands {q q' r r' : Seq} (h : SameStand q q') (k : Resumed q' r') (l : SameStand r' r) : Resumed q r where
  pc := l.pc.trans (k.pc.trans h.pc)
  views := l.views.trans (k.views.trans h.views)
  masks := l.masks.trans (k.masks.trans h.masks)
  ctx := l.ctx.trans (k.ctx.trans h.ctx)
  faulted hst hidle hretired := l.st.trans (k.faulted (h.st.trans hst) (h.prev ▸ hidle) (h.prev ▸ hretired))
  preempted hst := l.st.trans ((k.preempted (h.st.trans hst)).trans h.prev)

theorem returnFromStop_resumes (s : State) (n : Nat) : OneSeq n Resumed s (returnFromStop s n) := by
  have hsettled : OneSeq n SameStand s (settleSeq s n) := oneSeq_modSeq s n ⟨rfl, rfl, rfl, rfl, rfl, rfl⟩
  refine hsettled.trans (oneSeq_modSeq (r := Resumed) (settleSeq s n) n ?_) fun h k => Resumed.of_stands h k (.refl _)
  generalize (settleSeq s n).seq n = q
  cases hst : q.st with
  | faulted => exact ⟨by simp, by simp, by simp, by simp, fun _ hidle hretired => by simp [hidle, hretired], by simp [hst]⟩
  | preempted => exact ⟨by simp, by simp, by simp, by simp, by simp [hst], fun _ => by simp⟩
  | _ => exact ⟨by simp, by simp, by simp, by simp, by simp [hst], by simp [hst]⟩

/-- One sequencer of a resumed context. -/
def resumeOne (s : State) (n : Nat) : State := retryCmd (rereadPorts (returnFromStop (resumeFence s n) n) n) n

theorem resumeOne_resumes (s : State) (n : Nat) : OneSeq n Resumed s (resumeOne s n) := by
  have hreturned := (resumeFence_stands s n).trans (r := Resumed) (returnFromStop_resumes (resumeFence s n) n) fun h k => Resumed.of_stands h k (.refl _)
  have hreread := hreturned.trans (r := Resumed) (rereadPorts_stands _ n) fun h k => Resumed.of_stands (.refl _) h k
  exact hreread.trans (retryCmd_stands _ n) fun h k => Resumed.of_stands (.refl _) h k

theorem foldl_resumeOne_frame (l : List Nat) (s : State) : (l.foldl resumeOne s).mem = s.mem ∧ (l.foldl resumeOne s).ctxs = s.ctxs ∧
    ∀ m ∉ l, (l.foldl resumeOne s).seq m = s.seq m := by
  induction l generalizing s with
  | nil => exact ⟨rfl, rfl, fun _ _ => rfl⟩
  | cons n t ih =>
    obtain ⟨hmem, hctxs, hother, -⟩ := resumeOne_resumes s n
    obtain ⟨kmem, kctxs, kother⟩ := ih (resumeOne s n)
    rw [List.foldl_cons]
    refine ⟨kmem.trans hmem, kctxs.trans hctxs, fun m hm => ?_⟩
    obtain ⟨hmn, hmt⟩ := List.ne_and_not_mem_of_not_mem_cons hm
    exact (kother m hmt).trans (hother m hmn)

theorem foldl_resumeOne_resumes {l : List Nat} (hl : l.Nodup) (s : State) : ∀ n ∈ l, Resumed (s.seq n) ((l.foldl resumeOne s).seq n) := by
  induction l generalizing s with
  | nil => intro n hn; cases hn
  | cons n t ih =>
    obtain ⟨hn, ht⟩ := List.nodup_cons.mp hl
    obtain ⟨-, -, hother, hself⟩ := resumeOne_resumes s n
    intro m hm
    rcases List.mem_cons.mp hm with rfl | hmt
    · rw [List.foldl_cons, (foldl_resumeOne_frame t _).2.2 m hn]; exact hself
    · have hmn := ne_of_mem_of_not_mem hmt hn
      rw [List.foldl_cons, ← hother m hmn]
      exact ih ht (resumeOne s n) m hmt

/-! ### A context runs again -/

/-- The context of a resume. -/
def runsAgain (x : Ctx) : Ctx := { x with st := .released, faulted := [], fromPf := false, stopAt := none, saved := none }
/-- The sequencers and the context of a resume, before points, samples and the matrix queues. -/
def nowResumed (s : State) (c : Nat) : State :=
  (((s.ctx c).seqs.filter fun n => (s.seq n).ctx = some c).foldl resumeOne s).modCtx c runsAgain

theorem resumeSeqs_energyOnly (s : State) (c : Nat) : EnergyOnly (nowResumed s c) (resumeSeqs s c) := by
  have hpoint : EnergyOnly (nowResumed s c) (if ((nowResumed s c).ctx c).point.isSome then settleCtx (nowResumed s c) c else nowResumed s c) := by
    split
    · exact settleCtx_energyOnly _ c
    · exact .refl _
  refine (hpoint.trans (sampleCtx_energyOnly _ c)).trans ?_
  exact energyOnly_foldl (fun s g => (promote_onlyBegins s g true).energyOnly) _ _

/-- What a resume gives: the context is released with nothing left of its stop, and its sequencers run again. -/
structure CtxResumed (s t : State) (c : Nat) : Prop where
  mem : t.mem = s.mem
  st : (t.ctx c).st = .released
  faulted : (t.ctx c).faulted = []
  saved : (t.ctx c).saved = none
  stopAt : (t.ctx c).stopAt = none
  seqs : ∀ n ∈ (s.ctx c).seqs, (s.seq n).ctx = some c → Resumed (s.seq n) (t.seq n)

theorem resumeSeqs_resumes {s : State} {c : Nat} (hd : (s.ctx c).seqs.Nodup) : CtxResumed s (resumeSeqs s c) c := by
  obtain ⟨hseqs, hmem, hctx⟩ := resumeSeqs_energyOnly s c
  have hnow : (nowResumed s c).ctx c = runsAgain ((((s.ctx c).seqs.filter fun n => (s.seq n).ctx = some c).foldl resumeOne s).ctx c) :=
    State.ctx_modCtx_same _ c runsAgain
  have hfinal := (hctx c).trans (by rw [hnow])
  refine ⟨hmem.trans ?_, by rw [hfinal]; rfl, by rw [hfinal]; rfl, by rw [hfinal]; rfl, by rw [hfinal]; rfl, fun n hn hc => ?_⟩
  · exact (foldl_resumeOne_frame _ s).1
  · rw [show (resumeSeqs s c).seq n = (nowResumed s c).seq n by simp only [State.seq, hseqs]]
    exact foldl_resumeOne_resumes (hd.filter _) s n (by simp [hn, hc])

/-! ### A saved context returns to its sequencers (spec/14 R285, spec/20 R391) -/

/-- One sequencer of a save takes its place. -/
def restoreSeq (v : SaveImage) (s : State) (e : Nat × Seq) : State :=
  let g := coreOf e.1
  let base := (placeWindow (windowsOf s g) e.2.winSize).getD 0
  let s := clearPoison (s.setSeq e.1 { e.2 with winBase := base, ae := resent e.2.ae }) (State.regPa g base) e.2.winSize
  s.modCore g fun k => { k with regs := k.regs.unslice base e.2.winSize (v.regs.getD e.1 []) }

theorem restoreSeq_other (v : SaveImage) (s : State) (e : Nat × Seq) {m : Nat} (h : m ≠ e.1) : (restoreSeq v s e).seq m = s.seq m :=
  tab_getD_put_other _ _ _ _ _ h
theorem restoreSeq_stands (v : SaveImage) (s : State) (e : Nat × Seq) : SameStand e.2 ((restoreSeq v s e).seq e.1) := by
  have h : (restoreSeq v s e).seq e.1 = { e.2 with winBase := (placeWindow (windowsOf s (coreOf e.1)) e.2.winSize).getD 0, ae := resent e.2.ae } :=
    tab_getD_put_same _ _ _ _
  rw [h]
  exact ⟨rfl, rfl, rfl, rfl, rfl, rfl⟩

theorem foldl_restoreSeq_other (v : SaveImage) (l : List (Nat × Seq)) (s : State) {m : Nat} (h : m ∉ l.map (·.1)) :
    (l.foldl (restoreSeq v) s).seq m = s.seq m := by
  induction l generalizing s with
  | nil => rfl
  | cons e t ih =>
    obtain ⟨hme, hmt⟩ := List.ne_and_not_mem_of_not_mem_cons h
    exact (ih _ hmt).trans (restoreSeq_other v s e hme)
theorem foldl_restoreSeq_ctxs (v : SaveImage) (l : List (Nat × Seq)) (s : State) : (l.foldl (restoreSeq v) s).ctxs = s.ctxs :=
  List.foldlRecOn (motive := fun t => State.ctxs t = s.ctxs) _ _ rfl fun _ ht _ _ => ht

theorem foldl_restoreSeq_stands (v : SaveImage) {l : List (Nat × Seq)} (hl : (l.map (·.1)).Nodup) (s : State) :
    ∀ e ∈ l, SameStand e.2 ((l.foldl (restoreSeq v) s).seq e.1) := by
  induction l generalizing s with
  | nil => intro e he; cases he
  | cons y t ih =>
    obtain ⟨hy, ht⟩ := List.nodup_cons.mp hl
    intro e he
    rcases List.mem_cons.mp he with rfl | het
    · rw [List.foldl_cons, foldl_restoreSeq_other v t _ hy]; exact restoreSeq_stands v s e
    · exact ih ht _ e het

/-- The scratchpad, landing slots and engine queues of a save return to a core. -/
def restoreCore (c : Nat) (v : SaveImage) (s : State) (g : Nat) : State :=
  let s := renewed { s with mem := s.mem.fill (scratchBase g) 0x800000 (v.scratch.slice (scratchBase g) 0x800000) } (scratchBase g) 0x800000
  (s.modCore g fun k =>
    { k with ls := ((v.ls.getD g []).zip k.ls).map fun (p : Landing × Landing) => if p.1.owner.any fun n => (v.seqs.map (·.1)).contains n then p.1 else p.2
             mq := v.mq.getD g [] ++ k.mq
             bte := ((v.bte.getD g []).zip k.bte).map fun (p : List Copy × List Copy) => p.1 ++ p.2
             owner := some c })
theorem restoreCore_undisturbed (c : Nat) (v : SaveImage) (s : State) (g : Nat) : Undisturbed s (restoreCore c v s g) := by
  have hfilled : Undisturbed s { s with mem := s.mem.fill (scratchBase g) 0x800000 (v.scratch.slice (scratchBase g) 0x800000) } := .of_eq rfl rfl
  exact (hfilled.trans (renewed_undisturbed _ (scratchBase g) 0x800000)).trans (.of_eq rfl rfl)

/-- The units of the continuation queue take back what a save holds of them. -/
def restoreCluster (c : Nat) (s : State) (e : Nat × Cluster) : State := s.modCluster e.1 fun k =>
  { k with levels := e.2.levels, spill := e.2.spill, overflow := e.2.overflow, launch := some c, enrolled := e.2.enrolled, pushes := e.2.pushes }
theorem restoreCluster_undisturbed (c : Nat) (s : State) (e : Nat × Cluster) : Undisturbed s (restoreCluster c s e) := .of_eq rfl rfl

theorem restoreCtx_undisturbed (s : State) (c : Nat) (v : SaveImage) : Undisturbed (v.seqs.foldl (restoreSeq v) s) (restoreCtx s c v) := by
  refine (undisturbed_foldl (fun s g => restoreCore_undisturbed c v s g) (heldCores (s.ctx c)) _).trans ?_
  exact undisturbed_foldl (restoreCluster_undisturbed c) v.clusters _

theorem poisonBack_undisturbed (s : State) (c : Nat) (v : SaveImage) : Undisturbed s (poisonBack s c v) := .of_eq rfl rfl

/-- The state in which a save has come back: the area is seen, what it holds is in place, and the code of the cores too. -/
def nowRestored (s : State) (c : Nat) (v : SaveImage) : State :=
  let x := s.ctx c
  let u := feSeen s s.sys.leader x.asid (saveAt x) (saveLen x)
  codesLoaded (poisonBack (restoreCtx u c (fetchSave u c v)) c v) c x.cores

theorem nowRestored_stands (s : State) (c : Nat) (v : SaveImage) (hv : (v.seqs.map (·.1)).Nodup) :
    (nowRestored s c v).ctxs = s.ctxs ∧ ∀ e ∈ v.seqs, SameStand e.2 ((nowRestored s c v).seq e.1) := by
  have htlb : TlbOnly s (feSeen s s.sys.leader (s.ctx c).asid (saveAt (s.ctx c)) (saveLen (s.ctx c))) := tlbOnly_installSegs _ _ _ _ _
  have hseen := htlb.undisturbed
  unfold nowRestored
  dsimp only
  generalize feSeen s s.sys.leader (s.ctx c).asid (saveAt (s.ctx c)) (saveLen (s.ctx c)) = u at hseen
  have hrest : Undisturbed (v.seqs.foldl (restoreSeq (fetchSave u c v)) u) (poisonBack (restoreCtx u c (fetchSave u c v)) c v) :=
    (restoreCtx_undisturbed u c (fetchSave u c v)).trans (poisonBack_undisturbed _ c v)
  have hall := hrest.trans (codesLoaded_coresDies _ c (s.ctx c).cores).undisturbed
  refine ⟨hall.1.trans ((foldl_restoreSeq_ctxs _ _ u).trans hseen.1), fun e he => ?_⟩
  exact (foldl_restoreSeq_stands (fetchSave u c v) hv u e he).trans (hall.stands e.1)

/-! ### The event and the command -/

section
variable {s : State} {c : Nat} {v : SaveImage}

theorem resumeCtx_restores {l : List Seg} (hsaved : (s.ctx c).saved = some v) (hfree : placeFree s c v = true)
    (hsegs : feSegs s s.sys.leader (s.ctx c).asid { r := true, w := true } (saveAt (s.ctx c)) (saveLen (s.ctx c)) = .ok l) :
    resumeCtx s c = some (resumeSeqs (nowRestored s c v) c) := by
  unfold resumeCtx nowRestored codesLoaded
  generalize s.ctx c = x at *
  simp [hsaved, hfree, hsegs]

theorem resumeCtx_waits (hsaved : (s.ctx c).saved = some v) (hfree : placeFree s c v = false) : resumeCtx s c = none := by
  unfold resumeCtx
  generalize s.ctx c = x at *
  simp [hsaved, hfree]

theorem resumeCtx_inPlace (hsaved : (s.ctx c).saved = none) (hfree : (s.ctx c).cores.all (codeFree s c) = true)
    (hgates : ungated s (s.ctx c).cores = true) : resumeCtx s c = some (resumeSeqs (codesLoaded s c (s.ctx c).cores) c) := by
  simp only [resumeCtx, hsaved, hfree, hgates]
  rfl

section
variable (hst : (s.ctx c).st = .saved) (hclean : (s.ctx c).faulted = []) (hserving : serving s = true) (hleader : leaderOk s = true)
  (hwanted : wanted s c = false) (hsaved : (s.ctx c).saved = some v)
include hst hclean hserving hleader hwanted hsaved

omit hsaved in
theorem preemptedResume_eq (ha : s.args = [c]) : exec .preemptedResume s = .next ((resumeCtx s c).getD s) := by
  refine (show exec .preemptedResume s = execPreemptedResume s from rfl).trans ?_
  simp [execPreemptedResume, State.arg_eq ha, hst, hclean, hserving, hleader, hwanted]

theorem preemptedResume_restores {l : List Seg} (hfree : placeFree s c v = true)
    (hsegs : feSegs s s.sys.leader (s.ctx c).asid { r := true, w := true } (saveAt (s.ctx c)) (saveLen (s.ctx c)) = .ok l)
    (hd : (s.ctx c).seqs.Nodup) (hv : (v.seqs.map (·.1)).Nodup) :
    EventGives .preemptedResume [c] s fun t => (t.ctx c).st = .released ∧ (t.ctx c).saved = none ∧ (t.ctx c).stopAt = none ∧
      ∀ n q, (n, q) ∈ v.seqs → n ∈ (s.ctx c).seqs → q.ctx = some c → (t.seq n).pc = q.pc ∧ (t.seq n).views = q.views ∧ (t.seq n).masks = q.masks ∧
        (t.seq n).ctx = some c ∧ (q.st = .preempted → (t.seq n).st = q.prev) := by
  intro ha
  obtain ⟨hctxs, hstands⟩ := nowRestored_stands s c v hv
  have heq := preemptedResume_eq hst hclean hserving hleader hwanted ha
  rw [resumeCtx_restores hsaved hfree hsegs, Option.getD_some] at heq
  generalize nowRestored s c v = u at hctxs hstands heq
  have hctx : u.ctx c = s.ctx c := by simp only [State.ctx, hctxs]
  have hres := resumeSeqs_resumes (s := u) (c := c) (by rw [hctx]; exact hd)
  refine ⟨_, heq, hres.st, hres.saved, hres.stopAt, fun n q hq hn hqc => ?_⟩
  have hplace := hstands (n, q) hq
  have hrun := Resumed.of_stands hplace (hres.seqs n (by rw [hctx]; exact hn) (hplace.ctx.trans hqc)) (.refl _)
  exact ⟨hrun.pc, hrun.views, hrun.masks, hrun.ctx.trans hqc, hrun.preempted⟩

theorem preemptedResume_waits (hfree : placeFree s c v = false) : EventGives .preemptedResume [c] s fun t => t = s := by
  intro ha
  refine ⟨_, preemptedResume_eq hst hclean hserving hleader hwanted ha, ?_⟩
  rw [resumeCtx_waits hsaved hfree, Option.getD_none]

end
end

section
variable {s : State} {f c : Nat} (h : Commands s f c) (hopen : hostOpen s = true)
include h hopen

theorem ctxResume_notStopped (hf : isFaulted (s.ctx c) = false) : EventGives .ctxResume [f, c] s fun t =>
    t = { s with funcs := t.funcs } ∧ (t.func f).cstat = 0x202 ∧ (t.func f).cmd = none := by
  intro ha
  have heq : exec .ctxResume s = .next (s.modFunc f fun y => { y with cstat := cstatRefused 2, cmd := none }) := by
    refine (show exec .ctxResume s = execCtxResume s from rfl).trans ?_
    simp [execCtxResume, State.arg_eq ha, hopen, ctxResumeOp, ctxCommand_taken h, hf]
  refine ⟨_, heq, rfl, ?_⟩
  rw [State.func_modFunc_same]
  exact ⟨rfl, rfl⟩

theorem ctxResume_lost (hf : isFaulted (s.ctx c) = true) (hloss : (s.ctx c).frec.toNat % 256 = 0x13) : EventGives .ctxResume [f, c] s fun t =>
    t = { s with funcs := t.funcs } ∧ (t.func f).cstat = 0x302 := by
  intro ha
  have hcode : (s.ctx c).frec.toNat % 256 = Cause.retentionLoss.code := hloss
  have heq : exec .ctxResume s = .next (s.modFunc f fun y => { y with cstat := cstatRefused 3, cmd := none }) := by
    refine (show exec .ctxResume s = execCtxResume s from rfl).trans ?_
    simp [execCtxResume, State.arg_eq ha, hopen, ctxResumeOp, ctxCommand_taken h, hf, hcode]
  refine ⟨_, heq, rfl, ?_⟩
  rw [State.func_modFunc_same]
  rfl

theorem ctxResume_inPlace (hf : isFaulted (s.ctx c) = true) (hkept : (s.ctx c).frec.toNat % 256 ≠ 0x13) (hserving : serving s = true)
    (hstop : (s.ctx c).stopAt = none) (hst : (s.ctx c).st = .faulted) (hsaved : (s.ctx c).saved = none) (hd : (s.ctx c).seqs.Nodup)
    (hgates : ungated s (s.ctx c).cores = true) (hcores : ∀ g ∈ (s.ctx c).cores, dieLive s (dieOf g) = true ∧ codeFree s c g = true) :
    EventGives .ctxResume [f, c] s fun t =>
      (t.func f).cstat = 0 ∧ (t.ctx c).st = .released ∧ (t.ctx c).faulted = [] ∧ t.mem = s.mem ∧ ∀ n ∈ (s.ctx c).seqs, (s.seq n).ctx = some c → (t.seq n).pc = (s.seq n).pc ∧
        ((s.seq n).st = .faulted → (s.seq n).prev ≠ .idle → (s.seq n).prev ≠ .retired → (t.seq n).st = .running) ∧ ((s.seq n).st = .preempted → (t.seq n).st = (s.seq n).prev) := by
  intro ha
  have hcode : ¬ (s.ctx c).frec.toNat % 256 = Cause.retentionLoss.code := hkept
  have hlive : (s.ctx c).cores.all (fun g => dieLive s (dieOf g)) = true := List.all_eq_true.mpr fun g hg => (hcores g hg).1
  have hfree : (s.ctx c).cores.all (codeFree s c) = true := List.all_eq_true.mpr fun g hg => (hcores g hg).2
  have hload := codesLoaded_coresDies s c (s.ctx c).cores
  have hplace := resumeCtx_inPlace hsaved hfree hgates
  generalize codesLoaded s c (s.ctx c).cores = u at hload hplace
  have heq : exec .ctxResume s = .next ((resumeSeqs u c).modFunc f fun y => { y with cstat := 0, cmd := none }) := by
    refine (show exec .ctxResume s = execCtxResume s from rfl).trans ?_
    have hgo : (serving s && (s.ctx c).stopAt.isNone && (s.ctx c).st ≠ .saving && (s.ctx c).cores.all fun g => dieLive s (dieOf g) : Bool) = true := by
      rw [hlive, hserving, hstop, hst]; rfl
    simp only [execCtxResume, State.arg_eq ha, List.getD_cons_zero, List.getD_cons_succ, hopen, ctxResumeOp, ctxCommand_taken h, hf, hcode, hgo, hplace]
    simp
  have hctx : u.ctx c = s.ctx c := hload.undisturbed.ctx c
  have hres := resumeSeqs_resumes (s := u) (c := c) (by rw [hctx]; exact hd)
  refine ⟨_, heq, by rw [State.func_modFunc_same], hres.st, hres.faulted, hres.mem.trans hload.mem, fun n hn hc => ?_⟩
  have hplaced := hload.undisturbed.stands n
  have hrun := Resumed.of_stands hplaced (hres.seqs n (by rw [hctx]; exact hn) (hplaced.ctx.trans hc)) (.refl _)
  exact ⟨hrun.pc, hrun.faulted, hrun.preempted⟩

end

end Sys2Proof.Machine
end

section
/-! PROOF. Strikes and twins. -/
namespace Sys2Proof.Machine
open Sys2Proof

/-! ### Lists and tables -/

/-- A table in which the keys of a list have been put, each with its own value. -/
theorem tab_getD_foldl_put {α : Type} (f : Nat → α) (l : List Nat) (t : Tab α) (n : Nat) (d : α) :
    (l.foldl (fun t m => t.put m (f m)) t).getD n d = if n ∈ l then f n else t.getD n d := by
  induction l generalizing t with
  | nil => simp
  | cons m l ih =>
    rw [List.foldl_cons, ih]
    by_cases hm : n = m
    · subst hm; simp
    · simp [hm, tab_getD_put_other _ _ _ _ _ hm]

theorem insertBy_last {α : Type} {key : α → Nat} {x : α} {l : List α} (h : ∀ y ∈ l, key y < key x) : insertBy key x l = l ++ [x] := by
  induction l with
  | nil => rfl
  | cons y t ih =>
    have hy := h y (by simp)
    rw [insertBy, if_neg (by omega), ih fun z hz => h z (by simp [hz])]
    rfl

theorem foldl_insertBy_sorted {α : Type} (key : α → Nat) (l acc : List α) (h : (acc ++ l).Pairwise fun a b => key a < key b) :
    l.foldl (fun acc x => insertBy key x acc) acc = acc ++ l := by
  induction l generalizing acc with
  | nil => simp
  | cons x t ih =>
    have hlast : ∀ y ∈ acc, key y < key x := fun y hy => (List.pairwise_append.mp h).2.2 y hy x (by simp)
    rw [List.foldl_cons, insertBy_last hlast, ih _ (by simpa using h), List.append_assoc]
    rfl

/-- Sorting leaves a rising list as it is. -/
theorem sortBy_sorted {α : Type} {key : α → Nat} {l : List α} (h : l.Pairwise fun a b => key a < key b) : sortBy key l = l :=
  foldl_insertBy_sorted key l [] (by simpa using h)

/-! ### The return to a boundary (spec/20 R384, R385) -/

theorem mem_rolled {s : State} {g : Nat} {p : Snap} {n : Nat} :
    n ∈ rolled s g p ↔ coreOf n = g ∧ (s.seq n).epoch = (p.seqs.getD n {}).epoch := by
  simp only [rolled, List.mem_filter, List.mem_map, List.mem_range, coreOf, decide_eq_true_eq, and_congr_left_iff]
  refine fun _ => ⟨?_, fun h => ⟨n % 4, by omega, by omega⟩⟩
  rintro ⟨i, hi, rfl⟩
  omega

theorem mem_rolled_nth {s : State} {g i : Nat} {p : Snap} (hi : i < 4) :
    4 * g + i ∈ rolled s g p ↔ (s.seq (4 * g + i)).epoch = (p.seqs.getD (4 * g + i) {}).epoch := by
  rw [mem_rolled]
  exact and_iff_right (by simp only [coreOf]; omega)

/-- The core of a snapshot as it stands after the return. -/
def rolledCore (s : State) (g : Nat) (p : Snap) (c : Core) : Core :=
  let own := fun (n : Nat) => (rolled s g p).contains n
  { c with last := p.core.last, regs := rolledRegs s g p, scales := p.core.scales
           mq := sortBy (·.id) (p.core.mq.filter (fun e => own e.seq) ++ c.mq.filter fun e => !own e.seq)
           ls := (c.ls.zip p.core.ls).map fun (l : Landing × Landing) => if l.1.owner.any (!own ·) then l.1 else l.2
           bte := c.bte.map fun (ch : List Copy) => ch.filter fun x => !(own x.seq && p.firstId ≤ x.id) }

/-- A return puts back the sequencers it concerns and its core; memory stays. -/
theorem rollTo_eq {s : State} {g k : Nat} {p : Snap} (hp : (s.hist.getD g [])[k]? = some p) :
    ∃ u : State, rollTo s g k = u.modCore g (rolledCore s g p) ∧ u.mem = s.mem ∧ u.cores = s.cores ∧
      u.seqs = (rolled s g p).foldl (fun t n => t.put n (rolledSeq (s.seq n) (p.seqs.getD n {}) p.firstId)) s.seqs := by
  have htensors : ∀ (l : Tab (Tab Tensor)) (u : State),
      let t := l.foldl (fun s e => s.modCtx e.1 fun x => { x with tensors := rolledTensors g x.tensors e.2 }) u
      t.mem = u.mem ∧ t.cores = u.cores ∧ t.seqs = u.seqs := fun l u =>
    List.foldlRecOn (motive := fun t => State.mem t = u.mem ∧ State.cores t = u.cores ∧ State.seqs t = u.seqs) _ _ ⟨rfl, rfl, rfl⟩ fun t ht e _ => ht
  unfold rollTo
  simp only [hp]
  exact ⟨_, rfl, htensors _ _⟩

section
variable {s : State} {g k : Nat} {p : Snap} (hp : (s.hist.getD g [])[k]? = some p)
include hp

theorem rollTo_mem : (rollTo s g k).mem = s.mem := by
  obtain ⟨u, hu, hmem, -⟩ := rollTo_eq hp
  rw [hu]; exact hmem
theorem rollTo_core_same : (rollTo s g k).core g = rolledCore s g p (s.core g) := by
  obtain ⟨u, hu, -, hcores, -⟩ := rollTo_eq hp
  rw [hu, State.core_modCore_same]
  simp only [State.core, hcores]
theorem rollTo_core_other {h : Nat} (hh : h ≠ g) : (rollTo s g k).core h = s.core h := by
  obtain ⟨u, hu, -, hcores, -⟩ := rollTo_eq hp
  rw [hu, State.core_modCore_other _ _ _ _ hh]
  simp only [State.core, hcores]
theorem rollTo_seq (n : Nat) :
    (rollTo s g k).seq n = if n ∈ rolled s g p then rolledSeq (s.seq n) (p.seqs.getD n {}) p.firstId else s.seq n := by
  obtain ⟨u, hu, -, -, hseqs⟩ := rollTo_eq hp
  rw [hu, State.seq_modCore]
  simp only [State.seq, hseqs]
  exact tab_getD_foldl_put (fun n => rolledSeq (s.seq n) (p.seqs.getD n {}) p.firstId) _ s.seqs n {}

theorem rollTo_seq_pc {i : Nat} (hi : i < 4) (he : (s.seq (4 * g + i)).epoch = (p.seqs.getD (4 * g + i) {}).epoch) :
    ((rollTo s g k).seq (4 * g + i)).pc = (p.seqs.getD (4 * g + i) {}).pc := by
  rw [rollTo_seq hp, if_pos ((mem_rolled_nth hi).mpr he)]
  rfl

theorem rollTo_causes (n : Nat) : ((rollTo s g k).seq n).causes = (s.seq n).causes := by
  rw [rollTo_seq hp]
  split <;> rfl

end

/-! ### A core all of whose sequencers return -/

section
variable {s : State} {g : Nat} {p : Snap} (hall : ∀ i < 4, (s.seq (4 * g + i)).epoch = (p.seqs.getD (4 * g + i) {}).epoch)
include hall

theorem rolled_own {n : Nat} (hn : coreOf n = g) : (rolled s g p).contains n = true := by
  have hplace : 4 * g + n % 4 = n := by simp only [coreOf] at hn; omega
  have hsame := hall (n % 4) (by omega)
  rw [hplace] at hsame
  simpa using mem_rolled.mpr ⟨hn, hsame⟩

theorem rolledRegs_all : rolledRegs s g p = p.core.regs := by
  have hnone : (((List.range 4).map (4 * g + ·)).filter fun n => !(rolled s g p).contains n && (s.seq n).ctx.isSome) = [] := by
    rw [List.filter_eq_nil_iff]
    intro n hn
    obtain ⟨i, hi, rfl⟩ := List.mem_map.mp hn
    have hcore : coreOf (4 * g + i) = g := by have := List.mem_range.mp hi; simp only [coreOf]; omega
    rw [rolled_own hall hcore]
    simp
  rw [rolledRegs, hnone]
  rfl

theorem rolledCore_mq {c : Core} (hmq : ∀ e ∈ p.core.mq ++ c.mq, coreOf e.seq = g) (hsorted : p.core.mq.Pairwise fun a b => a.id < b.id) :
    (rolledCore s g p c).mq = p.core.mq := by
  have hold : p.core.mq.filter (fun e => (rolled s g p).contains e.seq) = p.core.mq :=
    List.filter_eq_self.mpr fun e he => rolled_own hall (hmq e (by simp [he]))
  have hcur : (c.mq.filter fun e => !(rolled s g p).contains e.seq) = [] :=
    List.filter_eq_nil_iff.mpr fun e he => by rw [rolled_own hall (hmq e (by simp [he]))]; simp
  rw [rolledCore]
  dsimp only
  rw [hold, hcur, List.append_nil, sortBy_sorted hsorted]

theorem rolledCore_ls {c : Core} (hls : ∀ l ∈ c.ls, ∀ n, l.owner = some n → coreOf n = g) (hlen : c.ls.length = p.core.ls.length) :
    (rolledCore s g p c).ls = p.core.ls := by
  have hpick : ∀ l ∈ c.ls.zip p.core.ls, (if l.1.owner.any (!(rolled s g p).contains ·) then l.1 else l.2) = l.2 := fun l hl => by
    refine if_neg ?_
    cases ho : l.1.owner with
    | none => simp
    | some n => rw [Option.any_some, rolled_own hall (hls l.1 (List.of_mem_zip hl).1 n ho)]; simp
  rw [rolledCore]
  dsimp only
  rw [List.map_congr_left hpick]
  exact List.map_snd_zip hlen.ge

end

/-! ### Strikes -/

theorem strike_core_same (s : State) (g : Nat) : (strike s g).core g = { s.core g with strikes := (s.core g).strikes + 1 } :=
  State.core_modCore_same _ _ _
theorem strike_core_other (s : State) {g h : Nat} (hh : h ≠ g) : (strike s g).core h = s.core h := State.core_modCore_other _ _ _ _ hh

theorem strike_sameBytes (s : State) (g : Nat) : SameBytes s (strike s g) := sameBytes_modCore s g fun _ => rfl

theorem strikeRollback_eq {s : State} {g k : Nat} (hissue : s.issue = none) (ha : s.args = [g, k]) :
    exec .strikeRollback s = .next (strike (rollTo s ((s.core g).twinOf.getD g) k) g) := by
  refine (show exec .strikeRollback s = execStrikeRollback s from rfl).trans ?_
  simp [execStrikeRollback, State.arg_eq ha, hissue]

/-- A stopped sequencer whose past self ran stops there again. -/
theorem redoOf_stopped {cur old : Seq} (hredo : cur.redo = none) (hold : old.st.live = true)
    (hcur : cur.st ∈ [SqState.preempted, .faulted, .frozen, .calved]) : redoOf cur old = some (cur.issued, cur.st, cur.prev, cur.below) := by
  have hstill : cur.st.live = false ∧ cur.st ≠ .retired ∧ cur.st ≠ .idle := by
    generalize cur.st = x at hcur
    revert x
    decide +revert
  obtain ⟨hlive, hretired, hidle⟩ := hstill
  simp [redoOf, hredo, hold, hlive, hretired, hidle]

theorem strikeRollback_single {s : State} {g k : Nat} {p : Snap} (hissue : s.issue = none) (htwin : (s.core g).twinOf = none)
    (hp : (s.hist.getD g [])[k]? = some p) :
    let same := fun (i : Nat) => (s.seq (4 * g + i)).epoch = (p.seqs.getD (4 * g + i) {}).epoch
    EventGives .strikeRollback [g, k] s fun t => (t.core g).strikes = (s.core g).strikes + 1 ∧ t.mem = s.mem ∧
    (∀ i < 4, let cur := s.seq (4 * g + i); let q := t.seq (4 * g + i); let old := p.seqs.getD (4 * g + i) {}
      (¬ same i → q = cur) ∧
      (same i → q.pc = old.pc ∧ q.st = (if old.st.live then old.st else cur.st) ∧ q.masks = old.masks ∧ q.views = old.views ∧ q.acc = old.acc ∧ q.causes = cur.causes ∧
        (cur.redo = none → old.st.live = true → cur.st ∈ [.preempted, .faulted, .frozen, .calved] → q.redo = some (cur.issued, cur.st, cur.prev, cur.below)))) ∧
    ((∀ i < 4, same i) → (t.core g).regs = p.core.regs ∧
      ((∀ e ∈ p.core.mq ++ (s.core g).mq, coreOf e.seq = g) → p.core.mq.Pairwise (fun a b => a.id < b.id) → (t.core g).mq = p.core.mq) ∧
      ((∀ l ∈ (s.core g).ls, ∀ n, l.owner = some n → coreOf n = g) → (s.core g).ls.length = p.core.ls.length → (t.core g).ls = p.core.ls)) ∧
    (∀ h, h ≠ g → t.core h = s.core h) ∧ ∀ m, coreOf m ≠ g → t.seq m = s.seq m := by
  intro same ha
  refine ⟨_, strikeRollback_eq hissue ha, ?_⟩
  rw [htwin, Option.getD_none]
  have hcore := (strike_core_same (rollTo s g k) g).trans (by rw [rollTo_core_same hp])
  have hseq : ∀ n, (strike (rollTo s g k) g).seq n = (rollTo s g k).seq n := fun n => State.seq_modCore _ _ _ _
  refine ⟨by rw [hcore]; rfl, rollTo_mem hp, fun i hi => ⟨fun hne => ?_, fun he => ?_⟩, fun hall => ⟨?_, fun hmq hsorted => ?_, fun hls hlen => ?_⟩,
    fun h hh => (strike_core_other _ hh).trans (rollTo_core_other hp hh), fun m hm => ?_⟩
  · rw [hseq, rollTo_seq hp, if_neg (mt (mem_rolled_nth hi).mp hne)]
  · rw [hseq, rollTo_seq hp, if_pos ((mem_rolled_nth hi).mpr he)]
    exact ⟨rfl, rfl, rfl, rfl, rfl, rfl, redoOf_stopped⟩
  · rw [hcore]; exact rolledRegs_all hall
  · rw [hcore]; exact rolledCore_mq hall hmq hsorted
  · rw [hcore]; exact rolledCore_ls hall hls hlen
  · rw [hseq, rollTo_seq hp, if_neg fun h => hm (mem_rolled.mp h).1]

theorem strikeRollback_odd {s : State} {g k : Nat} {p : Snap} (hissue : s.issue = none) (htwin : (s.core (g + 1)).twinOf = some g)
    (hp : (s.hist.getD g [])[k]? = some p) : EventGives .strikeRollback [g + 1, k] s fun t =>
    (t.core (g + 1)).strikes = (s.core (g + 1)).strikes + 1 ∧ ∀ i < 4, (s.seq (4 * g + i)).epoch = (p.seqs.getD (4 * g + i) {}).epoch →
      (t.seq (4 * g + i)).pc = (p.seqs.getD (4 * g + i) {}).pc := by
  intro ha
  refine ⟨_, strikeRollback_eq hissue ha, ?_⟩
  rw [htwin, Option.getD_some]
  refine ⟨?_, fun i hi he => rollTo_seq_pc hp hi he⟩
  rw [strike_core_same, rollTo_core_other hp (by omega)]

/-! ### What a return keeps, whether its boundary is in the history or not -/

section
variable (s : State) (g k : Nat)

/-- A return counts no strike, settles no difference, takes no cause and changes no byte of memory. -/
theorem rollTo_keeps : (rollTo s g k).mem = s.mem ∧ (∀ h, ((rollTo s g k).core h).strikes = (s.core h).strikes ∧ ((rollTo s g k).core h).twin = (s.core h).twin) ∧
    ∀ n, ((rollTo s g k).seq n).causes = (s.seq n).causes := by
  cases hp : (s.hist.getD g [])[k]? with
  | none =>
    have hsame : rollTo s g k = s := by simp only [rollTo, hp]
    rw [hsame]
    exact ⟨rfl, fun _ => ⟨rfl, rfl⟩, fun _ => rfl⟩
  | some p =>
    refine ⟨rollTo_mem hp, fun h => ?_, rollTo_causes hp⟩
    by_cases hh : h = g
    · subst hh; rw [rollTo_core_same hp]; exact ⟨rfl, rfl⟩
    · rw [rollTo_core_other hp hh]; exact ⟨rfl, rfl⟩

end

/-! ### The effect that is discarded (spec/20 R388) -/

/-- No byte, no twin's list and no cause has changed. -/
def EffectGone (s t : State) : Prop :=
  SameBytes s t ∧ (∀ g, (t.core g).twin = (s.core g).twin) ∧ ∀ n, (t.seq n).causes = (s.seq n).causes

theorem EffectGone.trans {s t u : State} (h : EffectGone s t) (k : EffectGone t u) : EffectGone s u := by
  obtain ⟨hbytes, htwin, hcauses⟩ := h
  obtain ⟨kbytes, ktwin, kcauses⟩ := k
  exact ⟨hbytes.trans kbytes, fun g => (ktwin g).trans (htwin g), fun n => (kcauses n).trans (hcauses n)⟩
theorem EffectGone.refl (s : State) : EffectGone s s := ⟨.refl s, fun _ => rfl, fun _ => rfl⟩

theorem effectGone_modSeq (s : State) (n : Nat) {f : Seq → Seq} (h : ∀ q, (f q).causes = q.causes) : EffectGone s (s.modSeq n f) := by
  refine ⟨sameBytes_modSeq s n f, fun _ => rfl, fun m => ?_⟩
  by_cases hm : m = n
  · subst hm; rw [State.seq_modSeq_same, h]
  · rw [State.seq_modSeq_other _ _ _ _ hm]
theorem effectGone_modCore (s : State) (g : Nat) {f : Core → Core} (hr : ∀ c, (f c).regs = c.regs) (ht : ∀ c, (f c).twin = c.twin) :
    EffectGone s (s.modCore g f) := by
  refine ⟨sameBytes_modCore s g hr, fun h => ?_, fun _ => rfl⟩
  by_cases hh : h = g
  · subst hh; rw [State.core_modCore_same, ht]
  · rw [State.core_modCore_other _ _ _ _ hh]
theorem effectGone_rest {s t : State} (hmem : t.mem = s.mem) (hkey : t.keyOf = s.keyOf) (hcores : t.cores = s.cores) (hseqs : t.seqs = s.seqs) :
    EffectGone s t := by
  refine ⟨⟨hmem, hkey, fun g => ?_⟩, fun g => ?_, fun n => ?_⟩
  · simp only [State.core, hcores]
  · simp only [State.core, hcores]
  · simp only [State.seq, hseqs]

theorem lower_causes (q : Seq) (c : Ctr) : (q.lower c).causes = q.causes := by cases c <;> rfl

theorem effectGone_modBoth (s : State) (n : Nat) {f : Seq → Seq} (h : ∀ q, (f q).causes = q.causes) : EffectGone s (modBoth s n f) :=
  (effectGone_modSeq s n h).trans (effectGone_rest rfl rfl rfl rfl)

/-- A sequencer, or one of a snapshot, without the access `a` it has. -/
def withoutAcc (a : Access) (id : Nat) (q : Seq) : Seq :=
  if q.acc.any (fun x => x.id = id) then { q.lower a.kind.ctr with acc := q.acc.filter fun x => x.id ≠ id } else q
theorem withoutAcc_causes (a : Access) (id : Nat) (q : Seq) : (withoutAcc a id q).causes = q.causes := by
  unfold withoutAcc
  split
  · exact lower_causes q _
  · rfl

theorem finish_effectGone (s : State) (n id : Nat) : EffectGone s (finish s n id) := by
  unfold finish
  split
  · exact .refl s
  · next a _ => exact (effectGone_modBoth s n (withoutAcc_causes a id)).trans (effectGone_modSeq _ n fun _ => rfl)

/-- A sequencer without a command of its own, and with the counter of a copy or a command fallen. -/
def withoutWork (copy cmd : Bool) (q : Seq) : Seq :=
  let q := if cmd then { q with ae := { q.ae with cmd := none } } else q
  if copy || cmd then q.lower .xf else q
theorem withoutWork_causes (copy cmd : Bool) (q : Seq) : (withoutWork copy cmd q).causes = q.causes := by
  cases copy <;> cases cmd <;> rfl

theorem dropEffect_effectGone (s : State) (e : TwinEffect) : EffectGone s (dropEffect s e) := by
  have hfinished : EffectGone s (finish (dropRemote s e.id) e.seq e.id) :=
    (effectGone_rest rfl rfl rfl rfl : EffectGone s (dropRemote s e.id)).trans (finish_effectGone _ _ _)
  have hcopies := hfinished.trans (effectGone_modCore _ (coreOf e.seq) (f := fun c => { c with bte := c.bte.map fun ch => ch.filter fun x => x.id ≠ e.id })
    (fun _ => rfl) fun _ => rfl)
  have hwork := hcopies.trans (effectGone_modSeq _ e.seq
    (withoutWork_causes ((s.core (coreOf e.seq)).bte.flatten.any fun c => c.id = e.id) ((s.seq e.seq).ae.cmd.any fun c => c.id = e.id)))
  exact hwork.trans (effectGone_rest rfl rfl rfl rfl)

/-! ### Effects of twins compared (spec/20 R387, R388) -/

/-- Is an effect that of another one's bundle and slot. -/
def TwinEffect.sameAs (e x : TwinEffect) : Bool := x.pc = e.pc && x.slot = e.slot && x.held = e.held && x.seq = e.seq
theorem TwinEffect.sameAs_iff {e x : TwinEffect} : e.sameAs x = true ↔ x.pc = e.pc ∧ x.slot = e.slot ∧ x.held = e.held ∧ x.seq = e.seq := by
  simp [TwinEffect.sameAs, and_assoc]

/-- The state in which a difference is noted on both cores: a first one is remembered, one on re-execution is not. -/
def differs (s : State) (g : Nat) (e : TwinEffect) (again : Bool) : State :=
  (strike (strike s g) (g + 1)).modCore g fun c => { c with twin := if again then [] else c.twin ++ [{ e with repeated := true }] }

theorem differs_core_same (s : State) (g : Nat) (e : TwinEffect) (again : Bool) : (differs s g e again).core g =
    { s.core g with strikes := (s.core g).strikes + 1, twin := if again then [] else (s.core g).twin ++ [{ e with repeated := true }] } := by
  rw [differs, State.core_modCore_same, strike_core_other _ (by omega), strike_core_same]
theorem differs_core_twin (s : State) (g : Nat) (e : TwinEffect) (again : Bool) :
    (differs s g e again).core (g + 1) = { s.core (g + 1) with strikes := (s.core (g + 1)).strikes + 1 } := by
  rw [differs, State.core_modCore_other _ _ _ _ (by omega), strike_core_same, strike_core_other _ (by omega)]
theorem differs_sameBytes (s : State) (g : Nat) (e : TwinEffect) (again : Bool) : SameBytes s (differs s g e again) :=
  ((strike_sameBytes s g).trans (strike_sameBytes _ (g + 1))).trans (sameBytes_modCore _ g fun _ => rfl)

section
variable {s : State} {g id a v : Nat} {e : TwinEffect} (hissue : s.issue = none) (htwin : (s.core (g + 1)).twinOf = some g)
  (heff : twinEffect s g id = some e)
include hissue htwin heff

theorem twinCompare_agrees (haddr : a = e.addr) (hdata : v = e.data) : EventGives .twinCompare [g, id, a, v] s fun t =>
    t = { s with cores := t.cores } ∧ (∀ h, h ≠ g → t.core h = s.core h) ∧ t.core g = { s.core g with twin := (t.core g).twin } ∧
      ∀ x, x ∈ (t.core g).twin ↔ x ∈ (s.core g).twin ∧ ¬ (x.pc = e.pc ∧ x.slot = e.slot ∧ x.held = e.held ∧ x.seq = e.seq) := by
  intro ha
  have heq : exec .twinCompare s = .next (s.modCore g fun c => { c with twin := c.twin.filter fun t => !e.sameAs t }) := by
    refine (show exec .twinCompare s = execTwinCompare s from rfl).trans ?_
    simp only [execTwinCompare, State.arg_eq ha, List.getD_cons_zero, List.getD_cons_succ, heff, hissue, htwin, haddr, hdata]
    simp [TwinEffect.sameAs]
  refine ⟨_, heq, rfl, fun h hh => State.core_modCore_other _ _ _ _ hh, by rw [State.core_modCore_same], fun x => ?_⟩
  rw [State.core_modCore_same, List.mem_filter, ← TwinEffect.sameAs_iff]
  simp

section
variable (hne : a ≠ e.addr ∨ v ≠ e.data)
include hne

theorem twinCompare_differs_eq (ha : s.args = [g, id, a, v]) : exec .twinCompare s =
    .next (if (s.core g).twin.any e.sameAs then addCause (dropEffect (differs s g e true) e) e.seq
        { cause := .twinMismatch, addr := e.addr, aux := a, pc := some e.pc, slot := e.slot, held := e.held }
      else match boundaryBefore s g id with
        | some k => rollTo (differs s g e false) g k
        | none => differs s g e false) := by
  have hcond : (e.addr = a && e.data = v : Bool) = false := by
    rcases hne with h | h
    · simp [Ne.symm h]
    · simp [Ne.symm h]
  have hhist : ∀ again, boundaryBefore (differs s g e again) g id = boundaryBefore s g id := fun _ => rfl
  refine (show exec .twinCompare s = execTwinCompare s from rfl).trans ?_
  simp only [execTwinCompare, State.arg_eq ha, List.getD_cons_zero, List.getD_cons_succ, heff, hissue, htwin, hcond]
  have hany : (s.core g).twin.any (fun t => t.pc = e.pc && t.slot = e.slot && t.held = e.held && t.seq = e.seq) = (s.core g).twin.any e.sameAs := rfl
  have hfold : ((strike (strike s g) (g + 1)).modCore g fun c =>
      { c with twin := if (s.core g).twin.any e.sameAs then [] else c.twin ++ [{ e with repeated := true }] }) = differs s g e ((s.core g).twin.any e.sameAs) := rfl
  have harg : ∀ again, (differs s g e again).arg 2 = a := fun again => State.arg_eq (s := differs s g e again) ha 2
  rw [hany, hfold, hhist]
  cases (s.core g).twin.any e.sameAs <;> cases boundaryBefore s g id <;> simp [harg]

theorem twinCompare_firstDifference (hfirst : ∀ x ∈ (s.core g).twin, ¬ (x.pc = e.pc ∧ x.slot = e.slot ∧ x.held = e.held ∧ x.seq = e.seq)) :
    EventGives .twinCompare [g, id, a, v] s fun t =>
      (t.core g).strikes = (s.core g).strikes + 1 ∧ (t.core (g + 1)).strikes = (s.core (g + 1)).strikes + 1 ∧
      (t.core g).twin = (s.core g).twin ++ [{ e with repeated := true }] ∧ t.mem = s.mem ∧ (∀ m, (t.seq m).causes = (s.seq m).causes) ∧
      ∀ k p, boundaryBefore s g id = some k → (s.hist.getD g [])[k]? = some p →
        (∀ i < 4, (s.seq (4 * g + i)).epoch = (p.seqs.getD (4 * g + i) {}).epoch) →
          (t.core g).regs = p.core.regs ∧ ∀ i < 4, (t.seq (4 * g + i)).pc = (p.seqs.getD (4 * g + i) {}).pc := by
  intro ha
  have hagain : (s.core g).twin.any e.sameAs = false :=
    List.any_eq_false.mpr fun x hx => mt TwinEffect.sameAs_iff.mp (hfirst x hx)
  have heq := twinCompare_differs_eq hissue htwin heff hne ha
  rw [hagain, if_neg Bool.false_ne_true] at heq
  have hown := differs_core_same s g e false
  have hmate := differs_core_twin s g e false
  cases hb : boundaryBefore s g id with
  | none =>
    rw [hb] at heq
    exact ⟨_, heq, by rw [hown], by rw [hmate], by rw [hown]; rfl, (differs_sameBytes s g e false).1, fun _ => rfl, fun k p hk => absurd hk (by simp)⟩
  | some k =>
    rw [hb] at heq
    obtain ⟨hmem, hcores, hcauses⟩ := rollTo_keeps (differs s g e false) g k
    refine ⟨_, heq, by rw [(hcores g).1, hown], by rw [(hcores (g + 1)).1, hmate], by rw [(hcores g).2, hown]; rfl,
      hmem.trans (differs_sameBytes s g e false).1, hcauses, fun j p hj hp hall => ?_⟩
    cases hj
    have hp' : ((differs s g e false).hist.getD g [])[k]? = some p := hp
    exact ⟨by rw [rollTo_core_same hp']; exact rolledRegs_all (s := differs s g e false) hall, fun i hi => rollTo_seq_pc hp' hi (hall i hi)⟩

theorem twinCompare_repeatedDifference (hagain : ∃ x ∈ (s.core g).twin, x.pc = e.pc ∧ x.slot = e.slot ∧ x.held = e.held ∧ x.seq = e.seq) :
    EventGives .twinCompare [g, id, a, v] s fun t => (t.core g).twin = [] ∧
      OnlyCause s t e.seq { cause := .twinMismatch, addr := e.addr, aux := a, pc := some e.pc, slot := e.slot, held := e.held } := by
  intro ha
  have hany : (s.core g).twin.any e.sameAs = true := by
    obtain ⟨x, hx, hsame⟩ := hagain
    exact List.any_eq_true.mpr ⟨x, hx, TwinEffect.sameAs_iff.mpr hsame⟩
  have heq := twinCompare_differs_eq hissue htwin heff hne ha
  rw [hany, if_pos rfl] at heq
  obtain ⟨hbytes, htwins, hcauses⟩ := dropEffect_effectGone (differs s g e true) e
  refine ⟨_, heq, (htwins g).trans (by rw [differs_core_same]; rfl), ?_, fun m hm => ?_, ((differs_sameBytes s g e true).trans hbytes).trans (sameBytes_modSeq _ _ _)⟩
  · rw [addCause, State.seq_modSeq_same]
    exact congrArg (· ++ _) (hcauses e.seq)
  · rw [addCause, State.seq_modSeq_other _ _ _ _ hm]
    exact hcauses m

end
end

end Sys2Proof.Machine
end

section
/-! PROOF. Contexts run. -/
namespace Sys2Proof.Machine
open Sys2Proof

/-- Settles O57: the events at a boundary, stops that count, saves and resumes, the commands, and strikes and twins, each by
the lemma for its case. -/
theorem contextsRun : Obligations.ContextsRun := by
  unfold Obligations.ContextsRun
  refine ⟨?illegal, ?cause, ?uli, ?stopped, ?budget, ?preempted, ?save, ?restore, ?resume, ?kill, ?dump, ?strike, ?odd, ?compare⟩
  case illegal =>
    intro s k p hi ev x hev
    simp only [List.mem_cons, Prod.mk.injEq, List.not_mem_nil, or_false] at hev
    rcases hev with ⟨rfl, rfl⟩ | ⟨rfl, rfl⟩
    · exact illegalBundle_raises hi
    · exact illegalInstruction_raises hi
  case cause =>
    exact fun s n c x rest hcauses hctx hstate hst hissue hfirst hdue hredo hn hd hw =>
      trapAtBoundary_taken hcauses hctx hstate hst hissue hfirst hdue hredo hn hd hw
  case uli => exact fun s n b hb hlive hcauses hhalt hissue hdue => uliEntry_enters hb hlive hcauses hhalt hissue hdue
  case stopped => exact fun s c x hst hquiet hlive hsegs hx hlen _ => contextStopped_gives hst hquiet hlive hsegs hx hlen
  case budget =>
    exact fun s n T hstop hreq hlive hissue hw => ⟨prebudExpiry_expired hstop hreq hlive hissue hw, prebudExpiry_within hstop⟩
  case preempted => exact fun s c T hstop hst hover hquiet hfreeze hseqs => preemptStopped_gives hstop hst hover hquiet hfreeze hseqs
  case save =>
    intro s c x l e hx hst htask hfreeze hlive
    subst hx
    exact ⟨contextSaveComplete_saves hst hfreeze hlive htask, contextSaveComplete_kills hst hfreeze hlive⟩
  case restore =>
    intro s c x v l hx hst hclean hserving hleader hwanted hsaved
    subst hx
    exact ⟨preemptedResume_restores hst hclean hserving hleader hwanted hsaved, preemptedResume_waits hst hclean hserving hleader hwanted hsaved⟩
  case resume =>
    exact fun s f c h hopen => ⟨ctxResume_notStopped h hopen, ctxResume_lost h hopen, ctxResume_inPlace h hopen⟩
  case kill => exact fun s f c h hopen hkill => ctxKill_kills h hopen hkill
  case dump =>
    exact fun s f c x e h hopen hst hlive =>
      ⟨dumpBytes_mark s c, fun hsegs hx hlen _ => ctxDump_stores h hopen hst hlive hsegs hx hlen, ctxDump_fails h hopen hst hlive⟩
  case strike => exact fun s g k p hissue htwin hp => strikeRollback_single hissue htwin hp
  case odd => exact fun s g k p hissue htwin hp => strikeRollback_odd hissue htwin hp
  case compare =>
    exact fun s g id a v e hissue htwin heff => ⟨twinCompare_agrees hissue htwin heff,
      fun hne => ⟨twinCompare_firstDifference hissue htwin heff hne, twinCompare_repeatedDifference hissue htwin heff hne⟩⟩

end Sys2Proof.Machine
end

section
/-! SUPPORT. Immediates with their extension, and checks of a single condition. -/
namespace Sys2Proof.Machine
open Sys2Proof

/-! ### Immediates with their extension (spec/02 R34) -/

theorem immWide_snd (k : Issue) (w f : Nat) : (immWide k w f).2 = (k.ext.elim 0 (·.toNat)) * 2 ^ w + f := by
  cases h : k.ext <;> simp [immWide, h]

/-! ### A slot's only check (spec/02 R442) -/

theorem need_true {ok : Bool} {c : Cause} {flags : Nat} (h : ok = true) : need ok c flags = none := by simp [need, h]
theorem need_false {ok : Bool} {c : Cause} {flags : Nat} (h : ok = false) : need ok c flags = some { cause := c, flags := flags } := by simp [need, h]
theorem allPass_singleton {x : Option Trap} (h : x = none) : AllPass [x] := by simp [AllPass, h]

end Sys2Proof.Machine
end

section
/-! PROOF. What the write of a scalar, of a vector and of a mask changes, and what it leaves. -/
namespace Sys2Proof.Machine
open Sys2Proof

/-! ### Window bytes written, and all else (spec/09 R188) -/

section
variable (s : State) (n off len v : Nat)

@[simp] theorem State.writeWin_issue : (s.writeWin n off len v).issue = s.issue := by
  unfold State.writeWin; dsimp only; split <;> rfl
/-- The cores after a write of window bytes: only registers of the sequencer's own one differ. -/
theorem State.writeWin_cores : (s.writeWin n off len v).cores =
    (s.modCore (coreOf n) fun c => { c with regs := c.regs.write ((s.seq n).winBase + off) len v }).cores := by
  unfold State.writeWin; dsimp only; split <;> rfl
theorem State.writeWin_frame : s.writeWin n off len v =
    { s with cores := (s.writeWin n off len v).cores, poison := (s.writeWin n off len v).poison } := by
  unfold State.writeWin; dsimp only; split <;> rfl
theorem State.writeWin_core_same : (s.writeWin n off len v).core (coreOf n) =
    { s.core (coreOf n) with regs := (s.core (coreOf n)).regs.write ((s.seq n).winBase + off) len v } := by
  rw [State.core, State.writeWin_cores]; exact State.core_modCore_same s _ _
theorem State.writeWin_core_other {g : Nat} (h : g ≠ coreOf n) : (s.writeWin n off len v).core g = s.core g := by
  rw [State.core, State.writeWin_cores]; exact State.core_modCore_other s _ _ g h
/-- A write poisons nothing. -/
theorem State.writeWin_poison : ∀ p ∈ (s.writeWin n off len v).poison, p ∈ s.poison := by
  unfold State.writeWin; dsimp only; split
  · exact fun p hp => hp
  · exact fun p hp => (List.mem_filter.1 hp).1

end

/-- From `s` to `t` the slot has written the `len` window bytes at `off` of its sequencer, and noted `d`. -/
def WritesWindow (s t : State) (k : Issue) (off len v : Nat) (d : Dest) : Prop :=
  let a := (s.seq k.n).winBase + off
  (t.core (coreOf k.n)).regs.readNat a len = v ∧
  (∀ x, x < a ∨ a + len ≤ x → (t.core (coreOf k.n)).regs.get x = (s.core (coreOf k.n)).regs.get x) ∧
  (∀ g, g ≠ coreOf k.n → t.core g = s.core g) ∧
  t = { s with cores := t.cores, poison := t.poison, issue := t.issue } ∧ Notes s t k d ∧
  t.core (coreOf k.n) = { s.core (coreOf k.n) with regs := (t.core (coreOf k.n)).regs } ∧
  (∀ p ∈ t.poison, p ∈ s.poison)

/-- A slot's write of as many window bytes as its value has. -/
theorem wb_writesWindow (s : State) (k : Issue) (off len : Nat) (v : BitVec (8 * len)) :
    WritesWindow s (s.wb k off len v.toNat) k off len v.toNat (.bytes off len) := by
  have hcore : ∀ g, (s.wb k off len v.toNat).core g = (s.writeWin k.n off len v.toNat).core g := fun g => State.core_modIssue _ _ g
  refine ⟨?value, ?bytes, ?cores, ?frame, ?notes, ?core, State.writeWin_poison s k.n off len v.toNat⟩
  case value => rw [hcore, State.writeWin_regs, mem_readNat_write_same, Nat.mod_eq_of_lt v.isLt]
  case bytes => intro x hx; rw [hcore, State.writeWin_regs, mem_get_write_other _ _ _ _ _ hx]
  case cores => intro g hg; rw [hcore, State.writeWin_core_other _ _ _ _ _ hg]
  case frame =>
    exact congrArg (fun t : State => { t with issue := (s.wb k off len v.toNat).issue }) (State.writeWin_frame s k.n off len v.toNat)
  case notes => simp [Notes, State.wb, State.note, State.modIssue]
  case core => rw [hcore, State.writeWin_core_same]

/-! ### Scalars by destination (spec/04 R65, spec/20 R380) -/

section
variable {s : State} {k : Issue} {r : Reg} {v : Word}

theorem State.ws_zero : s.ws k 0 v = s := by rw [State.ws, if_pos rfl]
theorem State.ws_shadow (h0 : r ≠ 0) (hh : k.before.inHandler = true) (hr : r.toNat < 16) :
    s.ws k r v = (s.modSeq k.n fun q => { q with shadow := q.shadow.set r.toNat v }).note k (.shadow r.toNat) := by
  rw [State.ws, if_neg h0, if_pos (by simp [hh, hr])]
theorem State.ws_window (h0 : r ≠ 0) (hh : ¬ (k.before.inHandler = true ∧ r.toNat < 16)) :
    s.ws k r v = s.wb k ((viewAt k.before 0).base + 8 * r.toNat) 8 v.toNat := by
  simp only [State.ws, h0, if_false, Bool.and_eq_true, decide_eq_true_eq, hh, elemOff, Nat.mul_comm]
theorem scalarDest_window (h0 : r ≠ 0) (hh : ¬ (k.before.inHandler = true ∧ r.toNat < 16)) :
    scalarDest k r = .bytes ((viewAt k.before 0).base + 8 * r.toNat) 8 := by
  simp only [scalarDest, h0, if_false, Bool.and_eq_true, decide_eq_true_eq, hh, elemOff, Nat.mul_comm]

end

/-- A vector result is a write of 512 window bytes. -/
theorem State.wv_eq (s : State) (k : Issue) (w : Nat) (r : Reg) (v : Vec) :
    s.wv k w r v = s.wb k ((viewAt k.before w).base + 512 * r.toNat) 512 v.toNat := by
  simp only [State.wv, elemOff, Nat.mul_comm]

/-- Settles O13: s0, a handler's shadow scalar, or eight window bytes. -/
theorem scalarWriteFrame : Obligations.ScalarWriteFrame := by
  unfold Obligations.ScalarWriteFrame
  intro s k r v
  refine ⟨?zero, ?shadow, ?window⟩
  case zero => rintro rfl; exact State.ws_zero
  case shadow =>
    intro h0 hh hr
    rw [State.ws_shadow h0 hh hr]
    exact ⟨rfl, rfl⟩
  case window =>
    intro h0 hh
    have h := wb_writesWindow s k ((viewAt k.before 0).base + 8 * r.toNat) 8 v
    rwa [WritesWindow, ← Nat.add_assoc, ← State.ws_window h0 hh, ← scalarDest_window h0 hh] at h

/-- Settles O14: 512 window bytes, and an item of the mask file. -/
theorem vectorWriteFrame : Obligations.VectorWriteFrame := by
  unfold Obligations.VectorWriteFrame
  intro s k
  refine ⟨?vec, ?mask⟩
  case vec =>
    intro w r v
    obtain ⟨hvalue, hbytes, hcores, hframe, hnotes, -⟩ := wb_writesWindow s k ((viewAt k.before w).base + 512 * r.toNat) 512 v
    rw [← Nat.add_assoc] at hvalue hbytes
    rw [State.wv_eq]
    exact ⟨hvalue, hbytes, hcores, hframe, hnotes⟩
  case mask =>
    intro m v hlen
    have hm : m.toNat < (s.seq k.n).masks.length := hlen ▸ m.isLt
    have hseq : ((s.wk k m v).seq k.n).masks = (s.seq k.n).masks.set m.toNat v := congrArg Seq.masks (State.seq_modSeq_same s k.n _)
    rw [hseq]
    refine ⟨by simp [hm], fun j hj => List.getElem?_set_ne hj.symm, fun n hn => State.seq_modSeq_other s k.n _ n hn, rfl⟩

end Sys2Proof.Machine
end

section
/-! PROOF. Levels of the loop stack. -/
namespace Sys2Proof.Machine
open Sys2Proof

/-! ### The checks of a push (spec/06 R103, spec/04 R68) -/

/-- A loop that ends at `stop` keeps to R103: its end is a bundle start at or past its body, its body starts on a multiple of
16, and it nests in the innermost level. -/
def Nests (s : State) (k : Issue) (stop : Nat) : Prop :=
  bundleStart (s.core (coreOf k.n)) stop = true ∧ k.next ≤ stop ∧ k.next % 16 = 0 ∧
    ∀ l, k.before.loops.head? = some l → k.pc ≠ l.stop ∧ stop ≤ l.stop

section
variable {s : State} {k : Issue}

theorem loopTrap_none {stop : Nat} (h : Nests s k stop) : loopTrap s k stop = none := by
  obtain ⟨hstart, hpast, hbody, hinner⟩ := h
  have hend : (decide (stop < k.next) || !bundleStart (s.core (coreOf k.n)) stop) = false := by simp [hstart, hpast]
  simp only [loopTrap, hend, hbody]
  cases hl : k.before.loops with
  | nil => simp
  | cons l t =>
    obtain ⟨hpc, hstop⟩ := hinner l (by rw [hl, List.head?_cons])
    simp [hpc, hstop]

/-- A bundle that is no spliced loop head has no ports to match. -/
theorem weltTrap_none (h : weltHead s k = []) : weltTrap s k = none := by simp [weltTrap, h]

theorem targetTrap_start {t : Word} (h : bundleStart (s.core (coreOf k.n)) t.toNat = true) : targetTrap s k t = none := if_pos h

theorem bundleStart_lt {c : Core} {a : Nat} (h : bundleStart c a = true) : a < 2 ^ 64 :=
  let ⟨_, hlt, _⟩ := (bundleStart_iff c a).1 h
  hlt.trans (by decide)

section
variable {names reads : List Name} {count stop : Issue → Nat}

/-- A loop that nests and has iterations to make pushes its level. -/
theorem loopPush_pushes (hop : Operable s k names reads) (hn : Nests s k (stop k)) (hw : weltHead s k = []) (hc : 0 < count k)
    (hd : k.before.loops.length < 6) :
    loopPush s names reads count stop = s.modSeq k.n fun q => { q with loops := ⟨count k, stop k, k.next⟩ :: q.loops } := by
  have hc0 : count k ≠ 0 := hc.ne'
  refine Eq.trans (slot_effect hop ?ready ?early rfl rfl ?checks rfl) (if_neg hc0)
  case ready => simp [hw]
  case early => simp [loopTrap_none hn, hc0]
  case checks => simp [AllPass, weltTrap_none hw, need, hd]

/-- A loop that nests but has no iteration to make goes on past its end bundle. -/
theorem loopPush_skips (hop : Operable s k names reads) (hn : Nests s k (stop k)) (hw : weltHead s k = []) (hc : count k = 0)
    (ha : bundleStart (s.core (coreOf k.n)) (bundleAfter (s.core (coreOf k.n)) 8 (stop k)) = true) :
    loopPush s names reads count stop = goesTo s (BitVec.ofNat 64 (bundleAfter (s.core (coreOf k.n)) 8 (stop k))) := by
  refine Eq.trans (slot_effect hop ?ready ?early rfl rfl ?checks rfl) (if_pos hc)
  case ready => simp [hw]
  case early =>
    have hword : (loopSkip s k (stop k)).toNat = bundleAfter (s.core (coreOf k.n)) 8 (stop k) :=
      Nat.mod_eq_of_lt (bundleStart_lt ha)
    simp [loopTrap_none hn, hc, targetTrap_start (hword.symm ▸ ha)]
  case checks => simp [AllPass, weltTrap_none hw, need, hc]

end
end

/-! ### Breaks (spec/06 R105) -/

theorem lbrkTarget_eq (k : Issue) (off : BitVec 17) : lbrkTarget k off = BitVec.ofNat 64 k.pc + 4 * off.signExtend 64 := by
  rw [lbrkTarget, BitVec.ofInt_add, BitVec.ofInt_mul, BitVec.ofInt_natCast]; rfl

/-! ### The end check (spec/06 R104) -/

section
variable {pc c start : Nat} {l : Loop} {rest : List Loop}

theorem loopEnd_elsewhere (h : l.stop ≠ pc) : loopEnd pc (l :: rest) = (none, l :: rest) := if_pos h
/-- A level with more than one iteration left goes back to its start. -/
theorem loopEnd_again (h : 1 < c) : loopEnd pc (⟨c, pc, start⟩ :: rest) = (some start, ⟨c - 1, pc, start⟩ :: rest) := by
  simp [loopEnd, h]
/-- A level with its last iteration is popped, and the levels around it are checked. -/
theorem loopEnd_last : loopEnd pc (⟨1, pc, start⟩ :: rest) = loopEnd pc rest := by simp [loopEnd]
theorem loopEnd_head (h : ∀ r, rest.head? = some r → r.stop ≠ pc) : loopEnd pc rest = (none, rest) := by
  cases rest with
  | nil => rfl
  | cons r t => exact loopEnd_elsewhere (h r rfl)

/-- After `j` passes of its end bundle a level has `j` iterations fewer left. -/
theorem loopEnd_iterate {j : Nat} (h : j < c) :
    Nat.iterate (fun x => (loopEnd pc x).2) j (⟨c, pc, start⟩ :: rest) = ⟨c - j, pc, start⟩ :: rest := by
  induction j with
  | zero => rfl
  | succ j ih =>
    rw [Function.iterate_succ_apply', ih (by omega), loopEnd_again (by omega)]
    rfl

end

/-- Settles O25: pushes and skips, `lbrk`, `lidx`, and the end check. -/
theorem loopLevels : Obligations.LoopLevels := by
  unfold Obligations.LoopLevels
  refine ⟨?push, ?skip, ?lbrk, ?lidx, fun pc l rest h => loopEnd_elsewhere h, ?iterations⟩
  case push =>
    intro s k count stop hstart hpast hbody hinner hw hc hd
    have hn : Nests s k stop := ⟨hstart, hpast, hbody, hinner⟩
    refine ⟨fun c off hop hcount hstop => ?_, fun n off hi hcount hstop => ?_⟩
    · rw [← immWide_snd] at hstop
      subst hcount hstop
      exact congrArg Host.Outcome.next (loopPush_pushes hop hn hw hc hd)
    · rw [← immWide_snd] at hcount
      subst hcount hstop
      exact congrArg Host.Outcome.next (loopPush_pushes (operable_nil hi) hn hw hc hd)
  case skip =>
    intro s k stop hstart hpast hbody hinner hw hafter c off hop hcount hstop
    rw [← immWide_snd] at hstop
    subst hstop
    exact congrArg Host.Outcome.next (loopPush_skips hop ⟨hstart, hpast, hbody, hinner⟩ hw hcount hafter)
  case lbrk =>
    intro s k n off hi hstart hlevels
    rw [← lbrkTarget_eq] at hstart ⊢
    refine congrArg Host.Outcome.next (slot_effect (operable_nil hi) rfl ?early rfl rfl ?checks rfl)
    case early => exact (if_pos hlevels).trans (targetTrap_start hstart)
    case checks => exact allPass_singleton (need_true (decide_eq_true hlevels))
  case lidx =>
    intro s k d j hop
    refine congrArg Host.Outcome.next ((slot_effect hop rfl rfl rfl rfl allPass_nil rfl).trans ?_)
    rw [List.getElem?_map]
    cases k.before.loops[j.toNat]? <;> rfl
  case iterations =>
    intro pc c start rest _ hrest
    refine ⟨fun j hj => ⟨loopEnd_iterate (by omega), ?_⟩, loopEnd_last.trans (loopEnd_head hrest)⟩
    rw [loopEnd_again (by omega)]

end Sys2Proof.Machine
end

section
/-! PROOF. The FMT shadow: a write lands with the fifth bundle, and its queue stays short. -/
namespace Sys2Proof.Machine
open Sys2Proof

/-! ### Flags raised and cleared in [31:24], control fields below (spec/04 R72) -/

section
variable {b : Nat} {f v : BitVec 32} {flags : Nat}

/-- Raising flags changes no bit below them. -/
theorem orFlags_low : (orFlags f flags).toNat % 2 ^ 24 = f.toNat % 2 ^ 24 := by
  have hflags : flags % 256 * 2 ^ 24 % 2 ^ 32 % 2 ^ 24 = 0 := by omega
  rw [orFlags, BitVec.toNat_or, BitVec.toNat_ofNat, Nat.or_mod_two_pow, hflags, Nat.or_zero]

theorem orFlags_flag (hlo : 24 ≤ b) (hhi : b < 32) : (orFlags f flags).getLsbD b = (f.getLsbD b || flags.testBit (b - 24)) := by
  have hb : b - 24 < 8 := by omega
  rw [orFlags, BitVec.getLsbD_or, BitVec.getLsbD_ofNat, Nat.testBit_mul_two_pow, show (256 : Nat) = 2 ^ 8 from rfl, Nat.testBit_mod_two_pow]
  simp [hlo, hhi, hb]

theorem landFmt_toNat : (landFmt f v).toNat = 2 ^ 24 * (f.toNat / 2 ^ 24 &&& (255 - v.toNat / 2 ^ 24)) + v.toNat % 2 ^ 20 / 8 * 8 := by
  have hflags : (f.toNat / 2 ^ 24 &&& (255 - v.toNat / 2 ^ 24)) ≤ 255 := Nat.and_le_right.trans (Nat.sub_le _ _)
  rw [landFmt, BitVec.toNat_ofNat]
  omega

theorem landFmt_low : (landFmt f v).toNat % 2 ^ 24 = v.toNat % 2 ^ 20 / 8 * 8 := by
  rw [landFmt_toNat, Nat.mul_add_mod]
  omega

/-- A write that lands clears the flags that it writes as one. -/
theorem landFmt_flag (hlo : 24 ≤ b) (hhi : b < 32) : (landFmt f v).getLsbD b = (f.getLsbD b && !v.getLsbD b) := by
  have hb : b - 24 < 8 := by omega
  have hfield : v.toNat % 2 ^ 20 / 8 * 8 < 2 ^ 24 := by omega
  have hones : 255 - v.toNat / 2 ^ 24 = 2 ^ 8 - (v.toNat / 2 ^ 24 + 1) := by omega
  have hv : v.toNat / 2 ^ 24 < 2 ^ 8 := by omega
  rw [← BitVec.testBit_toNat, landFmt_toNat, Nat.testBit_two_pow_mul_add _ hfield, if_neg (by omega), Nat.testBit_and, hones,
    Nat.testBit_two_pow_sub_succ hv, Nat.testBit_div_two_pow, Nat.testBit_div_two_pow, Nat.sub_add_cancel hlo]
  simp [hb, BitVec.testBit_toNat]

end

/-! ### One write on its way -/

section
variable {k : Bank} {v : BitVec 32} {flags c : Nat}

theorem shadowTick_enters (h : k.shadow = []) :
    shadowTick k (some v) flags = { k with fmt := orFlags k.fmt flags, shadow := [⟨v, 4⟩] } := by
  simp [shadowTick, h, landAll]
theorem shadowTick_counts (h : k.shadow = [⟨v, c + 2⟩]) :
    shadowTick k none flags = { k with fmt := orFlags k.fmt flags, shadow := [⟨v, c + 1⟩] } := by
  simp [shadowTick, h, landAll]
theorem shadowTick_lands (h : k.shadow = [⟨v, 1⟩]) :
    shadowTick k none flags = { k with fmt := landFmt (orFlags k.fmt flags) v, shadow := [] } := by
  simp [shadowTick, h, landAll]

end

/-! ### The queue (spec/04 R72) -/

/-- Counts of the queue rise, from `lo` on and up to `hi`. -/
def Rising (lo hi : Nat) (l : List FmtWrite) : Prop :=
  l.Pairwise (fun x y => x.count < y.count) ∧ ∀ e ∈ l, lo ≤ e.count ∧ e.count ≤ hi

section
variable {l : List FmtWrite} {lo hi : Nat}

theorem Rising.down (h : Rising (lo + 1) (hi + 1) l) : Rising lo hi (l.map fun e => { e with count := e.count - 1 }) := by
  obtain ⟨hrise, hrange⟩ := h
  refine ⟨List.pairwise_map.2 (hrise.imp_of_mem fun {x y} hx hy hlt => ?_), List.forall_mem_map.2 fun e he => ?_⟩
  · have := hrange x hx
    show x.count - 1 < y.count - 1
    omega
  · have := hrange e he
    show lo ≤ e.count - 1 ∧ e.count - 1 ≤ hi
    omega

theorem Rising.mono {hi' : Nat} (h : Rising lo hi l) (hle : hi ≤ hi') : Rising lo hi' l :=
  ⟨h.1, fun e he => ⟨(h.2 e he).1, (h.2 e he).2.trans hle⟩⟩

/-- A write that enters counts more than those before it. -/
theorem Rising.enter (h : Rising lo hi l) (hle : lo ≤ hi) (v : BitVec 32) : Rising lo (hi + 1) (l ++ [⟨v, hi + 1⟩]) := by
  obtain ⟨hrise, hrange⟩ := h.mono (Nat.le_succ hi)
  refine ⟨List.pairwise_append.2 ⟨hrise, List.pairwise_singleton _ _, fun x hx y hy => ?_⟩, fun e he => ?_⟩
  · rw [List.mem_singleton.1 hy]
    exact Nat.lt_succ_of_le (h.2 x hx).2
  · rcases List.mem_append.1 he with he | he
    · exact hrange e he
    · rw [List.mem_singleton.1 he]
      exact ⟨hle.trans (Nat.le_succ hi), le_rfl⟩

/-- What has not landed still counts. -/
theorem Rising.landAll (h : Rising 0 hi l) (f : BitVec 32) : Rising 1 hi (landAll f l).2 := by
  induction l generalizing f with
  | nil => exact ⟨List.Pairwise.nil, by simp [Machine.landAll]⟩
  | cons e t ih =>
    obtain ⟨hrise, hrange⟩ := h
    obtain ⟨hfirst, hrest⟩ := List.pairwise_cons.1 hrise
    obtain ⟨hhead, htail⟩ := List.forall_mem_cons.1 hrange
    by_cases hz : e.count = 0
    · rw [Machine.landAll, if_pos hz]
      exact ih ⟨hrest, htail⟩ _
    · rw [Machine.landAll, if_neg hz]
      exact ⟨hrise, List.forall_mem_cons.2 ⟨⟨Nat.pos_of_ne_zero hz, hhead.2⟩, fun x hx =>
        ⟨Nat.zero_lt_of_lt (hfirst x hx), (htail x hx).2⟩⟩⟩

/-- A queue has no more writes than its counts have values. -/
theorem Rising.length_le (h : Rising 1 hi l) : l.length ≤ hi := by
  obtain ⟨hrise, hrange⟩ := h
  have hnodup : (l.map (·.count)).Nodup := List.pairwise_map.2 (hrise.imp Nat.ne_of_lt)
  have hsub : (l.map (·.count)).toFinset ⊆ Finset.Icc 1 hi := fun c hc => by
    obtain ⟨e, he, rfl⟩ := List.mem_map.1 (List.mem_toFinset.1 hc)
    exact Finset.mem_Icc.2 (hrange e he)
  simpa [List.toFinset_card_of_nodup hnodup] using Finset.card_le_card hsub

/-- A bundle keeps the queue in order, whether it writes FMT or not. -/
theorem shadowTick_rising {k : Bank} (h : Rising 1 4 k.shadow) (wrote : Option (BitVec 32)) (flags : Nat) :
    Rising 1 4 (shadowTick k wrote flags).shadow := by
  have hdown : Rising 0 3 (k.shadow.map fun e => { e with count := e.count - 1 }) := h.down
  cases wrote with
  | none => exact Rising.landAll (by simpa using hdown.mono (by decide)) _
  | some v => exact (hdown.enter (by decide) v).landAll _

end

/-- Settles O28: one write followed through five bundles, and the order of the queue. -/
theorem fmtShadow : Obligations.FmtShadow := by
  unfold Obligations.FmtShadow
  refine ⟨?lands, ?queue⟩
  case lands =>
    intro k v f0 f1 f2 f3 f4 h
    dsimp only
    rw [shadowTick_enters h, shadowTick_counts rfl, shadowTick_counts rfl, shadowTick_counts rfl, shadowTick_lands rfl]
    refine ⟨by simp only [List.forall_mem_cons, orFlags_low]; simp, landFmt_low, rfl, fun b hlo hhi => ?_⟩
    simp only [landFmt_flag hlo hhi, orFlags_flag hlo hhi, Nat.testBit_or, Bool.and_comm, Bool.or_assoc]
  case queue =>
    intro k w f hrise hrange
    have h := shadowTick_rising ⟨hrise, hrange⟩ w f
    exact ⟨h.1, h.2, h.length_le, rfl⟩

end Sys2Proof.Machine
end

section
/-! PROOF. Control registers, and the instructions that trap. -/
namespace Sys2Proof.Machine
open Sys2Proof

/-! ### Allowed and forbidden registers (spec/04 R75) -/

section
variable {s : State} {k : Issue}

theorem writableReg_iff {n : BitVec 8} : writableReg n.toNat = true ↔ n ∈ [0x05, 0x06, 0x07, 0x08, 0x0E, 0x15] := by
  simp [writableReg, ← BitVec.toNat_inj, or_assoc]

/-- A register that is not marked FW is read as it stood before the bundle. -/
theorem execCrd_reads {d : Reg} {n : BitVec 8} {v : Nat} (h : Operable s k (snames [d]) []) (hn : firmwareReg n.toNat = false)
    (hv : readCreg s k n.toNat = v) : execCrd d n s = .next (s.ws k d (BitVec.ofNat 64 v)) := by
  subst hv
  exact congrArg Host.Outcome.next (slot_effect h rfl rfl rfl rfl (allPass_singleton (need_true (by rw [hn]; rfl))) rfl)

theorem execCrd_firmware {d : Reg} {n : BitVec 8} (h : Operable s k (snames [d]) []) (hn : firmwareReg n.toNat = true) :
    execCrd d n s = .next (s.raise 4 { cause := .permission }) :=
  congrArg Host.Outcome.next (slot_checks h rfl rfl rfl rfl (by rw [need_false (by rw [hn]; rfl)]; rfl))

theorem execCwr_writes {a : Reg} {n : BitVec 8} (h : Operable s k (snames [a]) (snames [a])) (hn : writableReg n.toNat = true) :
    execCwr n a s = .next (writeCreg s k n.toNat (k.rs a)) :=
  congrArg Host.Outcome.next (slot_effect h rfl rfl rfl rfl (allPass_singleton (need_true hn)) rfl)

theorem execCwr_readOnly {a : Reg} {n : BitVec 8} (h : Operable s k (snames [a]) (snames [a])) (hn : writableReg n.toNat = false) :
    execCwr n a s = .next (s.raise 4 { cause := .permission }) :=
  congrArg Host.Outcome.next (slot_checks h rfl rfl rfl rfl (by rw [need_false hn]; rfl))

/-! ### Values of the registers (spec/04 R74) -/

section
variable (hctx : k.before.ctx.isSome = true)
include hctx

theorem readCreg_seqid : readCreg s k 0x00 = s.sys.modid * 2048 + twinSeq s k.n := by simp [readCreg, cregOf, hctx, seqId]
theorem readCreg_kernid : readCreg s k 0x04 = (kernelAt (s.ctxOf k.n) k.pc).1 := by simp [readCreg, cregOf, hctx]
theorem readCreg_weltspl : readCreg s k 0x18 = (s.func (s.ctxOf k.n).func).weltspl.toNat := by simp [readCreg, cregOf, hctx]
theorem readCreg_weltref : readCreg s k 0x19 = (s.func (s.ctxOf k.n).func).weltref.toNat := by simp [readCreg, cregOf, hctx]
end

/-- The view registers. -/
theorem readCreg_view {w : Nat} (hw : w < 8) :
    readCreg s k (0x20 + w) = (viewAt k.before w).size * 2 ^ 32 + (viewAt k.before w).base := by
  interval_cases w <;> rfl

end

/-- Settles O29: reads by the table of R74, writes by `writeCreg`. -/
theorem controlRegisters : Obligations.ControlRegisters := by
  unfold Obligations.ControlRegisters
  refine ⟨?read, ?view, ?write⟩
  case read =>
    intro s k d hop hctx
    have row : ∀ {n : BitVec 8} {v : Nat}, firmwareReg n.toNat = false → readCreg s k n.toNat = v →
      exec (.crd d n) s = .next (s.ws k d (BitVec.ofNat 64 v)) := fun hn hv => execCrd_reads hop hn hv
    simp only [List.forall_mem_cons, List.not_mem_nil, false_imp_iff, implies_true, and_true]
    exact ⟨row rfl (readCreg_seqid hctx), row rfl rfl, row rfl rfl, row rfl rfl, row rfl (readCreg_kernid hctx), row rfl rfl,
      row rfl rfl, row rfl rfl, row rfl rfl, row rfl rfl, row rfl rfl, row rfl rfl, row rfl rfl, row rfl rfl, row rfl rfl,
      row rfl rfl, row rfl rfl, row rfl rfl, row rfl rfl, row rfl rfl, row rfl rfl, row rfl rfl,
      row rfl (readCreg_weltspl hctx), row rfl (readCreg_weltref hctx), row rfl rfl⟩
  case view =>
    intro s k d hop w hw
    have hn : (BitVec.ofNat 8 (0x20 + w)).toNat = 0x20 + w := by rw [BitVec.toNat_ofNat]; omega
    have hfree : firmwareReg (0x20 + w) = false := by simp [firmwareReg]; omega
    exact execCrd_reads hop (hn.symm ▸ hfree) (hn.symm ▸ readCreg_view hw)
  case write =>
    intro s k a hop
    exact ⟨execCwr_writes hop rfl, execCwr_writes hop rfl, execCwr_writes hop rfl, execCwr_writes hop rfl,
      execCwr_writes hop rfl, execCwr_writes hop rfl⟩

/-! ### Traps of a program (spec/06 R111, R112, spec/20 R381) -/

/-- Settles O30: a failing check raises its trap, and `trap` and `uret` take place after their bundle. -/
theorem trapInstructions : Obligations.TrapInstructions := by
  unfold Obligations.TrapInstructions
  refine ⟨?ctrap, ?trap, ?uret, ?firmware, ?readOnly⟩
  case ctrap =>
    intro s k a b hop
    refine ⟨fun heq => ?_, fun hne => ?_⟩
    · exact congrArg Host.Outcome.next (slot_effect hop rfl rfl rfl rfl (allPass_singleton (if_pos heq)) rfl)
    · exact congrArg Host.Outcome.next (slot_checks hop rfl rfl rfl rfl (by rw [if_neg hne]; rfl))
  case trap =>
    intro s k c hi
    rw [← immWide_snd]
    exact congrArg Host.Outcome.next (slot_effect (operable_nil hi) rfl rfl rfl rfl allPass_nil rfl)
  case uret =>
    intro s k hi
    refine ⟨fun hin => ?_, fun hout => ?_⟩
    · exact congrArg Host.Outcome.next (slot_effect (operable_nil hi) rfl rfl rfl rfl (allPass_singleton (need_true hin)) rfl)
    · exact congrArg Host.Outcome.next (slot_checks (operable_nil hi) rfl rfl rfl rfl (by rw [need_false hout]; rfl))
  case firmware =>
    intro s k d hop
    exact ⟨execCrd_firmware hop rfl, execCrd_firmware hop rfl⟩
  case readOnly =>
    intro s k a n hop _ hn
    exact execCwr_readOnly hop (Bool.eq_false_iff.2 fun h => hn (writableReg_iff.1 h))

end Sys2Proof.Machine
end

section
/-! PROOF. Reductions and scans over 2^l positions. -/
namespace Sys2Proof.Machine
open Sys2Proof

/-! ### Flags of a range of positions -/

theorem flagsOf_zero (h : Nat → Nat) : flagsOf 0 h = 0 := rfl
theorem flagsOf_succ (n : Nat) (h : Nat → Nat) : flagsOf (n + 1) h = flagsOf n h ||| h n := by
  simp [flagsOf, List.range_succ]
theorem flagsOf_none (n : Nat) : flagsOf n (fun _ => 0) = 0 := by
  induction n with
  | zero => rfl
  | succ n ih => rw [flagsOf_succ, ih]; rfl
theorem flagsOf_cons (n : Nat) (h : Nat → Nat) : flagsOf (n + 1) h = h 0 ||| flagsOf n fun i => h (i + 1) := by
  induction n with
  | zero => simp [flagsOf_succ, flagsOf_zero]
  | succ n ih => rw [flagsOf_succ, ih, flagsOf_succ, Nat.or_assoc]
/-- The flags of `2 n` positions and of the `n` nodes above them, node by node. -/
theorem flagsOf_pairs (n : Nat) (h k : Nat → Nat) :
    flagsOf (2 * n) h ||| flagsOf n k = flagsOf n fun i => h (2 * i) ||| h (2 * i + 1) ||| k i := by
  induction n with
  | zero => simp only [Nat.mul_zero, flagsOf_zero, Nat.or_self]
  | succ n ih =>
    rw [flagsOf_succ, flagsOf_succ n fun i => _, ← ih, Nat.mul_succ, flagsOf_succ, flagsOf_succ]
    ac_rfl

section
variable (g : Nat → Nat → Nat × Nat) (x : Nat → Nat)

/-! ### The reduction, level by level (spec/05 R89) -/

theorem redLevel_range (n : Nat) (x : Nat → Nat) : redLevel g ((List.range (2 * n)).map x) =
    ((List.range n).map fun i => (g (x (2 * i)) (x (2 * i + 1))).1, flagsOf n fun i => (g (x (2 * i)) (x (2 * i + 1))).2) := by
  induction n generalizing x with
  | zero => rfl
  | succ n ih =>
    have htwo : (List.range (2 * (n + 1))).map x = x 0 :: x 1 :: (List.range (2 * n)).map fun i => x (i + 2) := by
      simp [Nat.mul_succ, List.range_succ_eq_map, Function.comp_def]
    rw [htwo, redLevel, ih, flagsOf_cons, List.range_succ_eq_map, List.map_cons, List.map_map]
    rfl

/-- From the nodes of level `k` with all flags below them, the levels that are left make the root. -/
theorem redTree_nodes {m fuel : Nat} (hm : m ≤ fuel) (k : Nat) :
    redTree g fuel ((List.range (2 ^ m)).map fun i => (treeOf g x k i).1, flagsOf (2 ^ m) fun i => (treeOf g x k i).2) =
      ([(treeOf g x (k + m) 0).1], (treeOf g x (k + m) 0).2) := by
  induction m generalizing fuel k with
  | zero => cases fuel <;> simp [redTree, flagsOf]
  | succ m ih =>
    obtain ⟨fuel, rfl⟩ : ∃ n, fuel = n + 1 := ⟨fuel - 1, by omega⟩
    have hmany : ¬ 2 * 2 ^ m ≤ 1 := by have := Nat.two_pow_pos m; omega
    rw [redTree, Nat.pow_succ', redLevel_range, List.length_map, List.length_range, if_neg hmany]
    dsimp only
    rw [flagsOf_pairs, show k + (m + 1) = k + 1 + m by omega]
    exact ih (by omega) (k + 1)

theorem redTree_range {l : Nat} (hl : l ≤ 12) :
    redTree g 12 ((List.range (2 ^ l)).map x, 0) = ([(treeOf g x l 0).1], (treeOf g x l 0).2) := by
  have hroot := redTree_nodes g x hl 0
  simpa only [treeOf, flagsOf_none, Nat.zero_add] using hroot

/-! ### A sweep of a scan as a function of the position (spec/05 R90) -/

/-- The value at position `i` after a sweep. -/
def swept (test : Nat → Bool) (off : Nat) (y : Nat → Nat) (i : Nat) : Nat :=
  if test i then (g (if i < off then 0 else y (i - off)) (y i)).1 else y i

theorem sweep_range {test : Nat → Bool} {off n : Nat} {y : Nat → Nat} {u : List Nat × Nat} (hu : u.1 = (List.range n).map y) :
    (sweep g test off u).1 = (List.range n).map (swept g test off y) := by
  obtain ⟨_, flags⟩ := u
  subst hu
  have hleft : ∀ i (h : i < (List.replicate off 0 ++ (List.range n).map y).length),
      (List.replicate off 0 ++ (List.range n).map y)[i] = if i < off then 0 else y (i - off) := fun i h => by
    by_cases hi : i < off <;> simp [List.getElem_append, hi]
  apply List.ext_getElem
  · simp [sweep, joinFlags]
  · intro i _ _
    simp only [sweep, joinFlags, List.getElem_map, List.getElem_zipIdx, List.getElem_zip, List.getElem_range, hleft, swept, Nat.zero_add]
    split <;> rfl

section
variable {g x} {i off : Nat} {test : Nat → Bool} {y : Nat → Nat}

theorem swept_off (h : test i = false) : swept g test off y i = y i := by simp [swept, h]
theorem swept_on (h : test i = true) (hi : off ≤ i) : swept g test off y i = (g (y (i - off)) (y i)).1 := by
  simp [swept, h, Nat.not_lt.mpr hi]

end

/-- A number whose odd part stands above 2^j is no multiple of a greater power. -/
theorem odd_mul_pow_mod {c j n : Nat} (hc : c % 2 = 0) (hj : j < n) : (c + 1) * 2 ^ j % 2 ^ n ≠ 0 := by
  intro h
  have hdvd : 2 * 2 ^ j ∣ (c + 1) * 2 ^ j := by
    rw [← Nat.pow_succ']; exact (Nat.pow_dvd_pow 2 hj).trans (Nat.dvd_of_mod_eq_zero h)
  have := Nat.dvd_of_mul_dvd_mul_right (Nat.two_pow_pos j) hdvd
  omega

/-- The positions of the up-sweep, and of the down-sweep, with offset 2^k. -/
def upTest (k i : Nat) : Bool := (i + 1) % (2 * 2 ^ k) = 0
def downTest (k i : Nat) : Bool := 2 ^ k ≤ i && (i + 1 - 2 ^ k) % (2 * 2 ^ k) = 0

section
variable {k i c : Nat}

theorem upTest_node (hi : i + 1 = (c + 1) * 2 ^ (k + 1)) : upTest k i = true := by
  simp [upTest, hi, Nat.pow_succ']
theorem upTest_lower {j : Nat} (hc : c % 2 = 0) (hj : j ≤ k) (hi : i + 1 = (c + 1) * 2 ^ j) : upTest k i = false := by
  rw [upTest, hi, ← Nat.pow_succ']
  exact decide_eq_false (odd_mul_pow_mod hc (by omega))

/-- Of the last positions of the nodes of level `k`, the down-sweep changes those of left children but the first. -/
theorem downTest_node (hi : i + 1 = (c + 1) * 2 ^ k) : downTest k i = true ↔ 0 < c ∧ c % 2 = 0 := by
  have hpow := Nat.two_pow_pos k
  have hsub : i + 1 - 2 ^ k = c * 2 ^ k := by rw [hi, Nat.succ_mul, Nat.add_sub_cancel]
  have hle : 2 ^ k ≤ i ↔ 0 < c := by
    rw [← Nat.mul_pos_iff_of_pos_right hpow, ← hsub]; omega
  rw [downTest, hsub, Nat.mul_mod_mul_right, Bool.and_eq_true, decide_eq_true_iff, decide_eq_true_iff, hle, Nat.mul_eq_zero]
  simp
theorem downTest_lower {j : Nat} (hc : c % 2 = 0) (hj : j < k) (hi : i + 1 = (c + 1) * 2 ^ j) : downTest k i = false := by
  by_contra h
  obtain ⟨hle, hmod⟩ : 2 ^ k ≤ i ∧ (i + 1 - 2 ^ k) % (2 * 2 ^ k) = 0 := by simpa [downTest] using h
  have hdvd : 2 ^ k ∣ i + 1 - 2 ^ k := (Nat.dvd_mul_left _ 2).trans (Nat.dvd_of_mod_eq_zero hmod)
  rw [Nat.dvd_sub_self_right, or_iff_left (by omega), hi] at hdvd
  exact odd_mul_pow_mod hc hj (Nat.mod_eq_zero_of_dvd hdvd)

end

/-! ### The up-sweep (spec/05 R90) -/

/-- After `k` sweeps the last position of every node stands at its node's value: of all nodes of level `k`, and of those
of lower levels that are left children. -/
def NodesUp (k : Nat) (y : Nat → Nat) : Prop :=
  ∀ j ≤ k, ∀ c i, (j < k → c % 2 = 0) → i + 1 = (c + 1) * 2 ^ j → y i = (treeOf g x j c).1

variable {g x} {k n : Nat} {y : Nat → Nat}

theorem nodesUp_zero : NodesUp g x 0 x := by
  intro j hj c i _ hi
  obtain rfl := Nat.le_zero.mp hj
  obtain rfl : i = c := by omega
  rfl

theorem nodesUp_swept (h : NodesUp g x k y) : NodesUp g x (k + 1) (swept g (upTest k) (2 ^ k) y) := by
  intro j hj c i hc hi
  rcases Nat.lt_or_ge k j with hk | hk
  case inl =>
    obtain rfl : j = k + 1 := by omega
    have hpos : (c + 1) * 2 ^ (k + 1) = (2 * c + 1) * 2 ^ k + 2 ^ k := by ring
    have hright : (2 * c + 1 + 1) * 2 ^ k = (2 * c + 1) * 2 ^ k + 2 ^ k := by ring
    have hcover : 0 < (2 * c + 1) * 2 ^ k := by positivity
    rw [swept_on (upTest_node hi) (by omega), h k (Nat.le_refl k) (2 * c) (i - 2 ^ k) (by omega) (by omega),
      h k (Nat.le_refl k) (2 * c + 1) i (by omega) (by omega)]
    rfl
  case inr =>
    have heven : c % 2 = 0 := hc (by omega)
    rw [swept_off (upTest_lower heven hk hi)]
    exact h j hk c i (fun _ => heven) hi

theorem nodesUp_scanUp {m : Nat} (h : NodesUp g x k y) {u : List Nat × Nat} (hu : u.1 = (List.range n).map y) :
    ∃ z, (scanUp g m (2 ^ k) u).1 = (List.range n).map z ∧ NodesUp g x (k + m) z := by
  induction m generalizing k y u with
  | zero => exact ⟨y, hu, h⟩
  | succ m ih =>
    obtain ⟨z, hz, hnodes⟩ := ih (nodesUp_swept h) (sweep_range g hu)
    rw [Nat.pow_succ'] at hz
    exact ⟨z, hz, by rwa [show k + (m + 1) = k + 1 + m by omega]⟩

/-! ### The down-sweep (spec/05 R90) -/

section
variable {fuel c : Nat}

theorem prefixOf_one : prefixOf g x (fuel + 1) k 1 = ((treeOf g x k 0).1, 0) := rfl
theorem prefixOf_even : prefixOf g x (fuel + 1) k (2 * c) = prefixOf g x fuel (k + 1) c := by
  rw [prefixOf, if_pos (by omega), Nat.mul_div_cancel_left c (by omega)]
theorem prefixOf_odd (hc : 0 < c) : prefixOf g x (fuel + 1) k (2 * c + 1) = g (prefixOf g x fuel (k + 1) c).1 (treeOf g x k (2 * c)).1 := by
  rw [prefixOf, if_neg (by omega), if_neg (by omega), show (2 * c + 1) / 2 = c by omega, Nat.add_sub_cancel]
/-- All the positions of a node are covered by that node. -/
theorem prefixOf_pow (m : Nat) : prefixOf g x (fuel + 1 + m) k (2 ^ m) = ((treeOf g x (k + m) 0).1, 0) := by
  induction m generalizing k with
  | zero => exact prefixOf_one
  | succ m ih => rw [Nat.pow_succ', ← Nat.add_assoc, prefixOf_even, ih, show k + (m + 1) = k + 1 + m by omega]

end

variable (g x) in
/-- Down to level `k` of a scan of `n` positions, the last position of every node stands at what `prefixOf` combines up to there;
left children of lower levels stand at their node's value. -/
def PrefixesDown (n fuel k : Nat) (y : Nat → Nat) : Prop :=
  (∀ c i, 0 < c → c * 2 ^ k ≤ n → i + 1 = c * 2 ^ k → y i = (prefixOf g x fuel k c).1) ∧
  ∀ j < k, ∀ c i, c % 2 = 0 → i + 1 = (c + 1) * 2 ^ j → y i = (treeOf g x j c).1

/-- The first down-sweep begins where the two halves and the whole are done. -/
theorem prefixesDown_of_nodesUp (h : NodesUp g x (k + 1) y) (fuel : Nat) : PrefixesDown g x (2 ^ (k + 1)) (fuel + 2) k y := by
  refine ⟨fun c i hc hle hi => ?_, fun j hj c i hc hi => h j (by omega) c i (fun _ => hc) hi⟩
  have htwo : c ≤ 2 := Nat.le_of_mul_le_mul_right (by rwa [← Nat.pow_succ']) (Nat.two_pow_pos k)
  obtain rfl | rfl : c = 1 ∨ c = 2 := by omega
  · rw [prefixOf_one]
    exact h k (by omega) 0 i (fun _ => rfl) hi
  · rw [prefixOf_even (c := 1), prefixOf_one]
    exact h (k + 1) (Nat.le_refl _) 0 i (by omega) (by rw [hi, Nat.pow_succ']; ring)

theorem prefixesDown_swept {fuel : Nat} (h : PrefixesDown g x n fuel (k + 1) y) :
    PrefixesDown g x n (fuel + 1) k (swept g (downTest k) (2 ^ k) y) := by
  obtain ⟨hprefix, hnode⟩ := h
  refine ⟨fun c i hc hle hi => ?_, fun j hj c i hc hi => ?_⟩
  case refine_2 => rw [swept_off (downTest_lower hc hj hi)]; exact hnode j (by omega) c i hc hi
  obtain ⟨c, rfl⟩ : ∃ b, c = b + 1 := ⟨c - 1, by omega⟩
  have htest := downTest_node hi
  obtain ⟨b, rfl | rfl⟩ := Nat.even_or_odd' c
  case inl =>
    rcases Nat.eq_zero_or_pos b with rfl | hb
    · rw [swept_off (by simpa using htest), prefixOf_one]
      exact hnode k (by omega) 0 i rfl hi
    · have hpos : (2 * b + 1) * 2 ^ k = b * 2 ^ (k + 1) + 2 ^ k := by ring
      have hcover : 0 < b * 2 ^ (k + 1) := by positivity
      have hpow := Nat.two_pow_pos k
      rw [swept_on (htest.mpr ⟨by omega, by omega⟩) (by omega), prefixOf_odd hb,
        hprefix b (i - 2 ^ k) hb (by omega) (by omega), hnode k (by omega) (2 * b) i (by omega) hi]
  case inr =>
    have hpos : (2 * b + 1 + 1) * 2 ^ k = (b + 1) * 2 ^ (k + 1) := by ring
    rw [swept_off (Bool.eq_false_iff.mpr fun ht => by have := (htest.mp ht).2; omega), show 2 * b + 1 + 1 = 2 * (b + 1) by omega, prefixOf_even]
    exact hprefix (b + 1) i (by omega) (hpos ▸ hle) (hpos ▸ hi)

theorem prefixesDown_scanDown {fuel : Nat} (h : PrefixesDown g x n fuel k y) {u : List Nat × Nat} (hu : u.1 = (List.range n).map y) :
    ∃ z, (scanDown g k u).1 = (List.range n).map z ∧ PrefixesDown g x n (fuel + k) 0 z := by
  induction k generalizing fuel y u with
  | zero => exact ⟨y, hu, h⟩
  | succ k ih =>
    obtain ⟨z, hz, hdone⟩ := ih (prefixesDown_swept h) (sweep_range g hu)
    exact ⟨z, hz, by rwa [show fuel + (k + 1) = fuel + 1 + k by omega]⟩

/-- Every position of a scan is what `prefixOf` combines up to there. -/
theorem scanAll_prefixes {l : Nat} (h1 : 1 ≤ l) (h12 : l ≤ 12) :
    ∀ e < 2 ^ l, (scanAll g (2 ^ l) ((List.range (2 ^ l)).map x)).1[e]? = some (prefixOf g x 13 0 (e + 1)).1 := by
  obtain ⟨m, rfl⟩ : ∃ m, l = m + 1 := ⟨l - 1, by omega⟩
  obtain ⟨y, hy, hnodes⟩ := nodesUp_scanUp (m := m + 1) (n := 2 ^ (m + 1)) (u := (_, 0)) (nodesUp_zero (g := g) (x := x)) rfl
  rw [Nat.zero_add] at hnodes
  obtain ⟨z, hz, hprefix, _⟩ := prefixesDown_scanDown (prefixesDown_of_nodesUp hnodes (11 - m)) hy
  rw [Nat.pow_zero] at hz
  intro e he
  rw [scanAll, Nat.log2_two_pow, Nat.add_sub_cancel, hz, List.getElem?_map, List.getElem?_range he]
  have hlast := hprefix (e + 1) e (by omega) (by simpa using he) (by simp)
  rw [show 11 - m + 2 + m = 13 by omega] at hlast
  exact congrArg some hlast

end

/-- Settles O21: the tree level by level; the scan by what its up-sweep and its down-sweep leave at each position. -/
theorem reductionTree : Obligations.ReductionTree := by
  unfold Obligations.ReductionTree
  intro g x l h1 h12
  refine ⟨redTree_range g x h12, scanAll_prefixes h1 h12, ?_⟩
  have hpos := Nat.two_pow_pos l
  have hall := prefixOf_pow (g := g) (x := x) (fuel := 12 - l) (k := 0) l
  rw [show 12 - l + 1 + l = 13 by omega, Nat.zero_add] at hall
  rw [scanAll_prefixes h1 h12 _ (by omega), Nat.sub_add_cancel hpos, hall]

end Sys2Proof.Machine
end

section
/-! SUPPORT. The matrix queue: its head, what reads of the engine change, and what leaving the queue changes. -/
namespace Sys2Proof.Machine
open Sys2Proof

/-! ### Reads of the engine change cached translations alone (spec/08 R171) -/

theorem TlbOnly.sameBytes {s t : State} (h : TlbOnly s t) : SameBytes s t := by
  obtain ⟨ht, hcore⟩ := h
  refine ⟨by rw [ht], by rw [ht], fun g => ?_⟩
  rw [hcore g]
theorem TlbOnly.seq {s t : State} (h : TlbOnly s t) (n : Nat) : t.seq n = s.seq n := by rw [h.1]; rfl
theorem TlbOnly.queue {s t : State} (h : TlbOnly s t) (g : Nat) : (t.core g).mq = (s.core g).mq := by rw [h.2 g]
theorem TlbOnly.slots {s t : State} (h : TlbOnly s t) (g : Nat) : (t.core g).ls = (s.core g).ls := by rw [h.2 g]

/-- A load that does not pass the L1 leaves the state as it is. -/
theorem loadSegs_state (s : State) (g : Nat) {path : Path} (hp : path ≠ .s) (l : List Seg) (fresh : Bool) :
    (loadSegs s g path l fresh).1 = s :=
  List.foldlRecOn (motive := fun r : State × Nat => r.1 = s) l _ rfl fun r hr x _ => by simpa [loadSeg, hp] using hr

theorem mtxRead_tlbOnly {s t : State} {g asid acc v : Nat} {l : List (Nat × Nat × Nat)} (h : mtxRead s g asid l acc = .ok t v) : TlbOnly s t := by
  induction l generalizing s acc with
  | nil => cases h; exact .refl _
  | cons p l ih =>
    rw [mtxRead] at h
    split at h
    · cases h
    · split at h
      · cases h
      · split at h
        · cases h
        · dsimp only at h
          rw [loadSegs_state _ _ (by decide : Path.m ≠ .s)] at h
          exact (tlbOnly_installSegs _ _ _ _ _).trans (ih h)

/-- Reads that all end well give one value each, and change what each of them may. -/
theorem readAll_ok {α : Type} {f : State → α → MtxRead} {r : State → State → Prop} (hrefl : ∀ s, r s s) (htrans : ∀ {s t u}, r s t → r t u → r s u)
    (hf : ∀ {s x t v}, f s x = MtxRead.ok t v → r s t) {l : List α} {s t : State} {acc vs : List Nat} (h : readAll f s l acc = (t, vs, none)) :
    r s t ∧ vs.length = acc.length + l.length := by
  induction l generalizing s acc with
  | nil => cases h; exact ⟨hrefl _, rfl⟩
  | cons x l ih =>
    rw [readAll] at h
    split at h
    · next u v hu =>
      obtain ⟨hr, hlen⟩ := ih h
      exact ⟨htrans (hf hu) hr, by simp at hlen ⊢; omega⟩
    · cases h

theorem readAll_mtxRead {g asid : Nat} {segments : Nat → List (Nat × Nat × Nat)} {n : Nat} {s t : State} {vs : List Nat}
    (h : readAll (fun u r => mtxRead u g asid (segments r) 0) s (List.range n) [] = (t, vs, none)) : TlbOnly s t ∧ vs.length = n := by
  obtain ⟨htlb, hlen⟩ := readAll_ok TlbOnly.refl TlbOnly.trans mtxRead_tlbOnly h
  exact ⟨htlb, by simpa using hlen⟩

/-- A first read that fails ends them all. -/
theorem readAll_range_fault {f : State → Nat → MtxRead} {s : State} {n : Nat} {x : XFault} (hn : 0 < n) (h : f s 0 = .fault x) (acc : List Nat) :
    readAll f s (List.range n) acc = (s, acc, some (.fault x)) := by
  obtain ⟨n, rfl⟩ : ∃ m, n = m + 1 := ⟨n - 1, by omega⟩
  rw [List.range_succ_eq_map, readAll, h]

theorem missTrap_tlbOnly (s : State) (g asid : Nat) (t : Trap) : TlbOnly s (missTrap s g asid t) := by
  unfold missTrap
  dsimp only
  split
  · exact .refl s
  · split
    · exact tlbOnly_install _ _ _ _
    · exact tlbOnly_modCore _ _ _ fun _ => rfl

/-! ### The head of the queue (spec/08 R170, R172, R174) -/

section
variable {s : State} {g : Nat} {e : MtxEntry} {rest : List MtxEntry}

/-- An entry that has begun never stands by. -/
theorem mqHead_begun (hq : (s.core g).mq = e :: rest) (hb : e.begun = true) : mqHead s g = some e := by
  simp [mqHead, hq, standsBy, hb]

theorem modEntry_queue (hq : (s.core g).mq = e :: rest) (ho : ∀ y ∈ rest, y.id ≠ e.id) (f : MtxEntry → MtxEntry) :
    ((modEntry s g e.id f).core g).mq = f e :: rest := by
  have hrest : rest.map (fun y => if y.id = e.id then f y else y) = rest :=
    (List.map_congr_left fun y hy => if_neg (ho y hy)).trans (List.map_id' rest)
  simp [modEntry, hq, hrest]

theorem modEntry_sameBytes (s : State) (g id : Nat) (f : MtxEntry → MtxEntry) : SameBytes s (modEntry s g id f) :=
  sameBytes_modCore s g fun _ => rfl

theorem addCause_sameBytes (s : State) (n : Nat) (t : Trap) : SameBytes s (addCause s n t) := sameBytes_modSeq s n _
theorem setRowprog_sameBytes (s : State) (n tile b a : Nat) : SameBytes s (setRowprog s n tile b a) := sameBytes_modSeq s n _

/-! ### Leaving the queue (spec/08 R170) -/

/-- Without what begins next. -/
def leftQueue (s : State) (g : Nat) (e : MtxEntry) : State :=
  (s.modCore g fun c => { c with mq := c.mq.filter fun x => x.id ≠ e.id }).modSeq e.seq fun q => q.lower .mt

theorem popMtx_onlyBegins (s : State) (g : Nat) (e : MtxEntry) : OnlyBegins (leftQueue s g e) (popMtx s g e) := promote_onlyBegins _ _ _

theorem popMtx_seq_same (s : State) (g : Nat) (e : MtxEntry) : (popMtx s g e).seq e.seq = { s.seq e.seq with mt := (s.seq e.seq).mt - 1 } := by
  rw [(popMtx_onlyBegins s g e).seq, leftQueue, State.seq_modSeq_same]; rfl
theorem popMtx_seq_other (s : State) (g : Nat) (e : MtxEntry) {m : Nat} (h : m ≠ e.seq) : (popMtx s g e).seq m = s.seq m := by
  rw [(popMtx_onlyBegins s g e).seq, leftQueue, State.seq_modSeq_other _ _ _ _ h]; rfl
theorem popMtx_mem (s : State) (g : Nat) (e : MtxEntry) : (popMtx s g e).mem = s.mem := (popMtx_onlyBegins s g e).mem
theorem popMtx_ctx (s : State) (g : Nat) (e : MtxEntry) (c : Nat) : (popMtx s g e).ctx c = s.ctx c := (popMtx_onlyBegins s g e).ctx c
/-- Of the cores only queues change. -/
theorem popMtx_core (s : State) (g : Nat) (e : MtxEntry) (h : Nat) : (popMtx s g e).core h = { s.core h with mq := ((popMtx s g e).core h).mq } := by
  have hleft : (leftQueue s g e).core h = { s.core h with mq := ((leftQueue s g e).core h).mq } := by
    rw [leftQueue, State.core_modSeq]
    by_cases hh : h = g
    · subst hh; rw [State.core_modCore_same]
    · rw [State.core_modCore_other _ _ _ _ hh]
  rw [((popMtx_onlyBegins s g e).2 h).1, hleft]
theorem popMtx_sameBytes (s : State) (g : Nat) (e : MtxEntry) : SameBytes s (popMtx s g e) :=
  ⟨popMtx_mem s g e, by rw [(popMtx_onlyBegins s g e).1]; rfl, fun h => by rw [popMtx_core]⟩

theorem popMtx_queue (hq : (s.core g).mq = e :: rest) (ho : ∀ y ∈ rest, y.id ≠ e.id) : SameQueue ((popMtx s g e).core g).mq rest := by
  have hleft : ((leftQueue s g e).core g).mq = rest := by
    rw [leftQueue, State.core_modSeq, State.core_modCore_same]
    simpa [hq] using ho
  exact hleft ▸ ((popMtx_onlyBegins s g e).2 g).2

/-- The head of the queue has left: `u` is the state it left, which has changed no counter of its sequencer. -/
theorem popMtx_headDone {u : State} (hq : (u.core g).mq = e :: rest) (ho : ∀ y ∈ rest, y.id ≠ e.id) (hmem : u.mem = s.mem)
    (hmt : (u.seq e.seq).mt = (s.seq e.seq).mt) (hacc : (u.seq e.seq).acc = (s.seq e.seq).acc) (hother : ∀ m, m ≠ e.seq → u.seq m = s.seq m) :
    HeadDone s (popMtx u g e) g e.seq rest := by
  refine ⟨popMtx_queue hq ho, ?_, (popMtx_mem u g e).trans hmem, ?_, fun m hm => (popMtx_seq_other u g e hm).trans (hother m hm)⟩
  · rw [popMtx_seq_same]; exact congrArg (· - 1) hmt
  · rw [popMtx_seq_same]; exact hacc

end

end Sys2Proof.Machine
end

section
/-! SUPPORT. A tile written but for bytes that are skipped, and the words of a corner. -/
namespace Sys2Proof.Machine
open Sys2Proof

/-! ### A result less the ranges of other slots (spec/02 R29) -/

/-- Is a window byte in a piece of a result. -/
def Covers (p : Nat × Nat × Nat) (b : Nat) : Prop := p.1 ≤ b ∧ b < p.1 + p.2.2

theorem cutPart_covers (p : Nat × Nat × Nat) (r : Nat × Nat) (b : Nat) :
    (∃ q ∈ cutPart p r, Covers q b) ↔ Covers p b ∧ ¬ (r.1 ≤ b ∧ b < r.1 + r.2) := by
  unfold cutPart meet Covers
  split
  · next h => simp at h ⊢; omega
  · next h =>
    simp at h
    split <;> split <;> simp <;> omega
/-- Pieces keep their place in the result. -/
theorem cutPart_place {p : Nat × Nat × Nat} {r : Nat × Nat} {off : Nat} (h : p.1 = off + p.2.1) : ∀ q ∈ cutPart p r, q.1 = off + q.2.1 := by
  unfold cutPart meet
  intro q hq
  split at hq
  · simp at hq; rw [hq, h]
  · next hmeet =>
    simp at hmeet
    rw [List.mem_append] at hq
    rcases hq with hq | hq <;> split at hq <;> simp at hq <;> subst hq <;> dsimp only <;> omega

/-- Pieces less several ranges. -/
def cutAll (skip : List (Nat × Nat)) (l : List (Nat × Nat × Nat)) : List (Nat × Nat × Nat) :=
  skip.foldl (fun l r => (l.map fun p => cutPart p r).flatten) l

theorem mem_cut {l : List (Nat × Nat × Nat)} {r : Nat × Nat} {q : Nat × Nat × Nat} :
    q ∈ (l.map fun p => cutPart p r).flatten ↔ ∃ p ∈ l, q ∈ cutPart p r := by
  simp

theorem cutAll_covers (skip : List (Nat × Nat)) (l : List (Nat × Nat × Nat)) (b : Nat) :
    (∃ q ∈ cutAll skip l, Covers q b) ↔ (∃ p ∈ l, Covers p b) ∧ ¬ ∃ r ∈ skip, r.1 ≤ b ∧ b < r.1 + r.2 := by
  induction skip generalizing l with
  | nil => simp [cutAll]
  | cons r skip ih =>
    have hcut : (∃ q ∈ (l.map fun p => cutPart p r).flatten, Covers q b) ↔ (∃ p ∈ l, Covers p b) ∧ ¬ (r.1 ≤ b ∧ b < r.1 + r.2) := by
      simp only [mem_cut]
      constructor
      · rintro ⟨q, ⟨p, hp, hq⟩, hb⟩
        obtain ⟨hpb, hr⟩ := (cutPart_covers p r b).mp ⟨q, hq, hb⟩
        exact ⟨⟨p, hp, hpb⟩, hr⟩
      · rintro ⟨⟨p, hp, hpb⟩, hr⟩
        obtain ⟨q, hq, hb⟩ := (cutPart_covers p r b).mpr ⟨hpb, hr⟩
        exact ⟨q, ⟨p, hp, hq⟩, hb⟩
    rw [cutAll, List.foldl_cons]
    refine (ih _).trans ?_
    rw [hcut, List.exists_mem_cons_iff, not_or, and_assoc]
theorem cutAll_place {skip : List (Nat × Nat)} {l : List (Nat × Nat × Nat)} {off : Nat} (h : ∀ p ∈ l, p.1 = off + p.2.1) :
    ∀ q ∈ cutAll skip l, q.1 = off + q.2.1 := by
  induction skip generalizing l with
  | nil => exact h
  | cons r skip ih =>
    refine ih fun q hq => ?_
    obtain ⟨p, hp, hq⟩ := mem_cut.mp hq
    exact cutPart_place (h p hp) q hq

/-! ### Pieces of a number written as window bytes (spec/09 R188) -/

/-- The part of a number that belongs to a piece. -/
def partOf (v : Nat) (p : Nat × Nat × Nat) : Nat := v / 2 ^ (8 * p.2.1) % 2 ^ (8 * p.2.2)
def writeParts (s : State) (n v : Nat) (l : List (Nat × Nat × Nat)) : State := l.foldl (fun s p => s.writeWin n p.1 p.2.2 (partOf v p)) s
def partsInto (m : Mem) (a v : Nat) (l : List (Nat × Nat × Nat)) : Mem := l.foldl (fun m p => m.write (a + p.1) p.2.2 (partOf v p)) m

theorem putTile_eq (s : State) (e : MtxEntry) (v : Nat) : putTile s e v = writeParts s e.seq v (cutAll e.skip [(e.off, 0, 16384)]) := rfl

section
variable (s : State) (n v : Nat) (l : List (Nat × Nat × Nat))

theorem writeParts_frame : writeParts s n v l = { s with cores := (writeParts s n v l).cores, poison := (writeParts s n v l).poison } := by
  refine List.foldlRecOn (motive := fun t : State => t = { s with cores := t.cores, poison := t.poison }) l _ rfl fun t ht p _ => ?_
  rw [State.writeWin_frame, ht]
theorem writeParts_seq (m : Nat) : (writeParts s n v l).seq m = s.seq m := by rw [writeParts_frame]; rfl
theorem writeParts_core_same : (writeParts s n v l).core (coreOf n) =
    { s.core (coreOf n) with regs := partsInto (s.core (coreOf n)).regs (s.seq n).winBase v l } := by
  induction l generalizing s with
  | nil => rfl
  | cons p l ih =>
    refine (ih _).trans ?_
    rw [State.writeWin_core_same, State.writeWin_seq]
    rfl

end

theorem putTile_mem (s : State) (e : MtxEntry) (v : Nat) : (putTile s e v).mem = s.mem := by rw [putTile_eq, writeParts_frame]
theorem putTile_seq (s : State) (e : MtxEntry) (v m : Nat) : (putTile s e v).seq m = s.seq m := by rw [putTile_eq, writeParts_seq]
/-- Of the core only registers change. -/
theorem putTile_core (s : State) (e : MtxEntry) (v : Nat) : (putTile s e v).core (coreOf e.seq) =
    { s.core (coreOf e.seq) with regs := partsInto (s.core (coreOf e.seq)).regs (s.seq e.seq).winBase v (cutAll e.skip [(e.off, 0, 16384)]) } := by
  rw [putTile_eq, writeParts_core_same]

theorem byte_partOf {v k : Nat} {p : Nat × Nat × Nat} (h : k < p.2.2) : partOf v p / 256 ^ k % 256 = v / 2 ^ (8 * (p.2.1 + k)) % 256 := by
  apply Nat.eq_of_testBit_eq
  intro i
  rw [partOf, show 256 ^ k = 2 ^ (8 * k) by rw [Nat.pow_mul], show (256 : Nat) = 2 ^ 8 from rfl]
  simp only [Nat.testBit_mod_two_pow, Nat.testBit_div_two_pow]
  by_cases hi : i < 8
  · rw [decide_eq_true (by omega : i + 8 * k < 8 * p.2.2), Bool.true_and, show i + 8 * k + 8 * p.2.1 = i + 8 * (p.2.1 + k) by omega]
  · simp [hi]

section
variable (m : Mem) (a v : Nat) {l : List (Nat × Nat × Nat)}

theorem partsInto_other {b : Nat} (h : ¬ ∃ p ∈ l, Covers p b) : (partsInto m a v l).get (a + b) = m.get (a + b) := by
  refine List.foldlRecOn (motive := fun t : Mem => t.get (a + b) = m.get (a + b)) l _ rfl fun t ht p hp => ?_
  have hout : ¬ Covers p b := fun hb => h ⟨p, hp, hb⟩
  unfold Covers at hout
  rw [mem_get_write_other _ _ _ _ _ (by omega), ht]
theorem partsInto_below {b : Nat} (h : b < a) : (partsInto m a v l).get b = m.get b := by
  refine List.foldlRecOn (motive := fun t : Mem => t.get b = m.get b) l _ rfl fun t ht p _ => ?_
  rw [mem_get_write_other _ _ _ _ _ (by omega), ht]
/-- Every byte that a piece covers is the byte of the number at its place. -/
theorem partsInto_covered {off b : Nat} (hplace : ∀ p ∈ l, p.1 = off + p.2.1) (h : ∃ p ∈ l, Covers p (off + b)) :
    ((partsInto m a v l).get (a + (off + b))).toNat = v / 2 ^ (8 * b) % 256 := by
  induction l using List.reverseRecOn with
  | nil => simp at h
  | append_singleton l p ih =>
    rw [partsInto, List.foldl_append, List.foldl_cons, List.foldl_nil]
    by_cases hp : Covers p (off + b)
    · obtain ⟨hlo, hhi⟩ := hp
      have hat := hplace p (by simp)
      obtain ⟨k, rfl⟩ : ∃ k, b = p.2.1 + k := ⟨b - p.2.1, by omega⟩
      rw [show a + (off + (p.2.1 + k)) = a + p.1 + k by omega, mem_get_write_same _ _ _ _ _ (by omega), BitVec.toNat_ofNat]
      exact byte_partOf (by omega)
    · have hl : ∃ q ∈ l, Covers q (off + b) := by simpa [hp] using h
      unfold Covers at hp
      rw [mem_get_write_other _ _ _ _ _ (by omega)]
      exact ih (fun q hq => hplace q (by simp [hq])) hl

end

/-- A tile written but for what is skipped: what the registers of its core then hold. -/
theorem putTile_takes {s t : State} {g : Nat} {e : MtxEntry} {v : Nat} (hg : coreOf e.seq = g) (ht : (t.core g).regs = ((putTile s e v).core g).regs) :
    TileTakes s t g e v := by
  subst hg
  rw [putTile_core] at ht
  have hcovers : ∀ b, (∃ p ∈ cutAll e.skip [(e.off, 0, 16384)], Covers p b) ↔ Covers (e.off, 0, 16384) b ∧ ¬ Skipped e b := fun b => by
    rw [cutAll_covers]; simp [Skipped]
  refine ⟨fun b hb hskip => ?_, fun b hb hskip => ?_, fun b hb => ?_⟩ <;> rw [ht]
  · rw [Nat.add_assoc]
    exact partsInto_covered _ _ _ (cutAll_place (by simp)) ((hcovers _).mpr ⟨⟨by simp, by simpa using hb⟩, hskip⟩)
  · rw [Nat.add_assoc]
    exact partsInto_other _ _ _ fun h => ((hcovers _).mp h).2 hskip
  · rcases Nat.lt_or_ge b (s.seq e.seq).winBase with hlt | hge
    · exact partsInto_below _ _ _ hlt
    · obtain ⟨d, rfl⟩ := Nat.exists_eq_add_of_le hge
      refine partsInto_other _ _ _ fun h => ?_
      have hin : e.off ≤ d ∧ d < e.off + 16384 := ((hcovers d).mp h).1
      omega

/-! ### Tables over all words of a tile -/

/-- A table of the keys of a range that meet a condition. -/
theorem tab_getD_listed {α : Type} (p : Nat → Prop) [DecidablePred p] (v : Nat → α) {n k : Nat} (hk : k < n) (d : α) :
    Tab.getD ((List.range n).filterMap fun j => if p j then some (j, v j) else none) k d = if p k then v k else d := by
  have hfind : ∀ l : List Nat, Tab.find? (l.filterMap fun j => if p j then some (j, v j) else none) k = if k ∈ l ∧ p k then some (v k) else none := by
    intro l
    induction l with
    | nil => simp [Tab.find?]
    | cons j l ih =>
      by_cases hj : j = k
      · subst hj
        by_cases hp : p j <;> simp [hp, Tab.find?, ih]
      · by_cases hp : p j <;> simp [hp, Tab.find?, ih, hj, Ne.symm hj]
  rw [Tab.getD, hfind]
  by_cases hp : p k <;> simp [hk, hp]

/-- A table of words that lists those that are not zero. -/
theorem tab_getD_nonzero (w : Nat → BitVec 32) {n k : Nat} (hk : k < n) :
    Tab.getD ((List.range n).filterMap fun j => if w j = 0 then none else some (j, w j)) k 0 = w k := by
  have hswap : (fun j => if w j = 0 then none else some (j, w j)) = fun j => if w j ≠ 0 then some (j, w j) else none := by
    simp only [ite_not]
  rw [hswap, tab_getD_listed _ _ hk]
  exact ite_eq_left_iff.mpr fun h => (not_not.mp h).symm

theorem tileWords_getD (c : Core) (a : Nat) {k : Nat} (hk : k < 4096) : (tileWords c a).getD k 0 = BitVec.ofNat 32 (c.regs.readNat (a + 4 * k) 4) :=
  tab_getD_nonzero (fun k => BitVec.ofNat 32 (c.regs.readNat (a + 4 * k) 4)) hk

theorem tile_row {r c : Nat} (hc : c < 64) : (64 * r + c) / 64 = r := by omega
theorem tile_column {r c : Nat} (hc : c < 64) : (64 * r + c) % 64 = c := by omega

section
variable {m n r c : Nat} (hr : r < 64) (hc : c < 64)
include hr hc

/-- Values listed over a corner. -/
theorem corner_getD {α : Type} (v : Nat → α) (hrm : r < m) (hcn : c < n) (d : α) :
    Tab.getD ((List.range 4096).filterMap fun k => if k / 64 < m && k % 64 < n then some (k, v k) else none) (64 * r + c) d = v (64 * r + c) := by
  rw [tab_getD_listed _ v (by omega), tile_row hc, tile_column hc]
  simp [hrm, hcn]

/-- The slot's words after its corner is replaced. -/
theorem putCorner_getD (old : Tab (BitVec 32)) (new : Nat → Nat → Nat) :
    (putCorner old m n new).getD (64 * r + c) 0 = if r < m ∧ c < n then BitVec.ofNat 32 (new r c) else old.getD (64 * r + c) 0 := by
  refine (tab_getD_nonzero (fun k => if k / 64 < m && k % 64 < n then BitVec.ofNat 32 (new (k / 64) (k % 64)) else old.getD k 0) (by omega)).trans ?_
  rw [tile_row hc, tile_column hc]
  simp only [Bool.and_eq_true, decide_eq_true_eq]

end

end Sys2Proof.Machine
end

section
/-! PROOF. The matrix queue runs its head. -/
namespace Sys2Proof.Machine
open Sys2Proof

/-! ### A run of the head (spec/08 R161) -/

/-- The head begins. -/
def begunAs (e : MtxEntry) : MtxEntry := { e with resumed := true, begun := true }
def began (s : State) (g : Nat) (e : MtxEntry) : State := modEntry s g e.id begunAs

/-- Landing slots change; of one slot, its words, or whether it holds a part. -/
def modSlots (s : State) (g : Nat) (f : List Landing → List Landing) : State := s.modCore g fun c => { c with ls := f c.ls }
def slotWords (i : Nat) (words : Tab (BitVec 32)) (ls : List Landing) : List Landing := upd ls i fun l => { l with words := words }
def slotPartial (i : Nat) (part : Bool) (ls : List Landing) : List Landing := upd ls i fun l => { l with partial_ := part }

/-- From `s` on the head of core `g`'s queue has become `e`, which has begun, and the landing slots `ls`; no byte has
changed, no counter MT and no cause. -/
structure HeadRuns (s t : State) (g : Nat) (e : MtxEntry) (rest : List MtxEntry) (ls : List Landing) : Prop where
  bytes : SameBytes s t
  seqs : ∀ n, (t.seq n).causes = (s.seq n).causes ∧ (t.seq n).mt = (s.seq n).mt
  queue : (t.core g).mq = e :: rest
  slots : (t.core g).ls = ls
  begun : e.begun = true
  own : ∀ y ∈ rest, y.id ≠ e.id

section
variable {s t : State} {g : Nat} {e : MtxEntry} {rest : List MtxEntry} {ls : List Landing}

theorem HeadRuns.head (h : HeadRuns s t g e rest ls) : mqHead t g = some e := mqHead_begun h.queue h.begun

theorem headRuns_began (hq : (s.core g).mq = e :: rest) (ho : ∀ y ∈ rest, y.id ≠ e.id) :
    HeadRuns s (began s g e) g (begunAs e) rest (s.core g).ls where
  bytes := modEntry_sameBytes s g e.id _
  seqs _ := ⟨rfl, rfl⟩
  queue := modEntry_queue hq ho _
  slots := by rw [began, modEntry, State.core_modCore_same]
  begun := rfl
  own := ho

theorem HeadRuns.tlbs (h : HeadRuns s t g e rest ls) {u : State} (hu : TlbOnly t u) : HeadRuns s u g e rest ls where
  bytes := h.bytes.trans hu.sameBytes
  seqs n := by rw [hu.seq]; exact h.seqs n
  queue := (hu.queue g).trans h.queue
  slots := (hu.slots g).trans h.slots
  begun := h.begun
  own := h.own

theorem HeadRuns.rowprog (h : HeadRuns s t g e rest ls) (n tile b a : Nat) : HeadRuns s (setRowprog t n tile b a) g e rest ls where
  bytes := h.bytes.trans (setRowprog_sameBytes t n tile b a)
  seqs m := by
    by_cases hm : m = n
    · subst hm; rw [setRowprog, State.seq_modSeq_same]; exact h.seqs m
    · rw [setRowprog, State.seq_modSeq_other _ _ _ _ hm]; exact h.seqs m
  queue := h.queue
  slots := h.slots
  begun := h.begun
  own := h.own

/-- The core's other fields change, and its landing slots by `k`. -/
theorem HeadRuns.core (h : HeadRuns s t g e rest ls) {f : Core → Core} {k : List Landing → List Landing} (hregs : ∀ c, (f c).regs = c.regs)
    (hmq : ∀ c, (f c).mq = c.mq) (hls : ∀ c, (f c).ls = k c.ls) : HeadRuns s (t.modCore g f) g e rest (k ls) where
  bytes := h.bytes.trans (sameBytes_modCore t g hregs)
  seqs := h.seqs
  queue := by rw [State.core_modCore_same, hmq]; exact h.queue
  slots := by rw [State.core_modCore_same, hls, h.slots]
  begun := h.begun
  own := h.own

theorem HeadRuns.entry (h : HeadRuns s t g e rest ls) {f : MtxEntry → MtxEntry} (hid : (f e).id = e.id) (hb : (f e).begun = true) :
    HeadRuns s (modHead t g f) g (f e) rest ls := by
  rw [modHead, h.head]
  exact {
    bytes := h.bytes.trans (modEntry_sameBytes t g e.id f)
    seqs := h.seqs
    queue := modEntry_queue h.queue h.own f
    slots := (congrArg Core.ls (State.core_modCore_same t g _)).trans h.slots
    begun := hb
    own := hid ▸ h.own }

theorem HeadRuns.computed (h : HeadRuns s t g e rest ls) (cycles : Nat) : HeadRuns s (computed t g cycles) g e rest ls :=
  h.core (k := id) (fun _ => rfl) (fun _ => rfl) fun _ => rfl
theorem HeadRuns.modSlots (h : HeadRuns s t g e rest ls) (f : List Landing → List Landing) : HeadRuns s (modSlots t g f) g e rest (f ls) :=
  h.core (fun _ => rfl) (fun _ => rfl) fun _ => rfl

end

/-! ### The values of a panel (spec/05 R91-R93) -/

theorem ofNat_ofInt (x : Int) : BitVec.ofNat 32 (ofInt 32 x) = BitVec.ofInt 32 x := by
  apply BitVec.eq_of_toNat_eq
  rw [BitVec.toNat_ofInt, BitVec.toNat_ofNat, ofInt]
  omega

theorem getD_map_lt {α β : Type} {l : List α} {r : Nat} (h : r < l.length) (f : α → β) (d : β) (d' : α) : (l.map f).getD r d = f (l.getD r d') := by
  simp [h]

/-- The words of a slot after the one panel of an `mma`, from its words before: in the corner the accumulated products of
row and column. -/
def PanelWords (z neg : Bool) (x : BitVec 512) (fa fb : Fmt) (fmt : BitVec 32) (aw bw : List Nat) (before after : Tab (BitVec 32)) : Prop :=
  ∀ r c, r < 64 → c < 64 →
    let old := before.getD (64 * r + c) 0
    let new := after.getD (64 * r + c) 0
    (¬ (r < shM x ∧ c < shN x) → new = old) ∧
    (r < shM x → c < shN x → fmtACC fmt = true → new = BitVec.ofInt 32 ((if z then 0 else old.toInt) +
      (if neg then -1 else 1) * ((List.zipWith (fun u v : Int => u * v) (segInts fa (shK x) (aw.getD r 0)) (segInts fb (shK x) (bw.getD c 0))).sum))) ∧
    (r < shM x → c < shN x → fmtACC fmt = false → new = BitVec.ofNat 32
      (accumulate (wider fa fb) none neg (if z then 0 else old.toNat) (segVals fa (shK x) (aw.getD r 0)).1 (segVals fb (shK x) (bw.getD c 0)).1).1)

/-- An `mma` on slot `i`, of operands without scales and with the rows of B along K, before its first panel has read B. -/
structure FirstPanel (e : MtxEntry) (z neg : Bool) (x : BitVec 512) (fa fb : Fmt) (a b i : Nat) : Prop where
  op : e.op = .mma z neg false x fa fb none none a b
  slot : e.ls = some i
  panel : e.panel = 0
  segsB : e.segsB = []
  pos : 0 < shK x
  rows : shT x = true

/-- The same with one panel in all, before anything is read. -/
structure OnePanel (e : MtxEntry) (z neg : Bool) (x : BitVec 512) (fa fb : Fmt) (a b i : Nat) : Prop extends FirstPanel e z neg x fa fb a b i where
  segsA : e.segsA = []
  last : shK x ≤ 64
  unscaled : fmtSC e.fmt = false

theorem FirstPanel.begunAs {e : MtxEntry} {z neg : Bool} {x : BitVec 512} {fa fb : Fmt} {a b i : Nat} (h : FirstPanel e z neg x fa fb a b i) :
    FirstPanel (begunAs e) z neg x fa fb a b i := ⟨h.op, h.slot, h.panel, h.segsB, h.pos, h.rows⟩
theorem OnePanel.begunAs {e : MtxEntry} {z neg : Bool} {x : BitVec 512} {fa fb : Fmt} {a b i : Nat} (h : OnePanel e z neg x fa fb a b i) :
    OnePanel (begunAs e) z neg x fa fb a b i := ⟨h.toFirstPanel.begunAs, h.segsA, h.last, h.unscaled⟩

/-- The head after its one panel is the same operation, at panel 1. -/
def PanelDone (f : MtxEntry → MtxEntry) : Prop :=
  ∀ e, (f e).panel = 1 ∧ (f e).id = e.id ∧ (f e).op = e.op ∧ (f e).ls = e.ls ∧ (f e).begun = e.begun

section
variable {t : State} {g i : Nat} {e : MtxEntry} {z neg : Bool} {x : BitVec 512} {fa fb : Fmt} {a b : Nat} {aw bw : List Nat}
  (h : OnePanel e z neg x fa fb a b i) (ha : aw.length = shM x) (hb : bw.length = shN x)
include h ha hb

/-- Under FMT.ACC a panel puts exact sums into the corner, modulo 2^32. -/
theorem panelInto_ints (hacc : fmtACC e.fmt = true) :
    ∃ words f, panelInto t g e 0 aw bw [] [] = modHead (modSlots t g (slotWords i words)) g f ∧
      PanelDone f ∧ PanelWords z neg x fa fb e.fmt aw bw (landingAt (t.core g) i).words words := by
  have hlen : panelLen x 0 = shK x := by simp [panelLen, h.last]
  simp only [panelInto, h.op, h.slot, hlen, h.rows, hacc, if_true]
  refine ⟨_, _, rfl, fun _ => ⟨rfl, rfl, rfl, rfl, rfl⟩, fun r c hr hc => ?_⟩
  dsimp only
  rw [putCorner_getD hr hc]
  refine ⟨fun hout => if_neg hout, fun hrm hcn _ => ?_, fun _ _ hfloat => absurd hacc (by simp [hfloat])⟩
  rw [if_pos ⟨hrm, hcn⟩, corner_getD hr hc _ hrm hcn, ofNat_ofInt, tile_row hc, tile_column hc, toInt_toNat, getD_map_lt (ha ▸ hrm) _ _ 0, getD_map_lt (hb ▸ hcn) _ _ 0,
    ← List.sum_eq_foldl]
  congr 1
  cases neg <;> simp

/-- Without FMT.ACC a panel accumulates as spec/05 says. -/
theorem panelInto_floats (hacc : fmtACC e.fmt = false) :
    ∃ words f, panelInto t g e 0 aw bw [] [] = modHead (modSlots t g (slotWords i words)) g f ∧
      PanelDone f ∧ PanelWords z neg x fa fb e.fmt aw bw (landingAt (t.core g) i).words words := by
  have hlen : panelLen x 0 = shK x := by simp [panelLen, h.last]
  simp only [panelInto, h.op, h.slot, hlen, h.rows, hacc, h.unscaled, if_true]
  refine ⟨_, _, rfl, fun _ => ⟨rfl, rfl, rfl, rfl, rfl⟩, fun r c hr hc => ?_⟩
  dsimp only
  rw [putCorner_getD hr hc]
  refine ⟨fun hout => if_neg hout, fun _ _ hint => absurd hint (by simp [hacc]), fun hrm hcn _ => ?_⟩
  rw [if_pos ⟨hrm, hcn⟩, corner_getD hr hc _ hrm hcn, tile_row hc, tile_column hc, getD_map_lt (ha ▸ hrm) _ _ 0, getD_map_lt (hb ▸ hcn) _ _ 0]
  simp

theorem panelInto_words :
    ∃ words f, panelInto t g e 0 aw bw [] [] = modHead (modSlots t g (slotWords i words)) g f ∧
      PanelDone f ∧ PanelWords z neg x fa fb e.fmt aw bw (landingAt (t.core g) i).words words := by
  cases hacc : fmtACC e.fmt with
  | true => exact panelInto_ints h ha hb hacc
  | false => exact panelInto_floats h ha hb hacc

end

/-! ### The panels of the head (spec/08 R161, R172) -/

/-- The segments of the first panel are read: the head and ROWPROG say so. -/
def withSegs (aw bw : List Nat) (e : MtxEntry) : MtxEntry := { e with segsB := bw, segsA := aw }
def segsRead (u : State) (g : Nat) (e : MtxEntry) (aw bw : List Nat) : State :=
  setRowprog (modHead u g (withSegs aw bw)) e.seq e.tile bw.length aw.length

theorem HeadRuns.segsRead {s t : State} {g : Nat} {e : MtxEntry} {rest : List MtxEntry} {ls : List Landing} (h : HeadRuns s t g e rest ls) (aw bw : List Nat) :
    HeadRuns s (segsRead t g e aw bw) g (withSegs aw bw e) rest ls :=
  (h.entry (f := withSegs aw bw) rfl h.begun).rowprog _ _ _ _

/-- The segments of B, then those of A, can be read, and the state is then `u`. -/
def PanelReads (t u : State) (g asid : Nat) (x : BitVec 512) (fa fb : Fmt) (a b : Nat) (aw bw : List Nat) : Prop :=
  ∃ u1, readAll (fun u r => mtxRead u g asid (segmentB x fb b 0 r) 0) t (List.range (shN x)) [] = (u1, bw, none) ∧
    readAll (fun u r => mtxRead u g asid (segmentA x fa a 0 r) 0) u1 (List.range (shM x)) [] = (u, aw, none)

section
variable {s u : State} {g fuel i : Nat} {e : MtxEntry} {z neg : Bool} {x : BitVec 512} {fa fb : Fmt} {a b : Nat} {aw bw : List Nat}

theorem PanelReads.frame {asid : Nat} (h : PanelReads s u g asid x fa fb a b aw bw) : TlbOnly s u ∧ aw.length = shM x ∧ bw.length = shN x := by
  obtain ⟨u1, hbw, haw⟩ := h
  obtain ⟨hu1, hbl⟩ := readAll_mtxRead hbw
  obtain ⟨hu, hal⟩ := readAll_mtxRead haw
  exact ⟨hu1.trans hu, hal, hbl⟩

variable (hhead : mqHead s g = some e)
include hhead

/-- A panel whose segments can be read is computed. -/
theorem runPanels_read (h : FirstPanel e z neg x fa fb a b i) (hA : e.segsA = []) (hreads : PanelReads s u g (asidOf s e.seq) x fa fb a b aw bw) :
    runPanels g (fuel + 1) s = runPanels g fuel (computed (panelInto (segsRead u g e aw bw) g e 0 aw bw [] []) g (panelLen x 0 * wider fa fb / 16)) := by
  obtain ⟨u1, hbw, haw⟩ := hreads
  simp [runPanels, hhead, h.op, h.panel, h.pos.ne', hA, h.segsB, countB, h.rows, hbw, haw, segsRead] <;> rfl

/-- A panel whose first segment does not translate stops. -/
theorem runPanels_fault (h : FirstPanel e z neg x fa fb a b i) {f : XFault} (hN : 0 < shN x)
    (hf : mtxRead s g (asidOf s e.seq) (segmentB x fb b 0 0) 0 = .fault f) : runPanels g (fuel + 1) s = mtxFault (segsRead s g e e.segsA []) g e f := by
  have hread := readAll_range_fault (f := fun u r => mtxRead u g (asidOf s e.seq) (segmentB x fb b 0 r) 0) hN hf []
  simp [runPanels, hhead, h.op, h.panel, h.pos.ne', h.segsB, countB, h.rows, hread, segsRead] <;> rfl

/-- After its last panel an `mma` is done. -/
theorem runPanels_last (hop : e.op = .mma z neg false x fa fb none none a b) (hls : e.ls = some i) (hp : shK x ≤ 64 * e.panel) :
    runPanels g (fuel + 1) s = modHead (setRowprog (modSlots s g (slotPartial i false)) e.seq 0 0 0) g fun e => { e with done := true } := by
  simp [runPanels, hhead, hop, hp, hls] <;> rfl

end

/-! ### `mma` at the head (spec/08 R161, R172) -/

/-- The head of a queue has run before, is not done and may run. -/
structure Resumes (s : State) (g : Nat) (e : MtxEntry) (rest : List MtxEntry) : Prop where
  queue : (s.core g).mq = e :: rest
  own : ∀ y ∈ rest, y.id ≠ e.id
  head : mqHead s g = some e
  undone : e.done = false
  ready : headReady s e = true
  before : e.resumed = true

/-- The slots of a core once slot `i` holds the words of its last panel. -/
def slotFilled (i : Nat) (words : Tab (BitVec 32)) (ls : List Landing) : List Landing := slotPartial i false (slotWords i words ls)

theorem slotFilled_words {c d : Core} {i : Nat} {words : Tab (BitVec 32)} (hi : i < c.ls.length) (h : d.ls = slotFilled i words c.ls) :
    (landingAt d i).words = words := by
  simp [landingAt, h, slotFilled, slotPartial, slotWords, upd, hi]

section
variable {s : State} {g i : Nat} {e : MtxEntry} {rest : List MtxEntry} {z neg : Bool} {x : BitVec 512} {fa fb : Fmt} {a b : Nat}

theorem mmaExecute_eq (ha : s.args = [g]) (hr : Resumes s g e rest) (hop : e.op = .mma z neg false x fa fb none none a b) :
    exec .mmaExecute s = .next (runPanels g 9 (began s g e)) := by
  show execMmaExecute s = _
  simp [execMmaExecute, State.arg_eq ha, hr.head, MtxEntry.isMma, hop, hr.undone, hr.ready, hr.before, began] <;> rfl

/-- The one panel of a head that runs, and its end. -/
theorem runPanels_onePanel {t u : State} {aw bw : List Nat} {ls : List Landing} (h : HeadRuns s t g e rest ls) (hone : OnePanel e z neg x fa fb a b i)
    (hreads : PanelReads t u g (asidOf t e.seq) x fa fb a b aw bw) :
    ∃ e' words, HeadRuns s (runPanels g 9 t) g e' rest (slotFilled i words ls) ∧ e'.done = true ∧ e'.id = e.id ∧
      PanelWords z neg x fa fb e.fmt aw bw (ls.getD i {}).words words := by
  obtain ⟨hu, hal, hbl⟩ := hreads.frame
  have hread := (h.tlbs hu).segsRead aw bw
  obtain ⟨words, f, hpanel, hf, hwords⟩ := panelInto_words (t := segsRead u g e aw bw) (g := g) hone hal hbl
  obtain ⟨hfp, hfid, hfop, hfls, hfbegun⟩ := hf (withSegs aw bw e)
  have hfilled := (hread.modSlots (slotWords i words)).entry hfid (hfbegun.trans h.begun)
  rw [← hpanel] at hfilled
  have hcomputed := hfilled.computed (panelLen x 0 * wider fa fb / 16)
  have hwhole := ((hcomputed.modSlots (slotPartial i false)).rowprog (f (withSegs aw bw e)).seq 0 0 0).entry (f := fun e => { e with done := true }) rfl hcomputed.begun
  rw [runPanels_read h.head hone.toFirstPanel hone.segsA hreads,
    runPanels_last hcomputed.head (hfop.trans hone.op) (hfls.trans hone.slot) (by rw [hfp]; exact hone.last)]
  rw [landingAt, hread.slots] at hwords
  exact ⟨_, words, hwhole, rfl, hfid, hwords⟩

theorem mmaExecute_done {u : State} {aw bw : List Nat} (hr : Resumes s g e rest) (hone : OnePanel e z neg x fa fb a b i) (hi : i < (s.core g).ls.length)
    (hreads : PanelReads (began s g e) u g (asidOf s e.seq) x fa fb a b aw bw) :
    EventGives .mmaExecute [g] s fun t => SameBytes s t ∧ (∃ e', (t.core g).mq = e' :: rest ∧ e'.done = true ∧ e'.id = e.id) ∧
      PanelWords z neg x fa fb e.fmt aw bw (landingAt (s.core g) i).words (landingAt (t.core g) i).words := by
  intro ha
  refine ⟨_, mmaExecute_eq ha hr hone.op, ?_⟩
  obtain ⟨e', words, hruns, hdone, hid, hwords⟩ := runPanels_onePanel (headRuns_began hr.queue hr.own) hone.begunAs hreads
  refine ⟨hruns.bytes, ⟨e', hruns.queue, hdone, hid⟩, ?_⟩
  rw [slotFilled_words hi hruns.slots]
  exact hwords

/-- A fault leaves a cause and a partial slot. -/
def Stopped (s t : State) (g i : Nat) (e : MtxEntry) (f : XFault) : Prop :=
  SameBytes s t ∧ (t.seq e.seq).causes = (s.seq e.seq).causes ++ [{ f.trap 4 with pc := some e.pc, slot := e.slot, held := e.held }] ∧
    (t.core g).ls = upd (s.core g).ls i (fun l => { l with partial_ := true }) ∧ (t.seq e.seq).mt = (s.seq e.seq).mt

theorem mtxFault_stopped {t : State} {e' : MtxEntry} (h : HeadRuns s t g e' rest (s.core g).ls) (hls : e.ls = some i) (f : XFault) :
    Stopped s (mtxFault t g e f) g i e f := by
  have hmiss := (h.modSlots (slotPartial i true)).tlbs (missTrap_tlbOnly _ g (asidOf (modSlots t g (slotPartial i true)) e.seq) (f.trap 4))
  obtain ⟨hcauses, hmt⟩ := hmiss.seqs e.seq
  rw [mtxFault, hls]
  refine ⟨(hmiss.bytes.trans (modEntry_sameBytes _ _ _ _)).trans (addCause_sameBytes _ _ _), ?_, ?_, ?_⟩
  · rw [addCause, State.seq_modSeq_same]
    exact congrArg (· ++ _) hcauses
  · rw [addCause, State.core_modSeq, modEntry, State.core_modCore_same]
    exact hmiss.slots
  · rw [addCause, State.seq_modSeq_same]
    exact hmt

theorem mmaExecute_fault {f : XFault} (hr : Resumes s g e rest) (hfirst : FirstPanel e z neg x fa fb a b i) (hN : 0 < shN x)
    (hf : mtxRead (began s g e) g (asidOf s e.seq) (segmentB x fb b 0 0) 0 = .fault f) : EventGives .mmaExecute [g] s fun t => Stopped s t g i e f := by
  intro ha
  have hbegan := headRuns_began hr.queue hr.own
  refine ⟨_, mmaExecute_eq ha hr hfirst.op, ?_⟩
  rw [runPanels_fault hbegan.head hfirst.begunAs hN hf]
  exact mtxFault_stopped (e := begunAs e) (hbegan.segsRead e.segsA []) hfirst.slot f

end

/-! ### Operations that leave the queue: a finished `mma`, commits, `mzero` and `mstab` (spec/08 R165, R166, R168, R170) -/

theorem withFlags_counts (con : Bool) (flags : Nat) (q : Seq) : (withFlags con flags q).mt = q.mt ∧ (withFlags con flags q).acc = q.acc := by
  cases con <;> exact ⟨rfl, rfl⟩

theorem popMtx_ctxOf (s : State) (g : Nat) (e : MtxEntry) : (popMtx s g e).ctxOf e.seq = s.ctxOf e.seq := by
  rw [State.ctxOf, popMtx_ctx, popMtx_seq_same]; rfl

theorem tileOf_getD {s : State} {g k : Nat} {e : MtxEntry} (hg : coreOf e.seq = g) (hk : k < 4096) : (tileOf s e).getD k 0 = BitVec.ofNat 32
    ((e.keep.foldl (fun (m : Mem) p => m.write ((s.seq e.seq).winBase + p.1) p.2.1 p.2.2) (s.core g).regs).readNat ((s.seq e.seq).winBase + e.off + 4 * k) 4) := by
  rw [tileOf, tileWords_getD _ _ hk, hg]

/-- A tensor stands in the table of a sequencer's context. -/
def tensorEntered (s : State) (n i : Nat) (y : Tensor) : State := s.modCtx ((s.seq n).ctx.getD 0) fun c => { c with tensors := c.tensors.put i y }

theorem tensorEntered_cores (s : State) (n i : Nat) (y : Tensor) : ((tensorEntered s n i y).ctxOf n).cores = (s.ctxOf n).cores := by
  simp [tensorEntered, State.ctxOf]

/-- The cached scales of a tensor are dropped. -/
def dropScales (asid i : Nat) (c : Core) : Core := { c with scales := c.scales.filter fun y => y.1 ≠ asid || y.2.1 ≠ i }
def dropScalesOn (s : State) (l : List Nat) (asid i : Nat) : State := l.foldl (fun s h => s.modCore h (dropScales asid i)) s

theorem core_modCore_dropScales (s : State) (k asid i h : Nat) :
    (s.modCore k (dropScales asid i)).core h = if h = k then dropScales asid i (s.core h) else s.core h := by
  by_cases hk : h = k
  · subst hk; rw [State.core_modCore_same, if_pos rfl]
  · rw [State.core_modCore_other _ _ _ _ hk, if_neg hk]

section
variable (s : State) (l : List Nat) (asid i : Nat)

theorem dropScalesOn_frame : dropScalesOn s l asid i = { s with cores := (dropScalesOn s l asid i).cores } :=
  List.foldlRecOn (motive := fun t : State => t = { s with cores := t.cores }) l _ rfl fun t ht h _ => by rw [ht]; rfl
/-- Of a core only cached scales go. -/
theorem dropScalesOn_core (h : Nat) : (dropScalesOn s l asid i).core h = { s.core h with scales := ((dropScalesOn s l asid i).core h).scales } ∧
    ∀ c ∈ ((dropScalesOn s l asid i).core h).scales, c ∈ (s.core h).scales := by
  refine List.foldlRecOn (motive := fun t : State => t.core h = { s.core h with scales := (t.core h).scales } ∧ ∀ c ∈ (t.core h).scales, c ∈ (s.core h).scales)
    l _ ⟨rfl, fun _ hc => hc⟩ fun t ht k _ => ?_
  obtain ⟨hcore, hscales⟩ := ht
  rw [core_modCore_dropScales]
  split
  · exact ⟨by rw [hcore]; rfl, fun c hc => hscales c (List.mem_of_mem_filter hc)⟩
  · exact ⟨hcore, hscales⟩
theorem dropScalesOn_dropped : ∀ h ∈ l, ∀ c ∈ ((dropScalesOn s l asid i).core h).scales, c.1 ≠ asid ∨ c.2.1 ≠ i := by
  refine foldl_establishes (get := State.core) (key := id) (Q := fun c => ∀ y ∈ c.scales, y.1 ≠ asid ∨ y.2.1 ≠ i) (fun _ => True)
    (fun _ _ h => h) (fun t h _ => ?_) (fun t k h _ hQ => ?_) l s trivial
  · rw [core_modCore_dropScales, id, if_pos rfl]
    intro y hy
    simpa using (List.mem_filter.mp hy).2
  · rw [core_modCore_dropScales]
    split
    · exact fun y hy => hQ y (List.mem_of_mem_filter hy)
    · exact hQ

end

/-- What an `mstab` at the head does before it leaves. -/
def tensorApplied (s : State) (e : MtxEntry) (i : Nat) (y : Tensor) : State :=
  dropScalesOn (tensorEntered s e.seq i y) (s.arg 0 :: (s.ctxOf e.seq).cores) (asidOf s e.seq) i

theorem execMstabApply_stab {s : State} {e : MtxEntry} {i : Nat} {y : Tensor} (hhead : mqHead s (s.arg 0) = some e) (hop : e.op = .stab i y)
    (hready : headReady s e = true) : execMstabApply s = .next (popMtx (tensorApplied s e i y) (s.arg 0) e) := by
  have harg : (tensorApplied s e i y).arg 0 = s.arg 0 := by rw [tensorApplied, dropScalesOn_frame]; rfl
  rw [← harg, tensorApplied, ← tensorEntered_cores s e.seq i y]
  simp only [execMstabApply, hhead, hready, hop] <;> rfl

section
variable {s : State} {g : Nat} {e : MtxEntry} {rest : List MtxEntry} (hq : (s.core g).mq = e :: rest) (ho : ∀ y ∈ rest, y.id ≠ e.id)

include hq ho in
/-- Leaving from a state in which the tile of the entry has been written and no counter has changed. -/
theorem popMtx_putTile {u : State} {v : Nat} (hg : coreOf e.seq = g) (hcore : u.core g = (putTile s e v).core g) (hmem : u.mem = s.mem)
    (hmt : (u.seq e.seq).mt = (s.seq e.seq).mt) (hacc : (u.seq e.seq).acc = (s.seq e.seq).acc) (hother : ∀ m, m ≠ e.seq → u.seq m = s.seq m) :
    HeadDone s (popMtx u g e) g e.seq rest ∧ TileTakes s (popMtx u g e) g e v := by
  refine ⟨popMtx_headDone ?_ ho hmem hmt hacc hother, putTile_takes hg ?_⟩
  · rw [hcore, ← hg, putTile_core, hg]; exact hq
  · rw [popMtx_core, hcore]

variable (hhead : mqHead s g = some e)
include hq ho hhead

theorem mmaComplete_leaves (hmma : e.isMma = true) (hdone : e.done = true) : EventGives .mmaComplete [g] s fun t =>
    HeadDone s t g e.seq rest ∧ SameBytes s t ∧ ((s.ctxOf e.seq).splice = none → (t.seq e.seq).bank = { (s.seq e.seq).bank with fmt := orFlags (s.seq e.seq).bank.fmt e.flags }) := by
  intro ha
  have hexec : exec .mmaComplete s = .next (lateFlags (popMtx s g e) e.seq e.pc e.flags) := by
    show execMmaComplete s = _
    simp [execMmaComplete, State.arg_eq ha, hhead, hmma, hdone]
  obtain ⟨hqueue, hmt, hmem, hacc, hother⟩ := popMtx_headDone (s := s) hq ho rfl rfl rfl fun _ _ => rfl
  obtain ⟨hfmt, hfacc⟩ := withFlags_counts (inConsumer (popMtx s g e) e.seq e.pc) e.flags ((popMtx s g e).seq e.seq)
  refine ⟨_, hexec, ⟨hqueue, ?_, hmem, ?_, fun m hm => ?_⟩, (popMtx_sameBytes s g e).trans (sameBytes_modSeq _ _ _), fun hsplice => ?_⟩
  · rw [lateFlags, State.seq_modSeq_same, hfmt, hmt]
  · rw [lateFlags, State.seq_modSeq_same, hfacc, hacc]
  · rw [lateFlags, State.seq_modSeq_other _ _ _ _ hm, hother m hm]
  · have hown : inConsumer (popMtx s g e) e.seq e.pc = false := by rw [inConsumer, popMtx_ctxOf, hsplice]
    rw [lateFlags, State.seq_modSeq_same, hown, popMtx_seq_same]
    rfl

variable (hready : headReady s e = true)
include hready

theorem mcommitDrain_hit {i : Nat} (hg : coreOf e.seq = g) (hop : e.op = .commit true) (hls : e.ls = some i) (hclean : tilePoison s e.seq e.off = none) :
    EventGives .mcommitDrain [g] s fun t => HeadDone s t g e.seq rest ∧
      TileTakes s t g e (wordsNat (landingAt (s.core g) i).words) ∧ (t.seq e.seq).drain = (landingAt (s.core g) i).words ∧ (t.seq e.seq).drainInt = e.opens := by
  intro ha
  have hslot : landingAt ((putTile s e (wordsNat (landingAt (s.core g) i).words)).core g) i = landingAt (s.core g) i := by
    rw [← hg, putTile_core]; rfl
  have hexec : exec .mcommitDrain s = .next (popMtx ((putTile s e (wordsNat (landingAt (s.core g) i).words)).modSeq e.seq
      fun q => { q with drain := (landingAt (s.core g) i).words, drainInt := e.opens }) g e) := by
    show execMcommitDrain s = _
    simp [execMcommitDrain, State.arg_eq ha, hhead, hready, hop, hls, hclean, hslot]
  obtain ⟨hleaves, htile⟩ := popMtx_putTile hq ho (v := wordsNat (landingAt (s.core g) i).words)
    (u := (putTile s e _).modSeq e.seq fun q => { q with drain := (landingAt (s.core g) i).words, drainInt := e.opens }) hg rfl
    (putTile_mem _ _ _) (by rw [State.seq_modSeq_same, putTile_seq]) (by rw [State.seq_modSeq_same, putTile_seq])
    fun m hm => by rw [State.seq_modSeq_other _ _ _ _ hm, putTile_seq]
  refine ⟨_, hexec, hleaves, htile, ?_⟩
  rw [popMtx_seq_same, State.seq_modSeq_same]
  exact ⟨rfl, rfl⟩

theorem mcommitDrain_miss (hg : coreOf e.seq = g) (hop : e.op = .commit false) (hclean : tilePoison s e.seq e.off = none) :
    EventGives .mcommitDrain [g] s fun t => HeadDone s t g e.seq rest ∧ SameBytes s t ∧ (∀ k < 4096, ((t.seq e.seq).drain.getD k 0) = BitVec.ofNat 32
        ((e.keep.foldl (fun (m : Mem) p => m.write ((s.seq e.seq).winBase + p.1) p.2.1 p.2.2) (s.core g).regs).readNat ((s.seq e.seq).winBase + e.off + 4 * k) 4)) := by
  intro ha
  have hexec : exec .mcommitDrain s = .next (popMtx (s.modSeq e.seq fun q => { q with drain := tileOf s e, drainInt := e.opens }) g e) := by
    show execMcommitDrain s = _
    simp [execMcommitDrain, State.arg_eq ha, hhead, hready, hop, hclean]
  refine ⟨_, hexec, popMtx_headDone hq ho rfl ?_ ?_ fun m hm => State.seq_modSeq_other _ _ _ _ hm,
    (sameBytes_modSeq _ _ _).trans (popMtx_sameBytes _ _ _), fun k hk => ?_⟩
  · rw [State.seq_modSeq_same]
  · rw [State.seq_modSeq_same]
  · rw [popMtx_seq_same, State.seq_modSeq_same]
    dsimp only
    exact tileOf_getD hg hk

theorem mzeroExecute_zeroes (hg : coreOf e.seq = g) (hop : e.op = .zero) :
    EventGives .mzeroExecute [g] s fun t => HeadDone s t g e.seq rest ∧ TileTakes s t g e 0 := by
  intro ha
  have hexec : exec .mzeroExecute s = .next (popMtx (putTile s e 0) g e) := by
    show execMzeroExecute s = _
    simp [execMzeroExecute, State.arg_eq ha, hhead, hready, hop]
  exact ⟨_, hexec, popMtx_putTile hq ho hg rfl (putTile_mem _ _ _) (by rw [putTile_seq]) (by rw [putTile_seq]) fun m _ => putTile_seq _ _ _ m⟩

theorem mstabApply_enters {i : Nat} {y : Tensor} (hop : e.op = .stab i y) :
    EventGives .mstabApply [g] s fun t => HeadDone s t g e.seq rest ∧ SameBytes s t ∧
      (t.ctx ((s.seq e.seq).ctx.getD 0)).tensors.find? i = some y ∧
      (∀ h ∈ g :: (s.ctxOf e.seq).cores, ∀ c ∈ (t.core h).scales, c ∈ (s.core h).scales ∧ (c.1 ≠ asidOf s e.seq ∨ c.2.1 ≠ i)) := by
  intro ha
  obtain rfl : s.arg 0 = g := State.arg_eq ha 0
  have hframe : tensorApplied s e i y = { tensorEntered s e.seq i y with cores := (tensorApplied s e i y).cores } := dropScalesOn_frame _ _ _ _
  have hcore : ∀ h, (tensorApplied s e i y).core h = { s.core h with scales := ((tensorApplied s e i y).core h).scales } ∧
    ∀ c ∈ ((tensorApplied s e i y).core h).scales, c ∈ (s.core h).scales := dropScalesOn_core (tensorEntered s e.seq i y) _ _ _
  have hseq : ∀ m, (tensorApplied s e i y).seq m = s.seq m := fun m => by rw [hframe]; rfl
  have hctx : ∀ c, (tensorApplied s e i y).ctx c = (tensorEntered s e.seq i y).ctx c := fun c => by rw [hframe]; rfl
  have hbytes : SameBytes s (tensorApplied s e i y) := ⟨by rw [hframe]; rfl, by rw [hframe]; rfl, fun h => by rw [(hcore h).1]⟩
  refine ⟨_, execMstabApply_stab hhead hop hready, popMtx_headDone ?_ ho hbytes.1 (by rw [hseq]) (by rw [hseq]) fun m _ => hseq m,
    hbytes.trans (popMtx_sameBytes _ _ _), ?_, fun h hh c hc => ?_⟩
  · rw [(hcore _).1]; exact hq
  · rw [popMtx_ctx, hctx, tensorEntered, State.ctx_modCtx_same]
    exact tab_find_put_same _ _ _
  · rw [popMtx_core] at hc
    exact ⟨(hcore h).2 c hc, dropScalesOn_dropped _ _ _ _ h hh c hc⟩

end

/-- Settles O50: a run of an `mma` panel by panel, its end by a fault, and what leaves the queue with its effect. -/
theorem matrixQueueRuns : Obligations.MatrixQueueRuns := by
  unfold Obligations.MatrixQueueRuns
  refine ⟨?mma, ?fault, ?complete, ?leave⟩
  case mma =>
    intro s g e rest z neg x fa fb a b i u1 u2 aw bw hq ho hhead _ hop hls hi hdone hready hres hp hA hB hK hK64 hT hSC hbw haw
    exact mmaExecute_done ⟨hq, ho, hhead, hdone, hready, hres⟩ ⟨⟨hop, hls, hp, hB, hK, hT⟩, hA, hK64, hSC⟩ hi ⟨u1, hbw, haw⟩
  case fault =>
    intro s g e rest z neg x fa fb a b i f hq ho hhead hop hls hdone hready hres hp hB hK hN hT hf
    exact mmaExecute_fault ⟨hq, ho, hhead, hdone, hready, hres⟩ ⟨hop, hls, hp, hB, hK, hT⟩ hN hf
  case complete =>
    intro s g e rest hq ho hhead hmma hdone
    exact mmaComplete_leaves hq ho hhead hmma hdone
  case leave =>
    intro s g e rest hq ho hhead hready hg
    exact ⟨fun i hop hls hclean => mcommitDrain_hit hq ho hhead hready hg hop hls hclean,
      fun hop hclean => mcommitDrain_miss hq ho hhead hready hg hop hclean,
      fun hop => mzeroExecute_zeroes hq ho hhead hready hg hop,
      fun i y hop => mstabApply_enters hq ho hhead hready hop⟩

end Sys2Proof.Machine
end

section
/-! SUPPORT. A slot without checks of its own. -/
namespace Sys2Proof.Machine
open Sys2Proof

/-- A slot whose registers are operable, whose target, if it takes one, is a bundle start, and that checks nothing else, has
its effect (spec/02 R442). -/
theorem slot_runs {s : State} {k : Issue} {needs : Issue → SlotNeeds} {effect : Issue → State → State}
    (h : Operable s k (needs k).names (needs k).reads) (he : (needs k).early = none := by rfl) (hr : (needs k).ready = true := by rfl)
    (hv : (needs k).view = true := by rfl) (hf : (needs k).fmtOk = true := by rfl) (hc : (needs k).checks = [] := by rfl)
    (hw : (needs k).wait = none := by rfl) : slot s needs effect = effect k s :=
  slot_effect h hr he hv hf (hc ▸ allPass_nil) hw

end Sys2Proof.Machine
end

section
/-! PROOF. Results of the scalar integer instructions. -/
namespace Sys2Proof.Machine
open Sys2Proof

/-! ### Forms: what a scalar slot that may run writes (spec/06 R115, R119) -/

section
variable {s : State} {k : Issue} {d a b : Reg}

theorem scalarRRR_writes {f : Word → Word → Word → Word} {old : Bool}
    (h : Operable s k (snames [d, a, b]) (snames (if old then [d, a, b] else [a, b]))) :
    scalarRRR s d a b f old = s.ws k d (f (k.rs a) (k.rs b) (k.rs d)) :=
  slot_runs h

theorem scalarRR_writes {f : Word → Word} (h : Operable s k (snames [d, a]) (snames [a])) :
    scalarRR s d a f = s.ws k d (f (k.rs a)) :=
  slot_runs h

theorem scalarRRI_writes {imm : Issue → Word} {f : Word → Word → Word} (h : Operable s k (snames [d, a]) (snames [a])) :
    scalarRRI s d a imm f = s.ws k d (f (k.rs a) (imm k)) :=
  slot_runs h

end

/-- An instruction of the three-operand form computes every function equal to its own. -/
theorem threeOperand_of {i : Reg → Reg → Reg → Instr} {old : Bool} {g f : Word → Word → Word → Word} (hf : ∀ x y o, g x y o = f x y o)
    (hi : ∀ d a b s, exec (i d a b) s = .next (scalarRRR s d a b g old) := by intros; rfl) : ThreeOperand i old f := by
  intro s k d a b h
  rw [hi, scalarRRR_writes h, hf]

/-! ### Functions of words (spec/06 R116) -/

/-- The high half of a product of integers, taken from the low 128 bits of the product. -/
theorem ofInt_high (z : Int) : BitVec.ofInt 64 (z / 2 ^ 64) = ((BitVec.ofInt 128 z) >>> 64).setWidth 64 := by
  apply BitVec.eq_of_toNat_eq
  simp only [BitVec.toNat_setWidth, BitVec.toNat_ushiftRight, BitVec.toNat_ofInt, Nat.shiftRight_eq_div_pow]
  omega

theorem mulHigh_eq (x y : Word) : mulHigh x y = ((x.signExtend 128 * y.signExtend 128) >>> 64).setWidth 64 := by
  rw [mulHigh, ofInt_high, BitVec.ofInt_mul]; rfl

theorem mulHighZ_eq (x y : Word) : mulHighZ x y = ((x.setWidth 128 * y.setWidth 128) >>> 64).setWidth 64 := by
  have hlt : x.toNat * y.toNat < 2 ^ 128 :=
    lt_of_lt_of_eq (Nat.mul_lt_mul'' x.isLt y.isLt) (by norm_num)
  apply BitVec.eq_of_toNat_eq
  rw [BitVec.toNat_setWidth, BitVec.toNat_ushiftRight, BitVec.toNat_mul,
    BitVec.toNat_setWidth_of_le (by decide), BitVec.toNat_setWidth_of_le (by decide), Nat.mod_eq_of_lt hlt, Nat.shiftRight_eq_div_pow,
    mulHighZ, BitVec.toNat_ofNat]

theorem divS_eq (x y : Word) : divS x y = if y = 0 then -1 else x.sdiv y := by
  have hdiv : BitVec.ofInt 64 (x.toInt.tdiv y.toInt) = x.sdiv y := by
    apply BitVec.eq_of_toInt_eq
    rw [BitVec.toInt_ofInt, BitVec.toInt_sdiv]
  rw [divS, hdiv]; rfl

theorem remS_eq (x y : Word) : remS x y = if y = 0 then x else x.srem y := by
  rw [remS, ← BitVec.toInt_srem, BitVec.ofInt_toInt]

theorem divZ_eq (x y : Word) : divZ x y = if y = 0 then -1 else x / y := by
  have hdiv : BitVec.ofNat 64 (x.toNat / y.toNat) = x / y := by
    rw [← BitVec.toNat_udiv, BitVec.ofNat_toNat, BitVec.setWidth_eq]
  rw [divZ, hdiv]; rfl

theorem remZ_eq (x y : Word) : remZ x y = if y = 0 then x else x % y := by
  rw [remZ, ← BitVec.toNat_umod, BitVec.ofNat_toNat, BitVec.setWidth_eq]

/-! ### Shifts, comparisons, addresses (spec/06 R115-R118) -/

theorem toNat_low6 (y : Word) : (y.setWidth 6).toNat = y.toNat % 64 := BitVec.toNat_setWidth 6 y

theorem shiftL_eq (x y : Word) : shiftL x y = x <<< (y.setWidth 6) := by rw [shiftL, BitVec.shiftLeft_eq', toNat_low6]
theorem shiftR_eq (x y : Word) : shiftR x y = x >>> (y.setWidth 6) := by rw [shiftR, BitVec.ushiftRight_eq', toNat_low6]

theorem shiftA_eq (x y : Word) : shiftA x y = x.sshiftRight (y.setWidth 6).toNat := by rw [shiftA, toNat_low6]

theorem boolWord_decide (p : Prop) [Decidable p] : boolWord (decide p) = if p then 1 else 0 := by simp [boolWord]

/-- What one comparison of two words chooses, by the opposite one. -/
theorem choose_slt (x y u v : Word) : (if x.slt y then u else v) = if y.toInt ≤ x.toInt then v else u := by
  rw [BitVec.slt_eq_decide, ← ite_not]
  simp only [decide_eq_true_eq, not_lt]
theorem choose_ult (x y u v : Word) : (if x.ult y then u else v) = if y.toNat ≤ x.toNat then v else u := by
  rw [BitVec.ult_eq_decide, ← ite_not]
  simp only [decide_eq_true_eq, not_lt]

/-- Where two values are equal, either may be chosen. -/
theorem choose_greater {α β : Type} [LinearOrder β] {f : α → β} (hf : Function.Injective f) (x y : α) :
    (if f y ≤ f x then x else y) = if f x ≤ f y then y else x := by
  rcases lt_trichotomy (f x) (f y) with h | h | h
  · rw [if_neg h.not_ge, if_pos h.le]
  · rw [if_pos h.ge, if_pos h.le, hf h]
  · rw [if_pos h.le, if_neg h.not_ge]

theorem shiftLeft_eq_mul (y : Word) (m : Nat) : y <<< m = BitVec.ofNat 64 (2 ^ m) * y := by
  apply BitVec.eq_of_toNat_eq
  simp [BitVec.toNat_shiftLeft, Nat.shiftLeft_eq, Nat.mul_comm]

/-! ### Bit fields (spec/06 R118) -/

theorem fieldPos_eq (y : Word) : fieldPos y = y.toNat % 64 := by simp [fieldPos, fld, bits]
theorem fieldLen_eq (y : Word) : fieldLen y = y.toNat / 256 % 64 + 1 := by simp [fieldLen, fld, bits]

theorem bitFieldGet_unsigned (x y : Word) :
    bitFieldGet false x y = (x >>> (y.setWidth 6)) &&& BitVec.ofNat 64 (2 ^ (y.toNat / 256 % 64 + 1) - 1) := by
  have hmask : 2 ^ (y.toNat / 256 % 64 + 1) - 1 < 2 ^ 64 :=
    lt_of_lt_of_le (Nat.sub_lt (by positivity) (by decide)) (Nat.pow_le_pow_right (by decide) (by omega))
  apply BitVec.eq_of_toNat_eq
  rw [BitVec.toNat_and, BitVec.ushiftRight_eq', BitVec.toNat_ushiftRight, toNat_low6, BitVec.toNat_ofNat, Nat.mod_eq_of_lt hmask,
    Nat.and_two_pow_sub_one_eq_mod, Nat.shiftRight_eq_div_pow]
  have hlt : x.toNat / 2 ^ (y.toNat % 64) % 2 ^ (y.toNat / 256 % 64 + 1) < 2 ^ 64 :=
    lt_of_le_of_lt (Nat.mod_le _ _) (lt_of_le_of_lt (Nat.div_le_self _ _) x.isLt)
  simpa [bitFieldGet, fieldPos_eq, fieldLen_eq] using hlt

/-- A signed field is its bits, sign-extended: those that the word has above the field's position. -/
theorem bitFieldGet_signed_eq_signExtend {x y : Word} {p n : Nat} (hp : fieldPos y = p) (hn : min (fieldLen y) (64 - p) = n) :
    bitFieldGet true x y = (x.extractLsb' p n).signExtend 64 := by
  have hle : n ≤ 64 := by omega
  have hbits : x.toNat / 2 ^ p % 2 ^ fieldLen y = (x.extractLsb' p n).toNat := by
    rw [BitVec.extractLsb'_toNat, Nat.shiftRight_eq_div_pow, ← hn]
    rcases Nat.le_total (fieldLen y) (64 - p) with h | h
    · rw [Nat.min_eq_left h]
    · have hhigh : x.toNat / 2 ^ p < 2 ^ (64 - p) := by
        rw [Nat.div_lt_iff_lt_mul (by positivity), ← Nat.pow_add, Nat.sub_add_cancel (by rw [← hp, fieldPos_eq]; omega)]
        exact x.isLt
      rw [Nat.min_eq_right h, Nat.mod_eq_of_lt hhigh, Nat.mod_eq_of_lt (hhigh.trans_le (Nat.pow_le_pow_right (by decide) h))]
  have hmsb : (x.extractLsb' p n).msb = decide ((x.extractLsb' p n).toNat / 2 ^ (n - 1) % 2 = 1) := by
    rw [BitVec.msb_eq_getLsbD_last, BitVec.getLsbD, Nat.testBit_eq_decide_div_mod_eq]
  have hlt := (x.extractLsb' p n).isLt
  have hpow : 2 ^ n ≤ 2 ^ 64 := Nat.pow_le_pow_right (by decide) hle
  have hmin : Nat.min (fieldLen y) (64 - p) = n := hn
  apply BitVec.eq_of_toNat_eq
  rw [BitVec.toNat_signExtend, BitVec.toNat_setWidth_of_le hle, hmsb]
  simp only [bitFieldGet, hp, hmin, hbits, Bool.true_and, BitVec.toNat_ofNat]
  split
  · rw [Nat.mod_eq_of_lt (by omega)]
  · rw [Nat.mod_eq_of_lt (by omega), Nat.add_zero]

/-- A field of a word, sign-extended, by a shift to the top and back. -/
theorem signExtend_extractLsb' (x : Word) {p n : Nat} (h0 : 0 < n) (hpn : p + n ≤ 64) :
    (x.extractLsb' p n).signExtend 64 = (x <<< (64 - n - p)).sshiftRight (64 - n) := by
  ext i hi
  rw [BitVec.getElem_signExtend, BitVec.getElem_sshiftRight, BitVec.msb_eq_getLsbD_last, BitVec.msb_eq_getLsbD_last]
  by_cases hin : i < n
  · rw [dif_pos hin, dif_pos (by omega), BitVec.getElem_extractLsb', BitVec.getElem_shiftLeft,
      BitVec.getLsbD_eq_getElem (by omega)]
    simp [show ¬ 64 - n + i < 64 - n - p by omega, show 64 - n + i - (64 - n - p) = p + i by omega]
  · rw [dif_neg hin, dif_neg (by omega), BitVec.getLsbD_extractLsb', BitVec.getLsbD_shiftLeft,
      show 64 - 1 - (64 - n - p) = p + (n - 1) by omega]
    simp only [show n - 1 < n by omega, show ¬ 64 - 1 < 64 - n - p by omega, decide_true, decide_false, Bool.not_false, Bool.true_and]
    rfl

theorem bitFieldGet_signed (x y : Word) :
    bitFieldGet true x y =
      let n := min (y.toNat / 256 % 64 + 1) (64 - y.toNat % 64)
      (x <<< (64 - n - y.toNat % 64)).sshiftRight (64 - n) := by
  have h0 : 0 < min (y.toNat / 256 % 64 + 1) (64 - y.toNat % 64) := by omega
  rw [bitFieldGet_signed_eq_signExtend (fieldPos_eq y) (by rw [fieldLen_eq]), signExtend_extractLsb' x h0 (by omega)]

theorem bitFieldPut_eq (o x y : Word) :
    bitFieldPut o x y =
      let m : Word := (BitVec.ofNat 64 (2 ^ (y.toNat / 256 % 64 + 1) - 1)) <<< (y.setWidth 6)
      (o &&& ~~~ m) ||| ((x <<< (y.setWidth 6)) &&& m) := by
  have hmask : BitVec.ofNat 64 ((2 ^ fieldLen y - 1) * 2 ^ fieldPos y) =
      (BitVec.ofNat 64 (2 ^ (y.toNat / 256 % 64 + 1) - 1)) <<< (y.setWidth 6) := by
    apply BitVec.eq_of_toNat_eq
    rw [BitVec.shiftLeft_eq', BitVec.toNat_shiftLeft, toNat_low6, BitVec.toNat_ofNat, BitVec.toNat_ofNat, Nat.shiftLeft_eq, Nat.mod_mul_mod,
      fieldLen_eq, fieldPos_eq]
  have hshift : x <<< fieldPos y = x <<< (y.setWidth 6) := by rw [BitVec.shiftLeft_eq', toNat_low6, fieldPos_eq]
  simp only [bitFieldPut, hmask, hshift]

/-- Settles O9: each form writes its function, and the functions are those of words. -/
theorem scalarThreeOperand : Obligations.ScalarThreeOperand := by
  unfold Obligations.ScalarThreeOperand
  refine ⟨?add, ?sub, ?mul, ?mulh, ?mulhz, ?div, ?divz, ?rem, ?remz, ?and, ?or, ?xor, ?andn, ?shl, ?shr, ?sra, ?slt, ?sltz, ?seq,
    ?min, ?max, ?minz, ?maxz, ?sel, ?bfx, ?bfxSigned, ?bfi, ?lea0, ?lea1, ?lea2, ?lea3⟩
  case mulh => exact threeOperand_of fun x y _ => mulHigh_eq x y
  case mulhz => exact threeOperand_of fun x y _ => mulHighZ_eq x y
  case div => exact threeOperand_of fun x y _ => divS_eq x y
  case divz => exact threeOperand_of fun x y _ => divZ_eq x y
  case rem => exact threeOperand_of fun x y _ => remS_eq x y
  case remz => exact threeOperand_of fun x y _ => remZ_eq x y
  case shl => exact threeOperand_of fun x y _ => shiftL_eq x y
  case shr => exact threeOperand_of fun x y _ => shiftR_eq x y
  case sra => exact threeOperand_of fun x y _ => shiftA_eq x y
  case slt => exact threeOperand_of fun x y _ => boolWord_decide (x.toInt < y.toInt)
  case sltz => exact threeOperand_of fun x y _ => boolWord_decide (x.toNat < y.toNat)
  case seq => exact threeOperand_of fun x y _ => boolWord_decide (x = y)
  case min => exact threeOperand_of fun x y _ => choose_slt y x y x
  case max => exact threeOperand_of fun x y _ => (choose_slt x y y x).trans (choose_greater (fun _ _ => BitVec.eq_of_toInt_eq) x y)
  case minz => exact threeOperand_of fun x y _ => choose_ult y x y x
  case maxz => exact threeOperand_of fun x y _ => (choose_ult x y y x).trans (choose_greater (fun _ _ => BitVec.eq_of_toNat_eq) x y)
  case sel => exact threeOperand_of fun x y o => (ite_not (o = 0) x y).symm
  case bfx => exact threeOperand_of fun x y _ => bitFieldGet_unsigned x y
  case bfxSigned => exact threeOperand_of fun x y _ => bitFieldGet_signed x y
  case bfi => exact threeOperand_of fun x y o => bitFieldPut_eq o x y
  case lea0 => exact threeOperand_of fun x y _ => congrArg (x + ·) (shiftLeft_eq_mul y 0 |>.trans (one_mul y))
  case lea1 => exact threeOperand_of fun x y _ => congrArg (x + ·) (shiftLeft_eq_mul y 1)
  case lea2 => exact threeOperand_of fun x y _ => congrArg (x + ·) (shiftLeft_eq_mul y 2)
  case lea3 => exact threeOperand_of fun x y _ => congrArg (x + ·) (shiftLeft_eq_mul y 3)
  all_goals exact threeOperand_of fun _ _ _ => rfl

end Sys2Proof.Machine
end

section
/-! PROOF. Results of the scalar instructions with an immediate, of the bit counts, and of the reads of time. -/
namespace Sys2Proof.Machine
open Sys2Proof

/-! ### Immediates as words (spec/02 R34) -/

theorem immS_eq (k : Issue) {w : Nat} (i : BitVec w) : immS k w i.toNat = match k.ext with
    | none => i.signExtend 64
    | some x => (x ++ i).signExtend 64 := by
  cases h : k.ext with
  | none => simp only [immS, immWide, h, toInt_toNat]; rfl
  | some x =>
    simp only [immS, immWide_some i h]
    rw [Nat.add_comm w 17, toInt_toNat]; rfl

theorem immZ_eq (k : Issue) {w : Nat} (i : BitVec w) : immZ k w i.toNat = match k.ext with
    | none => i.setWidth 64
    | some x => (x ++ i).setWidth 64 := by
  cases h : k.ext with
  | none => simp only [immZ, immWide, h]; exact BitVec.ofNat_toNat 64 i
  | some x => simp only [immZ, immWide_some i h]; exact BitVec.ofNat_toNat 64 (x ++ i)

/-- An extension that is zero changes nothing. -/
theorem immZ_unextended {k : Issue} {w : Nat} (i : BitVec w) (h : ∀ x, k.ext = some x → x = 0) : immZ k w i.toNat = BitVec.ofNat 64 i.toNat := by
  cases hx : k.ext with
  | none => simp [immZ, immWide, hx]
  | some x => simp [immZ, immWide, hx, h x hx]

/-! ### Forms with an immediate (spec/06 R119) -/

section
variable {i : Reg → Reg → BitVec 8 → Instr} {f : Word → Word → Word → Word} {g : Word → Word → Word}

theorem immediate_of_signed (hf : ∀ x z w, g x z = f x z w)
    (hi : ∀ d a imm s, exec (i d a imm) s = .next (scalarRRI s d a (fun k => immS k 8 imm.toNat) g) := by intros; rfl) : Immediate i f := by
  intro s k d a imm h
  rw [hi, scalarRRI_writes h, immS_eq]
  cases k.ext <;> exact congrArg (fun v => Host.Outcome.next (s.ws k d v)) (hf _ _ _)

theorem immediate_of_zero (hf : ∀ x z w, g x w = f x z w)
    (hi : ∀ d a imm s, exec (i d a imm) s = .next (scalarRRI s d a (fun k => immZ k 8 imm.toNat) g) := by intros; rfl) : Immediate i f := by
  intro s k d a imm h
  rw [hi, scalarRRI_writes h, immZ_eq]
  cases k.ext <;> exact congrArg (fun v => Host.Outcome.next (s.ws k d v)) (hf _ _ _)

/-- A shift by an immediate shifts by its value: it is below 64. -/
theorem shiftImmediate_of {f : Word → Nat → Word} (hwf : ∀ d a imm, (i d a imm).wf = true → imm.toNat < 64)
    (hf : ∀ x y, g x y = f x (y.toNat % 64))
    (hi : ∀ d a imm s, exec (i d a imm) s = .next (scalarRRI s d a (fun k => immZ k 8 imm.toNat) g) := by intros; rfl) : ShiftImmediate i f := by
  intro s k d a imm h hw hx
  have himm : (BitVec.ofNat 64 imm.toNat).toNat % 64 = imm.toNat := by
    have := hwf d a imm hw
    rw [BitVec.toNat_ofNat]; omega
  rw [hi, scalarRRI_writes h, immZ_unextended imm hx, hf, himm]

end

/-- Settles O10: each form takes its immediate signed or zero-extended, a shift its low bits. -/
theorem scalarImmediate : Obligations.ScalarImmediate := by
  unfold Obligations.ScalarImmediate
  refine ⟨?addi, ?andi, ?ori, ?xori, ?slti, ?shli, ?shri, ?srai, ?li, ?lih⟩
  case addi => exact immediate_of_signed fun _ _ _ => rfl
  case andi => exact immediate_of_signed fun _ _ _ => rfl
  case ori => exact immediate_of_zero fun _ _ _ => rfl
  case xori => exact immediate_of_zero fun _ _ _ => rfl
  case slti => exact immediate_of_signed fun x z _ => boolWord_decide (x.toInt < z.toInt)
  case shli => exact shiftImmediate_of (fun _ _ _ h => by simpa [Instr.wf] using h) fun _ _ => rfl
  case shri => exact shiftImmediate_of (fun _ _ _ h => by simpa [Instr.wf] using h) fun _ _ => rfl
  case srai => exact shiftImmediate_of (fun _ _ _ h => by simpa [Instr.wf] using h) fun _ _ => rfl
  case li =>
    intro s k d i h
    exact congrArg Host.Outcome.next ((slot_runs h).trans (congrArg (s.ws k d) (immS_eq k i)))
  case lih =>
    intro s k d i h
    exact congrArg Host.Outcome.next ((slot_runs h).trans
      (congrArg (fun z => s.ws k d ((k.rs d <<< 31) ||| z)) (immZ_eq k i)))

/-! ### Bit counts (spec/06 R115) -/

/-- The zeros from bit `n` down, by the recursion of `BitVec.clz` and along a list of these bits. -/
theorem clzAuxRec_eq_takeWhile (x : Word) {n : Nat} (hn : n < 64) {b : Nat → Bool} (hb : ∀ j ≤ n, b j = x.getLsbD (n - j)) :
    x.clzAuxRec n = BitVec.ofNat 64 (63 - n + ((List.range (n + 1)).takeWhile fun j => !b j).length) := by
  induction n generalizing b with
  | zero =>
    rw [BitVec.clzAuxRec_zero, List.range_one, List.takeWhile_cons, hb 0 le_rfl]
    cases x.getLsbD 0 <;> rfl
  | succ n ih =>
    have hrest := ih (by omega) (b := b ∘ Nat.succ) fun j hj => by
      rw [Function.comp_apply, hb _ (by omega), Nat.succ_eq_add_one, Nat.add_sub_add_right]
    rw [BitVec.clzAuxRec_succ, List.range_succ_eq_map, List.takeWhile_cons, List.takeWhile_map,
      show ((fun j => !b j) ∘ Nat.succ) = fun j => !(b ∘ Nat.succ) j from rfl, hb 0 (by omega), Nat.sub_zero]
    cases x.getLsbD (n + 1) with
    | true => rfl
    | false =>
      simp only [Bool.not_false, if_true, Bool.false_eq_true, if_false, List.length_cons, List.length_map, hrest]
      exact congrArg (BitVec.ofNat 64) (by omega)

theorem leadingZeros_eq (x : Word) : BitVec.ofNat 64 (leadingZeros x) = x.clz := by
  rw [BitVec.clz, clzAuxRec_eq_takeWhile x (by decide) fun _ _ => rfl, Nat.sub_self, Nat.zero_add]; rfl

/-- The zeros from bit 0 up are those from bit 63 down of the bits in reverse. -/
theorem trailingZeros_eq (x : Word) : BitVec.ofNat 64 (trailingZeros x) = x.reverse.clz := by
  have hrev : ∀ j ≤ 63, x.getLsbD j = x.reverse.getLsbD (63 - j) := fun j hj => by
    rw [BitVec.getLsbD_reverse, BitVec.getMsbD_eq_getLsbD]
    simp only [show 63 - j < 64 by omega, decide_true, Bool.true_and, show 64 - 1 - (63 - j) = j by omega]
  rw [BitVec.clz, clzAuxRec_eq_takeWhile x.reverse (by decide) hrev, Nat.sub_self, Nat.zero_add]; rfl

/-- Settles O11: the counts by the bits of the word, the times by the state at issue. -/
theorem scalarCountsAndTime : Obligations.ScalarCountsAndTime := by
  unfold Obligations.ScalarCountsAndTime
  refine ⟨?counts, ?times⟩
  case counts =>
    intro s k d a h
    refine ⟨congrArg Host.Outcome.next ((scalarRR_writes h).trans ?_), congrArg Host.Outcome.next ((scalarRR_writes h).trans ?_),
      congrArg Host.Outcome.next (scalarRR_writes h)⟩
    · rw [leadingZeros_eq]
    · rw [trailingZeros_eq]
  case times =>
    intro s k d h
    exact ⟨congrArg Host.Outcome.next (slot_runs h),
      congrArg Host.Outcome.next (slot_runs h)⟩

end Sys2Proof.Machine
end

section
/-! PROOF. Results of the scalar float instructions. -/
namespace Sys2Proof.Machine
open Sys2Proof

/-! ### Operands and results as words (spec/06 R121, R124) -/

/-- A scalar holds an f64 pattern whole, an f32 pattern in its low half. -/
theorem lowBits_scalarFmt (p : Bool) (x : Word) : lowBits (scalarFmt p) x = if p then x.toNat else x.toNat % 2 ^ 32 := by
  cases p with
  | false => rfl
  | true => exact Nat.mod_eq_of_lt x.isLt

/-- A signed integer element is sign-extended. -/
theorem asScalar_eq (f : Fmt) (x : Nat) :
    asScalar f x = if Fp.isSigned f then (BitVec.ofNat (Fp.width f) x).signExtend 64 else BitVec.ofNat 64 x := by
  have hsign : BitVec.ofInt 64 (toInt (Fp.width f) x) = (BitVec.ofNat (Fp.width f) x).signExtend 64 := by
    rw [BitVec.signExtend, ← toInt_toNat, BitVec.toNat_ofNat, toInt, toInt, Nat.mod_mod]
  rw [asScalar, hsign]

/-! ### Forms (spec/06 R121-R123) -/

section
variable {s : State} {k : Issue} {d a b : Reg}

theorem floatRRR_writes {p old : Bool} {g : Fmt → Nat → Nat → Nat → Nat → Nat × Nat}
    (h : Operable s k (snames [d, a, b]) (snames (if old then [d, a, b] else [a, b]))) :
    floatRRR s d a b p g old =
      let r := g (scalarFmt p) (fmtRM k.fmt) (lowBits (scalarFmt p) (k.rs a)) (lowBits (scalarFmt p) (k.rs b)) (lowBits (scalarFmt p) (k.rs d))
      (s.ws k d (BitVec.ofNat 64 r.1)).flag r.2 :=
  slot_runs h

end

/-- The rounding mode of FMT (spec/04 R70). -/
theorem fmtRM_eq (f : BitVec 32) : fmtRM f = f.toNat / 2 ^ 15 % 4 := rfl

/-- An instruction of the form gives the pattern and the flags of its operation; none of them saturates. -/
theorem floatOperand_of {i : Reg → Reg → Reg → Bool → Instr} {old : Bool} {g : Fmt → Nat → Nat → Nat → Nat → Nat × Nat}
    (hi : ∀ d a b p s, exec (i d a b p) s = .next (floatRRR s d a b p g old) := by intros; rfl) :
    FloatOperand i old fun f m _ x y o => g f m x y o := by
  intro s k d a b p h
  rw [hi, floatRRR_writes h]
  simp only [lowBits_scalarFmt, fmtRM_eq]
  rfl

/-- Settles O12: the forms by their operations on patterns, `fsqrt` and `fcvt` by their own. -/
theorem scalarFloatResults : Obligations.ScalarFloatResults := by
  unfold Obligations.ScalarFloatResults
  refine ⟨floatOperand_of, floatOperand_of, floatOperand_of, floatOperand_of, floatOperand_of, floatOperand_of, floatOperand_of,
    floatOperand_of, floatOperand_of, ?fsqrt, ?fcvt⟩
  case fsqrt =>
    intro s k d a p h
    refine congrArg Host.Outcome.next ((slot_runs h).trans ?_)
    simp only [lowBits_scalarFmt]
    rfl
  case fcvt =>
    intro s k d a f g h
    refine congrArg Host.Outcome.next ((slot_runs h).trans ?_)
    simp only [asScalar_eq]
    rfl

end Sys2Proof.Machine
end

section
/-! PROOF. Control transfers, calls and returns. -/
namespace Sys2Proof.Machine
open Sys2Proof

/-! ### Conditions (spec/06 R99) -/

theorem condHolds_iff (x : Word) : condHolds .eq x = decide (x = 0) ∧ condHolds .ne x = decide (x ≠ 0) ∧ condHolds .lt x = x.msb ∧
    condHolds .ge x = !x.msb ∧ condHolds .gt x = (!x.msb && decide (x ≠ 0)) ∧ condHolds .le x = (x.msb || decide (x = 0)) ∧
    condHolds .b0 x = x.getLsbD 0 := by
  have hneg : x.msb = decide (x.toInt < 0) := BitVec.msb_eq_toInt
  have hpos : 0 < x.toInt ↔ 0 ≤ x.toInt ∧ x ≠ 0 := by
    rw [lt_iff_le_and_ne, ne_comm, ne_eq, ne_eq, ← BitVec.toInt_inj]; rfl
  refine ⟨rfl, rfl, hneg.symm, ?_, ?_, ?_, rfl⟩
  · simp only [condHolds, hneg, ← decide_not, not_lt]
  · simp only [condHolds, hneg, hpos, ← decide_not, not_lt, Bool.decide_and]
  · simp only [condHolds, hneg, ← Bool.decide_or, ← not_lt, hpos, not_and_or, not_not]

/-! ### Held slots (spec/02 R39) -/

theorem clearHeld_eq (s : State) (k : Issue) (m : Nat) : clearHeld s k m = s.modSeq k.n fun q => q.setBank k.consumer
    { q.bankOf k.consumer with held := (q.bankOf k.consumer).held.filter fun e => m / 2 ^ (e.1 - 2) % 2 ≠ 1 } := by
  simp only [clearHeld, bit, ne_eq, decide_not]
/-- A mask of all six classes clears the held slots of every class. -/
theorem clearHeld_all (s : State) (k : Issue) : clearHeld s k 63 = noHeld s k := clearHeld_eq s k 63

/-- Clearing held slots leaves the sequencer in its context. -/
@[simp] theorem ctxOf_clearHeld (s : State) (k : Issue) (m : Nat) : (clearHeld s k m).ctxOf k.n = s.ctxOf k.n := by
  rw [State.ctxOf, State.ctxOf, clearHeld, State.seq_modSeq_same, Seq.setBank]
  split <;> rfl

/-- Settles O23: each slot's target passes its check, and its effect is the transfer, the link and the cleared holds. -/
theorem transfersGo : Obligations.TransfersGo := by
  unfold Obligations.TransfersGo
  refine ⟨?br, ?taken, ?untaken, condHolds_iff, ?jmp, ?call, ?callr, ?ret, ?retGang, ?retTask, ?haltGang, ?haltTask, ?nop⟩
  case br =>
    intro s k off hi ht
    rw [← branchTarget_eq] at ht ⊢
    exact congrArg Host.Outcome.next (slot_runs (operable_nil hi) (targetTrap_start ht))
  case taken =>
    intro s k c a off h hc ht
    rw [← branchTarget_eq] at ht ⊢
    exact congrArg Host.Outcome.next ((slot_runs h ((if_pos hc).trans (targetTrap_start ht))).trans (if_pos hc))
  case untaken =>
    intro s k c a off h hc
    have hc' : ¬ condHolds c (k.rs a) = true := by simp [hc]
    exact congrArg Host.Outcome.next ((slot_runs h (if_neg hc')).trans (if_neg hc'))
  case jmp =>
    intro s k a h ht
    exact congrArg Host.Outcome.next (slot_runs h (targetTrap_start ht))
  case call =>
    intro s k off h ht
    rw [← branchTarget_eq] at ht ⊢
    rw [← clearHeld_all]
    exact congrArg Host.Outcome.next (slot_runs h (targetTrap_start ht))
  case callr =>
    intro s k a h ht
    rw [← clearHeld_all]
    exact congrArg Host.Outcome.next (slot_runs h (targetTrap_start ht))
  case ret =>
    intro s k h hx ht
    have hx' : ¬ k.rs linkReg = exitWord := hx
    rw [← clearHeld_all]
    refine congrArg Host.Outcome.next ((slot_runs ?names ((if_neg hx').trans (targetTrap_start ht))).trans (if_neg hx'))
    case names => simp only [hx', decide_false, Bool.false_and, Bool.false_eq_true, if_false]; exact h
  case retGang =>
    intro s k h hx hg
    have hx' : k.rs linkReg = exitWord := hx
    rw [← clearHeld_all]
    refine congrArg Host.Outcome.next ((slot_runs ?names (if_pos hx')).trans ((if_pos hx').trans ?effect))
    case names => simp only [hg, Bool.and_false, Bool.false_eq_true, if_false]; exact h
    case effect => rw [ctxOf_clearHeld, hg]; rfl
  case retTask =>
    intro s k h hx hg
    have hx' : k.rs linkReg = exitWord := hx
    rw [← clearHeld_all]
    refine congrArg Host.Outcome.next ((slot_runs ?names (if_pos hx')).trans ((if_pos hx').trans ?effect))
    case names => simp only [hx', hg, decide_true, Bool.true_and, if_true]; exact h
    case effect => rw [ctxOf_clearHeld, hg]; rfl
  case haltGang =>
    intro s k hi hg
    rw [← clearHeld_all]
    refine congrArg Host.Outcome.next ((slot_runs (k := k) ?names).trans ?effect)
    case names => simp only [hg, Bool.false_eq_true, if_false]; exact operable_nil hi
    case effect => rw [hg]; rfl
  case haltTask =>
    intro s k h hg
    rw [← clearHeld_all]
    refine congrArg Host.Outcome.next ((slot_runs (k := k) ?names).trans ?effect)
    case names => simp only [hg, if_true]; exact h
    case effect => rw [hg]; rfl
  case nop =>
    intro s k hi
    exact congrArg Host.Outcome.next (slot_runs (operable_nil hi))

end Sys2Proof.Machine
end

section
/-! PROOF. Format, views, held slots, markers and prefixes. -/
namespace Sys2Proof.Machine
open Sys2Proof

/-! ### Values written (spec/04 R62, R70, spec/02 R34) -/

/-- A word above another one, as a sum. -/
theorem toNat_append_add {v w : Nat} (x : BitVec v) (y : BitVec w) : (x ++ y).toNat = x.toNat * 2 ^ w + y.toNat := by
  rw [BitVec.toNat_append, ← Nat.shiftLeft_add_eq_or_of_lt y.isLt, Nat.shiftLeft_eq]

/-- The value that `fmti` writes: an extension stands above its immediate. -/
theorem fmtiValue_eq (k : Issue) (i : BitVec 20) : BitVec.ofNat 32 (immWide k 20 i.toNat).2 = (k.ext.elim 0 (·.setWidth 12)) ++ i := by
  apply BitVec.eq_of_toNat_eq
  rw [immWide_snd, BitVec.toNat_ofNat, toNat_append_add]
  cases k.ext with
  | none => exact Nat.mod_eq_of_lt (by simp only [Option.elim_none]; omega)
  | some e => simp only [Option.elim_some, BitVec.toNat_setWidth]; omega

theorem viewOfWord_eq (x : Word) : viewOfWord x = ⟨x.toNat % 2 ^ 32, x.toNat / 2 ^ 32⟩ := by
  have hsize : x.toNat / 2 ^ 32 < 2 ^ 32 := by omega
  rw [viewOfWord, View.mk.injEq]
  exact ⟨by simp [fld, bits], Nat.mod_eq_of_lt hsize⟩

/-- The view that a scalar describes fits the window. -/
theorem viewFits_iff (q : Seq) (x : Word) : viewFits q (viewOfWord x) = true ↔
    x.toNat % 2 ^ 32 % 64 = 0 ∧ x.toNat / 2 ^ 32 % 64 = 0 ∧ x.toNat % 2 ^ 32 + x.toNat / 2 ^ 32 ≤ q.winSize := by
  rw [viewOfWord_eq, viewFits]
  simp only [Bool.and_eq_true, decide_eq_true_eq, and_assoc]

/-- A new view that does not fit traps in phase 2. -/
theorem slot_newView {s : State} {k : Issue} {needs : Issue → SlotNeeds} {effect : Issue → State → State}
    (h : Operable s k (needs k).names (needs k).reads) (hr : (needs k).ready = true) (he : (needs k).early = none)
    (hv : (needs k).view = false) : slot s needs effect = s.raise 2 { cause := .viewOut } := by
  obtain ⟨hi, hn, -⟩ := h
  have hawaited : ((needs k).names.all fun x => !x.ok k.before || x.ready k) = true := by
    rw [List.all_eq_true]; intro x hx; simp [(hn x hx).2]
  simp [slot, hi, SlotNeeds.badTarget_none he, hr, hawaited, hv]

/-- Settles O27: each writes its own part of the state, a view that does not fit excepted. -/
theorem formatViewsPrefixes : Obligations.FormatViewsPrefixes := by
  unfold Obligations.FormatViewsPrefixes
  refine ⟨?fmt, ?fmti, ?vset, ?unhold, ?phase, ?ulimask, ?scope, ?imx⟩
  case fmt =>
    intro s k a h
    exact congrArg Host.Outcome.next (slot_runs h)
  case fmti =>
    intro s k i hi
    rw [← fmtiValue_eq]
    exact congrArg Host.Outcome.next (slot_runs (operable_nil hi))
  case vset =>
    intro s k w a h
    dsimp only
    rw [← viewFits_iff, ← viewOfWord_eq]
    refine ⟨fun hfits => congrArg Host.Outcome.next (slot_runs h (hv := hfits)), fun hfits => ?_⟩
    exact congrArg Host.Outcome.next (slot_newView h rfl rfl (Bool.eq_false_iff.2 hfits))
  case unhold =>
    intro s k m hi
    rw [← clearHeld_eq]
    exact congrArg Host.Outcome.next (slot_runs (operable_nil hi))
  case phase =>
    intro s k i hi
    rw [← immWide_snd]
    exact congrArg Host.Outcome.next (slot_runs (operable_nil hi))
  case ulimask =>
    intro s k b hi
    exact ⟨congrArg Host.Outcome.next (slot_runs (operable_nil hi)), congrArg Host.Outcome.next (slot_runs (operable_nil hi)),
      congrArg Host.Outcome.next (slot_runs (operable_nil hi))⟩
  case scope =>
    intro s k l hi
    exact congrArg Host.Outcome.next (slot_runs (operable_nil hi))
  case imx =>
    intro s k c e hi
    exact congrArg Host.Outcome.next (slot_runs (operable_nil hi))

end Sys2Proof.Machine
end

section
/-! SUPPORT. Parts of written bytes, and states that differ in their queue units alone. -/
namespace Sys2Proof.Machine
open Sys2Proof

/-! ### Parts of what has been written (spec/00 R5) -/

theorem mem_cells_append (a i n v : Nat) : Mem.cells a (i + n) v = Mem.cells a i v ++ Mem.cells (a + i) n (v / 256 ^ i) := by
  induction i generalizing a v with
  | zero => simp [Mem.cells]
  | succ i ih =>
    have hrest := ih (a + 1) (v / 256)
    rw [Nat.div_div_eq_div_mul, ← Nat.pow_succ', Nat.add_right_comm, Nat.add_assoc] at hrest
    rw [Nat.add_right_comm]
    simp only [Mem.cells, hrest]
    split <;> rfl

/-- Reading inside a written range gives the bytes of the number from there. -/
theorem mem_readNat_write_part (m : Mem) {a n i k : Nat} (v : Nat) (h : i + k ≤ n) :
    (m.write a n v).readNat (a + i) k = v / 256 ^ i % 2 ^ (8 * k) := by
  obtain ⟨r, rfl⟩ := Nat.exists_eq_add_of_le h
  have hlow : Mem.readNat (m.filter fun c => c.1 < a) (a + i) k = 0 :=
    mem_readNat_none _ _ _ fun c hc => by
      have hc' : c.1 < a := by simpa using (List.mem_filter.1 hc).2
      omega
  have hhigh : Mem.readNat (m.filter fun c => a + (i + k + r) ≤ c.1) (a + i) k = 0 :=
    mem_readNat_none _ _ _ fun c hc => by
      have hc' : a + (i + k + r) ≤ c.1 := by simpa using (List.mem_filter.1 hc).2
      omega
  have hbefore : Mem.readNat (Mem.cells a i v) (a + i) k = 0 :=
    mem_readNat_none _ _ _ fun c hc => by have := mem_cells_range a i v c hc; omega
  have hafter : Mem.readNat (Mem.cells (a + i + k) r (v / 256 ^ i / 256 ^ k)) (a + i) k = 0 :=
    mem_readNat_none _ _ _ fun c hc => by have := mem_cells_range _ _ _ c hc; omega
  rw [Mem.write, mem_readNat_append, mem_readNat_append, hlow, hhigh, Nat.add_assoc i k r, mem_cells_append, mem_readNat_append, hbefore,
    mem_cells_append, mem_readNat_append, hafter, mem_readNat_cells]
  simp

/-! ### Queue units -/

/-- From `s` to `t` only queue units differ. -/
def UnitsOnly (s t : State) : Prop := t = { s with clusters := t.clusters }

theorem UnitsOnly.refl (s : State) : UnitsOnly s s := rfl
theorem UnitsOnly.trans {s t u : State} (h : UnitsOnly s t) (k : UnitsOnly t u) : UnitsOnly s u := by
  rw [UnitsOnly] at *; rw [k, h]
theorem UnitsOnly.sameBytes {s t : State} (h : UnitsOnly s t) : SameBytes s t := by
  rw [h]; exact ⟨rfl, rfl, fun _ => rfl⟩
theorem UnitsOnly.seqs {s t : State} (h : UnitsOnly s t) : t.seqs = s.seqs := by rw [h]
theorem unitsOnly_modCluster (s : State) (cl : Nat) (f : Cluster → Cluster) : UnitsOnly s (s.modCluster cl f) := rfl

theorem newCycle_unitsOnly (s : State) (cl : Nat) : UnitsOnly s (newCycle s cl) := by
  unfold newCycle
  split
  · exact .refl s
  · exact unitsOnly_modCluster _ _ _

/-- A new cycle counts its pops from zero, and leaves the rest of the unit as it was. -/
theorem newCycle_cluster (s : State) (cl : Nat) : (newCycle s cl).cluster cl = { s.cluster cl with pops := ((newCycle s cl).cluster cl).pops } := by
  unfold newCycle
  split
  · rfl
  · rw [State.cluster_modCluster_same]

/-! ### Pushes (spec/13 R260) -/

/-- A level with room on chip and nothing in its spill ring takes a record at its tail. -/
theorem pushRec_onChip {s : State} {cl : Nat} {r : CqRec} (hroom : (onChip (s.cluster cl) (recLevel r)).length < 256)
    (hspill : (spilled (s.cluster cl) (recLevel r)).2 = 0) :
    pushRec s cl r = .done (s.modCluster cl fun k => { k with levels := upd k.levels (recLevel r) fun x => x ++ [r] }) := by
  simp [pushRec, hroom, hspill]

end Sys2Proof.Machine
end

section
/-! PROOF. The queue unit: ageing, work taking, pushes and refills. -/
namespace Sys2Proof.Machine
open Sys2Proof

/-! ### Ageing (spec/13 R261) -/

/-- A unit that has one record, `r` at level `l`, and nothing that waits. -/
structure OneRecord (k : Cluster) (l : Nat) (r : CqRec) : Prop where
  levels : k.levels = (List.replicate 4 []).set l [r]
  spill : k.spill = List.replicate 4 (0, 0)
  overflow : k.overflow = none

section
variable {k : Cluster} {l j : Nat} {r : CqRec}

theorem OneRecord.onChip_same (h : OneRecord k l r) (hl : l < 4) : onChip k l = [r] := by
  simp [onChip, h.levels, hl]
theorem OneRecord.onChip_other (h : OneRecord k l r) (hj : j ≠ l) : onChip k j = [] := by
  simp only [onChip, h.levels, List.getD_eq_getElem?_getD, List.getElem?_set_ne hj.symm, List.getElem?_replicate]
  split <;> rfl
theorem OneRecord.spilled (h : OneRecord k l r) (j : Nat) : (spilled k j).2 = 0 := by
  simp only [Machine.spilled, h.spill, List.getD_eq_getElem?_getD, List.getElem?_replicate]
  split <;> rfl
/-- The record goes one level up. -/
theorem OneRecord.up (h : OneRecord k (l + 1) r) (hl : l < 3) (x : CqRec) :
    OneRecord { k with levels := upd (upd k.levels l fun y => y ++ [x]) (l + 1) fun y => y.drop 1 } l x := by
  refine ⟨?_, h.spill, h.overflow⟩
  rw [h.levels]
  interval_cases l <;> rfl

end

theorem agedRec_level {r : CqRec} {l : Nat} (h : r.flags % 4 = l + 1) (now : Nat) : recLevel (agedRec r now) = l := by
  simp only [recLevel, agedRec]; omega

section
variable {s : State} {cl l now : Nat} {r : CqRec}

/-- A level that has no record, or whose oldest one is not due, keeps what it has. -/
theorem ageLevel_keeps {j : Nat} (fuel : Nat) (h : ∀ x ∈ (onChip (s.cluster cl) j).head?, now < x.tenq + 1000000) :
    ageLevel cl j now fuel s = s := by
  cases fuel with
  | zero => rfl
  | succ fuel =>
    rw [ageLevel]
    split
    · rfl
    · next x t hx =>
      have hyoung := h x (by rw [hx]; rfl)
      exact if_pos (by rw [decide_eq_true hyoung]; rfl)

/-- A level above or below the one record has none. -/
theorem ageLevel_other {j : Nat} (h : OneRecord (s.cluster cl) l r) (hj : j ≠ l) (fuel : Nat) : ageLevel cl j now fuel s = s :=
  ageLevel_keeps fuel (by rw [h.onChip_other hj]; simp)

/-- A record that is due moves to the level above, and is not due there. -/
theorem ageLevel_moves (h : OneRecord (s.cluster cl) (l + 1) r) (hl : l < 3) (hlevel : r.flags % 4 = l + 1) (hdue : r.tenq + 1000000 ≤ now)
    (fuel : Nat) : UnitsOnly s (ageLevel cl (l + 1) now (fuel + 1) s) ∧
      OneRecord ((ageLevel cl (l + 1) now (fuel + 1) s).cluster cl) l (agedRec r now) := by
  have hup : recLevel (agedRec r now) = l := agedRec_level hlevel now
  have hpush := pushRec_onChip (s := s) (cl := cl) (r := agedRec r now) (by rw [hup, h.onChip_other (by omega)]; decide) (h.spilled _)
  rw [hup] at hpush
  rw [ageLevel, h.onChip_same (by omega)]
  simp only [h.overflow, Nat.not_lt.2 hdue, decide_false, Option.isSome_none, Bool.or_self, Bool.false_eq_true, if_false, hpush]
  generalize hu : (s.modCluster cl fun k => { k with levels := upd k.levels l fun x => x ++ [agedRec r now] }).modCluster cl
    (fun k => { k with levels := upd k.levels (l + 1) fun x => x.drop 1 }) = u
  have hone : OneRecord (u.cluster cl) l (agedRec r now) := by
    rw [← hu, State.cluster_modCluster_same, State.cluster_modCluster_same]
    exact h.up hl _
  rw [ageLevel_other hone (by omega)]
  exact ⟨hu ▸ rfl, hone⟩

/-- The ageing of one level of the unit that the event names. -/
def ageOne (s : State) (l : Nat) : State := ageLevel (s.arg 0) l s.sys.dtime 256 s

theorem ageOne_eq (ha : s.args = [cl]) (l : Nat) : ageOne s l = ageLevel cl l s.sys.dtime 256 s := by
  rw [ageOne, State.arg_eq ha]; rfl

/-- The levels in turn, from a unit with one record that is due. -/
theorem ageLevels_moves (ha : s.args = [cl]) (h : OneRecord (s.cluster cl) (l + 1) r) (hl : l < 3) (hlevel : r.flags % 4 = l + 1)
    (hdue : r.tenq + 1000000 ≤ s.sys.dtime) : UnitsOnly s ([1, 2, 3].foldl ageOne s) ∧
      OneRecord (([1, 2, 3].foldl ageOne s).cluster cl) l (agedRec r s.sys.dtime) := by
  obtain ⟨hunits, hone⟩ := ageLevel_moves h hl hlevel hdue 255
  rw [← ageOne_eq ha] at hunits hone
  have ha' : (ageOne s (l + 1)).args = [cl] := by rw [hunits]; exact ha
  have hbefore : ∀ j, j ≠ l + 1 → ageOne s j = s := fun j hj => (ageOne_eq ha j).trans (ageLevel_other h hj 256)
  have hafter : ∀ j, j ≠ l → ageOne (ageOne s (l + 1)) j = ageOne s (l + 1) := fun j hj =>
    (ageOne_eq ha' j).trans (ageLevel_other hone hj 256)
  simp only [List.foldl_cons, List.foldl_nil]
  interval_cases l
  · rw [hafter 2 (by decide), hafter 3 (by decide)]; exact ⟨hunits, hone⟩
  · rw [hbefore 1 (by decide), hafter 3 (by decide)]; exact ⟨hunits, hone⟩
  · rw [hbefore 1 (by decide), hbefore 2 (by decide)]; exact ⟨hunits, hone⟩

theorem ageLevels_keeps (ha : s.args = [cl]) (h : OneRecord (s.cluster cl) l r) (hl : l < 4) (hyoung : s.sys.dtime < r.tenq + 1000000) :
    [1, 2, 3].foldl ageOne s = s := by
  have hkeeps : ∀ j, ageOne s j = s := fun j => by
    rw [ageOne_eq ha]
    by_cases hj : j = l
    · subst hj
      exact ageLevel_keeps 256 (by rw [h.onChip_same hl]; simpa using hyoung)
    · exact ageLevel_other h hj 256
  simp only [List.foldl_cons, List.foldl_nil, hkeeps]

theorem OneRecord.newCycle (h : OneRecord (s.cluster cl) l r) : OneRecord ((newCycle s cl).cluster cl) l r := by
  rw [newCycle_cluster]; exact ⟨h.levels, h.spill, h.overflow⟩

theorem cqAgeing_eq (ha : s.args = [cl]) (hd : dieLive s (cl / 4) = true) :
    exec .cqAgeing s = .next ([1, 2, 3].foldl ageOne (newCycle s cl)) := by
  have harg : s.arg 0 = cl := State.arg_eq ha 0
  have hnew := newCycle_unitsOnly s cl
  have harg' : (newCycle s cl).arg 0 = cl := by rw [hnew]; exact harg
  have hd' : dieLive (newCycle s cl) (cl / 4) = true := by rw [hnew]; exact hd
  refine (show exec .cqAgeing s = execCqAgeing s from rfl).trans ?_
  simp only [execCqAgeing, harg, harg', hd', Bool.not_true, Bool.false_eq_true, if_false]
  rfl

/-- The one record of a unit ages by a level once a millisecond has passed. -/
theorem cqAgeing_moves (h : OneRecord (s.cluster cl) (l + 1) r) (hl : l < 3) (hlevel : r.flags % 4 = l + 1) (hd : dieLive s (cl / 4) = true)
    (hdue : r.tenq + 1000000 ≤ s.sys.dtime) : EventGives .cqAgeing [cl] s fun t =>
      (t.cluster cl).levels = (List.replicate 4 []).set l [agedRec r s.sys.dtime] ∧ SameBytes s t ∧ t.seqs = s.seqs := by
  intro ha
  have hnew := newCycle_unitsOnly s cl
  have hsys : (newCycle s cl).sys = s.sys := by rw [hnew]
  obtain ⟨hunits, hone⟩ := ageLevels_moves (s := newCycle s cl) (by rw [hnew]; exact ha) h.newCycle hl hlevel (hsys ▸ hdue)
  have hall := hnew.trans hunits
  exact ⟨_, cqAgeing_eq ha hd, hsys ▸ hone.levels, hall.sameBytes, hall.seqs⟩

theorem cqAgeing_keeps (h : OneRecord (s.cluster cl) l r) (hl : l < 4) (hd : dieLive s (cl / 4) = true) (hyoung : s.sys.dtime < r.tenq + 1000000) :
    EventGives .cqAgeing [cl] s fun t => (t.cluster cl).levels = (s.cluster cl).levels ∧ SameBytes s t ∧ t.seqs = s.seqs := by
  intro ha
  have hnew := newCycle_unitsOnly s cl
  have hsys : (newCycle s cl).sys = s.sys := by rw [hnew]
  refine ⟨_, cqAgeing_eq ha hd, ?_⟩
  rw [ageLevels_keeps (by rw [hnew]; exact ha) h.newCycle hl (hsys ▸ hyoung)]
  exact ⟨h.newCycle.levels.trans h.levels.symm, hnew.sameBytes, hnew.seqs⟩

end

/-! ### Work taking (spec/13 R263) -/

theorem takeFirst_free {l rest : List CqRec} {r : CqRec} (h : takeFirst l = some (r, rest)) : r.flags / 16 % 2 = 0 := by
  induction l generalizing rest with
  | nil => cases h
  | cons x t ih =>
    rw [takeFirst] at h
    split at h
    · obtain ⟨p, hp, he⟩ := Option.map_eq_some_iff.1 h
      cases he
      exact ih hp
    · next hpin =>
      cases h
      simpa [bit] using hpin

/-- A unit without a record has none of any kind. -/
theorem popLevel_mono {k : Cluster} {p : CqRec → Bool} (h : popLevel k (fun _ => true) = none) : popLevel k p = none := by
  rw [popLevel, List.find?_eq_none] at h ⊢
  intro l hl hp
  refine h l hl ?_
  simp only [Bool.or_eq_true, List.any_eq_true] at hp ⊢
  exact hp.imp (fun ⟨x, hx, _⟩ => ⟨x, hx, trivial⟩) id

section
variable {s : State} {cl o l : Nat} {r : CqRec} {rest : List CqRec}

theorem askedUnit_eq (hidle : (popTarget s cl).isSome = true) (hempty : (popLevel (s.cluster cl) fun _ => true) = none)
    (hspill : ∀ x ∈ (s.cluster cl).spill, x.2 = 0) (hlive : dieLive s (cl / 4) = true)
    (hfind : (takeOrder cl).find? (fun o => (s.cluster o).launch = (s.cluster cl).launch && dieLive s (o / 4) && (popLevel (s.cluster o) takeable).isSome) = some o) :
    askedUnit s cl = some o := by
  have hnone : (popTarget s cl).isNone = false := by rw [Option.isNone_eq_false_iff]; exact hidle
  have hrings : (s.cluster cl).spill.any (fun x => x.2 ≠ 0) = false := by
    rw [List.any_eq_false]; intro x hx; simp [hspill x hx]
  simp only [askedUnit, hlive, hnone, hempty, hrings, Bool.not_true, Option.isSome_none, Bool.or_self, Bool.false_eq_true, if_false]
  exact hfind

theorem cqWorkTake_takes (hidle : (popTarget s cl).isSome = true) (hempty : (popLevel (s.cluster cl) fun _ => true) = none)
    (hspill : ∀ x ∈ (s.cluster cl).spill, x.2 = 0) (hlive : dieLive s (cl / 4) = true)
    (hfind : (takeOrder cl).find? (fun o => (s.cluster o).launch = (s.cluster cl).launch && dieLive s (o / 4) && (popLevel (s.cluster o) takeable).isSome) = some o)
    (hages : agesNow s o = false) (hpops : popsNow s o = false) (hlevel : popLevel (s.cluster o) takeable = some l)
    (hfirst : takeFirst ((s.cluster o).levels.getD l []) = some (r, rest)) : EventGives .cqWorkTake [cl] s fun t =>
      (t.cluster o).levels = (s.cluster o).levels.set l rest ∧ (t.cluster cl).levels = upd (s.cluster cl).levels l (fun x => x ++ [r]) ∧
        r.flags / 16 % 2 = 0 ∧ SameBytes s t ∧ t.seqs = s.seqs := by
  intro ha
  have harg : s.arg 0 = cl := State.arg_eq ha 0
  have hother : o ≠ cl := by
    rintro rfl
    rw [popLevel_mono hempty] at hlevel
    cases hlevel
  have hfirst' : takeFirst (onChip (s.cluster o) l) = some (r, rest) := hfirst
  refine ⟨_, rfl, ?_⟩
  simp only [harg, askedUnit_eq hidle hempty hspill hlive hfind, hlevel, Option.getD_some, hfirst', hages, hpops, Bool.or_self, Bool.false_eq_true, if_false]
  refine ⟨?taken, ?given, takeFirst_free hfirst, ⟨rfl, rfl, fun _ => rfl⟩, rfl⟩
  case taken => rw [State.cluster_modCluster_other _ _ _ _ hother, State.cluster_modCluster_same]
  case given => rw [State.cluster_modCluster_same, State.cluster_modCluster_other _ _ _ _ hother.symm]

end

/-! ### Pushes (spec/13 R260, R261) -/

section
variable {s : State} {cl : Nat} {p : CqPush}

@[simp] theorem leaves_cluster (s : State) (g id cl : Nat) : (leaves s g id).cluster cl = s.cluster cl := rfl

/-- The one push that waits comes first, once what it follows is performed. -/
theorem pushOrder_single (hpushes : (s.cluster cl).pushes = [p]) (hdeps : depsMet s p.seq p.after = true) (hhalf : noHalf s 0 = true) :
    (pushOrder s (s.cluster cl)).head? = some p := by
  cases hb : p.bau <;> simp [pushOrder, hpushes, hdeps, hhalf, hb, sortBy, insertBy]

/-- The state in which the unit has taken the push. -/
def pushTaken (s : State) (cl : Nat) (p : CqPush) : State :=
  leaves ((s.modCluster cl fun k => { k with levels := upd k.levels (p.r.flags % 4) fun x => x ++ [{ p.r with tenq := s.sys.dtime }] }).modCluster cl
    fun k => { k with pushes := k.pushes.filter fun x => x.id ≠ p.id }) (coreOf p.seq) p.id

theorem pushTaken_cluster (s : State) (cl : Nat) (p : CqPush) : (pushTaken s cl p).cluster cl = { s.cluster cl with
    levels := upd (s.cluster cl).levels (p.r.flags % 4) fun x => x ++ [{ p.r with tenq := s.sys.dtime }]
    pushes := (s.cluster cl).pushes.filter fun x => x.id ≠ p.id } := by
  rw [pushTaken, leaves_cluster, State.cluster_modCluster_same, State.cluster_modCluster_same]

theorem cqPushAccept_accepts (hlatch : (s.cluster cl).overflow = none) (hpushes : (s.cluster cl).pushes = [p]) (hdeps : depsMet s p.seq p.after = true)
    (hhalf : noHalf s 0 = true) (hages : agesNow s cl = false) (hpops : popsNow s cl = false) (htakes : takesNow s cl = false)
    (hstops : spillStops s cl = false) (hlive : dieLive s (cl / 4) = true) (hroom : (onChip (s.cluster cl) (p.r.flags % 4)).length < 256)
    (hspill : (spilled (s.cluster cl) (p.r.flags % 4)).2 = 0) : EventGives .cqPushAccept [cl] s fun t =>
      (t.cluster cl).pushes = [] ∧ SameBytes s t ∧
        (t.cluster cl).levels = upd (s.cluster cl).levels (p.r.flags % 4) fun x => x ++ [{ p.r with tenq := s.sys.dtime }] := by
  intro ha
  have harg : s.arg 0 = cl := State.arg_eq ha 0
  have hpush := pushRec_onChip (s := s) (cl := cl) (r := { p.r with tenq := s.sys.dtime }) hroom hspill
  have hexec : exec .cqPushAccept s = .next (newCycle (pushTaken s cl p) cl) := by
    refine (show exec .cqPushAccept s = execCqPushAccept s from rfl).trans ?_
    simp only [execCqPushAccept, harg, hages, hpops, htakes, hstops, hlive, hlatch, pushOrder_single hpushes hdeps hhalf, hpush, Bool.not_true,
      Bool.or_self, Bool.false_eq_true, if_false]
    rfl
  refine ⟨_, hexec, ?_⟩
  dsimp only
  rw [newCycle_cluster, pushTaken_cluster]
  exact ⟨by simp [hpushes], (show SameBytes s (pushTaken s cl p) from ⟨rfl, rfl, fun _ => rfl⟩).trans (newCycle_unitsOnly _ cl).sameBytes, rfl⟩

end

/-! ### Refills (spec/13 R260) -/

theorem TlbOnly.cluster {s t : State} (h : TlbOnly s t) (cl : Nat) : t.cluster cl = s.cluster cl := by rw [h.1]; rfl
theorem feSeen_tlbOnly (s : State) (d asid va len : Nat) : TlbOnly s (feSeen s d asid va len) := tlbOnly_installSegs _ _ _ _ _

theorem cqSpillRefill_refills {s : State} {cl l v : Nat} {c : Ctx} (hl : l < 4) (hc : c = s.ctx ((s.cluster cl).launch.getD 0))
    (hspill : 0 < (spilled (s.cluster cl) l).2) (hroom : (onChip (s.cluster cl) l).length < 256) (hlive : dieLive s (cl / 4) = true)
    (hfe : feLive s (cl / 4) c.asid (spillAddr c l (spilled (s.cluster cl) l).1) 64 = true)
    (hread : feRead s (cl / 4) c.asid (spillAddr c l (spilled (s.cluster cl) l).1) 64 = .ok v) : EventGives .cqSpillRefill [cl, l] s fun t =>
      (t.cluster cl).levels = upd (s.cluster cl).levels l (fun x => x ++ [recOf (v % 2 ^ 256) (v / 2 ^ 256 % 2 ^ 64)]) ∧
      (t.cluster cl).spill = upd (s.cluster cl).spill l (fun y => ((y.1 + 1) % Nat.max 1 (spillCap c), y.2 - 1)) ∧ SameBytes s t := by
  intro ha
  have hcl : s.arg 0 = cl := State.arg_eq ha 0
  have hlv : s.arg 1 % 4 = l := by rw [State.arg_eq ha 1]; exact Nat.mod_eq_of_lt hl
  subst hc
  have hseen := feSeen_tlbOnly s (cl / 4) (s.ctx ((s.cluster cl).launch.getD 0)).asid
    (spillAddr (s.ctx ((s.cluster cl).launch.getD 0)) l (spilled (s.cluster cl) l).1) 64
  refine ⟨_, rfl, ?_⟩
  simp only [hcl, hlv, hspill.ne', Nat.not_le.2 hroom, hlive, show spillSlot = 64 from rfl, hfe, hread, Bool.not_true, Bool.or_self, decide_false, Bool.false_eq_true, if_false,
    State.cluster_modCluster_same, hseen.cluster]
  exact ⟨rfl, trivial, hseen.sameBytes.trans (unitsOnly_modCluster _ _ _).sameBytes⟩

end Sys2Proof.Machine
end

section
/-! PROOF. A record is popped onto an idle sequencer. -/
namespace Sys2Proof.Machine
open Sys2Proof

/-! ### Preset scalars (spec/01 R27, spec/13 R262) -/

/-- One preset scalar goes to its place in the window, where view w0 covers it; s0 takes none. -/
def preset (base : Nat) (v : View) (r : Mem) (p : Nat × Word) : Mem :=
  if p.1 ≠ 0 && elemOk v p.1 64 8 then r.write (base + elemOff v p.1 8) 8 p.2.toNat else r

section
variable {base j i : Nat} {v : View} {r : Mem} {x : Word}

theorem preset_read_same (hj : j ≠ 0) (hok : elemOk v j 64 8 = true) : (preset base v r (j, x)).readNat (base + elemOff v j 8) 8 = x.toNat := by
  rw [preset, if_pos (by simp [hj, hok]), mem_readNat_write_same]
  exact Nat.mod_eq_of_lt x.isLt

theorem preset_read_other (h : i ≠ j) : (preset base v r (j, x)).readNat (base + elemOff v i 8) 8 = r.readNat (base + elemOff v i 8) 8 := by
  rw [preset]
  split
  · exact mem_readNat_write_other _ _ _ _ _ _ (by simp only [elemOff]; omega)
  · rfl

end

/-- A view that covers the last scalar covers every one. -/
theorem elemOk_of_last {v : View} {j : Nat} (h : elemOk v 63 64 8 = true) (hj : j < 64) : elemOk v j 64 8 = true := by
  simp only [elemOk, Bool.and_eq_true, decide_eq_true_eq] at h ⊢
  omega

/-- The scalars that a pop presets after its arguments (spec/01 R27, spec/13 R262). -/
def popScalars (n : Nat) (r : CqRec) : List (Nat × Word) :=
  [(9, BitVec.ofNat 64 n), (10, BitVec.allOnes 64), (61, BitVec.ofNat 64 r.join), (62, BitVec.ofNat 64 r.frame), (63, exitWord)]

/-- What the preset scalars read as, whatever has been preset before them. -/
theorem popScalars_read {v : View} (hv : elemOk v 63 64 8 = true) (base n : Nat) (r : CqRec) (m : Mem) :
    let t := (popScalars n r).foldl (preset base v) m
    t.readNat (base + elemOff v 63 8) 8 = 0x40000 ∧ t.readNat (base + elemOff v 62 8) 8 = r.frame % 2 ^ 64 ∧
      t.readNat (base + elemOff v 61 8) 8 = r.join % 2 ^ 64 ∧ t.readNat (base + elemOff v 9 8) 8 = n % 2 ^ 64 := by
  have hok : ∀ j, j < 64 → elemOk v j 64 8 = true := fun j hj => elemOk_of_last hv hj
  simp only [popScalars, List.foldl_cons, List.foldl_nil]
  refine ⟨?exit, ?frame, ?join, ?seq⟩
  case exit => rw [preset_read_same (by decide) hv]; rfl
  case frame => rw [preset_read_other (by decide), preset_read_same (by decide) (hok 62 (by decide))]; exact BitVec.toNat_ofNat _ _
  case join =>
    rw [preset_read_other (by decide), preset_read_other (by decide), preset_read_same (by decide) (hok 61 (by decide))]
    exact BitVec.toNat_ofNat _ _
  case seq =>
    rw [preset_read_other (by decide), preset_read_other (by decide), preset_read_other (by decide), preset_read_other (by decide),
      preset_read_same (by decide) (hok 9 (by decide))]
    exact BitVec.toNat_ofNat _ _

/-! ### The code of the core (spec/14 R281) -/

theorem bundleStart_of_imem {c d : Core} (h : d.imem = c.imem) (a : Nat) : bundleStart d a = bundleStart c a := by
  simp only [bundleStart, instrWord, h]

/-- The words of a core after its code has been loaded: those of the image, unless the core holds it already. -/
theorem loadCode_imem (s : State) (c g : Nat) : ((loadCode s c g).core g).imem =
    if (s.core g).img = some (imgKey (s.ctx c)) then (s.core g).imem
    else ((dieCode s (s.ctx c) (dieOf g)).zipIdx.filter fun e => e.1 ≠ 0).map fun e => (e.2, e.1) := by
  unfold loadCode
  split
  · rfl
  · rw [putCode, State.core_modCore_same]

/-- Loading code changes no byte. -/
theorem loadCode_sameBytes (s : State) (c g : Nat) : SameBytes s (loadCode s c g) := by
  have hseen : SameBytes s (fillSeen s (s.ctx c) g) := by
    unfold fillSeen
    split
    · exact .refl s
    · exact List.foldlRecOn (motive := SameBytes s) _ _ (.refl s) fun t ht y _ => ht.trans (tlbOnly_installSegs t g .itlb _ _).sameBytes
  have hkept : SameBytes s (keepCode (fillSeen s (s.ctx c) g) (s.ctx c) (dieOf g)) := by
    unfold keepCode
    split
    · exact hseen
    · exact hseen.trans ⟨rfl, rfl, fun _ => rfl⟩
  unfold loadCode
  split
  · exact .refl s
  · exact hkept.trans (sameBytes_modCore _ g fun _ => rfl)

/-! ### The sequencer starts (spec/01 R27) -/

section
variable (s : State) (c n pc rank : Nat) (pre : List (Nat × Word)) (uli : BitVec 2)

/-- A sequencer that a pop starts. -/
structure Popped (x : Ctx) (c pc : Nat) (uli : BitVec 2) (q : Seq) : Prop where
  st : q.st = .running
  ctx : q.ctx = some c
  pc : q.pc = pc
  ulimask : q.ulimask = uli
  views : q.views = x.image.views
  causes : q.causes = []

theorem startSeq_popped : Popped (s.ctx c) c pc uli ((startSeq s c n pc rank pre (some uli)).seq n) := by
  have hseq : ∀ q, (s.setSeq n q).seq n = q := fun q => tab_getD_put_same _ _ _ _
  have hcauses : (inherited (s.seq n) (s.ctx c).func true).causes = [] := by
    unfold inherited
    split <;> rfl
  unfold startSeq
  exact ⟨congrArg Seq.st (hseq _), congrArg Seq.ctx (hseq _), congrArg Seq.pc (hseq _), congrArg Seq.ulimask (hseq _), congrArg Seq.views (hseq _),
    (congrArg Seq.causes (hseq _)).trans hcauses⟩

/-- Its window holds zeros, with the presets laid over them. -/
theorem startSeq_regs : ∃ m, ((startSeq s c n pc rank pre (some uli)).core (coreOf n)).regs =
    pre.foldl (preset ((startSeq s c n pc rank pre (some uli)).seq n).winBase (viewAt ((startSeq s c n pc rank pre (some uli)).seq n) 0)) m := by
  have hseq : ∀ q y, ({ s.setSeq n q with poison := y } : State).seq n = q := fun q y => tab_getD_put_same _ _ _ _
  unfold startSeq
  dsimp only
  rw [State.core_modCore_same]
  refine ⟨(s.core (coreOf n)).regs.zero ((placeWindow (windowsOf s (coreOf n)) (s.ctx c).image.win).getD 0) (s.ctx c).image.win, ?_⟩
  rw [State.seq_modCore, hseq]
  rfl

end

/-! ### The pop (spec/13 R261, R262) -/

/-- The oldest record of level `l` has left the unit, which counts the pop. -/
def recordTaken (s : State) (cl l : Nat) : State := s.modCluster cl fun _ =>
  { (newCycle s cl).cluster cl with levels := upd ((newCycle s cl).cluster cl).levels l fun x => x.drop 1, pops := ((newCycle s cl).cluster cl).pops + 1 }
/-- The state in which a popped record is looked at: its core holds the code of the launch. -/
def popLoaded (s : State) (cl l c n : Nat) : State := loadCode (recordTaken s cl l) c (coreOf n)
/-- A record whose CODE is no place of a bundle waits as a cause (spec/20 R376). -/
def popRefused (s : State) (cl l c n : Nat) (r : CqRec) : State :=
  addCause ((popLoaded s cl l c n).modSeq n fun q => { q with ctx := some c, ctxid := c, asidReg := ((popLoaded s cl l c n).ctx c).asid }) n
    { cause := .badTarget, slot := 7, pc := some 0, addr := r.code, info := r.flags, code := true }
/-- The arguments of the launch, and the scalars of the record. -/
def popPresets (s : State) (cl l c n : Nat) (r : CqRec) : List (Nat × Word) :=
  ((List.range 8).map fun i => (i + 1, BitVec.ofNat 64 (((popLoaded s cl l c n).ctx c).lr (8 + 8 * i) 8))) ++ popScalars n r
/-- The sequencer begins the task of a record. -/
def popBegun (s : State) (cl l c n : Nat) (r : CqRec) : State :=
  startSeq (popLoaded s cl l c n) c n r.code 0 (popPresets s cl l c n r) (some (BitVec.ofNat 2 (fld r.flags 3 2)))
/-- A record that starts a task. -/
def popStarted (s : State) (cl l c n : Nat) (r : CqRec) : State :=
  let t := (popBegun s cl l c n r).modCtx c fun x => { x with lasts := [] }
  t.modSeq n fun q => { q with ordered := decide (t.updates ≠ []) }

section
variable {s : State} {cl n l c : Nat} {r : CqRec} {rest : List CqRec}

theorem recordTaken_levels (s : State) (cl l : Nat) : ((recordTaken s cl l).cluster cl).levels = upd (s.cluster cl).levels l fun x => x.drop 1 := by
  rw [recordTaken, State.cluster_modCluster_same]
  dsimp only
  rw [newCycle_cluster]

/-- On the way to a popped record no byte and no sequencer changes, and no context. -/
theorem popLoaded_frame (s : State) (cl l c n : Nat) : SameBytes s (popLoaded s cl l c n) ∧ (popLoaded s cl l c n).seqs = s.seqs ∧
    (popLoaded s cl l c n).ctxs = s.ctxs ∧ (popLoaded s cl l c n).clusters = (recordTaken s cl l).clusters := by
  have h : CoresDies (recordTaken s cl l) (popLoaded s cl l c n) := loadCode_coresDies _ _ _
  exact ⟨(unitsOnly_modCluster s cl _).sameBytes.trans (loadCode_sameBytes _ _ _), by rw [h]; rfl, by rw [h]; rfl, by rw [h]⟩

theorem popLoaded_bundleStart (s : State) (cl l c n a : Nat) :
    bundleStart ((popLoaded s cl l c n).core (coreOf n)) a = bundleStart ((loadCode s c (coreOf n)).core (coreOf n)) a := by
  refine bundleStart_of_imem ?_ a
  rw [popLoaded, loadCode_imem, loadCode_imem]
  rfl

/-- A record is for the sequencer, and the unit's cycle has a pop left. -/
structure MayPop (s : State) (cl n l c : Nat) (r : CqRec) (rest : List CqRec) : Prop where
  target : popTarget s cl = some n
  level : popLevel (s.cluster cl) (fun _ => true) = some l
  launch : (s.cluster cl).launch = some c
  records : (s.cluster cl).levels.getD l [] = r :: rest
  aged : agesNow s cl = false
  left : ((newCycle s cl).cluster cl).pops < 4

theorem cqPop_eq (h : MayPop s cl n l c r rest) (ha : s.args = [cl]) : exec .cqPop s =
    .next (if (r.code % 4 ≠ 0 || exitLink ≤ r.code || !bundleStart ((popLoaded s cl l c n).core (coreOf n)) r.code) = true
      then popRefused s cl l c n r else popStarted s cl l c n r) := by
  have harg : s.arg 0 = cl := State.arg_eq ha 0
  have hlevel : popLevel ((newCycle s cl).cluster cl) (fun _ => true) = some l := by rw [newCycle_cluster]; exact h.level
  have hlaunch : ((newCycle s cl).cluster cl).launch = some c := by rw [newCycle_cluster]; exact h.launch
  have hrecords : onChip ((newCycle s cl).cluster cl) l = r :: rest := by rw [newCycle_cluster]; exact h.records
  refine (show exec .cqPop s = execCqPop s from rfl).trans ?_
  unfold execCqPop
  simp only [harg]
  split
  case h_1 n' l' c' hn hl hc =>
    cases h.target.symm.trans hn
    cases hlevel.symm.trans hl
    cases hlaunch.symm.trans hc
    simp only [hrecords, h.aged, Nat.not_le.2 h.left, decide_false, Bool.or_self, Bool.false_eq_true, if_false]
    rfl
  case h_2 hno => exact absurd hlaunch (hno n l c h.target hlevel)

/-- A task that a record starts, with the scalars that R262 presets where view w0 covers them. -/
theorem popStarted_popped (s : State) (cl l c n : Nat) (r : CqRec) :
    Popped ((popLoaded s cl l c n).ctx c) c r.code (BitVec.ofNat 2 (fld r.flags 3 2)) ((popStarted s cl l c n r).seq n) := by
  have h := startSeq_popped (popLoaded s cl l c n) c n r.code 0 (popPresets s cl l c n r) (BitVec.ofNat 2 (fld r.flags 3 2))
  simp only [popStarted, State.seq_modSeq_same]
  exact ⟨h.st, h.ctx, h.pc, h.ulimask, h.views, h.causes⟩

theorem popStarted_scalars (s : State) (cl l c n : Nat) (r : CqRec) :
    let t := popStarted s cl l c n r
    elemOk (viewAt (t.seq n) 0) 63 64 8 = true → (t.core (coreOf n)).regs.readNat ((t.seq n).winBase + (viewAt (t.seq n) 0).base + 504) 8 = 0x40000 ∧
      (t.core (coreOf n)).regs.readNat ((t.seq n).winBase + (viewAt (t.seq n) 0).base + 496) 8 = r.frame % 2 ^ 64 ∧
      (t.core (coreOf n)).regs.readNat ((t.seq n).winBase + (viewAt (t.seq n) 0).base + 488) 8 = r.join % 2 ^ 64 ∧
      (t.core (coreOf n)).regs.readNat ((t.seq n).winBase + (viewAt (t.seq n) 0).base + 72) 8 = n % 2 ^ 64 := by
  obtain ⟨m, hm⟩ := startSeq_regs (popLoaded s cl l c n) c n r.code 0 (popPresets s cl l c n r) (BitVec.ofNat 2 (fld r.flags 3 2))
  intro t hview
  have hseq : (t.seq n).winBase = ((popBegun s cl l c n r).seq n).winBase ∧ (t.seq n).views = ((popBegun s cl l c n r).seq n).views := by
    simp only [t, popStarted, State.seq_modSeq_same]
    exact ⟨rfl, rfl⟩
  have hregs : (t.core (coreOf n)).regs = _ := hm
  rw [← popBegun, viewAt, ← hseq.1, ← hseq.2, ← viewAt, popPresets, List.foldl_append] at hregs
  rw [hregs]
  simpa only [elemOff, ← Nat.add_assoc] using popScalars_read hview (t.seq n).winBase n r _

/-- A record of good CODE starts its task on the idle sequencer. -/
theorem cqPop_starts (h : MayPop s cl n l c r rest) (halign : r.code % 4 = 0) (hexit : r.code < 0x40000)
    (hstart : bundleStart ((loadCode s c (coreOf n)).core (coreOf n)) r.code = true) : EventGives .cqPop [cl] s fun t =>
      (t.seq n).st = .running ∧ (t.seq n).ctx = some c ∧ (t.seq n).pc = r.code ∧ (t.seq n).ulimask = BitVec.ofNat 2 (r.flags / 4 % 4) ∧
      (t.seq n).views = (s.ctx c).image.views ∧ (t.seq n).causes = [] ∧
      (t.cluster cl).levels = upd (s.cluster cl).levels l (fun x => x.drop 1) ∧ t.mem = s.mem ∧
      (elemOk (viewAt (t.seq n) 0) 63 64 8 = true → (t.core (coreOf n)).regs.readNat ((t.seq n).winBase + (viewAt (t.seq n) 0).base + 504) 8 = 0x40000 ∧
        (t.core (coreOf n)).regs.readNat ((t.seq n).winBase + (viewAt (t.seq n) 0).base + 496) 8 = r.frame % 2 ^ 64 ∧
        (t.core (coreOf n)).regs.readNat ((t.seq n).winBase + (viewAt (t.seq n) 0).base + 488) 8 = r.join % 2 ^ 64 ∧
        (t.core (coreOf n)).regs.readNat ((t.seq n).winBase + (viewAt (t.seq n) 0).base + 72) 8 = n % 2 ^ 64) := by
  intro ha
  have hgood : (r.code % 4 ≠ 0 || exitLink ≤ r.code || !bundleStart ((popLoaded s cl l c n).core (coreOf n)) r.code) = false := by
    rw [popLoaded_bundleStart, hstart]
    simp [halign, show exitLink = 0x40000 from rfl, hexit]
  obtain ⟨⟨hmem, -, -⟩, -, hctxs, hclusters⟩ := popLoaded_frame s cl l c n
  have hctx : (popLoaded s cl l c n).ctx c = s.ctx c := by rw [State.ctx, hctxs]; rfl
  have hunits : (popStarted s cl l c n r).clusters = (recordTaken s cl l).clusters := hclusters
  have hpopped := popStarted_popped s cl l c n r
  refine ⟨popStarted s cl l c n r, (cqPop_eq h ha).trans (by rw [hgood]; rfl), hpopped.st, hpopped.ctx, hpopped.pc, hpopped.ulimask,
    hctx ▸ hpopped.views, hpopped.causes, ?_, hmem, popStarted_scalars s cl l c n r⟩
  rw [State.cluster, hunits]
  exact recordTaken_levels s cl l

/-- A record of bad CODE waits as a cause of the sequencer, which stays idle. -/
theorem cqPop_refuses (h : MayPop s cl n l c r rest) (hbad : r.code % 4 ≠ 0 ∨ 0x40000 ≤ r.code) : EventGives .cqPop [cl] s fun t =>
    (t.seq n).st = (s.seq n).st ∧ (t.seq n).ctx = some c ∧ SameBytes s t ∧
      (t.seq n).causes = (s.seq n).causes ++ [{ cause := .badTarget, slot := 7, pc := some 0, addr := r.code, info := r.flags, code := true }] ∧
      (t.cluster cl).levels = upd (s.cluster cl).levels l (fun x => x.drop 1) := by
  intro ha
  have hguard : (r.code % 4 ≠ 0 || exitLink ≤ r.code || !bundleStart ((popLoaded s cl l c n).core (coreOf n)) r.code) = true := by
    simpa [show exitLink = 0x40000 from rfl] using .inl hbad
  obtain ⟨hbytes, hseqs, -, hclusters⟩ := popLoaded_frame s cl l c n
  have hseq : (popLoaded s cl l c n).seq n = s.seq n := by rw [State.seq, hseqs]; rfl
  refine ⟨popRefused s cl l c n r, (cqPop_eq h ha).trans (by rw [hguard]; rfl), ?_⟩
  have hunits : (popRefused s cl l c n r).clusters = (recordTaken s cl l).clusters := hclusters
  have hlevels : ((popRefused s cl l c n r).cluster cl).levels = upd (s.cluster cl).levels l fun x => x.drop 1 := by
    rw [State.cluster, hunits]; exact recordTaken_levels s cl l
  have hsame : SameBytes s (popRefused s cl l c n r) := hbytes.trans ((sameBytes_modSeq _ n _).trans (addCause_sameBytes _ n _))
  simp only [popRefused, addCause, State.seq_modSeq_same] at hsame hlevels ⊢
  rw [hseq]
  exact ⟨rfl, trivial, hsame, rfl, hlevels⟩

end

end Sys2Proof.Machine
end
section
/-! SUPPORT. Translations depend on memory, its keys, its poison and the system's tables alone. -/
namespace Sys2Proof.Machine
open Sys2Proof

/-! ### Translations (spec/17 R320-R330) -/

/-- What a walk reads is the same in `t` as in `s`. -/
structure SameMap (s t : State) : Prop where
  mem : t.mem = s.mem
  keyOf : t.keyOf = s.keyOf
  poison : t.poison = s.poison
  sys : t.sys = s.sys

theorem TlbOnly.sameMap {s t : State} (h : TlbOnly s t) : SameMap s t := by
  obtain ⟨h, -⟩ := h
  exact ⟨by rw [h], by rw [h], by rw [h], by rw [h]⟩

namespace SameMap
variable {s t : State} (h : SameMap s t)
include h

theorem trans {u : State} (k : SameMap t u) : SameMap s u :=
  ⟨k.mem.trans h.mem, k.keyOf.trans h.keyOf, k.poison.trans h.poison, k.sys.trans h.sys⟩

theorem bytesUnder (key n pa : Nat) : bytesUnder t key n pa = bytesUnder s key n pa := by
  induction n generalizing pa with
  | zero => rfl
  | succ n ih => rw [Machine.bytesUnder, Machine.bytesUnder, ih, byteUnder, byteUnder, h.mem, h.keyOf]

theorem plainRead (pa len key : Nat) : plainRead t pa len key = plainRead s pa len key := by
  rw [Machine.plainRead, Machine.plainRead, h.bytesUnder, sameKey, sameKey, h.mem, h.keyOf]

theorem walk (stage va : Nat) {tab tab' : Nat → Except XFault (Nat × Nat)} (htab : tab' = tab) (l : List Nat) (a : Nat) :
    walk t stage va tab' l a = walk s stage va tab l a := by
  subst htab
  induction l generalizing a with
  | nil => rfl
  | cons lv more ih => simp only [Machine.walk, h.plainRead, h.poison, h.sys, ih]

theorem funcEntry (f : Nat) : funcEntry t f = funcEntry s f := by rw [Machine.funcEntry, Machine.funcEntry, h.sys]

theorem asidEntry (a : Nat) : asidEntry t a = asidEntry s a := by rw [Machine.asidEntry, Machine.asidEntry, h.sys]

theorem isLocal (fab : Bool) (pa : Nat) : isLocal t fab pa = isLocal s fab pa := by rw [Machine.isLocal, Machine.isLocal, h.sys]

theorem stage2 (f va ipa : Nat) : stage2 t f va ipa = stage2 s f va ipa := by
  simp only [Machine.stage2, h.walk 2 ipa rfl, h.funcEntry]

theorem tableAt (f va : Nat) : tableAt t f va = tableAt s f va := by
  funext a
  simp only [Machine.tableAt, h.stage2, h.funcEntry, h.sys]

theorem translate (asid va : Nat) : translate t asid va = translate s asid va := by
  simp only [Machine.translate, h.stage2, h.funcEntry, h.asidEntry, h.walk 1 va (h.tableAt _ _)]

theorem checkPage (g : Nat) (path : Path) (n : Needs) (e : Tlb) (va : Nat) : checkPage t g path n e va = checkPage s g path n e va := by
  unfold Machine.checkPage
  dsimp only
  rw [asidFunc, h.asidEntry, h.funcEntry, h.isLocal]
  rfl

theorem checkPart (g : Nat) (path : Path) (n : Needs) (e : Tlb) (va len : Nat) : checkPart t g path n e va len = checkPart s g path n e va len := by
  simp only [Machine.checkPart, h.checkPage]

/-- An access is cut into the same segments where the TLBs agree too. -/
theorem segs (htlb : ∀ g wh, coreTlb (t.core g) wh = coreTlb (s.core g) wh) (hdies : t.dies = s.dies)
    (g : Nat) (wh : Which) (asid : Nat) (path : Path) (n : Needs) (va len : Nat) : segs t g wh asid path n va len = segs s g wh asid path n va len := by
  have hlookup : ∀ va, lookup t g wh asid va = lookup s g wh asid va := fun va => by
    simp only [lookup, htlb, State.die, hdies, h.translate]
  have hgo : ∀ fuel va len at_, segsGo t g wh asid path n fuel va len at_ = segsGo s g wh asid path n fuel va len at_ := by
    intro fuel
    induction fuel with
    | zero => exact fun _ _ _ => rfl
    | succ fuel ih =>
      intro va len at_
      simp only [segsGo, hlookup, h.checkPart, ih, h.isLocal]
  exact hgo _ _ _ _

theorem poisoned (pa len : Nat) : poisoned t pa len = poisoned s pa len := by rw [Machine.poisoned, Machine.poisoned, h.poison]

/-- Ordinary memory reads as before. -/
theorem physRead {pa : Nat} (hr : pa < 0x030000000000) (len key : Nat) : physRead t pa len key = physRead s pa len key := by
  have hin : inRegs pa = false := by simp [inRegs]; omega
  rw [Machine.physRead, Machine.physRead, hin]
  exact h.plainRead pa len key

end SameMap

end Sys2Proof.Machine
end

section
/-! PROOF. A sequencer that halted is retired, and one that retires ends its task at its join object. -/
namespace Sys2Proof.Machine
open Sys2Proof

/-! ### Port and landing state go (spec/13 R257, R258) -/

theorem discardUnits_seq_same (s : State) (n : Nat) : (discardUnits s n).seq n = { s.seq n with ports := List.replicate 8 {}, fwd := [] } := by
  rw [discardUnits, State.seq_modCore, State.seq_modSeq_same]
theorem discardUnits_seq_other (s : State) {n m : Nat} (h : m ≠ n) : (discardUnits s n).seq m = s.seq m := by
  rw [discardUnits, State.seq_modCore, State.seq_modSeq_other _ _ _ _ h]
theorem discardUnits_core (s : State) (n g : Nat) : ∃ l, (discardUnits s n).core g = { s.core g with ls := l } := by
  by_cases hg : g = coreOf n
  · subst hg
    exact ⟨_, State.core_modCore_same _ _ _⟩
  · exact ⟨(s.core g).ls, State.core_modCore_other _ _ _ _ hg⟩
theorem discardUnits_sameBytes (s : State) (n : Nat) : SameBytes s (discardUnits s n) :=
  (sameBytes_modSeq s n _).trans (sameBytes_modCore _ (coreOf n) fun _ => rfl)
theorem discardUnits_sameMap (s : State) (n : Nat) : SameMap s (discardUnits s n) := ⟨rfl, rfl, rfl, rfl⟩
/-- The landing slots of the sequencer hold nothing. -/
theorem discardUnits_landing (s : State) (n : Nat) : ∀ l ∈ ((discardUnits s n).core (coreOf n)).ls, l.owner = some n → l.tile = none := by
  intro l hl howner
  rw [discardUnits, State.core_modCore_same] at hl
  obtain ⟨y, -, rfl⟩ := List.mem_map.1 hl
  split at howner
  · next hy => rw [if_pos hy]
  · next hy => exact absurd howner hy

/-! ### A write of plain bytes leaves the queue units and the system alone (spec/09 R188) -/

theorem mark_clusters (s : State) (pa len : Nat) (m : Mark) : (mark s pa len m).clusters = s.clusters := by
  unfold mark
  split <;> rfl

theorem writeAll_plain_frame {s : State} {x : Seg} (h : PlainSeg s x) (f v who : Nat) :
    (writeAll s f [x] v who).clusters = s.clusters ∧ (writeAll s f [x] v who).sys = s.sys := by
  have hstored := storeSeg_plain h 0 f none { writer := if who = noSeq then outside else who } (segData v x)
  obtain ⟨hfab, -, hlen, haddr, hrep, hmeet, hpoison, hkey⟩ := h
  obtain ⟨k, hw⟩ := physWrite_plain (v := segData v x) (by omega) hlen hkey
  have hall : writeAll s f [x] v who = storeSeg s 0 f none { writer := if who = noSeq then outside else who } x (segData v x) :=
    updateWhere_none fun u hu => by simp [hmeet u (hstored.2 ▸ hu)]
  obtain ⟨-, -, hsys⟩ := mark_frame (homeWrite s f (localPa x.pa) x.len x.key (segData v x) (Nat.min (if who = noSeq then outside else who) noSeq))
    (localPa x.pa) x.len { writer := if who = noSeq then outside else who }
  rw [hall, storeSeg]
  simp only [hfab, poisonPart_of_clean hpoison, Bool.false_eq_true, if_false, mark_clusters, hsys]
  simp only [homeWrite, poisonPart_of_clean hpoison, hw, Bool.false_eq_true, if_false]
  exact ⟨rfl, rfl⟩

theorem leaves_mem (s : State) (g id : Nat) : (leaves s g id).mem = s.mem := rfl

/-! ### Halt (spec/06 R101) -/

/-- The halted sequencer is retired. -/
def haltRetired (s : State) (n : Nat) : State :=
  (discardUnits s n).modSeq n fun q => { q with st := .retired, halting := none, inHandler := false, saved := none }

theorem haltRetire_retires {s : State} {n : Nat} (hhalt : (s.seq n).halting = some .halt) (hst : (s.seq n).st = .running)
    (hdrained : drained (s.seq n) = true) (hcauses : (s.seq n).causes = []) :
    EventGives .haltRetire [n] s fun t => (t.seq n).st = .retired ∧ (t.seq n).halting = none ∧ (t.seq n).ports = List.replicate 8 {} ∧ SameBytes s t ∧
      (∀ l ∈ (t.core (coreOf n)).ls, l.owner = some n → l.tile = none) ∧ ∀ m, m ≠ n → t.seq m = s.seq m := by
  intro ha
  have harg : s.arg 0 = n := State.arg_eq ha 0
  have hexec : exec .haltRetire s = .next (haltRetired s n) := by
    refine (show exec .haltRetire s = execHaltRetire s from rfl).trans ?_
    simp [execHaltRetire, haltRetired, harg, hhalt, hst, hdrained, hcauses]
  refine ⟨_, hexec, ?_⟩
  dsimp only [haltRetired]
  rw [State.seq_modSeq_same, discardUnits_seq_same, State.core_modSeq]
  exact ⟨rfl, rfl, rfl, (discardUnits_sameBytes s n).trans (sameBytes_modSeq _ n _), discardUnits_landing s n,
    fun m hm => (State.seq_modSeq_other _ _ _ _ hm).trans (discardUnits_seq_other s hm)⟩

/-! ### Retire (spec/13 R266) -/

theorem toIdle_frame (s : State) (n : Nat) : SameBytes s (toIdle s n) ∧ (toIdle s n).ctxs = s.ctxs ∧ (toIdle s n).clusters = s.clusters :=
  ⟨(discardUnits_sameBytes s n).trans ((sameBytes_modCore _ (coreOf n) (f := fun c => { c with ls := c.ls.map fun l => if l.owner = some n then {} else l })
    fun _ => rfl).trans (sameBytes_modSeq _ n _)), rfl, rfl⟩

/-- A sequencer may make its join update. -/
structure MayRetire (s : State) (n : Nat) : Prop where
  halting : (s.seq n).halting = some .retire
  st : (s.seq n).st = .running
  drained : drained (s.seq n) = true
  acc : (s.seq n).acc = []
  causes : (s.seq n).causes = []
  deps : depsMet s n (releaseDeps s n .module) = true
  half : noHalf s 0 = true
  poison : scalarPoison s n 61 = none

section
variable {s : State} {n : Nat} {x : Seg}

/-- A task without a join object ends at once. -/
theorem retireJoinUpdate_bare (h : MayRetire s n) (hjoin : scalarNow s n 61 = 0) :
    EventGives .retireJoinUpdate [n] s fun t => (t.seq n).st = .idle ∧ (t.seq n).ctx = none ∧ SameBytes s t := by
  intro ha
  have harg : s.arg 0 = n := State.arg_eq ha 0
  have hexec : exec .retireJoinUpdate s = .next (toIdle (discardUnits s n) n) := by
    refine (show exec .retireJoinUpdate s = execRetireJoinUpdate s from rfl).trans ?_
    simp [execRetireJoinUpdate, harg, h.halting, h.st, h.drained, h.acc, h.causes, h.deps, h.half, h.poison, hjoin]
  obtain ⟨hst, hctx⟩ := toIdle_vacant (discardUnits s n) n
  exact ⟨_, hexec, hst, hctx, (discardUnits_sameBytes s n).trans (toIdle_frame _ n).1⟩

/-- The state before the join object is written: the units are discarded and the translation is cached. -/
def joinSeen (s : State) (n : Nat) (x : Seg) : State := installSegs (discardUnits s n) (coreOf n) .dtlb (asidOf s n) [x]
/-- The count, the word and the continuation of a join object. -/
def joinCount (s : State) (x : Seg) : Int := toInt 64 (physRead s (localPa x.pa) 8 x.key)
def joinWord (s : State) (x : Seg) : Nat := physRead s (localPa x.pa + 8) 8 x.key
def joinCont (s : State) (x : Seg) : Nat := physRead s (localPa x.pa + 32) 32 x.key
/-- The bytes that an update writes: the count lowered by one, and the word, which tells of a count that was spent. -/
def joinData (s : State) (x : Seg) : Nat :=
  ofInt 64 (joinCount s x - 1) + (if joinCount s x ≤ 0 && !bit (joinWord s x) 1 then joinWord s x + 2 else joinWord s x) * 2 ^ 64
def joinHead (x : Seg) : Seg := { x with pa := localPa x.pa, len := 16, at_ := 0 }
def joinWritten (s : State) (n : Nat) (x : Seg) : State :=
  writeAll (leaves (joinSeen s n x) (coreOf n) (joinSeen s n x).nextId) (funcOf (joinSeen s n x) n) [joinHead x] (joinData s x) n
/-- The root is done, or the continuation is pushed, when the count reaches zero. -/
def joinFollowed (t : State) (n c : Nat) (new : Int) (word cont : Nat) : State :=
  if new ≠ 0 then t
  else if bit word 0 then t.modCtx c fun y => { y with rootDone := true, doneAt := t.nextId }
  else if fld cont 63 0 = exitLink then t
  else (t.modCluster (clusterOf (coreOf n)) fun k => { k with pushes := k.pushes ++ [{ id := t.nextId, r := recOf cont t.sys.dtime, seq := n, bau := true }] }).bump
def joinDone (s : State) (n : Nat) (x : Seg) : State :=
  joinFollowed (joinWritten s n x) n ((s.seq n).ctx.getD 0) (joinCount s x - 1) (joinWord s x) (joinCont s x)

/-- A join object is named by s61, whose bytes are plain. -/
structure Joins (s : State) (n : Nat) (x : Seg) : Prop where
  named : scalarNow s n 61 ≠ 0
  segs : segs s (coreOf n) .dtlb (asidOf s n) .b { r := true, w := true } (scalarNow s n 61) 64 = .ok [x]
  plain : PlainSeg s x
  len : x.len = 64
  bau : bauHere [x] = true
  live : segsLive s [x] = true

theorem Joins.addr (h : Joins s n x) : localPa x.pa + 64 ≤ 0x030000000000 := by
  obtain ⟨-, -, -, h4, -⟩ := h.plain
  rwa [h.len] at h4

theorem joinSeen_sameMap (s : State) (n : Nat) (x : Seg) : SameMap s (joinSeen s n x) :=
  (discardUnits_sameMap s n).trans (tlbOnly_installSegs _ _ _ _ _).sameMap

theorem discardUnits_segs (s : State) (n g : Nat) (wh : Which) (asid : Nat) (path : Path) (k : Needs) (va len : Nat) :
    Machine.segs (discardUnits s n) g wh asid path k va len = Machine.segs s g wh asid path k va len := by
  refine (discardUnits_sameMap s n).segs (fun g wh => ?_) rfl g wh asid path k va len
  obtain ⟨l, hl⟩ := discardUnits_core s n g
  rw [hl]
  cases wh <;> rfl

theorem discardUnits_asid (s : State) (n : Nat) : asidOf (discardUnits s n) n = asidOf s n := by
  rw [asidOf, State.ctxOf, discardUnits_seq_same]
  rfl

theorem joinSeen_read (h : Joins s n x) {i : Nat} (hi : i ≤ 32) (len : Nat) :
    physRead (joinSeen s n x) (localPa x.pa + i) len x.key = physRead s (localPa x.pa + i) len x.key :=
  (joinSeen_sameMap s n x).physRead (by have := h.addr; omega) len x.key

theorem retireJoinUpdate_eq (h : MayRetire s n) (hj : Joins s n x) (ha : s.args = [n]) :
    exec .retireJoinUpdate s = .next (toIdle (joinDone s n x) n) := by
  have harg : s.arg 0 = n := State.arg_eq ha 0
  have hcount : physRead (joinSeen s n x) (localPa x.pa) 8 x.key = physRead s (localPa x.pa) 8 x.key := joinSeen_read hj (Nat.zero_le 32) 8
  have hclean : poisoned (joinSeen s n x) (localPa x.pa) 64 = false := by
    obtain ⟨-, -, -, -, -, -, hpoison, -⟩ := hj.plain
    rwa [(joinSeen_sameMap s n x).poisoned, ← hj.len]
  have hseen : installSegs (discardUnits s n) (coreOf n) .dtlb (asidOf s n) [x] = joinSeen s n x := rfl
  have hlive : segsLive (discardUnits s n) [x] = true := hj.live
  refine (show exec .retireJoinUpdate s = execRetireJoinUpdate s from rfl).trans ?_
  unfold execRetireJoinUpdate
  simp only [harg, h.halting, h.st, h.drained, h.acc, h.causes, h.deps, h.half, h.poison, hj.named, discardUnits_asid, discardUnits_segs, hj.segs,
    hj.bau, hlive, hseen, hclean, ne_eq, not_true_eq_false, decide_false, Bool.not_true, Bool.or_self, Bool.false_eq_true, if_false,
    List.headD_cons, hcount, joinSeen_read hj (show 8 ≤ 32 by decide), joinSeen_read hj (Nat.le_refl 32)]
  rfl

/-- The first 16 bytes of a join object are plain where all of it is. -/
theorem Joins.head (h : Joins s n x) : PlainSeg s (joinHead x) := by
  have hlocal : localPa (localPa x.pa) = localPa x.pa := Nat.mod_mod _ _
  obtain ⟨hfab, -, -, haddr, hrep, hmeet, hpoison, hkey⟩ := h.plain
  rw [h.len] at haddr hrep hmeet hpoison hkey
  refine ⟨hfab, rfl, Nat.zero_lt_succ 15, ?_, ?_, ?_, ?_, ?_⟩ <;> simp only [joinHead, hlocal]
  · omega
  · exact fun i hi => hrep i (by omega)
  · intro u hu
    have := hmeet u hu
    simp only [meet, Bool.and_eq_false_iff, decide_eq_false_iff_not] at this ⊢
    omega
  · rw [poisoned, List.any_eq_false] at hpoison ⊢
    intro g hg
    have := hpoison g hg
    simp only [meet, Bool.and_eq_true, decide_eq_true_eq] at this ⊢
    omega
  · exact fun i hi => hkey i (by omega)

theorem Joins.write (h : Joins s n x) : PlainSeg (leaves (joinSeen s n x) (coreOf n) (joinSeen s n x).nextId) (joinHead x) := by
  have hmap := joinSeen_sameMap s n x
  have htlb := tlbOnly_installSegs (discardUnits s n) (coreOf n) .dtlb (asidOf s n) [x]
  exact h.head.congr hmap.sys (by rw [leaves, joinSeen, htlb.1]; rfl) hmap.poison hmap.keyOf

theorem joinWritten_stored (h : Joins s n x) : Stored s (joinWritten s n x) (localPa x.pa) 16 (joinData s x) := by
  have hstored := writeAll_plain h.write (funcOf (joinSeen s n x) n) (joinData s x) n
  rwa [Stored, show localPa (joinHead x).pa = localPa x.pa from Nat.mod_mod _ _, leaves_mem, (joinSeen_sameMap s n x).mem] at hstored

theorem joinWritten_frame (h : Joins s n x) : (joinWritten s n x).clusters = s.clusters ∧ (joinWritten s n x).sys = s.sys := by
  have htlb := tlbOnly_installSegs (discardUnits s n) (coreOf n) .dtlb (asidOf s n) [x]
  obtain ⟨hclusters, hsys⟩ := writeAll_plain_frame h.write (funcOf (joinSeen s n x) n) (joinData s x) n
  exact ⟨hclusters.trans (by rw [leaves, joinSeen, htlb.1]; rfl), hsys.trans (joinSeen_sameMap s n x).sys⟩

theorem joinFollowed_mem (t : State) (n c : Nat) (new : Int) (word cont : Nat) : (joinFollowed t n c new word cont).mem = t.mem := by
  unfold joinFollowed
  split_ifs <;> rfl

theorem joinFollowed_root {t : State} {n c : Nat} {word cont : Nat} (h : word % 2 = 1) :
    ((joinFollowed t n c 0 word cont).ctx c).rootDone = true := by
  have hbit : bit word 0 = true := by simpa [bit] using h
  rw [joinFollowed, if_neg (not_not.2 rfl), if_pos hbit, State.ctx_modCtx_same]

theorem joinFollowed_push {t : State} {n c : Nat} {word cont : Nat} (h : word % 2 = 0) (hc : cont % 2 ^ 64 ≠ 0x40000) :
    ∃ p, ((joinFollowed t n c 0 word cont).cluster (clusterOf (coreOf n))).pushes = (t.cluster (clusterOf (coreOf n))).pushes ++ [p] ∧
      p.r = recOf cont t.sys.dtime ∧ p.bau = true := by
  have hbit : ¬ bit word 0 = true := by simpa [bit] using h
  have hcode : ¬ fld cont 63 0 = exitLink := by simpa [fld, bits, exitLink] using hc
  rw [joinFollowed, if_neg (not_not.2 rfl), if_neg hbit, if_neg hcode]
  refine ⟨{ id := t.nextId, r := recOf cont t.sys.dtime, seq := n, bau := true }, ?_, rfl, rfl⟩
  rw [State.cluster_bump, State.cluster_modCluster_same]

/-- What a task's end does to its join object (spec/13 R266). -/
theorem retireJoinUpdate_joins (h : MayRetire s n) (hj : Joins s n x) :
    let count := toInt 64 (physRead s (localPa x.pa) 8 x.key)
    let word := physRead s (localPa x.pa + 8) 8 x.key
    let cont := physRead s (localPa x.pa + 32) 32 x.key
    let cl := clusterOf (coreOf n)
    EventGives .retireJoinUpdate [n] s fun t => (t.seq n).st = .idle ∧
      Stored s t (localPa x.pa) 16 (ofInt 64 (count - 1) + (if count ≤ 0 ∧ word / 2 % 2 = 0 then word + 2 else word) * 2 ^ 64) ∧
      (count ≠ 1 → (t.cluster cl).pushes = (s.cluster cl).pushes) ∧
      (count = 1 → word % 2 = 1 → (t.ctx ((s.seq n).ctx.getD 0)).rootDone = true) ∧
      (count = 1 → word % 2 = 0 → cont % 2 ^ 64 ≠ 0x40000 → ∃ p, (t.cluster cl).pushes = (s.cluster cl).pushes ++ [p] ∧ p.r = recOf cont s.sys.dtime ∧ p.bau = true) := by
  intro count word cont cl ha
  obtain ⟨hsame, hctxs, hclusters⟩ := toIdle_frame (joinDone s n x) n
  obtain ⟨wclusters, wsys⟩ := joinWritten_frame hj
  have hspent : (joinCount s x ≤ 0 && !bit (joinWord s x) 1) = true ↔ count ≤ 0 ∧ word / 2 % 2 = 0 := by
    have hword : (!bit (joinWord s x) 1) = true ↔ word / 2 % 2 = 0 := by simp [joinWord, bit, word]
    rw [Bool.and_eq_true, decide_eq_true_eq, hword]
    rfl
  have hdata : joinData s x = ofInt 64 (count - 1) + (if count ≤ 0 ∧ word / 2 % 2 = 0 then word + 2 else word) * 2 ^ 64 :=
    congrArg (fun y => ofInt 64 (count - 1) + y * 2 ^ 64) (if_congr hspent rfl rfl)
  have hlast : count = 1 → joinDone s n x = joinFollowed (joinWritten s n x) n ((s.seq n).ctx.getD 0) 0 word cont := fun hcount => by
    rw [joinDone, show joinCount s x - 1 = 0 from sub_eq_zero.2 hcount]
    rfl
  refine ⟨_, retireJoinUpdate_eq h hj ha, (toIdle_vacant _ n).1, ?stored, ?more, ?root, ?push⟩
  case stored => rw [Stored, hsame.1, joinDone, joinFollowed_mem, ← hdata]; exact joinWritten_stored hj
  case more =>
    intro hcount
    have hdone : joinDone s n x = joinWritten s n x := if_pos (sub_ne_zero.2 hcount)
    rw [State.cluster, hclusters, hdone, wclusters]
    rfl
  case root =>
    intro hcount hword
    rw [State.ctx, hctxs, hlast hcount]
    exact joinFollowed_root hword
  case push =>
    intro hcount hword hcont
    obtain ⟨p, hp, hr, hb⟩ := joinFollowed_push (t := joinWritten s n x) (n := n) (c := (s.seq n).ctx.getD 0) hword hcont
    rw [State.cluster, hclusters, hlast hcount]
    rw [wsys] at hr
    refine ⟨p, hp.trans ?_, hr, hb⟩
    rw [State.cluster, wclusters]
    rfl

end

end Sys2Proof.Machine
end
section
/-! SUPPORT. A message goes on: what stands between its channel and its place. -/
namespace Sys2Proof.Machine
open Sys2Proof

/-! ### Ends of channels -/

@[simp] theorem chanOf_modChan (q : Seq) (c : Nat) (f : Chan → Chan) : chanOf (modChan q c f) c = f (chanOf q c) :=
  tab_getD_put_same _ _ _ _
theorem modBoth_seq (s : State) (n : Nat) (f : Seq → Seq) : (modBoth s n f).seq n = f (s.seq n) := State.seq_modSeq_same _ _ _
theorem modBoth_seq_other (s : State) {n m : Nat} (f : Seq → Seq) (h : m ≠ n) : (modBoth s n f).seq m = s.seq m :=
  State.seq_modSeq_other _ _ _ _ h
theorem modBoth_sameBytes (s : State) (n : Nat) (f : Seq → Seq) : SameBytes s (modBoth s n f) := ⟨rfl, rfl, fun _ => rfl⟩
/-- What happens to an end changes no CM. -/
theorem modBoth_modChan_cm (s : State) (n c m : Nat) (g : Seq → Chan → Chan) : ((modBoth s n fun q => modChan q c (g q)).seq m).cm = (s.seq m).cm := by
  by_cases h : m = n
  · subst h; rw [modBoth_seq]; rfl
  · rw [modBoth_seq_other _ _ h]

/-! ### The sender's CM (spec/16 R306) -/

/-- From `s` to `t` CMs fall, in place or in saved contexts. -/
structure CmOnly (s t : State) : Prop where
  msgs : t.msgs = s.msgs
  bytes : SameBytes s t
  seq : ∀ m, ∃ k, t.seq m = { s.seq m with cm := k }
  drift : ∀ c, (t.ctx c).drift = (s.ctx c).drift

theorem CmOnly.refl (s : State) : CmOnly s s := ⟨rfl, .refl s, fun m => ⟨(s.seq m).cm, rfl⟩, fun _ => rfl⟩
theorem CmOnly.chanOf {s t : State} (h : CmOnly s t) (m c : Nat) : chanOf (t.seq m) c = chanOf (s.seq m) c := by
  obtain ⟨k, hk⟩ := h.seq m
  rw [hk]; rfl

theorem lowerLate_seq (s : State) (n id : Nat) (c : Ctr) : (lowerLate s n id c).seq n = (s.seq n).lower c :=
  State.seq_modSeq_same s n fun q => q.lower c

theorem lowerLate_seq_other (s : State) {n m : Nat} (id : Nat) (c : Ctr) (h : m ≠ n) : (lowerLate s n id c).seq m = s.seq m :=
  State.seq_modSeq_other s n (fun q => q.lower c) m h

theorem lowerLate_cmOnly (s : State) (n id : Nat) : CmOnly s (lowerLate s n id .cm) := by
  refine ⟨rfl, ⟨rfl, rfl, fun _ => rfl⟩, fun m => ?_, fun _ => rfl⟩
  by_cases h : m = n
  · subst h; exact ⟨_, lowerLate_seq s m id .cm⟩
  · exact ⟨(s.seq m).cm, lowerLate_seq_other s id .cm h⟩

theorem lowerCm_cmOnly (s : State) (key : Nat × Bool) (id m : Nat) : CmOnly s (lowerCm s key id m) := by
  unfold lowerCm
  split
  · exact .refl s
  · split
    · exact lowerLate_cmOnly s _ m
    · split
      · next c _ =>
        refine ⟨rfl, ⟨rfl, rfl, fun _ => rfl⟩, fun m => ⟨(s.seq m).cm, rfl⟩, fun d => ?_⟩
        by_cases h : d = c
        · subst h; rw [State.ctx_modCtx_same]
        · rw [State.ctx_modCtx_other _ _ _ _ h]
      · exact .refl s

/-- The CM of a sender on this module falls in place while its launch holds it. -/
theorem lowerCm_here {s : State} {key : Nat × Bool} {id : Nat} (m : Nat) (hmod : id / 2048 = s.sys.modid)
    (hkey : (s.seq (id % 2048)).ctx.map (launchKey s) = some key) :
    ((lowerCm s key id m).seq (id % 2048)).cm = (s.seq (id % 2048)).cm - 1 := by
  have hseq : localSeq s id = some (id % 2048) := if_pos hmod
  simp only [lowerCm, hseq, hkey, if_true]
  exact congrArg Seq.cm (lowerLate_seq s _ m .cm)

/-! ### The message leaves its queue (spec/16 R312) -/

/-- The message has left the queue, and no rollback of its sender takes it back. -/
def departed (s : State) (l : List Flight) (f : Flight) : State := match localSeq s f.msg.src.1 with
  | some m => leaves { s with msgs := l } (coreOf m) f.id
  | none => { s with msgs := l }
/-- With a vector its sender's CM falls. -/
def cmLowered (s : State) (f : Flight) : State := match f.msg with
  | .vector src _ _ _ _ => lowerCm s (f.launch, f.fabric) src f.id
  | _ => s

theorem departed_frame (s : State) (l : List Flight) (f : Flight) : ∃ h, departed s l f = { s with msgs := l, hist := h } := by
  unfold departed
  split <;> exact ⟨_, rfl⟩

theorem cmLowered_cmOnly (s : State) (f : Flight) : CmOnly s (cmLowered s f) := by
  unfold cmLowered
  split
  · exact lowerCm_cmOnly _ _ _ _
  · exact .refl s

/-- The events of arrival, with the kinds of message they take. -/
def arrivals : List (Instr × Nat) :=
  [(.channelVectorArrival, 0), (.channelCloseNotice, 1), (.channelDeclarationNotice, 2), (.channelCreditReturn, 3)]

theorem exec_arrival {ev : Instr} {y : Nat} (h : (ev, y) ∈ arrivals) (s : State) : exec ev s = .next (arrive s (s.arg 0) y) := by
  simp only [arrivals, List.mem_cons, List.not_mem_nil, or_false, Prod.mk.injEq] at h
  rcases h with ⟨rfl, rfl⟩ | ⟨rfl, rfl⟩ | ⟨rfl, rfl⟩ | ⟨rfl, rfl⟩ <;> rfl

section
variable {s : State} {pre post : List Flight} {f : Flight} {n c : Nat}

/-- The first message of its channel and direction is placed, if there is room. -/
theorem arrive_eq (h : MayArrive s pre f post n c) {y : Nat} (hk : f.msg.kind = y) : arrive s pre.length y =
    ((place (departed s (pre ++ post) f) n f).getD s) := by
  obtain ⟨hmsgs, hfirst, hmod, hdst, -, -⟩ := h
  have hget : s.msgs[pre.length]? = some f := by simp [hmsgs]
  have hbefore : (s.msgs.take pre.length).any (fun x => x.msg.dst = f.msg.dst && x.msg.src = f.msg.src) = false := by
    rw [hmsgs, List.take_left, List.any_eq_false]
    intro x hx
    rcases hfirst x hx with h | h <;> simp [h]
  have hrest : s.msgs.eraseIdx pre.length = pre ++ post := by simp [hmsgs, List.eraseIdx_append_of_length_le]
  have hlocal : localSeq s f.msg.dst.1 = some n := by rw [localSeq, if_pos hmod, hdst]
  simp only [arrive, hget, hk, hbefore, hrest, hlocal, ne_eq, not_true_eq_false, decide_false, Bool.or_self, Bool.false_eq_true, if_false]
  change (match place (departed s (pre ++ post) f) n f with
    | some t => t
    | none => s) = _
  cases place (departed s (pre ++ post) f) n f <;> rfl

theorem departed_end (h : MayArrive s pre f post n c) (l : List Flight) : ctxOfEnd (departed s l f) n (f.launch, f.fabric) = some c ∧
    drifts (departed s l f) c n = drifts s c n ∧ (departed s l f).ctx c = s.ctx c := by
  obtain ⟨k, hk⟩ := departed_frame s l f
  obtain ⟨-, -, -, -, hctx, -⟩ := h
  rw [hk]
  exact ⟨hctx, rfl, rfl⟩

theorem place_end (h : MayArrive s pre f post n c) (hd : drifts s c n = false) : place (departed s (pre ++ post) f) n f =
    some (arriveAt (cmLowered (departed s (pre ++ post) f) f) n (f.launch, f.fabric) f.msg f.gen) := by
  obtain ⟨hctx, hdrifts, -⟩ := departed_end h (pre ++ post)
  simp only [place, hctx, hdrifts, hd, Bool.false_eq_true, if_false]
  rfl

theorem place_ring (h : MayArrive s pre f post n c) (hd : drifts s c n = true) (hroom : ringFull (s.ctx c).drift = false) :
    place (departed s (pre ++ post) f) n f = some (toRing (cmLowered (departed s (pre ++ post) f) f) c f) := by
  obtain ⟨hctx, hdrifts, hring⟩ := departed_end h (pre ++ post)
  simp only [place, hctx, hdrifts, hd, hring, hroom, Bool.false_eq_true, if_true, if_false]
  rfl

end

end Sys2Proof.Machine
end

section
/-! PROOF. Channel messages arrive at their end, or wait in the drift ring and are replayed. -/
namespace Sys2Proof.Machine
open Sys2Proof

/-! ### What an end takes (spec/16 R302, R303, R308) -/

/-- A message of generation `gen` is for the declaration that an end has now. -/
def Timely (gen : Nat) (x : Chan) : Prop := ¬ (gen ≠ 0 && x.gen ≠ 0 && x.gen ≠ gen) = true

theorem ForNow.timely {f : Flight} {x : Chan} (h : ForNow f x) : Timely f.gen x := by
  rcases h with h | h | h <;> simp [Timely, h]

section
variable {s : State} {n src sc d dc gen : Nat} {x : Chan} (hx : chanOf (s.seq n) dc = x) (hnow : Timely gen x) (key : Nat × Bool)
include hx hnow

theorem arriveAt_vector (hdecl : ceDecl x.entry = true) (hid : cePeerId x.entry = src) (hch : cePeerCh x.entry = sc)
    (hsend : ceSend x.entry = false) (hopen : x.owncl = false) (v : Vec) :
    arriveAt s n key (.vector src sc d dc v) gen = modBoth s n fun q => modChan q dc fun y => { y with buf := y.buf ++ [v] } := by
  subst hx
  exact (if_neg hnow).trans (if_pos (by simp [Msg.dst, Msg.src, hdecl, hid, hch, hsend, hopen]))

theorem arriveAt_credit (hdecl : ceDecl x.entry = true) (hid : cePeerId x.entry = src) (hch : cePeerCh x.entry = sc)
    (hsend : ceSend x.entry = true) :
    arriveAt s n key (.credit d dc src sc) gen = modBoth s n fun q => modChan q dc fun y => { y with cred := Nat.min (ceDepth y.entry) (y.cred + 1) } := by
  subst hx
  exact (if_neg hnow).trans (if_pos (by simp [Msg.dst, Msg.src, hdecl, hid, hch, hsend]))

theorem arriveAt_close (hdecl : ceDecl x.entry = true) (hid : cePeerId x.entry = src) (hch : cePeerCh x.entry = sc) {send : Bool}
    (hsend : ceSend x.entry ≠ send) :
    arriveAt s n key (.close d dc src sc send) gen = modBoth s n fun q => modChan q dc fun y => { y with peercl := true } := by
  subst hx
  exact (if_neg hnow).trans (if_pos (by simp [Msg.dst, Msg.src, hdecl, hid, hch, hsend]))

theorem arriveAt_declare (hdecl : ceDecl x.entry = true) (hopen : x.owncl = false) (y : Notice) :
    arriveAt s n key (.declare d dc y) gen = modBoth s n fun q => modChan q dc fun z =>
      { z with pv := true, pm := entriesMatch (seqId s n) dc z.entry ((q.ctx.map (launchKey s)).getD (0, false)) y, peer := y.entry, pgen := y.gen } := by
  subst hx
  exact (if_neg hnow).trans (if_pos (by simp [Msg.dst, hdecl, hopen]))

end

/-! ### Arrival at an end -/

section
variable {s : State} {pre post : List Flight} {f : Flight} {n c : Nat}

theorem arrival_end (h : MayArrive s pre f post n c) (hd : drifts s c n = false) {ev : Instr} (hev : (ev, f.msg.kind) ∈ arrivals) {p : State → Prop}
    (hp : p (arriveAt (cmLowered (departed s (pre ++ post) f) f) n (f.launch, f.fabric) f.msg f.gen)) : EventGives ev [pre.length] s p := by
  intro ha
  refine ⟨_, ?_, hp⟩
  rw [exec_arrival hev, State.arg_eq ha 0, List.getD_cons_zero, arrive_eq h rfl, place_end h hd, Option.getD_some]

/-- A message other than a vector lowers no CM. -/
theorem cmLowered_other (h : f.msg.kind ≠ 0) (u : State) : cmLowered u f = u := by
  unfold cmLowered
  split
  · next hm => exact absurd (by rw [hm]; rfl) h
  · rfl

theorem departed_rest (s : State) (l : List Flight) (f : Flight) :
    (departed s l f).msgs = l ∧ SameBytes s (departed s l f) ∧ (∀ m, (departed s l f).seq m = s.seq m) := by
  obtain ⟨k, hk⟩ := departed_frame s l f
  rw [hk]
  exact ⟨rfl, ⟨rfl, rfl, fun _ => rfl⟩, fun _ => rfl⟩

/-- A change of the end, once the message has left its queue. -/
theorem arrived_rest {u : State} (hu : CmOnly (departed s (pre ++ post) f) u) (g : Seq → Chan → Chan) (dc : Nat) :
    let t := modBoth u n fun q => modChan q dc (g q)
    t.msgs = pre ++ post ∧ SameBytes s t ∧ chanOf (t.seq n) dc = g (u.seq n) (chanOf (s.seq n) dc) := by
  obtain ⟨hmsgs, hbytes, hseq⟩ := departed_rest s (pre ++ post) f
  refine ⟨hu.msgs.trans hmsgs, (hbytes.trans hu.bytes).trans (modBoth_sameBytes u n _), ?_⟩
  rw [modBoth_seq, chanOf_modChan, hu.chanOf, hseq]

/-- A vector's CM falls at a sender whose launch is that of the vector. -/
theorem departed_lowerCm (l : List Flight) {src : Nat} (hmod : src / 2048 = s.sys.modid)
    (hkey : (s.seq (src % 2048)).ctx.map (launchKey s) = some (f.launch, f.fabric)) :
    ((lowerCm (departed s l f) (f.launch, f.fabric) src f.id).seq (src % 2048)).cm = (s.seq (src % 2048)).cm - 1 := by
  obtain ⟨k, hk⟩ := departed_frame s l f
  rw [hk]
  exact lowerCm_here (s := { s with msgs := l, hist := k }) f.id hmod hkey

/-- A message finds its end declared, open, and of the declaration that it is for. -/
structure EndOpen (f : Flight) (x : Chan) : Prop where
  decl : ceDecl x.entry = true
  opened : x.owncl = false
  now : ForNow f x

theorem vectorArrival_joins (h : MayArrive s pre f post n c) (hd : drifts s c n = false) {src sc d dc : Nat} {v : Vec} (hm : f.msg = .vector src sc d dc v)
    (he : EndOpen f (chanOf (s.seq n) f.msg.dst.2)) (hid : cePeerId (chanOf (s.seq n) f.msg.dst.2).entry = src)
    (hch : cePeerCh (chanOf (s.seq n) f.msg.dst.2).entry = sc) (hsend : ceSend (chanOf (s.seq n) f.msg.dst.2).entry = false) :
    EventGives .channelVectorArrival [pre.length] s fun t => t.msgs = pre ++ post ∧ SameBytes s t ∧
      (chanOf (t.seq n) f.msg.dst.2).buf = (chanOf (s.seq n) f.msg.dst.2).buf ++ [v] ∧
      (src / 2048 = s.sys.modid → (s.seq (src % 2048)).ctx.map (launchKey s) = some (f.launch, f.fabric) →
        (t.seq (src % 2048)).cm = (s.seq (src % 2048)).cm - 1) := by
  have hdst : f.msg.dst.2 = dc := by rw [hm]; rfl
  have hu := cmLowered_cmOnly (departed s (pre ++ post) f) f
  have hlowered : cmLowered (departed s (pre ++ post) f) f = lowerCm (departed s (pre ++ post) f) (f.launch, f.fabric) src f.id := by
    rw [cmLowered, hm]
  obtain ⟨-, -, hseq⟩ := departed_rest s (pre ++ post) f
  rw [hdst] at he hid hch hsend ⊢
  refine arrival_end h hd (by simp [hm, arrivals, Msg.kind]) ?_
  rw [hm, arriveAt_vector (by rw [hu.chanOf, hseq]) he.now.timely _ he.decl hid hch hsend he.opened]
  obtain ⟨hmsgs, hbytes, hend⟩ := arrived_rest (n := n) hu (fun _ y => { y with buf := y.buf ++ [v] }) dc
  refine ⟨hmsgs, hbytes, congrArg Chan.buf hend, fun hmod hkey => ?_⟩
  rw [modBoth_modChan_cm, hlowered]
  exact departed_lowerCm _ hmod hkey

theorem creditReturn_joins (h : MayArrive s pre f post n c) (hd : drifts s c n = false) {src sc d dc : Nat} (hm : f.msg = .credit d dc src sc)
    (he : EndOpen f (chanOf (s.seq n) f.msg.dst.2)) (hid : cePeerId (chanOf (s.seq n) f.msg.dst.2).entry = src)
    (hch : cePeerCh (chanOf (s.seq n) f.msg.dst.2).entry = sc) (hsend : ceSend (chanOf (s.seq n) f.msg.dst.2).entry = true) :
    EventGives .channelCreditReturn [pre.length] s fun t => t.msgs = pre ++ post ∧ SameBytes s t ∧
      (chanOf (t.seq n) f.msg.dst.2).cred = min (ceDepth (chanOf (s.seq n) f.msg.dst.2).entry) ((chanOf (s.seq n) f.msg.dst.2).cred + 1) := by
  have hdst : f.msg.dst.2 = dc := by rw [hm]; rfl
  obtain ⟨-, -, hseq⟩ := departed_rest s (pre ++ post) f
  rw [hdst] at he hid hch hsend ⊢
  refine arrival_end h hd (by simp [hm, arrivals, Msg.kind]) ?_
  rw [cmLowered_other (by simp [hm, Msg.kind]), hm, arriveAt_credit (by rw [hseq]) he.now.timely _ he.decl hid hch hsend]
  obtain ⟨hmsgs, hbytes, hend⟩ := arrived_rest (n := n) (.refl _) (fun _ y => { y with cred := Nat.min (ceDepth y.entry) (y.cred + 1) }) dc
  exact ⟨hmsgs, hbytes, congrArg Chan.cred hend⟩

theorem closeNotice_joins (h : MayArrive s pre f post n c) (hd : drifts s c n = false) {src sc d dc : Nat} {send : Bool} (hm : f.msg = .close d dc src sc send)
    (he : EndOpen f (chanOf (s.seq n) f.msg.dst.2)) (hid : cePeerId (chanOf (s.seq n) f.msg.dst.2).entry = src)
    (hch : cePeerCh (chanOf (s.seq n) f.msg.dst.2).entry = sc) (hsend : ceSend (chanOf (s.seq n) f.msg.dst.2).entry ≠ send) :
    EventGives .channelCloseNotice [pre.length] s fun t => t.msgs = pre ++ post ∧ SameBytes s t ∧
      chanOf (t.seq n) f.msg.dst.2 = { chanOf (s.seq n) f.msg.dst.2 with peercl := true } := by
  have hdst : f.msg.dst.2 = dc := by rw [hm]; rfl
  obtain ⟨-, -, hseq⟩ := departed_rest s (pre ++ post) f
  rw [hdst] at he hid hch hsend ⊢
  refine arrival_end h hd (by simp [hm, arrivals, Msg.kind]) ?_
  rw [cmLowered_other (by simp [hm, Msg.kind]), hm, arriveAt_close (by rw [hseq]) he.now.timely _ he.decl hid hch hsend]
  exact arrived_rest (.refl _) (fun _ y => { y with peercl := true }) dc

theorem declarationNotice_joins (h : MayArrive s pre f post n c) (hd : drifts s c n = false) {d dc : Nat} {y : Notice} (hm : f.msg = .declare d dc y)
    (he : EndOpen f (chanOf (s.seq n) f.msg.dst.2)) :
    EventGives .channelDeclarationNotice [pre.length] s fun t => t.msgs = pre ++ post ∧ SameBytes s t ∧
      (chanOf (t.seq n) f.msg.dst.2).pv = true ∧ (chanOf (t.seq n) f.msg.dst.2).peer = y.entry ∧
      (chanOf (t.seq n) f.msg.dst.2).pm = entriesMatch (seqId s n) f.msg.dst.2 (chanOf (s.seq n) f.msg.dst.2).entry (launchKey s c) y ∧
      (chanOf (t.seq n) f.msg.dst.2).pgen = y.gen := by
  have hdst : f.msg.dst.2 = dc := by rw [hm]; rfl
  have hctx : (s.seq n).ctx = some c := h.2.2.2.2.2
  obtain ⟨k, hk⟩ := departed_frame s (pre ++ post) f
  obtain ⟨-, -, hseq⟩ := departed_rest s (pre ++ post) f
  rw [hdst] at he ⊢
  refine arrival_end h hd (by simp [hm, arrivals, Msg.kind]) ?_
  rw [cmLowered_other (by simp [hm, Msg.kind]), hm, arriveAt_declare (by rw [hseq]) he.now.timely _ he.decl he.opened]
  obtain ⟨hmsgs, hbytes, hend⟩ := arrived_rest (n := n) (.refl _) (fun q z => { z with
    pv := true, pm := entriesMatch (seqId (departed s (pre ++ post) f) n) dc z.entry ((q.ctx.map (launchKey (departed s (pre ++ post) f))).getD (0, false)) y
    peer := y.entry, pgen := y.gen }) dc
  refine ⟨hmsgs, hbytes, congrArg Chan.pv hend, congrArg Chan.peer hend, (congrArg Chan.pm hend).trans ?_, congrArg Chan.pgen hend⟩
  dsimp only
  rw [hseq, hctx, hk]
  rfl

end

end Sys2Proof.Machine
end
section
/-! PROOF. The drift ring takes messages in order and gives them back, and all that runs of tasks and messages. -/
namespace Sys2Proof.Machine
open Sys2Proof

/-! ### The bytes of a slot (spec/16 R313) -/

theorem Msg.kind_lt (m : Msg) : m.kind < 4 := by cases m <;> simp [Msg.kind]

theorem Msg.slotBytes_head (m : Msg) : ∃ r, m.slotBytes = m.src.1 % 2 ^ 32 + m.dst.2 % 2 ^ 8 * 2 ^ 32 + m.kind * 2 ^ 40 + r * 2 ^ 48 := by
  cases m with
  | vector s c d dc v => exact ⟨v.toNat * 2 ^ 464, by rw [Nat.mul_assoc, ← Nat.pow_add]; rfl⟩
  | credit d dc s c => exact ⟨0, by simp [Msg.slotBytes]⟩
  | declare d dc y => exact ⟨y.entry.toNat, rfl⟩
  | close d dc s c send => exact ⟨0, by simp [Msg.slotBytes]⟩

theorem Msg.slotBytes_vector (s c d dc : Nat) (v : Vec) : (Msg.vector s c d dc v).slotBytes / 2 ^ 512 = v.toNat := by
  have hlow : s % 2 ^ 32 + dc % 2 ^ 8 * 2 ^ 32 + 0 * 2 ^ 40 < 2 ^ 512 := by
    have hsmall : s % 2 ^ 32 + dc % 2 ^ 8 * 2 ^ 32 + 0 * 2 ^ 40 < 2 ^ 40 := by omega
    exact hsmall.trans (Nat.pow_lt_pow_right (by decide) (by decide))
  change (s % 2 ^ 32 + dc % 2 ^ 8 * 2 ^ 32 + 0 * 2 ^ 40 + v.toNat * 2 ^ 512) / 2 ^ 512 = v.toNat
  rw [Nat.add_mul_div_right _ _ (by positivity), Nat.div_eq_of_lt hlow, Nat.zero_add]

section
variable (m : Mem) (a : Nat) (y : Msg)

/-- What a written slot reads as: the source, the channel, the kind, and a vector. -/
theorem slot_read : let t := m.write a 1024 y.slotBytes
    t.readNat a 4 = y.src.1 % 2 ^ 32 ∧ (t.get (a + 4)).toNat = y.dst.2 % 2 ^ 8 ∧ (t.get (a + 5)).toNat = y.kind ∧
      (∀ s c d dc v, y = .vector s c d dc v → t.readNat (a + 64) 512 = v.toNat) := by
  obtain ⟨r, hr⟩ := y.slotBytes_head
  have hkind := y.kind_lt
  refine ⟨?src, ?ch, ?kind, ?vec⟩
  case src =>
    have h := mem_readNat_write_part m (a := a) (n := 1024) (i := 0) (k := 4) y.slotBytes (by decide)
    rw [Nat.add_zero] at h
    rw [h, hr]
    omega
  case ch =>
    rw [mem_get_write_same _ _ _ _ _ (by decide), BitVec.toNat_ofNat, hr]
    omega
  case kind =>
    rw [mem_get_write_same _ _ _ _ _ (by decide), BitVec.toNat_ofNat, hr]
    omega
  case vec =>
    rintro s c d dc v rfl
    rw [mem_readNat_write_part m _ (by decide), show 256 ^ 64 = 2 ^ 512 from (Nat.pow_mul 2 8 64).symm, Msg.slotBytes_vector]
    exact Nat.mod_eq_of_lt v.isLt

end

/-! ### The drift ring (spec/16 R313, R314) -/

theorem driftSlotAt_range (c k : Nat) : driftSlotAt c k < 0x030000000000 ∧ driftSlotAt c k % 32 = 0 := by
  unfold driftSlotAt
  omega

theorem physWrite_slot (s : State) (c k v : Nat) : ∃ y, physWrite s (driftSlotAt c k) 1024 0 v = { s with mem := s.mem.write (driftSlotAt c k) 1024 v, keyOf := y } := by
  obtain ⟨hlow, halign⟩ := driftSlotAt_range c k
  have hin : inRegs (driftSlotAt c k) = false := by simp [inRegs]; omega
  unfold physWrite
  rw [if_neg (by simp [hin])]
  simp only [halign, decide_true, Bool.and_self, if_true]
  exact ⟨_, rfl⟩

/-- A record goes to the tail of the ring, and its bytes to the tail's slot. -/
theorem toRing_writes (s : State) (c : Nat) (f : Flight) :
    let t := toRing s c f
    t.msgs = s.msgs ∧ t.cores = s.cores ∧ t.mem = s.mem.write (driftSlotAt c (s.ctx c).drift.tail) 1024 f.msg.slotBytes ∧
      (t.ctx c).drift.tail = (s.ctx c).drift.tail + 1 ∧ (t.ctx c).drift.recs = (s.ctx c).drift.recs ++ [((s.ctx c).drift.tail, { f with msg := f.msg.bare })] := by
  obtain ⟨y, hy⟩ := physWrite_slot s c (s.ctx c).drift.tail f.msg.slotBytes
  have hring : toRing s c f = (renewed { s with mem := s.mem.write (driftSlotAt c (s.ctx c).drift.tail) 1024 f.msg.slotBytes, keyOf := y }
      (driftSlotAt c (s.ctx c).drift.tail) 1024).modCtx c fun x =>
        { x with drift := { x.drift with tail := (s.ctx c).drift.tail + 1, recs := x.drift.recs ++ [((s.ctx c).drift.tail, { f with msg := f.msg.bare })] } } := by
    rw [toRing, hy]
  rw [hring]
  refine ⟨rfl, rfl, rfl, ?_⟩
  rw [State.ctx_modCtx_same]
  exact ⟨rfl, rfl⟩

section
variable {s : State} {pre post : List Flight} {f : Flight} {n c : Nat}

theorem arrival_drifts (h : MayArrive s pre f post n c) (hd : drifts s c n = true) (hroom : ringFull (s.ctx c).drift = false)
    {ev : Instr} {y : Nat} (hev : (ev, y) ∈ arrivals) (hk : f.msg.kind = y) :
    let k := (s.ctx c).drift.tail
    let a := driftSlotAt c k
    EventGives ev [pre.length] s fun t => t.msgs = pre ++ post ∧ (t.ctx c).drift.tail = k + 1 ∧
      (t.ctx c).drift.recs = (s.ctx c).drift.recs ++ [(k, { f with msg := f.msg.bare })] ∧
      t.mem.readNat a 4 = f.msg.src.1 % 2 ^ 32 ∧ (t.mem.get (a + 4)).toNat = f.msg.dst.2 % 2 ^ 8 ∧ (t.mem.get (a + 5)).toNat = y ∧
      (∀ src sc d dc v, f.msg = .vector src sc d dc v → t.mem.readNat (a + 64) 512 = v.toNat) ∧
      (∀ b, b < a ∨ a + 1024 ≤ b → t.mem.get b = s.mem.get b) ∧ ∀ g, (t.core g).regs = (s.core g).regs := by
  intro k a ha
  have hu := cmLowered_cmOnly (departed s (pre ++ post) f) f
  obtain ⟨hmsgs, hbytes, -⟩ := departed_rest s (pre ++ post) f
  obtain ⟨-, -, hctx⟩ := departed_end h (pre ++ post)
  obtain ⟨hmem, -, hregs⟩ := hbytes.trans hu.bytes
  have hdrift := (hu.drift c).trans (congrArg Ctx.drift hctx)
  have hexec : exec ev s = .next (toRing (cmLowered (departed s (pre ++ post) f) f) c f) := by
    rw [exec_arrival hev, State.arg_eq ha 0, List.getD_cons_zero, arrive_eq h hk, place_ring h hd hroom, Option.getD_some]
  obtain ⟨tmsgs, tcores, tmem, ttail, trecs⟩ := toRing_writes (cmLowered (departed s (pre ++ post) f) f) c f
  rw [hdrift, hmem] at tmem
  rw [hdrift] at ttail trecs
  obtain ⟨hsrc, hch, hkind, hvec⟩ := slot_read s.mem a f.msg
  refine ⟨_, hexec, tmsgs.trans (hu.msgs.trans hmsgs), ttail, trecs, ?_⟩
  rw [tmem]
  refine ⟨hsrc, hch, hkind.trans hk, hvec, fun b hb => mem_get_write_other _ _ _ _ _ hb, fun g => ?_⟩
  rw [State.core, tcores]
  exact hregs g

end

/-! ### Replay (spec/16 R314) -/

/-- Record `k` leaves the ring. -/
def ringTaken (s : State) (c k : Nat) : State :=
  s.modCtx c fun x => { x with drift := { x.drift with recs := x.drift.recs.filter fun r => r.1 ≠ k } }

theorem ringTaken_recs {s : State} {c k : Nat} {f : Flight} {rest : List (Nat × Flight)} (hrecs : (s.ctx c).drift.recs = (k, f) :: rest)
    (hfresh : ∀ r ∈ rest, r.1 ≠ k) : ((ringTaken s c k).ctx c).drift.recs = rest := by
  have hrest : rest.filter (fun r => r.1 ≠ k) = rest := List.filter_eq_self.2 fun r hr => by simpa using hfresh r hr
  rw [ringTaken, State.ctx_modCtx_same, hrecs, List.filter_cons_of_neg (by simp)]
  exact hrest

theorem driftRingReplay_delivers {s : State} {n c ch src sc k : Nat} {f : Flight} {w : Vec} {rest : List (Nat × Flight)}
    (hctx : (s.seq n).ctx = some c) (hst : (s.seq n).st = .running) (hrel : (s.ctx c).st = .released)
    (hrecs : (s.ctx c).drift.recs = (k, f) :: rest) (hfresh : ∀ r ∈ rest, r.1 ≠ k) (hm : f.msg = .vector src sc (seqId s n) ch w)
    (he : EndOpen f (chanOf (s.seq n) ch)) (hsend : ceSend (chanOf (s.seq n) ch).entry = false) (hid : cePeerId (chanOf (s.seq n) ch).entry = src)
    (hch : cePeerCh (chanOf (s.seq n) ch).entry = sc) (hroom : (chanOf (s.seq n) ch).buf.length < ceDepth (chanOf (s.seq n) ch).entry)
    (hgood : poisoned s (driftSlotAt c k) 576 = false) :
    EventGives .driftRingReplay [n] s fun t => (t.ctx c).drift.recs = rest ∧
      (chanOf (t.seq n) ch).buf = (chanOf (s.seq n) ch).buf ++ [BitVec.ofNat 4096 (physRead s (driftSlotAt c k + 64) 512 0)] ∧
      (∀ m, (t.seq m).cm = (s.seq m).cm) ∧ SameBytes s t := by
  intro ha
  have harg : s.arg 0 = n := State.arg_eq ha 0
  have hfind : (s.ctx c).drift.recs.find? (fun r => r.2.msg.dst.1 = seqId s n) = some (k, f) := by
    rw [hrecs]
    exact List.find?_cons_of_pos (by simp [hm, Msg.dst])
  have hslot : slotGood s (driftSlotAt c k) f.msg = true := by simp [slotGood, hm, Msg.kind, hgood]
  have hwith : ∀ v, f.msg.withVec v = .vector src sc (seqId s n) ch v := fun v => by rw [hm]; rfl
  have hdst : f.msg.dst.2 = ch := by rw [hm]; rfl
  have hexec : exec .driftRingReplay s = .next (arriveAt (ringTaken s c k) n (f.launch, f.fabric)
      (.vector src sc (seqId s n) ch (BitVec.ofNat 4096 (physRead s (driftSlotAt c k + 64) 512 0))) f.gen) := by
    refine (show exec .driftRingReplay s = execDriftRingReplay s from rfl).trans ?_
    unfold execDriftRingReplay
    simp only [harg, hctx, hst, hrel, hfind, hdst, hslot, hwith, Nat.not_le.2 hroom, SqState.live, ne_eq, not_true_eq_false, decide_true, decide_false,
      Bool.true_or, Bool.not_true, Bool.or_self, Bool.and_false, Bool.false_eq_true, if_true, if_false]
    rfl
  refine ⟨_, hexec, ?_⟩
  rw [arriveAt_vector (s := ringTaken s c k) rfl he.now.timely _ he.decl hid hch hsend he.opened]
  refine ⟨ringTaken_recs hrecs hfresh, ?_, fun m => modBoth_modChan_cm _ n ch m _, (show SameBytes s (ringTaken s c k) from ⟨rfl, rfl, fun _ => rfl⟩).trans (modBoth_sameBytes _ n _)⟩
  rw [modBoth_seq, chanOf_modChan]
  rfl

/-! ### Tasks and messages -/

/-- Settles O54: each event of tasks and messages, by what it does to its queue unit, its end or its ring. -/
theorem tasksAndMessagesRun : Obligations.TasksAndMessagesRun := by
  unfold Obligations.TasksAndMessagesRun
  refine ⟨?halt, ?retire, ?ageing, ?pop, ?take, ?accept, ?refill, ?arrive, ?drift, ?replay⟩
  case halt => exact fun s n hhalt hst hdrained hcauses => haltRetire_retires hhalt hst hdrained hcauses
  case retire =>
    intro s n hhalt hst hdrained hacc hcauses hdeps hhalf hpoison
    have hmay : MayRetire s n := ⟨hhalt, hst, hdrained, hacc, hcauses, hdeps, hhalf, hpoison⟩
    exact ⟨retireJoinUpdate_bare hmay, fun x hj hsegs hplain hlen hbau hlive => retireJoinUpdate_joins hmay ⟨hj, hsegs, hplain, hlen, hbau, hlive⟩⟩
  case ageing =>
    intro s cl l r hl hlevels hlevel hspill hlatch hlive
    have hone : OneRecord (s.cluster cl) l r := ⟨hlevels, hspill, hlatch⟩
    have hrange : 1 ≤ l ∧ l < 4 := by simp at hl; omega
    refine ⟨fun hdue => ?_, cqAgeing_keeps hone hrange.2 hlive⟩
    obtain ⟨j, rfl⟩ := Nat.exists_eq_add_of_le' hrange.1
    exact cqAgeing_moves hone (by omega) hlevel hlive hdue
  case pop =>
    intro s cl n l c r rest htarget hlevel hlaunch hrecords hages hleft
    have hmay : MayPop s cl n l c r rest := ⟨htarget, hlevel, hlaunch, hrecords, hages, hleft⟩
    exact ⟨cqPop_starts hmay, cqPop_refuses hmay⟩
  case take =>
    intro s cl o l r rest hidle hempty hspill hlive hfind hages hpops hlevel hfirst
    exact cqWorkTake_takes hidle hempty hspill hlive hfind hages hpops hlevel hfirst
  case accept =>
    intro s cl p hlatch hpushes hdeps hhalf hages hpops htakes hstops hlive hroom hspill
    exact cqPushAccept_accepts hlatch hpushes hdeps hhalf hages hpops htakes hstops hlive hroom hspill
  case refill =>
    intro s cl l v c hl hc hspill hroom hlive hfe hread
    exact cqSpillRefill_refills hl hc hspill hroom hlive hfe hread
  case arrive =>
    intro s pre f post n c hmay hd ch x hdecl hopen hnow
    have he : EndOpen f (chanOf (s.seq n) f.msg.dst.2) := ⟨hdecl, hopen, hnow⟩
    exact ⟨fun _ _ _ _ _ hm hid hch hsend => vectorArrival_joins hmay hd hm he hid hch hsend,
      fun _ _ _ _ hm hid hch hsend => creditReturn_joins hmay hd hm he hid hch hsend,
      fun _ _ _ hm => declarationNotice_joins hmay hd hm he,
      fun _ _ _ _ _ hm hsend hid hch => closeNotice_joins hmay hd hm he hid hch hsend⟩
  case drift =>
    intro s pre f post n c hmay hd hroom k a ev y hev hk
    exact arrival_drifts hmay hd hroom hev hk
  case replay =>
    intro s n c ch src sc k f w rest hctx hst hrel x hrecs hfresh hm hdecl hsend hopen hid hch hroom hnow hgood
    exact driftRingReplay_delivers hctx hst hrel hrecs hfresh hm ⟨hdecl, hopen, hnow⟩ hsend hid hch hroom hgood

end Sys2Proof.Machine
end

section
/-! PROOF. Vectors and masks as functions of their positions, for every list of elements that an instruction makes; what a
vector slot with checks of its own does. -/
namespace Sys2Proof.Machine
open Sys2Proof

/-! ### Elements and vectors (spec/07 R125) -/

theorem elemAt_lt (f : Fmt) (v : Vec) (e : Nat) : elemAt f v e < 2 ^ Fp.width f := Nat.mod_lt _ (by positivity)
theorem elemsOf_length (f : Fmt) (v : Vec) : (elemsOf f v).length = count f := by simp [elemsOf_eq]

/-- Elements count modulo 2^w in a vector. -/
theorem vecFn_congr {w n : Nat} {h h' : Nat → Nat} (hh : ∀ e < n, h e % 2 ^ w = h' e % 2 ^ w) : vecFn w n h = vecFn w n h' := by
  rw [vecFn, vecFn, List.map_congr_left fun e he => by rw [hh e (List.mem_range.mp he)]]

/-- A list with a known element at each of `n` positions is the list of these elements. -/
theorem eq_map_range {α : Type} {l : List α} {n : Nat} {h : Nat → α} (hl : l.length = n) (hh : ∀ e < n, l[e]? = some (h e)) :
    l = (List.range n).map h := by
  refine List.ext_getElem? fun e => ?_
  by_cases he : e < n
  · simp [hh e he, he]
  · rw [List.getElem?_eq_none (by omega), List.getElem?_eq_none (by simpa using he)]

/-- Zeros at the top of a vector need not be listed. -/
theorem packE_zeros (w : Nat) (l : List Nat) (m : Nat) : packE w (l ++ List.replicate m 0) = packE w l := by
  induction l with
  | nil =>
    induction m with
    | zero => rfl
    | succ m ih => simpa [List.replicate_succ, packE] using ih
  | cons x t ih => rw [List.cons_append, packE, packE, ih]

/-- A vector of listed elements, zeros past them. -/
theorem vecOf_getD {w n : Nat} {l : List Nat} (hl : l.length ≤ n) : vecOf w l = vecFn w n fun e => l.getD e 0 := by
  have hpad : l ++ List.replicate (n - l.length) 0 = (List.range n).map fun e => l.getD e 0 := by
    refine eq_map_range (by simp; omega) fun e he => ?_
    rcases Nat.lt_or_ge e l.length with h | h
    · rw [List.getElem?_append_left h, List.getD_eq_getElem?_getD, List.getElem?_eq_getElem h, Option.getD_some]
    · rw [List.getElem?_append_right h, List.getD_eq_default _ _ h, List.getElem?_replicate_of_lt (by omega)]
  rw [← vecOf_eq, ← hpad, vecOf, vecOf, packE_zeros]

/-- Element by element over a range: the vector and its flags. -/
theorem elementwise_eq (f : Fmt) (g : Nat → Nat → Nat → Nat × Nat) (x y z : Vec) :
    elementwise f g x y z = (vecFn (Fp.width f) (count f) fun e => (g (elemAt f x e) (elemAt f y e) (elemAt f z e)).1,
      flagsOf (count f) fun e => (g (elemAt f x e) (elemAt f y e) (elemAt f z e)).2) := by
  simp only [elementwise, elemsOf_eq, map3_eq, joinFlags_eq, vecOf_eq]

theorem width_pos (f : Fmt) : 0 < Fp.width f := by cases f <;> decide

/-- Runs of `n` of a list of `n * k` elements. -/
theorem chunks_range {α : Type} {n : Nat} (hn : 0 < n) (k : Nat) (h : Nat → α) :
    chunks n k ((List.range (n * k)).map h) = (List.range k).map fun j => (List.range n).map fun x => h (n * j + x) := by
  induction k generalizing h with
  | zero => rfl
  | succ k ih =>
    have hsplit : (List.range (n * (k + 1))).map h = (List.range n).map h ++ (List.range (n * k)).map fun x => h (n + x) := by
      rw [Nat.mul_succ, Nat.add_comm, List.range_add, List.map_append, List.map_map]; rfl
    have hne : ¬ (List.range n).map h ++ (List.range (n * k)).map (fun x => h (n + x)) = [] := by
      simp only [List.append_eq_nil_iff, List.map_eq_nil_iff, List.range_eq_nil]; omega
    rw [hsplit, chunks, if_neg hne, List.take_left' (by simp), List.drop_left' (by simp), ih, List.range_succ_eq_map, List.map_cons,
      List.map_map]
    simp only [Function.comp_def, Nat.mul_succ, Nat.mul_zero, Nat.zero_add, Nat.add_comm (n * _) n, Nat.add_assoc]

/-! ### Masks (spec/07 R126) -/

/-- Bits in a row, bit 0 first. -/
theorem testBit_packE (l : List Nat) (j : Nat) : (packE 1 l).testBit j = decide (l.getD j 0 % 2 = 1) := by
  induction l generalizing j with
  | nil => simp [packE]
  | cons x t ih =>
    cases j with
    | zero => simp [packE, Nat.testBit_zero, Nat.add_mod]
    | succ j =>
      have hhalf : (x % 2 + 2 * packE 1 t) / 2 = packE 1 t := by omega
      rw [packE, pow_one, Nat.testBit_succ, hhalf, ih, List.getD_cons_succ]

/-- The mask of the bits that hold. -/
theorem getLsbD_packE (n : Nat) (q : Nat → Prop) [DecidablePred q] {j : Nat} (hj : j < 128) :
    (BitVec.ofNat 128 (packE 1 ((List.range n).map fun e => if q e then 1 else 0))).getLsbD j = (decide (j < n) && decide (q j)) := by
  rw [BitVec.getLsbD_ofNat, testBit_packE, List.getD_eq_getElem?_getD]
  by_cases hn : j < n
  · by_cases hq : q j <;> simp [hn, hq, hj]
  · simp [hn, hj]

/-- The mask of a predicate of the elements: theirs, or that of all elements of a lane. -/
theorem getLsbD_maskOf (f : Fmt) (q : Nat → Prop) [DecidablePred q] {j : Nat} (hj : j < 128) :
    (maskOf f ((List.range (count f)).map fun e => if q e then 1 else 0)).getLsbD j =
      if 32 ≤ Fp.width f then decide (j < count f) && decide (q j)
      else (List.range (32 / Fp.width f)).all fun x => decide (q (j * (32 / Fp.width f) + x)) := by
  unfold maskOf
  split
  case isTrue => exact getLsbD_packE _ _ hj
  case isFalse hw =>
    have hcount : count f = 32 / Fp.width f * 128 := by revert hw; cases f <;> decide
    have hper : 0 < 32 / Fp.width f := Nat.div_pos (by omega) (width_pos f)
    rw [hcount, chunks_range hper, List.map_map]
    simp only [Function.comp_def]
    rw [getLsbD_packE, decide_eq_true hj, Bool.true_and, Bool.decide_eq_true, List.all_map]
    · simp [Function.comp_def, Nat.mul_comm]
    · exact hj

/-! ### Vector slots that have checks of their own (spec/07 R127-R129) -/

section
variable {s : State} {k : Issue} {w : Nat} {dst src : List Reg} {old : Bool} {other reads : List Name} {formats : List Fmt} {acc : Fmt → Bool}
  {own : Issue → Fmt → List (Option Trap)} {late : Issue → Fmt → (Reg → Vec) → List (Option Trap)}
  {effect : Issue → Fmt → (Reg → Vec) → State → State} {part : Fmt → Bool}

theorem AllPass.append {l m : List (Option Trap)} (hl : AllPass l) (hm : AllPass m) : AllPass (l ++ m) := fun c hc =>
  (List.mem_append.mp hc).elim (hl c) (hm c)
theorem allPass_need {ok : Bool} {c : Cause} (h : ok = true) : AllPass [need ok c] := by
  intro t ht
  rw [List.mem_singleton.mp ht, need, if_pos h]
theorem firstSome_append {l m : List (Option Trap)} (h : AllPass l) : firstSome (l ++ m) = firstSome m := by
  induction l with
  | nil => rfl
  | cons c t ih =>
    rw [h c List.mem_cons_self]
    exact ih fun x hx => h x (List.mem_cons_of_mem _ hx)

theorem vecSlot_effect (h : VecRuns s k w dst src (old && part (fmtVF k.fmt)) other reads formats) (hacc : ∀ f ∈ formats, acc f = true)
    (hown : AllPass (own k (fmtVF k.fmt))) (hlate : AllPass (late k (fmtVF k.fmt) (operand s k w src))) :
    vecSlot s w dst src old other reads acc own late effect part = effect k (fmtVF k.fmt) (operand s k w src) (popped s k src) := by
  obtain ⟨hop, hpath, hfmt, hports⟩ := h
  exact slot_effect hop hpath rfl rfl (hacc _ hfmt) ((hown.append hports).append hlate) rfl

/-- A check on the values of the sources raises its trap where all others pass. -/
theorem vecSlot_late {t : Trap} (h : VecRuns s k w dst src (old && part (fmtVF k.fmt)) other reads formats) (hacc : ∀ f ∈ formats, acc f = true)
    (hown : AllPass (own k (fmtVF k.fmt))) (hlate : firstSome (late k (fmtVF k.fmt) (operand s k w src)) = some t) :
    vecSlot s w dst src old other reads acc own late effect part = s.raise 4 t := by
  obtain ⟨hop, hpath, hfmt, hports⟩ := h
  exact slot_checks hop hpath rfl rfl (hacc _ hfmt) ((firstSome_append (hown.append hports)).trans hlate)

end

end Sys2Proof.Machine
end

section
/-! PROOF. Results of the element-wise vector instructions, of the compares and of the select. -/
namespace Sys2Proof.Machine
open Sys2Proof

/-! ### Format classes (spec/07 R127) -/

theorem isF_eq (f : Fmt) : Fp.isF f = decide (f ∈ floats) := by cases f <;> decide
theorem isI_of_mem : ∀ f ∈ ints, Fp.isI f = true := by decide
theorem accAny_of_mem : ∀ f ∈ anyFmt, accAny f = true := fun _ _ => rfl
theorem accNotX_of_mem : ∀ f ∈ notX, accNotX f = true := by decide
theorem accFI_of_mem : ∀ f ∈ floats ++ ints, accFI f = true := by decide

/-! ### Forms: what an element-wise slot that may run writes (spec/07 R133) -/

/-- A three-operand instruction computes every function equal to its own on the elements of its formats. -/
theorem vecThree_of {i : Reg → Reg → Reg → BitVec 2 → Instr} {formats : List Fmt} {old : Bool} (acc : Fmt → Bool)
    (g' : Mode → Fmt → Nat → Nat → Nat → Nat × Nat) {g : Fmt → Nat → Bool → Nat → Nat → Nat → Nat × Nat}
    (hacc : ∀ f ∈ formats, acc f = true)
    (hg : ∀ f ∈ formats, ∀ mode : Mode, ∀ x < 2 ^ Fp.width f, ∀ y < 2 ^ Fp.width f, ∀ z, g' mode f x y z = g f mode.rm mode.sat x y z)
    (hi : ∀ d a b m s, exec (i d a b m) s = .next (vec3 s d a b m acc g' old) := by intros; rfl) : VecThree i formats old g := by
  intro s k d a b m h
  have hel : ∀ x y z : Vec, ∀ e, g' (modeOf k) (fmtVF k.fmt) (elemAt (fmtVF k.fmt) x e) (elemAt (fmtVF k.fmt) y e) (elemAt (fmtVF k.fmt) z e) =
      g (fmtVF k.fmt) (fmtRM k.fmt) (fmtSE k.fmt) (elemAt (fmtVF k.fmt) x e) (elemAt (fmtVF k.fmt) y e) (elemAt (fmtVF k.fmt) z e) :=
    fun x y z e => hg _ h.2.2.1 (modeOf k) _ (elemAt_lt _ _ _) _ (elemAt_lt _ _ _) _
  rw [hi, vec3, vecSlot_runs h hacc]
  simp only [elementwise_eq, hel]

/-- The same for one operand. -/
theorem vecTwo_of {i : Reg → Reg → BitVec 2 → Instr} {formats : List Fmt} (acc : Fmt → Bool)
    (g' : Mode → Fmt → Nat → Nat → Nat → Nat × Nat) {g : Fmt → Nat → Bool → Nat → Nat × Nat}
    (hacc : ∀ f ∈ formats, acc f = true)
    (hg : ∀ f ∈ formats, ∀ mode : Mode, ∀ x < 2 ^ Fp.width f, ∀ y z, g' mode f x y z = g f mode.rm mode.sat x)
    (hi : ∀ d a m s, exec (i d a m) s = .next (vec2 s d a m acc g') := by intros; rfl) : VecTwo i formats g := by
  intro s k d a m h
  have hel : ∀ x y z : Vec, ∀ e, g' (modeOf k) (fmtVF k.fmt) (elemAt (fmtVF k.fmt) x e) (elemAt (fmtVF k.fmt) y e) (elemAt (fmtVF k.fmt) z e) =
      g (fmtVF k.fmt) (fmtRM k.fmt) (fmtSE k.fmt) (elemAt (fmtVF k.fmt) x e) :=
    fun x y z e => hg _ h.2.2.1 (modeOf k) _ (elemAt_lt _ _ _) _ _
  rw [hi, vec2, vecSlot_runs h hacc]
  simp only [elementwise_eq, hel]

/-- A bitwise operation on whole vectors. -/
theorem vecBits_writes {s : State} {k : Issue} {d a b : Reg} {m : BitVec 2} (g : Vec → Vec → Vec)
    (h : VecRuns s k (viewOfM m) [d] [a, b] false [] [] anyFmt) : vecBits s d a b m g =
      putVec (popped s k [a, b]) k (viewOfM m) d (g (operand s k (viewOfM m) [a, b] a) (operand s k (viewOfM m) [a, b] b)) := by
  rw [vecBits, vecSlot_runs h accAny_of_mem]

/-! ### Integer results modulo 2^w (spec/07 R133) -/

theorem intRes_natCast (f : Fmt) (n : Nat) : intRes f (n : Nat) = (n % 2 ^ Fp.width f, 0) := by
  rw [intRes, ofInt, ← Int.natCast_emod, Int.toNat_natCast]
theorem intRes_congr {f : Fmt} {x y : Int} (h : x % (2 ^ Fp.width f : Nat) = y % (2 ^ Fp.width f : Nat)) : intRes f x = intRes f y := by
  rw [intRes, intRes, ofInt, ofInt, h]

/-- A difference, taken above zero by a multiple of 2^w. -/
theorem intRes_sub {f : Fmt} {c x y : Nat} (hc : 2 ^ Fp.width f ∣ c) (hy : y ≤ c) :
    intRes f ((x : Int) - y) = ((x + c - y) % 2 ^ Fp.width f, 0) := by
  obtain ⟨q, rfl⟩ := hc
  rw [← intRes_natCast]
  apply intRes_congr
  rw [Nat.cast_sub (by omega), Nat.cast_add, Nat.cast_mul, add_sub_right_comm, Int.add_mul_emod_self_left]

/-- Patterns of an integer format are equal where their values are. -/
theorem intVal_injOn {f : Fmt} {x y : Nat} (hx : x < 2 ^ Fp.width f) (hy : y < 2 ^ Fp.width f) (h : Fp.intVal f x = Fp.intVal f y) : x = y := by
  simp only [Fp.intVal, Nat.mod_eq_of_lt hx, Nat.mod_eq_of_lt hy] at h
  split_ifs at h <;> omega

/-- Where the values are equal either pattern may be taken as the greater one. -/
theorem eMinMax_max {f : Fmt} {x y : Nat} (hx : x < 2 ^ Fp.width f) (hy : y < 2 ^ Fp.width f) :
    (if Fp.intVal f x < Fp.intVal f y then y else x) = if Fp.intVal f x ≤ Fp.intVal f y then y else x := by
  rcases lt_trichotomy (Fp.intVal f x) (Fp.intVal f y) with h | h | h
  · rw [if_pos h, if_pos h.le]
  · rw [intVal_injOn hx hy h]; simp
  · rw [if_neg h.not_gt, if_neg h.not_ge]

/-- Settles O16: each form by its function of elements, and these functions modulo 2^w where the format is an integer's. -/
theorem vectorElementwise : Obligations.VectorElementwise := by
  unfold Obligations.VectorElementwise
  refine ⟨?vadd, ?vsub, ?vmul, ?vfma, ?vfms, ?vmin, ?vmax, ?vdiv, ?vsqrt, ?vabs, ?vneg, ?vshl, ?vshr, ?vsra, ?vrcp, ?vrsq, ?vexp2, ?vlog2, ?logic⟩
  case vadd => exact vecThree_of accFI eAdd accFI_of_mem fun f _ mode x _ y _ z => by simp only [eAdd, isF_eq, decide_eq_true_eq, intRes_natCast]
  case vsub =>
    refine vecThree_of accFI eSub accFI_of_mem fun f _ mode x _ y hy z => ?_
    simp only [eSub, isF_eq, decide_eq_true_eq, intRes_sub (dvd_refl _) hy.le]
  case vmul => exact vecThree_of accFI eMul accFI_of_mem fun f _ mode x _ y _ z => by simp only [eMul, isF_eq, decide_eq_true_eq, intRes_natCast]
  case vfma => exact vecThree_of accFI eFma accFI_of_mem fun f _ mode x _ y _ z => by simp only [eFma, isF_eq, decide_eq_true_eq, intRes_natCast]
  case vfms =>
    refine vecThree_of accFI eFms accFI_of_mem fun f _ mode x hx y hy z => ?_
    have hprod : x * y ≤ 2 ^ (2 * Fp.width f) := by
      rw [two_mul, pow_add]
      exact Nat.mul_le_mul hx.le hy.le
    simp only [eFms, isF_eq, decide_eq_true_eq, intRes_sub (pow_dvd_pow 2 (Nat.le_mul_of_pos_left _ two_pos)) hprod]
  case vmin =>
    refine vecThree_of accFI (eMinMax false) accFI_of_mem fun f _ mode x _ y _ z => ?_
    simp only [eMinMax, isF_eq, decide_eq_true_eq, Bool.false_eq_true, if_false, ← not_le, ite_not]
  case vmax =>
    refine vecThree_of accFI (eMinMax true) accFI_of_mem fun f _ mode x hx y hy z => ?_
    simp only [eMinMax, isF_eq, decide_eq_true_eq, if_true, eMinMax_max hx hy]
  case vdiv => exact vecThree_of accF eDiv (by decide) fun _ _ _ _ _ _ _ _ => rfl
  case vsqrt => exact vecTwo_of accF eSqrt (by decide) fun _ _ _ _ _ _ _ => rfl
  case vabs => exact vecTwo_of accFI eAbs accFI_of_mem fun f _ mode x _ y z => by simp only [eAbs, isF_eq, decide_eq_true_eq, intRes_natCast]
  case vneg =>
    refine vecTwo_of accFI eNeg accFI_of_mem fun f _ mode x hx y z => ?_
    have hneg := intRes_sub (x := 0) (dvd_refl (2 ^ Fp.width f)) hx.le
    rw [Nat.cast_zero, zero_sub, zero_add] at hneg
    simp only [eNeg, isF_eq, decide_eq_true_eq, hneg]
  case vshl => exact vecThree_of accIi4 eShl (by decide) fun _ _ _ _ _ _ _ _ => rfl
  case vshr => exact vecThree_of accIi4 eShr (by decide) fun _ _ _ _ _ _ _ _ => rfl
  case vsra => exact vecThree_of accIi4 eSra (by decide) fun _ _ _ _ _ _ _ _ => rfl
  case vrcp => exact vecTwo_of accApprox (eApprox .rcp) (by decide) fun _ _ _ _ _ _ _ => rfl
  case vrsq => exact vecTwo_of accApprox (eApprox .rsq) (by decide) fun _ _ _ _ _ _ _ => rfl
  case vexp2 => exact vecTwo_of accApprox (eApprox .exp2) (by decide) fun _ _ _ _ _ _ _ => rfl
  case vlog2 => exact vecTwo_of accApprox (eApprox .log2) (by decide) fun _ _ _ _ _ _ _ => rfl
  case logic =>
    intro e he s k d a b m h
    simp only [List.mem_cons, List.not_mem_nil, or_false] at he
    rcases he with rfl | rfl | rfl
    · exact congrArg Host.Outcome.next (vecBits_writes (· &&& ·) h)
    · exact congrArg Host.Outcome.next (vecBits_writes (· ||| ·) h)
    · exact congrArg Host.Outcome.next (vecBits_writes (· ^^^ ·) h)

/-! ### Compares and select (spec/07 R137, R138) -/

/-- Does a comparison hold whose code is 0 (equal), 1 (less), 2 (greater) or 3 (unordered)? -/
def VCmp.holds : VCmp → Nat → Bool
  | .eq, c => decide (c = 0)
  | .lt, c => decide (c = 1)
  | .le, c => decide (c < 2)
/-- The code and the flags of one comparison. -/
def cmpCode (p : VCmp) (f : Fmt) (x y : Nat) : Nat × Nat :=
  if f ∈ floats then Fp.compareCode f (p ≠ .eq) x y
  else (if Fp.intVal f x = Fp.intVal f y then 0 else if Fp.intVal f x < Fp.intVal f y then 1 else 2, 0)

theorem eCmp_eq (p : VCmp) (f : Fmt) (x y z : Nat) :
    eCmp p f x y z = (if p.holds (cmpCode p f x y).1 = true then 1 else 0, (cmpCode p f x y).2) := by
  cases p <;> simp [eCmp, cmpCode, isF_eq, VCmp.holds]

/-- The flags of a comparison: an integer's are none. -/
theorem cmpCode_flags (p : VCmp) (f : Fmt) (x y : Nat) :
    (cmpCode p f x y).2 = if f ∈ floats then (Fp.compareCode f (p ≠ .eq) x y).2 else 0 := by
  simp only [cmpCode]; split <;> rfl

/-- A compare writes the mask of any predicate of elements that is its own. -/
theorem vecCompare_of {i : BitVec 3 → Reg → Reg → BitVec 2 → Instr} (p : VCmp)
    {q : Fmt → Nat → Nat → Bool} {fl : Fmt → Nat → Nat → Nat}
    (hq : ∀ f x y, p.holds (cmpCode p f x y).1 = q f x y) (hfl : ∀ f x y, (cmpCode p f x y).2 = fl f x y)
    (hi : ∀ kd a b m s, exec (i kd a b m) s = .next (vecCmp s kd a b m p) := by intros; rfl) : VecCompare i q fl := by
  intro s k kd a b m h
  refine ⟨maskOf (fmtVF k.fmt) ((List.range (count (fmtVF k.fmt))).map fun e =>
    if q (fmtVF k.fmt) (elemAt (fmtVF k.fmt) (operand s k (viewOfM m) [a, b] a) e)
      (elemAt (fmtVF k.fmt) (operand s k (viewOfM m) [a, b] b) e) = true then 1 else 0), ?runs, fun j hj => ?bits⟩
  case runs =>
    rw [hi, vecCmp, vecSlot_runs h accFI_of_mem]
    simp only [elemsOf_eq, map3_eq, joinFlags_eq, eCmp_eq, hq, hfl]
  case bits => simp only [getLsbD_maskOf _ _ hj, Bool.decide_eq_true]

/-- What a code of two integers says of their order. -/
theorem cmpCode_int {p : VCmp} {f : Fmt} (hf : f ∉ floats) (x y : Nat) :
    ((cmpCode p f x y).1 = 0 ↔ Fp.intVal f x = Fp.intVal f y) ∧ ((cmpCode p f x y).1 = 1 ↔ Fp.intVal f x < Fp.intVal f y) ∧
      ((cmpCode p f x y).1 < 2 ↔ Fp.intVal f x ≤ Fp.intVal f y) := by
  rw [cmpCode, if_neg hf]
  rcases lt_trichotomy (Fp.intVal f x) (Fp.intVal f y) with h | h | h
  · simp [h, h.ne, h.le]
  · simp [h]
  · simp [h.ne', h.not_gt, h.not_ge]

/-- The elements that a mask selects, from one vector or another. -/
theorem select_range (f : Fmt) (k : Mask) (n : Nat) (x y : Nat → Nat) :
    ((((List.range n).map x).zip ((List.range n).map y)).zipIdx.map fun (p, e) => if maskBit f k e then p.1 else p.2) =
      (List.range n).map fun e => if maskBit f k e then x e else y e := by
  refine eq_map_range (by simp) fun e he => ?_
  simp [he]

/-- Settles O17: a comparison by its code; the select by the mask bit of each element. -/
theorem vectorCompareSelect : Obligations.VectorCompareSelect := by
  unfold Obligations.VectorCompareSelect
  refine ⟨?vceq, ?vclt, ?vcle, ?vsel⟩
  case vceq =>
    refine vecCompare_of .eq (fun f x y => ?_) fun f x y => cmpCode_flags .eq f x y
    by_cases hf : f ∈ floats
    · simp [VCmp.holds, cmpCode, hf]
    · simp only [VCmp.holds, (cmpCode_int hf x y).1, if_neg hf]
  case vclt =>
    refine vecCompare_of .lt (fun f x y => ?_) fun f x y => cmpCode_flags .lt f x y
    by_cases hf : f ∈ floats
    · simp [VCmp.holds, cmpCode, hf]
    · simp only [VCmp.holds, (cmpCode_int hf x y).2.1, if_neg hf]
  case vcle =>
    refine vecCompare_of .le (fun f x y => ?_) fun f x y => cmpCode_flags .le f x y
    by_cases hf : f ∈ floats
    · simp [VCmp.holds, cmpCode, hf]
    · simp only [VCmp.holds, (cmpCode_int hf x y).2.2, if_neg hf]
  case vsel =>
    intro s k d a c m h
    refine congrArg Host.Outcome.next ((vecSlot_runs h accNotX_of_mem).trans ?_)
    simp only [elemsOf_eq, select_range, vecOf_eq]
    rfl

end Sys2Proof.Machine
end

section
/-! PROOF. Lane moves, mask moves and the compare that traps. -/
namespace Sys2Proof.Machine
open Sys2Proof

/-! ### Lists of moved elements (spec/07 R147, R149) -/

/-- Elements moved by an offset, zeros where none stands. -/
theorem slide_range (n : Nat) (x : Nat → Nat) (z : Int) :
    (if 0 ≤ z then ((List.range n).map x).drop z.toNat ++ List.replicate (Nat.min z.toNat n) 0
      else (List.replicate (Nat.min z.natAbs n) 0 ++ (List.range n).map x).take n) =
      (List.range n).map fun (e : Nat) => if 0 ≤ (e : Int) + z ∧ (e : Int) + z < (n : Nat) then x ((e : Int) + z).toNat else 0 := by
  simp only [Nat.min_eq_min]
  split
  case isTrue h =>
    obtain ⟨m, rfl⟩ := Int.eq_ofNat_of_zero_le h
    simp only [Int.toNat_natCast, ← Nat.cast_add]
    refine eq_map_range (by simp; omega) fun e he => ?_
    rcases Nat.lt_or_ge (e + m) n with hin | hout
    · rw [List.getElem?_append_left (by simp; omega)]
      simp [Nat.add_comm m e, hin]; omega
    · rw [List.getElem?_append_right (by simp; omega), List.getElem?_replicate_of_lt (by simp; omega), if_neg (by omega)]
  case isFalse h =>
    obtain ⟨m, rfl⟩ := Int.eq_negSucc_of_lt_zero (not_le.mp h)
    simp only [Int.natAbs_negSucc]
    refine eq_map_range (by simp) fun e he => ?_
    rw [List.getElem?_take_of_lt he]
    rcases Nat.lt_or_ge e (m + 1) with hlow | hhigh
    · rw [List.getElem?_append_left (by simp; omega), List.getElem?_replicate_of_lt (by omega), if_neg (by omega)]
    · have hat : ((e : Int) + Int.negSucc m).toNat = e - (m + 1) := by omega
      rw [List.getElem?_append_right (by simp; omega), if_pos (by omega), hat, List.length_replicate, Nat.min_eq_left (by omega)]
      simp [show e - (m + 1) < n by omega]

/-- A list with one element replaced. -/
theorem set_range {α : Type} (n : Nat) (x : Nat → α) (i : Nat) (v : α) :
    ((List.range n).map x).set i v = (List.range n).map fun e => if e = i then v else x e := by
  refine eq_map_range (by simp) fun e he => ?_
  rw [List.getElem?_set]
  by_cases h : i = e
  · simp [h, he]
  · simp [h, he, Ne.symm h]

/-! ### Lanes that differ (spec/07 R151) -/

theorem extractLsb'_lane (v : Vec) (j : Nat) : (v.extractLsb' (32 * j) 32).toNat = v.toNat / 2 ^ (32 * j) % 2 ^ 32 := by
  rw [BitVec.extractLsb'_toNat, Nat.shiftRight_eq_div_pow]

/-- Bit j of the mask says whether lane j differs. -/
theorem getLsbD_laneDiff (x y : Vec) {j : Nat} (hj : j < 128) :
    (laneDiff x y).getLsbD j = decide (x.extractLsb' (32 * j) 32 ≠ y.extractLsb' (32 * j) 32) := by
  have hlanes : ((elems 32 128 x.toNat).zip (elems 32 128 y.toNat)).map (fun (u, v) => if u = v then 0 else 1) =
      (List.range 128).map fun e => if x.extractLsb' (32 * e) 32 ≠ y.extractLsb' (32 * e) 32 then 1 else 0 := by
    simp only [elems_eq, List.zip_map', List.map_map, ne_eq, ite_not, ← BitVec.toNat_inj, extractLsb'_lane]
    rfl
  rw [laneDiff, hlanes, getLsbD_packE _ _ hj, decide_eq_true hj, Bool.true_and]

/-- No lane of two vectors differs exactly where they are equal. -/
theorem laneDiff_eq_zero_iff (x y : Vec) : laneDiff x y = 0 ↔ x = y := by
  constructor
  · intro h
    refine BitVec.eq_of_getLsbD_eq fun i hi => ?_
    have hlane : x.extractLsb' (32 * (i / 32)) 32 = y.extractLsb' (32 * (i / 32)) 32 := by
      simpa [h] using getLsbD_laneDiff x y (j := i / 32) (by omega)
    have hbit := congrArg (BitVec.getLsbD · (i % 32)) hlane
    simpa [BitVec.getLsbD_extractLsb', Nat.mod_lt, Nat.div_add_mod] using hbit
  · rintro rfl
    refine BitVec.eq_of_getLsbD_eq fun j hj => ?_
    simp [getLsbD_laneDiff x x hj]

section
variable {s : State} {k : Issue} {c : BitVec 3} {a b : Reg} {m : BitVec 2} {q : Bool}
  (h : VecRuns s k (viewOfM m) [] [a, b] false [] [] anyFmt)
include h

theorem vctrap_writes (hq : q = true ∨ operand s k (viewOfM m) [a, b] a = operand s k (viewOfM m) [a, b] b) :
    exec (.vctrap q c a b m) s = .next ((popped s k [a, b]).wk k c
      (laneDiff (operand s k (viewOfM m) [a, b] a) (operand s k (viewOfM m) [a, b] b))) := by
  refine congrArg Host.Outcome.next (vecSlot_effect h accAny_of_mem allPass_nil fun t ht => ?_)
  rw [List.mem_singleton.mp ht, if_pos]
  simpa only [Bool.or_eq_true, decide_eq_true_eq, laneDiff_eq_zero_iff] using hq

theorem vctrap_traps (hne : operand s k (viewOfM m) [a, b] a ≠ operand s k (viewOfM m) [a, b] b) :
    exec (.vctrap false c a b m) s = .next (s.raise 4
      (let mask := laneDiff (operand s k (viewOfM m) [a, b] a) (operand s k (viewOfM m) [a, b] b)
       { cause := .compareMismatch, aux := mask.toNat % 2 ^ 64, info := mask.toNat / 2 ^ 64 })) := by
  refine congrArg Host.Outcome.next (vecSlot_late h accAny_of_mem allPass_nil ?_)
  have hmask := mt (laneDiff_eq_zero_iff _ _).mp hne
  simp only [Bool.false_or, decide_eq_true_eq, if_neg hmask, firstSome]

end

/-- An element number counted on from a scalar: modulo 2^w its sign does not matter (spec/07 R147). -/
theorem intRes_fromScalar (f : Fmt) (x : Word) (e : Nat) : intRes f (x.toInt + e) = ((x.toNat + e) % 2 ^ Fp.width f, 0) := by
  have hdvd : 2 ^ Fp.width f ∣ 2 ^ 64 := pow_dvd_pow 2 (by cases f <;> decide)
  rw [← intRes_natCast]
  apply intRes_congr
  rw [BitVec.toInt_eq_toNat_bmod, Nat.cast_add]
  refine Int.ModEq.add_right _ ?_
  exact Int.ModEq.of_dvd (Int.natCast_dvd_natCast.mpr hdvd) (Int.bmod_emod ..)

/-- Settles O18: each move by the place that its elements come from, `vctrap` by the lanes that differ. -/
theorem vectorLaneMoves : Obligations.VectorLaneMoves := by
  unfold Obligations.VectorLaneMoves
  refine ⟨?vperm, ?vbcst, ?vslide, ?vidxInt, ?vidxFloat, ?vext, ?vins, ?vmov, ?vmovToMask, ?vmovOfMask, ?vmovMasks, ?query, ?traps⟩
  case vperm =>
    intro s k d a b m h
    refine congrArg Host.Outcome.next ((vecSlot_runs h accAny_of_mem).trans ?_)
    simp only [elems_eq, List.map_map, vecOf_eq]
    rfl
  case vbcst =>
    intro s k d a m h
    refine congrArg Host.Outcome.next ((vecSlot_runs h accNotX_of_mem).trans ?_)
    have hall : List.replicate (count (fmtVF k.fmt)) (execVbcst.lowBits' (fmtVF k.fmt) (k.rs a)) =
        (List.range (count (fmtVF k.fmt))).map fun _ => (k.rs a).toNat % 2 ^ Fp.width (fmtVF k.fmt) :=
      eq_map_range (by simp) fun e he => List.getElem?_replicate_of_lt he
    simp only [hall, vecOf_eq]
    exact congrArg (putVec _ k _ d) (vecFn_congr fun _ _ => Nat.mod_mod _ _)
  case vslide =>
    intro s k d a b m h
    refine congrArg Host.Outcome.next ((vecSlot_runs h accNotX_of_mem).trans ?_)
    simp only [elemsOf_eq, slide_range, vecOf_eq]
  case vidxInt =>
    intro s k d a m h
    refine congrArg Host.Outcome.next ((vecSlot_runs h (acc := accFI) (by decide)).trans ?_)
    have hint : Fp.isF (fmtVF k.fmt) = false := by
      have hmem := h.2.2.1
      revert hmem
      cases fmtVF k.fmt <;> decide
    simp only [hint, Bool.false_eq_true, if_false, intRes_fromScalar, joinFlags_eq, vecOf_eq, flagsOf_none]
    exact congrArg (fun v => (putVec _ k _ d v).flag 0) (vecFn_congr fun _ _ => Nat.mod_mod _ _)
  case vidxFloat =>
    intro s k d a m h
    refine congrArg Host.Outcome.next ((vecSlot_runs h (acc := accFI) (by decide)).trans ?_)
    have hfloat : Fp.isF (fmtVF k.fmt) = true := (isF_eq _).trans (decide_eq_true h.2.2.1)
    simp only [hfloat, if_true, joinFlags_eq, vecOf_eq]
    rfl
  case vext =>
    intro s k d a b m h
    refine congrArg Host.Outcome.next ((vecSlot_runs h accNotX_of_mem).trans ?_)
    exact congrArg ((popped s k [a]).ws k d) (asScalar_eq _ _)
  case vins =>
    intro s k d a b m h
    refine congrArg Host.Outcome.next ((vecSlot_runs h accNotX_of_mem).trans ?_)
    simp only [elemsOf_eq, set_range, vecOf_eq]
    refine congrArg (putVec _ k _ d) (vecFn_congr fun e _ => ?_)
    split
    · exact Nat.mod_mod _ _
    · rfl
  case vmov => exact fun s k d a m h => congrArg Host.Outcome.next (vecSlot_runs h accAny_of_mem)
  case vmovToMask => exact fun s k d a m h _ => congrArg Host.Outcome.next (vecSlot_runs h accAny_of_mem)
  case vmovOfMask => exact fun s k d a m h _ => congrArg Host.Outcome.next (vecSlot_runs h accAny_of_mem)
  case vmovMasks =>
    intro s k d a m h _ _
    refine congrArg Host.Outcome.next ((vecSlot_runs h accAny_of_mem).trans ?_)
    exact congrArg (s.wk k (d.setWidth 3)) (BitVec.setWidth_setWidth_of_le _ (by decide))
  case query =>
    exact fun s k q c a b m h hq => ⟨_, vctrap_writes h hq, fun j hj => getLsbD_laneDiff _ _ hj⟩
  case traps =>
    exact fun s k c a b m h hne => ⟨_, vctrap_traps h hne, fun j hj => getLsbD_laneDiff _ _ hj⟩

end Sys2Proof.Machine
end

section
/-! PROOF. Conversions of vectors. -/
namespace Sys2Proof.Machine
open Sys2Proof

/-! ### Parts of lists -/

/-- Elements from `p` on, `n` of them. -/
theorem drop_take_range {α : Type} {p n l : Nat} (h : p + n ≤ l) (x : Nat → α) :
    (((List.range l).map x).drop p).take n = (List.range n).map fun e => x (p + e) := by
  refine eq_map_range (by simp; omega) fun e he => ?_
  rw [List.getElem?_take_of_lt he, List.getElem?_drop]
  simp [show p + e < l by omega]

/-- `n` elements put in from `p` on, the others kept. -/
theorem splice_range {p n l : Nat} (h : p + n ≤ l) (new old : Nat → Nat) :
    ((List.range l).map old).take p ++ (List.range n).map new ++ ((List.range l).map old).drop (p + n) =
      (List.range l).map fun e => if p ≤ e ∧ e < p + n then new (e - p) else old e := by
  refine eq_map_range (by simp; omega) fun e he => ?_
  rcases Nat.lt_or_ge e (p + n) with hin | hhigh
  · rw [List.getElem?_append_left (by simp; omega)]
    rcases Nat.lt_or_ge e p with hlow | hmid
    · rw [List.getElem?_append_left (by simp; omega), if_neg (by omega)]
      simp [hlow, he]
    · rw [List.getElem?_append_right (by simp; omega), if_pos ⟨hmid, hin⟩, List.length_take_of_le (by simp; omega)]
      simp [show e - p < n by omega]
  · rw [List.getElem?_append_right (by simp; omega), if_neg (by omega), List.getElem?_drop]
    simp [show min p l = p by omega, show p + n + (e - (p + n)) = e by omega, he]

/-- Two lists in a row. -/
theorem append_range {α : Type} (n : Nat) (x y : Nat → α) :
    (List.range n).map x ++ (List.range n).map y = (List.range (n + n)).map fun e => if e < n then x e else y (e - n) := by
  refine eq_map_range (by simp) fun e he => ?_
  rcases Nat.lt_or_ge e n with h | h
  · rw [List.getElem?_append_left (by simpa using h)]
    simp [h]
  · rw [List.getElem?_append_right (by simpa using h), if_neg (by omega)]
    simp [show e - n < n by omega]

/-! ### Blocks of i4x (spec/05 R81) -/

/-- A block has as many values as digits, escapes and all. -/
theorem i4xGo_length (fuel : Nat) (l : List Nat) (h : l.length ≤ fuel) : (Fp.i4xGo fuel l).1.length = l.length := by
  induction fuel using Nat.strong_induction_on generalizing l with
  | _ fuel ih =>
    match fuel, l with
    | 0, l => simp [Fp.i4xGo, List.eq_nil_of_length_eq_zero (Nat.le_zero.mp h)]
    | fuel + 1, [] => rfl
    | fuel + 1, x :: rest =>
      have hrest : rest.length ≤ fuel := by simpa using h
      have hgo := ih fuel (by omega) rest hrest
      by_cases hx : x = 8
      · match rest with
        | [] => simpa [Fp.i4xGo, hx] using hgo
        | [y] => simpa [Fp.i4xGo, hx] using hgo
        | y :: z :: more =>
          simp only [List.length_cons] at hrest
          simp [Fp.i4xGo, hx, ih fuel (by omega) more (by omega)]
      · simp [Fp.i4xGo, hx, hgo]
theorem i4xBlock_length (l : List Nat) : (Fp.i4xBlock l).1.length = l.length := i4xGo_length _ l (Nat.le_succ _)

/-- Runs of a list, each with something done that keeps its length. -/
theorem chunks_flatten_length {α β : Type} {n : Nat} (g : List α → List β) (hg : ∀ l, (g l).length = l.length) (k : Nat) (l : List α) :
    ((chunks n k l).map g).flatten.length = min (n * k) l.length := by
  induction k generalizing l with
  | zero => simp [chunks]
  | succ k ih =>
    rw [chunks]
    split
    case isTrue h => simp [h]
    case isFalse h =>
      rw [List.map_cons, List.flatten_cons, List.length_append, hg, ih, List.length_take, List.length_drop, Nat.mul_succ]
      omega

/-- Elements of an i4x vector that lie within it are as many values. -/
theorem srcValues_i4x_length {v : Vec} {p n : Nat} (h : p + n ≤ 1024) : (srcValues .i4x v p n).1.length = n := by
  have hlen := chunks_flatten_length (n := 64) (fun l => (Fp.i4xBlock l).1) i4xBlock_length ((p + n + 63) / 64 - p / 64)
    ((elemsOf .i4x v).drop (64 * (p / 64)))
  rw [List.length_drop, elemsOf_length, show count .i4x = 1024 from rfl] at hlen
  simp only [srcValues, if_true, List.map_map, Function.comp_def, List.length_take, List.length_drop, hlen]
  omega

/-- The elements of any other format, each by its value. -/
theorem srcValues_range {f : Fmt} (hf : f ≠ .i4x) (v : Vec) {p n : Nat} (h : p + n ≤ count f) :
    srcValues f v p n = ((List.range n).map fun e => Fp.value f (elemAt f v (p + e)), 0) := by
  rw [srcValues, if_neg hf, elemsOf_eq, drop_take_range h, List.map_map]; rfl

theorem convOne_value {f : Fmt} (hf : f ≠ .i4x) (t : Fmt) (mode : Mode) (x : Nat) :
    convOne t f mode (Fp.value f x) = Fp.convert t f mode.rm mode.sat x := by
  rw [convOne, if_neg hf]; rfl

/-! ### Element counts of two widths (spec/07 R139) -/

/-- A part of a narrower format has the elements of the wider one. -/
theorem part_fits {f t : Fmt} {p : Nat} (h : p < Fp.width f / Fp.width t) : p * count f + count f ≤ count t := by
  have hmul : (p + 1) * count f ≤ Fp.width f / Fp.width t * count f := Nat.mul_le_mul_right _ h
  have hcount : Fp.width f / Fp.width t * count f ≤ count t := by
    rw [count, count, Nat.le_div_iff_mul_le (width_pos t)]
    calc Fp.width f / Fp.width t * (4096 / Fp.width f) * Fp.width t
        = Fp.width f / Fp.width t * Fp.width t * (4096 / Fp.width f) := by ring
      _ ≤ Fp.width f * (4096 / Fp.width f) := Nat.mul_le_mul_right _ (Nat.div_mul_le_self _ _)
      _ ≤ 4096 := Nat.mul_div_le _ _
  rw [Nat.succ_mul] at hmul
  exact hmul.trans hcount

/-- Two elements of half the width for each (spec/07 R140, R141). -/
theorem count_half {f t : Fmt} (h : Fp.width f = 2 * Fp.width t) : count t = count f + count f := by
  revert h; cases f <;> cases t <;> decide

/-- A conversion to elements no narrower fills its destination from part `p` of its source. -/
theorem cvt_widening {ws wt p n nt : Nat} (hw : ¬ wt < ws) (hp : ws < wt → p < wt / ws) (heq : ws = wt → p = 0 ∧ n = nt) :
    cvtOk ws wt p = true ∧ cvtPlan ws wt p n nt = (p * nt, nt, 0) := by
  rcases (not_lt.mp hw).lt_or_eq with h | h
  · simp [cvtOk, cvtPlan, hw, h, hp h]
  · obtain ⟨hzero, hn⟩ := heq h
    simp [cvtOk, cvtPlan, h, hzero, hn]

/-! ### Conversions (spec/07 R139) -/

section
variable {s : State} {k : Issue} {d a : Reg} {p m : BitVec 2} {t : Fmt}

/-- What `vcvt` does where its part exists, by its plan. -/
theorem vcvt_writes (h : VecRuns s k (viewOfM m) [d] [a] (decide (Fp.width t < Fp.width (fmtVF k.fmt))) [] [] anyFmt)
    (hok : cvtOk (Fp.width (fmtVF k.fmt)) (Fp.width t) p.toNat = true) {start n place : Nat}
    (hplan : cvtPlan (Fp.width (fmtVF k.fmt)) (Fp.width t) p.toNat (count (fmtVF k.fmt)) (count t) = (start, n, place)) :
    exec (.vcvt d a p t m) s = .next
      (let w := viewOfM m
       let f := fmtVF k.fmt
       let src := srcValues f (operand s k w [a] a) start n
       let r := joinFlags (src.1.map (convOne t f (modeOf k)))
       let old := elemsOf t (oldVal k w d)
       let out := if Fp.width t < Fp.width f then old.take place ++ r.1 ++ old.drop (place + n) else r.1
       (putVec (popped s k [a]) k w d (vecOf (Fp.width t) out)).flag (r.2 ||| src.2)) := by
  refine congrArg Host.Outcome.next ((vecSlot_effect (old := true) (part := fun f => decide (Fp.width t < Fp.width f)) h accAny_of_mem
    (allPass_need hok) allPass_nil).trans ?_)
  simp only [hplan]

/-- A narrowing conversion of every element, into part `p`. -/
theorem vcvt_narrows (h : VecRuns s k (viewOfM m) [d] [a] (decide (Fp.width t < Fp.width (fmtVF k.fmt))) [] [] anyFmt)
    (hx : fmtVF k.fmt ≠ .i4x) (hw : Fp.width t < Fp.width (fmtVF k.fmt)) (hp : p.toNat < Fp.width (fmtVF k.fmt) / Fp.width t) :
    exec (.vcvt d a p t m) s = .next
      (let w := viewOfM m
       let f := fmtVF k.fmt
       let h := fun e => Fp.convert t f (fmtRM k.fmt) (fmtSE k.fmt) (elemAt f (operand s k w [a] a) e)
       (putVec (popped s k [a]) k w d (vecFn (Fp.width t) (count t) fun e =>
         if p.toNat * count f ≤ e ∧ e < p.toNat * count f + count f then (h (e - p.toNat * count f)).1 else elemAt t (oldVal k w d) e)).flag
         (flagsOf (count f) fun e => (h e).2)) := by
  rw [vcvt_writes h (by simp [cvtOk, hw, hp]) (if_pos hw)]
  simp only [if_pos hw, srcValues_range hx _ (Nat.zero_add _).le, Nat.zero_add, List.map_map, Function.comp_def, convOne_value hx, joinFlags_eq,
    Nat.or_zero, elemsOf_eq, splice_range (part_fits hp), vecOf_eq]
  rfl

/-- A conversion to elements no narrower, from those that part `p` names. -/
theorem vcvt_widens (h : VecRuns s k (viewOfM m) [d] [a] (decide (Fp.width t < Fp.width (fmtVF k.fmt))) [] [] anyFmt)
    (hx : fmtVF k.fmt ≠ .i4x) (hw : ¬ Fp.width t < Fp.width (fmtVF k.fmt))
    (hp : Fp.width (fmtVF k.fmt) < Fp.width t → p.toNat < Fp.width t / Fp.width (fmtVF k.fmt)) (heq : Fp.width (fmtVF k.fmt) = Fp.width t → p = 0) :
    exec (.vcvt d a p t m) s = .next
      (let w := viewOfM m
       let f := fmtVF k.fmt
       let h := fun e => Fp.convert t f (fmtRM k.fmt) (fmtSE k.fmt) (elemAt f (operand s k w [a] a) e)
       (putVec (popped s k [a]) k w d (vecFn (Fp.width t) (count t) fun e => (h (p.toNat * count t + e)).1)).flag
         (flagsOf (count t) fun e => (h (p.toNat * count t + e)).2)) := by
  have hcount : Fp.width (fmtVF k.fmt) = Fp.width t → count (fmtVF k.fmt) = count t := fun he => by rw [count, count, he]
  obtain ⟨hok, hplan⟩ := cvt_widening hw hp fun he => ⟨congrArg BitVec.toNat (heq he), hcount he⟩
  have hfits : p.toNat * count t + count t ≤ count (fmtVF k.fmt) := by
    rcases (not_lt.mp hw).lt_or_eq with hlt | he
    · exact part_fits (hp hlt)
    · simp [heq he, hcount he]
  rw [vcvt_writes h hok hplan]
  simp only [if_neg hw, srcValues_range hx _ hfits, List.map_map, Function.comp_def, convOne_value hx, joinFlags_eq, Nat.or_zero, vecOf_eq]
  rfl

/-- A list of values converted one by one. -/
theorem map_getD_range {α β : Type} (g : α → β) {l : List α} {n : Nat} (h : l.length = n) (z : α) :
    l.map g = (List.range n).map fun e => g (l.getD e z) := by
  refine eq_map_range (by simpa using h) fun e he => ?_
  simp [List.getElem?_eq_getElem (h ▸ he : e < l.length)]

/-- A conversion of i4x blocks, each decoded first. -/
theorem vcvt_decodes (h : VecRuns s k (viewOfM m) [d] [a] false [] [] anyFmt) (hx : fmtVF k.fmt = .i4x) (hp : p.toNat < Fp.width t / 4) :
    exec (.vcvt d a p t m) s = .next
      (let w := viewOfM m
       let src := srcValues .i4x (operand s k w [a] a) (p.toNat * count t) (count t)
       let h := fun e => convOne t .i4x (modeOf k) (src.1.getD e (.fin false 0 0))
       (putVec (popped s k [a]) k w d (vecFn (Fp.width t) (count t) fun e => (h e).1)).flag ((flagsOf (count t) fun e => (h e).2) ||| src.2)) := by
  have hfits : p.toNat * count t + count t ≤ 1024 := part_fits (f := t) (t := .i4x) hp
  have hnarrow : ¬ Fp.width t < Fp.width (fmtVF k.fmt) := by rw [hx]; cases t <;> decide
  have hequal : Fp.width (fmtVF k.fmt) = Fp.width t → p.toNat = 0 ∧ count (fmtVF k.fmt) = count t := fun he => by
    rw [← he, hx] at hp
    exact ⟨Nat.lt_one_iff.mp hp, by rw [count, count, he]⟩
  obtain ⟨hok, hplan⟩ := cvt_widening hnarrow (fun _ => by rw [hx]; exact hp) hequal
  rw [vcvt_writes (by rwa [decide_eq_false hnarrow]) hok hplan]
  simp only [hx, if_neg (hx ▸ hnarrow), map_getD_range _ (srcValues_i4x_length hfits) (.fin false 0 0), joinFlags_eq, vecOf_eq]

end

/-! ### Packing and unpacking (spec/07 R140, R141) -/

/-- Where two vectors have twice the elements of one, they pack into it. -/
theorem vpack_writes {s : State} {k : Issue} {d a b : Reg} {z : Bool} {t : Fmt} (h : VecRuns s k 1 [d] [a, b] false [] [] ints)
    (ht : packTarget z (fmtVF k.fmt) = some t) (hw : Fp.width (fmtVF k.fmt) = 2 * Fp.width t) :
    exec (.vpack d a b z) s = .next
      (let f := fmtVF k.fmt
       let h := fun e => Fp.intToInt t (fmtSE k.fmt) (Fp.intVal f (if e < count f then elemAt f (operand s k 1 [a, b] a) e
         else elemAt f (operand s k 1 [a, b] b) (e - count f)))
       (putVec (popped s k [a, b]) k 1 d (vecFn (Fp.width t) (count t) fun e => (h e).1)).flag (flagsOf (count t) fun e => (h e).2)) := by
  refine congrArg Host.Outcome.next ((vecSlot_effect h isI_of_mem (allPass_need (by rw [ht]; rfl)) allPass_nil).trans ?_)
  simp only [ht, Option.getD_some, elemsOf_eq, append_range, ← count_half hw, List.map_map, Function.comp_def, joinFlags_eq, vecOf_eq]

/-- One half of a vector widened. -/
theorem vunpk_writes {s : State} {k : Issue} {d a : Reg} {half : Bool} {t : Fmt} {formats : List Fmt} (h : VecRuns s k 1 [d] [a] false [] [] formats)
    (hacc : ∀ f ∈ formats, (unpackTarget f).isSome = true) (ht : unpackTarget (fmtVF k.fmt) = some t)
    (hw : Fp.width t = 2 * Fp.width (fmtVF k.fmt)) :
    exec (.vunpk d a half) s = .next (putVec (popped s k [a]) k 1 d (vecFn (Fp.width t) (count t) fun e =>
      Fp.wrap t (Fp.intVal (fmtVF k.fmt) (elemAt (fmtVF k.fmt) (operand s k 1 [a] a) (half.toNat * count t + e))))) := by
  refine congrArg Host.Outcome.next ((vecSlot_runs h hacc).trans ?_)
  have hcount := count_half hw
  have hhalf : count (fmtVF k.fmt) / 2 = count t := by omega
  have hstart : (if half = true then count t else 0) = half.toNat * count t := by cases half <;> simp
  have hfits : half.toNat * count t + count t ≤ count (fmtVF k.fmt) := by
    have := Nat.mul_le_mul_right (count t) half.toNat_le
    omega
  simp only [ht, Option.getD_some, hhalf, hstart, elemsOf_eq, drop_take_range hfits, List.map_map, vecOf_eq, Function.comp_def]

/-- Settles O19: each conversion by the part that it reads or writes, the packs by the half that an element comes from. -/
theorem vectorConversions : Obligations.VectorConversions := by
  unfold Obligations.VectorConversions
  refine ⟨?vcvt, ?blocks, ?vpack, ?vunpk⟩
  case vcvt =>
    intro s k d a p t m h hx hp
    obtain ⟨hnarrow, hwiden, hequal⟩ := hp
    rcases lt_trichotomy (Fp.width t) (Fp.width (fmtVF k.fmt)) with hw | hw | hw
    · rw [vcvt_narrows h hx hw (hnarrow hw)]
      simp only [if_pos hw]
    · rw [vcvt_widens h hx hw.not_lt hwiden hequal]
      simp only [if_neg hw.not_lt]
    · rw [vcvt_widens h hx hw.not_gt hwiden hequal]
      simp only [if_neg hw.not_gt]
  case blocks => exact fun s k d a p t m h hx hp => vcvt_decodes h hx hp
  case vpack =>
    rintro s k d a b z f t h rfl hmem
    obtain ⟨ht, hw⟩ : packTarget z (fmtVF k.fmt) = some t ∧ Fp.width (fmtVF k.fmt) = 2 * Fp.width t := by
      refine (?packs : ∀ x ∈ _, packTarget x.2.1 x.1 = some x.2.2 ∧ Fp.width x.1 = 2 * Fp.width x.2.2) _ hmem
      decide
    exact vpack_writes h ht hw
  case vunpk =>
    rintro s k d a half f t h rfl hmem
    obtain ⟨ht, hw⟩ : unpackTarget (fmtVF k.fmt) = some t ∧ Fp.width t = 2 * Fp.width (fmtVF k.fmt) := by
      refine (?unpacks : ∀ x ∈ _, unpackTarget x.1 = some x.2 ∧ Fp.width x.2 = 2 * Fp.width x.1) _ hmem
      decide
    exact vunpk_writes h (by decide) ht hw

end Sys2Proof.Machine
end

section
/-! PROOF. Dot products, reductions, scans and complex products. -/
namespace Sys2Proof.Machine
open Sys2Proof

/-! ### Dot products (spec/07 R142) -/

/-- Groups of elements and old lanes over the same positions. -/
theorem lanes3_eq (g : List Nat → List Nat → Nat → Nat × Nat) (l : List Nat) (x y : Nat → List Nat) (z : Nat → Nat) :
    lanes3 g (l.map x) (l.map y) (l.map z) = l.map fun i => g (x i) (y i) (z i) := by
  induction l with
  | nil => rfl
  | cons i t ih => simp [lanes3, ih]

section
variable {s : State} {k : Issue} {d a b : Reg} {m : BitVec 2} {formats : List Fmt}

/-- Lane i of `vdot4` is of the four elements of lane i. -/
theorem vdot4_writes (h : VecRuns s k (viewOfM m) [d] [a, b] true [] [] formats) (hacc : ∀ f ∈ formats, accDot4 f = true)
    (h4 : count (fmtVF k.fmt) = 4 * 128) :
    exec (.vdot4 d a b m) s = .next
      (let w := viewOfM m
       let f := fmtVF k.fmt
       let x := fun (v : Vec) (i : Nat) => (List.range 4).map fun j => elemAt f v (4 * i + j)
       let r := fun i => dotLane (modeOf k) f (x (operand s k w [a, b] a) i) (x (operand s k w [a, b] b) i) (elemAt .z32 (oldVal k w d) i)
       (putVec (popped s k [a, b]) k w d (vecFn 32 128 fun i => (r i).1)).flag (flagsOf 128 fun i => (r i).2)) := by
  refine congrArg Host.Outcome.next ((vecSlot_runs h hacc).trans ?_)
  simp only [elemsOf_eq, h4, chunks_range (by decide : 0 < 4), elems_eq, lanes3_eq, joinFlags_eq, vecOf_eq]
  rfl

/-- The sum of a lane of integers, modulo 2^32. -/
theorem dotLane_int {mode : Mode} {f : Fmt} (hf : Fp.isFloat f = false) (x y : Nat → Nat) (z : Nat) :
    dotLane mode f ((List.range 4).map x) ((List.range 4).map y) z =
      (ofInt 32 (z + Fp.intVal f (x 0) * Fp.intVal f (y 0) + Fp.intVal f (x 1) * Fp.intVal f (y 1) + Fp.intVal f (x 2) * Fp.intVal f (y 2) +
        Fp.intVal f (x 3) * Fp.intVal f (y 3)), 0) := by
  rw [dotLane, hf]; rfl

end

/-! ### Lengths of trees and scans (spec/05 R89, R90) -/

theorem redElems_length (k : Issue) (f : Fmt) (op : RedOp) (en : Bool) (m : BitVec 3) (v : Vec) : (redElems k f op en m v).length = count f := by
  simp [redElems, elemsOf_length]

section
variable {g : Nat → Nat → Nat × Nat}

theorem sweep_length (test : Nat → Bool) (off : Nat) (x : List Nat × Nat) : (sweep g test off x).1.length = x.1.length := by
  simp [sweep, joinFlags]
theorem scanUp_length (n d : Nat) (x : List Nat × Nat) : (scanUp g n d x).1.length = x.1.length := by
  induction n generalizing d x with
  | zero => rfl
  | succ n ih => rw [scanUp, ih, sweep_length]
theorem scanDown_length (n : Nat) (x : List Nat × Nat) : (scanDown g n x).1.length = x.1.length := by
  induction n generalizing x with
  | zero => rfl
  | succ n ih => rw [scanDown, ih, sweep_length]
/-- A scan has an element for each. -/
theorem scanAll_length (n : Nat) (l : List Nat) : (scanAll g n l).1.length = l.length := by
  rw [scanAll, scanDown_length, scanUp_length]

end

/-- A vector of one element, or none, in element 0. -/
theorem vecOf_take_one {w n : Nat} (hn : 0 < n) (l : List Nat) : vecOf w (l.take 1) = vecFn w n fun e => if e = 0 then l.headD 0 else 0 := by
  rw [vecOf_getD (n := n) (by rw [List.length_take]; omega)]
  refine vecFn_congr fun e _ => congrArg (· % 2 ^ w) ?_
  match l, e with
  | [], _ => simp
  | x :: t, 0 => simp
  | x :: t, e + 1 => simp

/-! ### Complex products (spec/07 R152, spec/05 R80) -/

/-- An element of a complex product: the real part at an even position, the imaginary part at an odd one. -/
def cmulAt (mode : Mode) (f : Fmt) (x y : Nat → Nat) (e : Nat) : Nat × Nat :=
  if e % 2 = 0 then mulPair mode f true (x e) (y e) (x (e + 1)) (y (e + 1)) else mulPair mode f false (x (e - 1)) (y e) (x e) (y (e - 1))

theorem cmulAt_add_two (mode : Mode) (f : Fmt) (x y : Nat → Nat) (e : Nat) :
    cmulAt mode f x y (e + 2) = cmulAt mode f (fun i => x (i + 2)) (fun i => y (i + 2)) e := by
  rw [cmulAt, cmulAt, Nat.add_mod_right]
  split
  · rfl
  · next h => rw [show e + 2 - 1 = e - 1 + 2 by omega]

theorem range_two_mul_succ {α : Type} (n : Nat) (x : Nat → α) :
    (List.range (2 * (n + 1))).map x = x 0 :: x 1 :: (List.range (2 * n)).map fun i => x (i + 2) := by
  rw [show 2 * (n + 1) = 2 * n + 1 + 1 by ring, List.range_succ_eq_map, List.range_succ_eq_map]
  simp [Function.comp_def]

theorem cmulGo_range (mode : Mode) (f : Fmt) (n : Nat) (x y : Nat → Nat) :
    cmulGo mode f ((List.range (2 * n)).map x) ((List.range (2 * n)).map y) = (List.range (2 * n)).map (cmulAt mode f x y) := by
  induction n generalizing x y with
  | zero => rfl
  | succ n ih =>
    have hnext : (List.range (2 * (n + 1))).map (cmulAt mode f x y) =
        cmulAt mode f x y 0 :: cmulAt mode f x y 1 :: (List.range (2 * n)).map (cmulAt mode f (fun i => x (i + 2)) fun i => y (i + 2)) := by
      simp only [range_two_mul_succ, cmulAt_add_two]
    rw [range_two_mul_succ, range_two_mul_succ, cmulGo, ih, hnext]
    rfl

/-- Settles O20: a dot product by its lanes, a reduction and a scan by their lengths, a complex product pair by pair. -/
theorem vectorDotReduce : Obligations.VectorDotReduce := by
  unfold Obligations.VectorDotReduce
  refine ⟨?dotInt, ?dotFloat, ?reductions, ?vcmul⟩
  case dotInt =>
    intro s k d a b m h
    obtain ⟨h4, hint⟩ : count (fmtVF k.fmt) = 4 * 128 ∧ Fp.isFloat (fmtVF k.fmt) = false :=
      (by decide : ∀ f ∈ [Fmt.i8, .z8], count f = 4 * 128 ∧ Fp.isFloat f = false) _ h.2.2.1
    rw [vdot4_writes h (by decide) h4]
    simp only [dotLane_int hint, flagsOf_none]
    rfl
  case dotFloat =>
    intro s k d a b m h
    exact vdot4_writes h (by decide) ((by decide : ∀ f ∈ [Fmt.f8e4, .f8e5], count f = 4 * 128) _ h.2.2.1)
  case reductions =>
    refine fun s k d a en c q m h => ⟨congrArg Host.Outcome.next ((vecSlot_runs h accFI_of_mem).trans ?red),
      congrArg Host.Outcome.next ((vecSlot_runs h accFI_of_mem).trans ?scan)⟩
    case red =>
      have hcount : 0 < count (fmtVF k.fmt) := by cases fmtVF k.fmt <;> decide
      simp only [vecOf_take_one hcount]
    case scan => simp only [vecOf_getD ((scanAll_length _ _).trans (redElems_length ..)).le]
  case vcmul =>
    intro s k d a b m h
    refine congrArg Host.Outcome.next ((vecSlot_runs h (acc := accCmul) (by decide)).trans ?_)
    obtain ⟨n, hn⟩ : ∃ n, count (fmtVF k.fmt) = 2 * n := ⟨count (fmtVF k.fmt) / 2, by cases fmtVF k.fmt <;> rfl⟩
    simp only [elemsOf_eq, hn, cmulGo_range, joinFlags_eq, vecOf_eq]
    rfl

end Sys2Proof.Machine
end

section
/-! PROOF. Pops and pushes of stream ports. -/
namespace Sys2Proof.Machine
open Sys2Proof

/-! ### A port changed in its place (spec/13 R249) -/

theorem upd_getElem? {α : Type} {l : List α} {p : Nat} (h : p < l.length) (g : α → α) (z : α) : (upd l p g)[p]? = some (g (l.getD p z)) := by
  simp [upd, h]

theorem popPort_dead {s : State} {n p : Nat} (h : portLive ((s.seq n).ports.getD p {}) false = false) : popPort s n p = (setPortst s n p, 0) := by
  rw [popPort]
  exact if_pos (congrArg Bool.not h)

section
variable {s : State} {n p : Nat} (hlive : portLive ((s.seq n).ports.getD p {}) false = true) (hfwd : fwdIn (s.seq n) p = none)
include hlive hfwd

theorem popPort_value : (popPort s n p).2 = ((((s.seq n).ports.getD p {}).buf.head?.bind (·.vec)).getD 0) := by
  simp only [popPort, hlive, hfwd, Bool.not_true, Bool.false_eq_true, if_false]

/-- The port after a pop: its oldest entry is gone, and one for the next vector stands at the end while its walk has any. -/
theorem popPort_port (hp : p < (s.seq n).ports.length) :
    let x := (s.seq n).ports.getD p {}
    ∃ entry, ((popPort s n p).1.seq n).ports[p]? = some { x with
      buf := x.buf.drop 1 ++ (if x.asked < pdVectors x.desc then [entry] else [])
      moved := x.moved + 1
      asked := if x.asked < pdVectors x.desc then x.asked + 1 else x.asked } := by
  intro x
  refine ⟨{ id := s.nextId, after := fencedOn (s.seq n) .p false, vec := seenVec (s.seq n) p x.desc x.asked }, ?_⟩
  simp only [popPort, hlive, hfwd, Bool.not_true, Bool.false_eq_true, if_false, State.seq_bump, State.seq_modSeq_same]
  exact upd_getElem? hp _ _

end

theorem pushSeq_dead {q : Seq} {p : Nat} (h : portLive (q.ports.getD p {}) true = false) (id : Nat) (v : Vec) (w : Bool) (l : List Seg)
    (after : List Dep) (pc pos : Nat) (held : Bool) :
    pushSeq q p id v w l after pc pos held = { q with portst := q.portst ||| BitVec.ofNat 16 (2 ^ (8 + p)) } := by
  rw [pushSeq]
  exact if_pos (congrArg Bool.not h)

/-- The port after a push that writes memory: the vector, cut to the elements left, stands at the end (spec/13 R251). -/
theorem pushSeq_port {q : Seq} {p : Nat} (hlive : portLive (q.ports.getD p {}) true = true) (hp : p < q.ports.length) (id : Nat) (v : Vec)
    (l : List Seg) (after : List Dep) (pc pos : Nat) (held : Bool) :
    let x := q.ports.getD p {}
    (pushSeq q p id v true l after pc pos held).ports[p]? = some { x with
      moved := x.moved + 1
      buf := x.buf ++ [{ id := id, vec := some (BitVec.ofNat 4096 (cutVec x.desc x.moved v.toNat)), segs := l, after := after, pc := pc, slot := pos,
                         held := held }] } := by
  simp only [pushSeq, hlive, Bool.not_true, Bool.false_eq_true, if_false, if_true]
  exact upd_getElem? hp _ _

/-- Settles O22: a dead port by its bit of PORTST, a live one by the port after its pop or its push. (`portMoves` is a function of the
model.) -/
theorem streamPortMoves : Obligations.PortMoves := by
  unfold Obligations.PortMoves
  intro s n p
  refine ⟨?deadPop, ?livePop, ?deadPush, ?livePush⟩
  case deadPop => exact popPort_dead
  case livePop =>
    intro hlive hfwd hp
    obtain ⟨entry, hport⟩ := popPort_port hlive hfwd hp
    refine ⟨popPort_value hlive hfwd, _, hport, rfl, fun hmore => ?_, fun hlast => ?_, rfl, rfl⟩
    · simp only [if_pos hmore, List.length_append, List.length_singleton, and_self]
    · simp only [if_neg hlast, List.append_nil, and_self]
  case deadPush => exact fun q id v w l after pc pos held hdead => pushSeq_dead hdead id v w l after pc pos held
  case livePush =>
    exact fun q id v l after pc pos held hlive hp => ⟨_, _, pushSeq_port hlive hp id v l after pc pos held, rfl, rfl, rfl, rfl, rfl, rfl⟩

end Sys2Proof.Machine
end

section
/-! PROOF. Matrix instructions join the matrix queue. -/
namespace Sys2Proof.Machine
open Sys2Proof

/-! ### An entry joins the queue (spec/08 R170) -/

/-- From `s` to `u` only landing slots of core `g` differ. -/
def SlotsOnly (s u : State) (g : Nat) : Prop :=
  u = { s with cores := u.cores } ∧ u.core g = { s.core g with ls := (u.core g).ls } ∧ ∀ j, j ≠ g → u.core j = s.core j

theorem SlotsOnly.refl (s : State) (g : Nat) : SlotsOnly s s g := ⟨rfl, rfl, fun _ _ => rfl⟩
theorem SlotsOnly.seq {s u : State} {g : Nat} (h : SlotsOnly s u g) (n : Nat) : u.seq n = s.seq n := by rw [h.1]; rfl
theorem SlotsOnly.queue {s u : State} {g : Nat} (h : SlotsOnly s u g) : (u.core g).mq = (s.core g).mq := by rw [h.2.1]
theorem SlotsOnly.regs {s u : State} {g : Nat} (h : SlotsOnly s u g) (j : Nat) : (u.core j).regs = (s.core j).regs := by
  obtain ⟨-, hcore, hother⟩ := h
  by_cases hj : j = g
  · rw [hj, hcore]
  · rw [hother j hj]

/-- One landing slot of a core changed. -/
def withSlot (s : State) (g p : Nat) (f : Landing → Landing) : State := s.modCore g fun c => { c with ls := upd c.ls p f }

theorem withSlot_slots (s : State) (g p : Nat) (f : Landing → Landing) : ((withSlot s g p f).core g).ls = upd (s.core g).ls p f := by
  rw [withSlot, State.core_modCore_same]
theorem withSlot_slotsOnly (s : State) (g p : Nat) (f : Landing → Landing) : SlotsOnly s (withSlot s g p f) g :=
  ⟨rfl, by rw [withSlot, State.core_modCore_same], fun j hj => State.core_modCore_other _ _ _ _ hj⟩

/-- What comes to the head of one core's queue changes no other core. -/
theorem promote_core_other (s : State) {g j : Nat} (again : Bool) (h : j ≠ g) : (promote s g again).core j = s.core j := by
  unfold promote
  split
  · split
    · exact State.core_modCore_other _ _ _ _ h
    · rfl
  · rfl

/-- The entry as it stands in the queue: with its place in the program and the fences before it. -/
def queuedAs (s : State) (k : Issue) (e : MtxEntry) : MtxEntry :=
  { e with id := s.nextId, seq := k.n, fmt := k.fmt, after := fencedOn ((pruneOrders s k.n).seq k.n) .m false, pc := k.pc, slot := k.pos, held := k.held }
/-- The entry appended, before what is at the head begins and MT rises. -/
def appended (s : State) (k : Issue) (e : MtxEntry) : State :=
  (pruneOrders s k.n).modCore (coreOf k.n) fun c => { c with mq := c.mq ++ [queuedAs s k e] }

theorem queueMtx_eq (s : State) (k : Issue) (e : MtxEntry) :
    queueMtx s k e = ((promote (appended s k e) (coreOf k.n)).modSeq k.n fun q => q.raise .mt).bump := rfl

section
variable {s : State} {k : Issue} {e : MtxEntry}

theorem queueMtx_seq_same : ∃ order, (queueMtx s k e).seq k.n = { s.seq k.n with order := order, mt := (s.seq k.n).mt + 1 } := by
  refine ⟨(s.seq k.n).order.filter fun o => !depsMet s k.n o.after, ?_⟩
  rw [queueMtx_eq, State.seq_bump, State.seq_modSeq_same, (promote_onlyBegins _ _ _).seq, appended, State.seq_modCore, pruneOrders,
    State.seq_modSeq_same]
  rfl
theorem queueMtx_seq_other {m : Nat} (h : m ≠ k.n) : (queueMtx s k e).seq m = s.seq m := by
  rw [queueMtx_eq, State.seq_bump, State.seq_modSeq_other _ _ _ _ h, (promote_onlyBegins _ _ _).seq, appended, State.seq_modCore, pruneOrders,
    State.seq_modSeq_other _ _ _ _ h]

/-- Of the module itself only cores and sequencers change, and the next identity. -/
theorem queueMtx_frame : queueMtx s k e = { s with cores := (queueMtx s k e).cores, seqs := (queueMtx s k e).seqs, nextId := s.nextId + 1 } := by
  rw [queueMtx_eq, (promote_onlyBegins (appended s k e) (coreOf k.n) false).1]
  rfl

theorem queueMtx_core_other {j : Nat} (h : j ≠ coreOf k.n) : (queueMtx s k e).core j = s.core j :=
  (promote_core_other (appended s k e) false h).trans (State.core_modCore_other (pruneOrders s k.n) _ _ _ h)
/-- Of its own core only the queue changes: the entry stands at its end. -/
theorem queueMtx_core_same : (queueMtx s k e).core (coreOf k.n) = { s.core (coreOf k.n) with mq := ((queueMtx s k e).core (coreOf k.n)).mq } ∧
    SameQueue ((queueMtx s k e).core (coreOf k.n)).mq ((s.core (coreOf k.n)).mq ++ [queuedAs s k e]) := by
  obtain ⟨hcore, hqueue⟩ := (promote_onlyBegins (appended s k e) (coreOf k.n) false).2 (coreOf k.n)
  have happended : (appended s k e).core (coreOf k.n) = { s.core (coreOf k.n) with mq := (s.core (coreOf k.n)).mq ++ [queuedAs s k e] } :=
    State.core_modCore_same (pruneOrders s k.n) _ _
  rw [happended] at hcore hqueue
  exact ⟨hcore, hqueue⟩

end

/-- An entry queued in a state that differs from `s` in its landing slots joins the queue of `s`. -/
theorem queueMtx_queues {s u : State} {k : Issue} (h : SlotsOnly s u (coreOf k.n)) (e : MtxEntry) :
    Queues s k e (u.core (coreOf k.n)).ls (queueMtx u k e) := by
  obtain ⟨order, hseq⟩ := queueMtx_seq_same (s := u) (k := k) (e := e)
  obtain ⟨hcore, hqueue⟩ := queueMtx_core_same (s := u) (k := k) (e := e)
  have hframe := queueMtx_frame (s := u) (k := k) (e := e)
  rw [h.seq] at hseq
  rw [h.queue] at hqueue
  have hid : u.nextId = s.nextId := by rw [h.1]
  have hregs : ∀ j, ((queueMtx u k e).core j).regs = (s.core j).regs := fun j => by
    by_cases hj : j = coreOf k.n
    · rw [hj, hcore]; exact h.regs _
    · rw [queueMtx_core_other hj]; exact h.regs j
  refine ⟨⟨u.nextId, _, hid.ge, hqueue⟩, ?slots, ?mt, ?acc, ?units, ?cores⟩
  case slots => rw [hcore]
  case mt => rw [hseq]
  case acc => rw [hseq]
  case units =>
    rw [OnlyUnits, hseq]
    refine ⟨?_, ?_, ?_, ?_, ?_, ?_, hregs, fun m hm => (queueMtx_seq_other hm).trans (h.seq m), rfl, rfl, rfl, rfl⟩
    all_goals rw [hframe, h.1]
  case cores => exact fun j hj => (queueMtx_core_other hj).trans (h.2.2 j hj)

/-! ### Checks of matrix slots (spec/08 R155, R160) -/

theorem need_pass {ok : Bool} {c : Cause} {flags : Nat} (h : ok = true) : need ok c flags = none := if_pos h
/-- A check that is made under a condition only. -/
theorem need_pass_of_imp {cond ok : Bool} {c : Cause} {flags : Nat} (h : cond = true → ok = true) : need (!cond || ok) c flags = none := by
  cases cond
  case false => rfl
  case true => exact need_pass (h rfl)
theorem misaligned_pass {a : Word} {n : Nat} (h : a.toNat % n = 0) : misaligned a n = none := if_pos h
theorem allPass_cons {c : Option Trap} {l : List (Option Trap)} (h : c = none) (hl : AllPass l) : AllPass (c :: l) :=
  List.forall_mem_cons.mpr ⟨h, hl⟩

theorem MatrixRoom.room {s : State} {k : Issue} (h : MatrixRoom s k) : mtxRoom s k = true := by
  obtain ⟨hqueue, hmt, -⟩ := h
  simp [mtxRoom, Seq.room, Seq.ctr, hqueue, hmt]
theorem MatrixRoom.ready {s : State} {k : Issue} (h : MatrixRoom s k) : (mtxRoom s k && !heldBack s k.n .m false) = true := by
  rw [h.room, h.2.2]; rfl

/-- A tile's place in the window. -/
theorem tileOff_eq (k : Issue) (n : Nat) : tileOff k n = (viewAt k.before 2).base + 16384 * n := by rw [tileOff, elemOff, Nat.mul_comm]

/-! ### `mma` (spec/08 R159, R160) -/

/-- A tile with a slot takes that one, another the first that is free. -/
theorem slot_chosen {c : Core} {n t p : Nat} (h : slotOf c n t = some p ∨ slotOf c n t = none ∧ slotFree c n = some p) :
    ((slotOf c n t).orElse fun _ => slotFree c n).getD 0 = p ∧ ((slotOf c n t).isSome || (slotFree c n).isSome) = true := by
  rcases h with hslot | ⟨hslot, hfree⟩
  · rw [hslot]; exact ⟨rfl, rfl⟩
  · rw [hslot, hfree]; exact ⟨rfl, rfl⟩

/-- The state after a tile has its slot: a slot that the `mma` opens is accounted to it. -/
def opened (s : State) (k : Issue) (tile p : Nat) (opens : Bool) : State :=
  if opens then withSlot s (coreOf k.n) p fun l => { l with tile := some tile, int_ := fmtACC k.fmt, partial_ := false } else s

theorem opened_slotsOnly (s : State) (k : Issue) (tile p : Nat) (opens : Bool) : SlotsOnly s (opened s k tile p opens) (coreOf k.n) := by
  cases opens
  case false => exact .refl s _
  case true => exact withSlot_slotsOnly ..
theorem opened_slots (s : State) (k : Issue) (tile p : Nat) (opens : Bool) : ((opened s k tile p opens).core (coreOf k.n)).ls =
    if opens then upd (s.core (coreOf k.n)).ls p fun l => { l with tile := some tile, int_ := fmtACC k.fmt, partial_ := false }
    else (s.core (coreOf k.n)).ls := by
  cases opens
  case false => rfl
  case true => exact withSlot_slots ..

/-- An `mma` with the drain latch as A does not look at its field of A (spec/08 R162). -/
theorem mmaSlot_latch (s : State) (z neg : Bool) (r : BitVec 4) (h : BitVec 3) (a b : Reg) : mmaSlot s z neg true r h a b = mmaSlot s z neg true r h 0 b := by
  simp only [mmaSlot, if_true, Bool.true_or, Bool.not_true, Bool.and_false, Bool.not_false]

theorem mmaStarts_of {i : Bool → Bool → BitVec 4 → BitVec 3 → Reg → Reg → Instr} {dr : Bool}
    (hi : ∀ z neg r h a b s, exec (i z neg r h a b) s = .next (mmaSlot s z neg dr r h a b) := by intros; rfl) : MmaStarts i dr := by
  intro s k z neg r h a b fa fb p hop hroom hfmts hok hshape hslot hA hB x tensor sa sb hsa hsb
  obtain ⟨rfl, rfl⟩ : (mtxFmts (shapeAt k h.toNat) k.fmt).1 = fa ∧ (mtxFmts (shapeAt k h.toNat) k.fmt).2 = fb := Prod.mk.inj hfmts
  obtain ⟨hp, hsome⟩ := slot_chosen (hslot.imp_left And.left)
  rw [hi, mmaSlot]
  dsimp only
  refine ⟨_, congrArg Host.Outcome.next (slot_effect hop hroom.ready rfl rfl hok
    (allPass_cons (need_pass hshape) <| allPass_cons (need_pass hsome) <| allPass_cons ?accFormat <| allPass_cons ?alignA <| allPass_cons ?alignB <|
      allPass_cons (need_pass_of_imp hsa) <| allPass_cons (need_pass_of_imp hsb) allPass_nil) rfl), ?queues⟩
  case accFormat =>
    rcases hslot with ⟨hslot, hacc⟩ | ⟨hslot, -⟩
    · rw [hslot]; exact need_pass (decide_eq_true hacc)
    · rw [hslot]
  case alignA =>
    split
    · rfl
    · next hnot =>
      obtain ⟨hdr, hwidth⟩ : dr = false ∧ Fp.width (mtxFmts (shapeAt k h.toNat) k.fmt).1 = 16 := by simpa using hnot
      exact misaligned_pass (hA hdr hwidth)
  case alignB =>
    split
    · rfl
    · next hnot => exact misaligned_pass (hB (not_not.mp hnot))
  case queues =>
    rw [hp, tileOff_eq, ← opened_slots]
    exact queueMtx_queues (opened_slotsOnly ..) _

/-! ### `mcommit` and `mzero` (spec/08 R160, R165, R166) -/

/-- The state after the slot that holds a tile, if one does, has been freed. -/
def freed (s : State) (g : Nat) : Option Nat → State
  | some p => withSlot s g p fun l => { l with tile := none }
  | none => s
/-- The accumulator format of a tile: that of its slot, or FMT.ACC. -/
def tileAcc (s : State) (k : Issue) : Option Nat → Bool
  | some p => (landingAt (s.core (coreOf k.n)) p).int_
  | none => fmtACC k.fmt

/-- The entry that frees a tile. -/
def freeingEntry (s : State) (k : Issue) (r : BitVec 4) (op : Bool → MtxOp) (held : Option Nat) : MtxEntry :=
  { id := 0, seq := 0, op := op held.isSome, tile := r.toNat, ls := held, opens := tileAcc s k held, off := (viewAt k.before 2).base + 16384 * r.toNat }

theorem freeingSlot_runs {s : State} {k : Issue} {r : BitVec 4} {op : Bool → MtxOp} (hop : Operable s k [.tile r.toNat] []) (hroom : MatrixRoom s k) :
    let held := slotOf (s.core (coreOf k.n)) k.n r.toNat
    freeingSlot s r op = queueMtx (freed s (coreOf k.n) held) k (freeingEntry s k r op held) := by
  have hrun : freeingSlot s r op = _ := slot_runs hop (hr := hroom.room)
  rw [hrun]
  dsimp only
  rw [freeingEntry, tileOff_eq]
  cases slotOf (s.core (coreOf k.n)) k.n r.toNat <;> rfl

theorem tileFreed_of {i : BitVec 4 → Instr} {op : Bool → MtxOp}
    (hi : ∀ r s, exec (i r) s = .next (freeingSlot s r op) := by intros; rfl) : TileFreed i op := by
  intro s k r hop hroom
  rw [hi, freeingSlot_runs hop hroom]
  cases slotOf (s.core (coreOf k.n)) k.n r.toNat with
  | none => exact ⟨_, _, rfl, fun _ => rfl, nofun, queueMtx_queues (.refl s _) _⟩
  | some p =>
    refine ⟨_, (landingAt (s.core (coreOf k.n)) p).int_, rfl, nofun, fun _ hq => by rw [← Option.some.inj hq], ?_⟩
    have hqueues := queueMtx_queues (withSlot_slotsOnly s (coreOf k.n) p fun l => { l with tile := none }) (freeingEntry s k r op (some p))
    rw [withSlot_slots] at hqueues
    exact hqueues

/-! ### `mstab` and `mshape` (spec/08 R167, R168) -/

theorem fld_high (v : Word) : fld v.toNat 63 48 = (v >>> 48).toNat := by
  rw [BitVec.toNat_ushiftRight, Nat.shiftRight_eq_div_pow]
  exact Nat.mod_eq_of_lt (by have := v.isLt; omega)
theorem fld_low (v : Nat) : fld v 47 0 = v % 2 ^ 48 := by rw [fld, bits, pow_zero, Nat.div_one]

theorem mstab_queues {s : State} {k : Issue} (i : BitVec 8) {a b : Reg} (hop : Operable s k (snames [a, b]) (snames [a, b])) (hroom : MatrixRoom s k)
    (ha : (k.rs a).toNat % 2 = 0) (hb : ((k.rs b) >>> 48).toNat ≠ 0) : ∃ t, exec (.mstab i a b) s = .next t ∧
      Queues s k { id := 0, seq := 0, op := .stab i.toNat { bpr := ((k.rs b) >>> 48).toNat, dbase := (k.rs b).toNat % 2 ^ 48
                                                            saddr := (k.rs a).toNat % 2 ^ 48, core := coreOf k.n } }
        (s.core (coreOf k.n)).ls t := by
  simp only [← fld_high, ← fld_low] at hb ⊢
  exact ⟨_, congrArg Host.Outcome.next (slot_effect hop hroom.room rfl rfl rfl
    (allPass_cons (misaligned_pass ha) (allPass_need (decide_eq_true hb))) rfl), queueMtx_queues (.refl s _) _⟩

section
variable {s : State} {k : Issue} {h : BitVec 3} {a : Reg} {m : BitVec 2} (hrun : VecRuns s k (viewOfM m) [] [a] false [.shape h.toNat] [] anyFmt)
include hrun

theorem mshape_writes (hok : shapeLoadable ((operand s k (viewOfM m) [a] a).setWidth 512) = true) : exec (.mshape h a m) s =
    .next ((popped s k [a]).wb k ((viewAt k.before 3).base + 64 * h.toNat) 64 ((operand s k (viewOfM m) [a] a).toNat % 2 ^ 512)) := by
  rw [Nat.mul_comm]
  exact congrArg Host.Outcome.next (vecSlot_effect hrun accAny_of_mem allPass_nil (allPass_cons (need_pass hok) allPass_nil))
theorem mshape_traps (hbad : shapeLoadable ((operand s k (viewOfM m) [a] a).setWidth 512) = false) :
    exec (.mshape h a m) s = .next (s.raise 4 { cause := .reservedField, flags := 4 }) :=
  congrArg Host.Outcome.next (vecSlot_late hrun accAny_of_mem allPass_nil (by simp [firstSome, need, hbad, flagShape]))

end

/-- Settles O41: every matrix operation by the entry it queues, a shape record by the checks of its vector. -/
theorem matrixOperationsStart : Obligations.MatrixOperationsStart := by
  unfold Obligations.MatrixOperationsStart
  refine ⟨mmaStarts_of, ?latch, tileFreed_of, tileFreed_of, fun _ _ i _ _ => mstab_queues i, fun _ _ _ _ _ hrun => ⟨mshape_writes hrun, mshape_traps hrun⟩⟩
  case latch => exact mmaStarts_of fun z neg r h a b s => congrArg Host.Outcome.next (mmaSlot_latch s z neg r h a b).symm

end Sys2Proof.Machine
end

section
/-! SUPPORT. What leaves memory alone. One lemma per function of the model that returns a state and writes no memory, under the name of the model's file.
A lemma that holds by computation is closed by `(rfl)`, so that `simp` may use it for the hypotheses of the lemmas on folds and slots. -/
namespace Sys2Proof.Machine
open Sys2Proof

/-! ### Past folds and choices -/

@[simp] theorem mem_ite (p : Prop) [Decidable p] (s t : State) : (if p then s else t).mem = if p then s.mem else t.mem := apply_ite State.mem p s t
theorem ite_mem {p : Prop} [Decidable p] {s t : State} {m : Mem} (hs : s.mem = m) (ht : t.mem = m) : (if p then s else t).mem = m := by
  split <;> assumption
theorem foldl_mem {α : Type} {f : State → α → State} (hf : ∀ s x, (f s x).mem = s.mem) (l : List α) (s : State) : (l.foldl f s).mem = s.mem := by
  induction l generalizing s with
  | nil => rfl
  | cons x l ih => rw [List.foldl_cons, ih, hf]
theorem foldl_fst_mem {α β : Type} {f : State × β → α → State × β} (hf : ∀ s x, (f s x).1.mem = s.1.mem) (l : List α) (s : State × β) :
    (l.foldl f s).1.mem = s.1.mem := by
  induction l generalizing s with
  | nil => rfl
  | cons x l ih => rw [List.foldl_cons, ih, hf]
@[simp] theorem foldl_modSeq_mem {α : Type} (k : State → α → Nat) (f : State → α → Seq → Seq) (l : List α) (s : State) :
    (l.foldl (fun s x => s.modSeq (k s x) (f s x)) s).mem = s.mem := foldl_mem (fun s _ => State.modSeq_mem s _ _) l s
@[simp] theorem foldl_modCore_mem {α : Type} (k : State → α → Nat) (f : State → α → Core → Core) (l : List α) (s : State) :
    (l.foldl (fun s x => s.modCore (k s x) (f s x)) s).mem = s.mem := foldl_mem (fun s _ => State.modCore_mem s _ _) l s

/-! ### Ops -/

@[simp] theorem State.msix_mem (s f v) : (State.msix s f v).mem = s.mem := by simp [State.msix]
@[simp] theorem modEntry_mem (s g id f) : (modEntry s g id f).mem = s.mem := (rfl)
@[simp] theorem promote_mem (s g again) : (promote s g again).mem = s.mem := by unfold promote; split <;> simp
@[simp] theorem settleSeq_mem (s n) : (settleSeq s n).mem = s.mem := (rfl)
@[simp] theorem modBoth_mem (s n f) : (modBoth s n f).mem = s.mem := (rfl)
@[simp] theorem State.note_mem (s b d) : (State.note s b d).mem = s.mem := (rfl)
@[simp] theorem State.wb_mem (s b off len v) : (State.wb s b off len v).mem = s.mem := by simp [State.wb]
@[simp] theorem State.ws_mem (s b r v) : (State.ws s b r v).mem = s.mem := by simp [State.ws]
@[simp] theorem State.wv_mem (s b w r v) : (State.wv s b w r v).mem = s.mem := by simp [State.wv]
@[simp] theorem State.wk_mem (s b k v) : (State.wk s b k v).mem = s.mem := (rfl)
@[simp] theorem deliver_mem (s n d v) : (deliver s n d v).mem = s.mem := by
  unfold deliver
  split <;> simp [foldl_mem]
@[simp] theorem State.raise_mem (s phase t) : (State.raise s phase t).mem = s.mem := (rfl)
@[simp] theorem State.stalled_mem (s w) : (State.stalled s w).mem = s.mem := (rfl)
/-- A slot outside a bundle, one that stalls and one that traps change the bundle alone. -/
@[simp] theorem slot_mem {s : State} {needs : Issue → SlotNeeds} {effect : Issue → State → State} (h : ∀ k, (effect k s).mem = s.mem) :
    (slot s needs effect).mem = s.mem := by
  unfold slot; dsimp only; (repeat' split) <;> simp [h]
@[simp] theorem stopSeq_mem (s n dest) : (stopSeq s n dest).mem = s.mem := by
  unfold stopSeq
  dsimp only
  split <;> simp
@[simp] theorem takeTrap_mem (s n t pc saved precise) : (takeTrap s n t pc saved precise).mem = s.mem := by
  unfold takeTrap
  split <;> simp [foldl_mem]
@[simp] theorem addCause_mem (s n t) : (addCause s n t).mem = s.mem := (rfl)
@[simp] theorem returnFromStop_mem (s n) : (returnFromStop s n).mem = s.mem := (rfl)
@[simp] theorem enterHandler_mem (s n b) : (enterHandler s n b).mem = s.mem := by
  unfold enterHandler
  dsimp only
  split <;> simp

/-! ### Translate -/

@[simp] theorem install_mem (s g wh e) : (install s g wh e).mem = s.mem := by simp [install]
@[simp] theorem installSegs_mem (s g wh asid l) : (installSegs s g wh asid l).mem = s.mem := by rw [(tlbOnly_installSegs s g wh asid l).1]
@[simp] theorem missTrap_mem (s g asid t) : (missTrap s g asid t).mem = s.mem := by
  unfold missTrap
  dsimp only
  (repeat' split) <;> simp

/-! ### Flits -/

@[simp] theorem modLink_mem (s p f) : (modLink s p f).mem = s.mem := (rfl)
@[simp] theorem emit_mem (s p kind seq payload) : (emit s p kind seq payload).mem = s.mem := (rfl)
@[simp] theorem emitControl_mem (s p kind) : (emitControl s p kind).mem = s.mem := (rfl)
@[simp] theorem emitData_mem (s p payload) : (emitData s p payload).mem = s.mem := (rfl)
@[simp] theorem pumpLoose_mem (s) : (pumpLoose s).mem = s.mem := by
  refine foldl_fst_mem (fun acc x => ?_) s.sys.loose (s, [])
  dsimp only
  split
  · exact foldl_mem (fun s y => emitData_mem ..) _ _
  · rfl
@[simp] theorem pumpRemotes_mem (s) : (pumpRemotes s).mem = s.mem := by
  refine (foldl_fst_mem (fun acc x => ?_) (pumpLoose s).sys.remote (pumpLoose s, [])).trans (pumpLoose_mem s)
  split
  · rfl
  · exact foldl_mem (fun s y => emitData_mem ..) _ _
@[simp] theorem submit_mem (s l) : (submit s l).mem = s.mem := by simp [submit]
@[simp] theorem dropRemotes_mem (s p) : (dropRemotes s p).mem = s.mem := (rfl)
@[simp] theorem dropRemote_mem (s id) : (dropRemote s id).mem = s.mem := (rfl)

/-! ### Access -/

@[simp] theorem errorInterrupt_mem (s f pa who) : (errorInterrupt s f pa who).mem = s.mem := by simp [errorInterrupt]
@[simp] theorem notify_mem (s pa len) : (notify s pa len).mem = s.mem := (rfl)
@[simp] theorem clearPoison_mem (s pa len) : (clearPoison s pa len).mem = s.mem := (rfl)
@[simp] theorem unmark_mem (s pa len) : (unmark s pa len).mem = s.mem := (rfl)
@[simp] theorem renewed_mem (s pa len) : (renewed s pa len).mem = s.mem := (rfl)
@[simp] theorem advanceClock_mem (s d sc) : (advanceClock s d sc).mem = s.mem := by simp [advanceClock]
@[simp] theorem mark_mem (s pa len m) : (mark s pa len m).mem = s.mem := by simp [mark]
@[simp] theorem mergeClock_mem (s n pa len) : (mergeClock s n pa len).mem = s.mem := (rfl)
@[simp] theorem loadLine_mem (s g x fresh pa len) : (loadLine s g x fresh pa len).1.mem = s.mem := by
  unfold loadLine
  (repeat' split) <;> simp
@[simp] theorem loadSeg_mem (s g path x fresh) : (loadSeg s g path x fresh).1.mem = s.mem := by
  unfold loadSeg; dsimp only; split
  · exact foldl_fst_mem (fun acc p => by simp) _ _
  · rfl
@[simp] theorem loadSegs_mem (s g path l fresh) : (loadSegs s g path l fresh).1.mem = s.mem := by simp [loadSegs, foldl_fst_mem]
@[simp] theorem pruneOrders_mem (s n) : (pruneOrders s n).mem = s.mem := (rfl)
@[simp] theorem startAccess_mem (s n pc slot held a) : (startAccess s n pc slot held a).mem = s.mem := by simp [startAccess]
@[simp] theorem finish_mem (s n id) : (finish s n id).mem = s.mem := by unfold finish; split <;> simp
@[simp] theorem deliverBoth_mem (s n id d v) : (deliverBoth s n id d v).mem = s.mem := by simp [deliverBoth]

/-! ### Flags -/

@[simp] theorem State.flag_mem (s flags) : (State.flag s flags).mem = s.mem := (rfl)
@[simp] theorem lateFlags_mem (s n pc flags) : (lateFlags s n pc flags).mem = s.mem := (rfl)
@[simp] theorem setPortst_mem (s n k) : (setPortst s n k).mem = s.mem := (rfl)

/-! ### Operands -/

@[simp] theorem popPort_mem (s n p) : (popPort s n p).1.mem = s.mem := by
  unfold popPort
  dsimp only
  (repeat' split) <;> simp
@[simp] theorem pushPort_mem (s b p v) : (pushPort s b p v).mem = s.mem := by simp [pushPort]
@[simp] theorem loadIntoPort_mem (s b p) : (loadIntoPort s b p).1.mem = s.mem := by
  unfold loadIntoPort
  dsimp only
  split <;> simp
@[simp] theorem popAll_mem (s n l) : (popAll s n l).1.mem = s.mem := by
  induction l generalizing s with
  | nil => rfl
  | cons p l ih => simp [popAll, ih]
@[simp] theorem putVec_mem (s b w r v) : (putVec s b w r v).mem = s.mem := by unfold putVec; split <;> simp

/-! ### Control -/

@[simp] theorem takeTransfer_mem (s t) : (takeTransfer s t).mem = s.mem := (rfl)
@[simp] theorem clearHeld_mem (s k m) : (clearHeld s k m).mem = s.mem := (rfl)
@[simp] theorem afterwards_mem (s a) : (afterwards s a).mem = s.mem := (rfl)
@[simp] theorem callTo_mem (k s t) : (callTo k s t).mem = s.mem := by simp [callTo]
@[simp] theorem loopPush_mem (s names reads count stop) : (loopPush s names reads count stop).mem = s.mem := by simp [loopPush]
@[simp] theorem writeCreg_mem (s k r v) : (writeCreg s k r v).mem = s.mem := by
  unfold writeCreg
  split <;> simp

/-! ### Vector -/

/-- A vector slot has its effect on the state after its pops. -/
@[simp] theorem vecSlot_mem {s : State} {w : Nat} {dst src : List Reg} {old : Bool} {other reads : List Name} {acc : Fmt → Bool}
    {own : Issue → Fmt → List (Option Trap)} {late : Issue → Fmt → (Reg → Vec) → List (Option Trap)} {effect : Issue → Fmt → (Reg → Vec) → State → State}
    {part : Fmt → Bool} (h : ∀ k f v u, (effect k f v u).mem = u.mem) : (vecSlot s w dst src old other reads acc own late effect part).mem = s.mem :=
  slot_mem fun k => by simp [h]
@[simp] theorem vec3_mem (s d a b m acc g old) : (vec3 s d a b m acc g old).mem = s.mem := by simp [vec3]
@[simp] theorem vec2_mem (s d a m acc g) : (vec2 s d a m acc g).mem = s.mem := by simp [vec2]
@[simp] theorem vecBits_mem (s d a b m g) : (vecBits s d a b m g).mem = s.mem := by simp [vecBits]
@[simp] theorem vecCmp_mem (s kd a b m p) : (vecCmp s kd a b m p).mem = s.mem := by simp [vecCmp]

/-! ### Memory -/

@[simp] theorem issueAccess_mem (s k wh a) : (issueAccess s k wh a).mem = s.mem := by simp [issueAccess]
@[simp] theorem memSlot_mem {s : State} {names reads : List Name} {path : Path} {ctr : Ctr} {writes : Bool} {checks : Issue → List (Option Trap)}
    {access : Issue → Access} {ready fmtOk : Issue → Bool} {before : Issue → State → State} {wh : Which} (h : ∀ k, (before k s).mem = s.mem) :
    (memSlot s names reads path ctr writes checks access ready fmtOk before wh).mem = s.mem :=
  slot_mem fun k => by simp [h]
@[simp] theorem loadSlot_mem (s bytes signed f o d a imm) : (loadSlot s bytes signed f o d a imm).mem = s.mem := by simp [loadSlot]
@[simp] theorem storeSlot_mem (s bytes o d a imm) : (storeSlot s bytes o d a imm).mem = s.mem := by simp [storeSlot]
@[simp] theorem startCopy_mem (s k ch w rel) : (startCopy s k ch w rel).mem = s.mem := by simp [startCopy]
@[simp] theorem popVecs_mem (s k src) : (popVecs s k src).mem = s.mem := by simp [popVecs]
@[simp] theorem vectorDest_mem (s k w d) : (vectorDest s k w d).1.mem = s.mem := by
  unfold vectorDest
  split <;> simp
@[simp] theorem vectorLoad_mem (s names reads w d src checks l f o fmtOk) : (vectorLoad s names reads w d src checks l f o fmtOk).mem = s.mem := by
  simp [vectorLoad]
@[simp] theorem bankSlot_mem (s op d a b ty) : (bankSlot s op d a b ty).mem = s.mem := by simp [bankSlot]
@[simp] theorem updateSlot_mem (s a b own al len kind sc) : (updateSlot s a b own al len kind sc).mem = s.mem := by simp [updateSlot]

/-! ### Matrix -/

@[simp] theorem queueMtx_mem (s k e) : (queueMtx s k e).mem = s.mem := by simp [queueMtx]
@[simp] theorem mmaSlot_mem (s z neg d t h a b) : (mmaSlot s z neg d t h a b).mem = s.mem := by simp [mmaSlot]
@[simp] theorem freeingSlot_mem (s t op) : (freeingSlot s t op).mem = s.mem := slot_mem fun k => by dsimp only; split <;> simp
theorem mtxRead_mem {s t : State} {g asid acc v : Nat} {l : List (Nat × Nat × Nat)} (h : mtxRead s g asid l acc = .ok t v) : t.mem = s.mem :=
  (mtxRead_tlbOnly h).sameBytes.1
theorem scaleRead_mem {s t : State} {g asid tid block v : Nat} {e : Tensor} (h : scaleRead s g asid tid e block = .ok t v) : t.mem = s.mem := by
  unfold scaleRead at h
  dsimp only at h
  split at h
  · cases h; rfl
  · split at h
    · next u x hu => cases h; exact (mtxRead_mem hu : u.mem = s.mem)
    · next hne => exact (hne _ _ h).elim
theorem readAll_mem {α : Type} {f : State → α → MtxRead} (hf : ∀ {s x t v}, f s x = .ok t v → t.mem = s.mem) (s : State) (l : List α) (acc : List Nat) :
    (readAll f s l acc).1.mem = s.mem := by
  induction l generalizing s acc with
  | nil => rfl
  | cons x l ih =>
    rw [readAll]
    split
    · next u v hu => rw [ih, hf hu]
    · rfl
@[simp] theorem readAll_mtxRead_mem (g asid n) (segments : Nat → List (Nat × Nat × Nat)) (s l acc) : (readAll (fun s (r : Nat) => mtxRead s g asid (segments r) n) s l acc).1.mem = s.mem :=
  readAll_mem (fun h => mtxRead_mem h) s l acc
@[simp] theorem readAll_scaleRead_mem (g asid tid e) (block : Nat → Nat) (s l acc) : (readAll (fun s (r : Nat) => scaleRead s g asid tid e (block r)) s l acc).1.mem = s.mem :=
  readAll_mem (fun h => scaleRead_mem h) s l acc
@[simp] theorem modHead_mem (s g f) : (modHead s g f).mem = s.mem := by unfold modHead; split <;> simp
@[simp] theorem setRowprog_mem (s n tile b a) : (setRowprog s n tile b a).mem = s.mem := (rfl)
@[simp] theorem mtxFault_mem (s g e f) : (mtxFault s g e f).mem = s.mem := by unfold mtxFault; split <;> simp
@[simp] theorem mtxAbort_mem (s g e va) : (mtxAbort s g e va).mem = s.mem := by simp [mtxAbort]
@[simp] theorem panelInto_mem (s g e p aw bw sa sb) : (panelInto s g e p aw bw sa sb).mem = s.mem := by
  unfold panelInto
  split <;> simp
@[simp] theorem computed_mem (s g cycles) : (computed s g cycles).mem = s.mem := (rfl)
@[simp] theorem runPanels_mem (g fuel s) : (runPanels g fuel s).mem = s.mem := by
  induction fuel generalizing s with
  | zero => rfl
  | succ fuel ih =>
    unfold runPanels
    split
    · rfl
    · split
      · extract_lets p u asid blockA blockB r1 r2 r3 latch r4 doneB v w
        have h1 : r1.1.mem = s.mem := by unfold r1; split <;> simp
        have h2 : r2.1.mem = s.mem := by unfold r2; split <;> simp [h1]
        have h3 : r3.1.mem = s.mem := by unfold r3; split <;> simp [h2]
        have h4 : r4.1.mem = s.mem := by
          unfold r4
          split
          · split <;> simp [h3]
          · exact h3
        have hw : w.mem = s.mem := by simp [w, v, h4]
        split
        · simp [u]
        · split <;> simp [ih, hw]
      · rfl

/-! ### Complete -/

@[simp] theorem loadFar_mem (s g id x fresh) : (loadFar s g id x fresh).1.mem = s.mem := by
  unfold loadFar
  (repeat' split) <;> simp
@[simp] theorem loadAll_mem (s g a) : (loadAll s g a).1.mem = s.mem := by simp [loadAll, foldl_fst_mem]
@[simp] theorem loadWith_mem (s g path l fresh id part) : (loadWith s g path l fresh id part).1.mem = s.mem := by simp [loadWith]
@[simp] theorem goOut_mem (s n a) : (goOut s n a).mem = s.mem := by simp [goOut, leaves_mem]
@[simp] theorem modAcc_mem (s n id f) : (modAcc s n id f).mem = s.mem := (rfl)
@[simp] theorem abortAccess_mem (s n a va) : (abortAccess s n a va).mem = s.mem := by simp [abortAccess]
@[simp] theorem acquired_mem (s n a) : (acquired s n a).mem = s.mem := by simp [acquired, foldl_mem]
@[simp] theorem writeLoad_mem (s n id) : (writeLoad s n id).mem = s.mem := by
  unfold writeLoad; (repeat' split) <;> simp
@[simp] theorem portAbort_mem (s n a x) : (portAbort s n a x).mem = s.mem := (rfl)

/-! ### Stream -/

@[simp] theorem issueEntry_mem (s n p) : (issueEntry s n p).mem = s.mem := by
  unfold issueEntry
  dsimp only
  split <;> simp
@[simp] theorem issueEntries_mem (s n p) : (issueEntries s n p).mem = s.mem := by simp [issueEntries, foldl_mem]
@[simp] theorem loadPort_mem (s n pc p d) : (loadPort s n pc p d).mem = s.mem := by simp [loadPort]

/-! ### Transfer -/

@[simp] theorem descSlot_mem (s d a names al len need_ kind) : (descSlot s d a names al len need_ kind).mem = s.mem := by simp [descSlot]
@[simp] theorem askFar_mem (s n id part l) : (askFar s n id part l).mem = s.mem := by simp [askFar]
@[simp] theorem putFar_mem (s n id part l v) : (putFar s n id part l v).mem = s.mem := by simp [putFar]
@[simp] theorem modCopy_mem (s g ch f) : (modCopy s g ch f).mem = s.mem := (rfl)
@[simp] theorem lowerXf_mem (s n) : (lowerXf s n).mem = s.mem := (rfl)
@[simp] theorem lowerLate_mem (s n id c) : (lowerLate s n id c).mem = s.mem := (rfl)
@[simp] theorem refuseCopy_mem (s g ch c t) : (refuseCopy s g ch c t).mem = s.mem := by simp [refuseCopy, foldl_mem]
@[simp] theorem completeCopy_mem (s g ch c) : (completeCopy s g ch c).mem = s.mem := by simp [completeCopy]

/-! ### Task -/

@[simp] theorem feSeen_mem (s d asid va len) : (feSeen s d asid va len).mem = s.mem := by simp [feSeen]
@[simp] theorem startSeq_mem (s c n pc rank pre uli) : (startSeq s c n pc rank pre uli).mem = s.mem := (rfl)
@[simp] theorem discardUnits_mem (s n) : (discardUnits s n).mem = s.mem := (rfl)
@[simp] theorem toIdle_mem (s n) : (toIdle s n).mem = s.mem := (rfl)
@[simp] theorem clusterCause_mem (s cl n t) : (clusterCause s cl n t).mem = s.mem := (rfl)
@[simp] theorem joinTrap_mem (s n t) : (joinTrap s n t).mem = s.mem := by simp [joinTrap]
@[simp] theorem keepCode_mem (s x d) : (keepCode s x d).mem = s.mem := by simp [keepCode]
@[simp] theorem putCode_mem (s c g) : (putCode s c g).mem = s.mem := by simp [putCode, foldl_mem]
@[simp] theorem loadCode_mem (s c g) : (loadCode s c g).mem = s.mem := by simp [loadCode]

/-! ### Amplitude -/

@[simp] theorem aeSlot_mem (s regs op addr qubits al len need_ base) : (aeSlot s regs op addr qubits al len need_ base).mem = s.mem := by
  simp [aeSlot]
@[simp] theorem modCmd_mem (s n f) : (modCmd s n f).mem = s.mem := (rfl)
@[simp] theorem endCmd_mem (s n) : (endCmd s n).mem = s.mem := (rfl)
@[simp] theorem aeCause_mem (s n c t) : (aeCause s n c t).mem = s.mem := (rfl)
@[simp] theorem aeAbort_mem (s n c va) : (aeAbort s n c va).mem = s.mem := (rfl)
@[simp] theorem countChunk_mem (s n f fmas) : (countChunk s n f fmas).mem = s.mem := (rfl)
@[simp] theorem readDesc_mem (s n) : (readDesc s n).mem = s.mem := by
  unfold readDesc
  dsimp only
  (repeat' split) <;> simp [leaves_mem]
@[simp] theorem startCmd_mem (s n) : (startCmd s n).mem = s.mem := by
  unfold startCmd
  dsimp only
  (repeat' split) <;> simp [leaves_mem]
@[simp] theorem afterExchange_mem (s n total q1 q2) : (afterExchange s n total q1 q2).mem = s.mem := (rfl)
@[simp] theorem fillBuffer_mem (s n c r idx) : (fillBuffer s n c r idx).1.mem = s.mem := by
  unfold fillBuffer
  (repeat' split) <;> simp
@[simp] theorem finishAe_mem (s n c flags) : (finishAe s n c flags).mem = s.mem := (rfl)

/-! ### Channel -/

@[simp] theorem post_mem (s key m stays gen) : (post s key m stays gen).mem = s.mem := (rfl)
@[simp] theorem transmit_mem (s n c m) : (transmit s n c m).mem = s.mem := (rfl)
@[simp] theorem returnCredits_mem (s n c k) : (returnCredits s n c k).mem = s.mem := by
  induction k generalizing s with
  | zero => rfl
  | succ k ih => simp [returnCredits, ih]
@[simp] theorem takeVec_mem (s n c) : (takeVec s n c).1.mem = s.mem := by unfold takeVec; split <;> simp
@[simp] theorem recvSlot_mem (s c d src m fmtOk f) : (recvSlot s c d src m fmtOk f).mem = s.mem := by simp [recvSlot]
@[simp] theorem closeEnd_mem (s n c) : (closeEnd s n c).mem = s.mem := by simp [closeEnd]
@[simp] theorem lowerCm_mem (s key id m) : (lowerCm s key id m).mem = s.mem := by
  unfold lowerCm; (repeat' split) <;> simp
@[simp] theorem arriveAt_mem (s n key m gen) : (arriveAt s n key m gen).mem = s.mem := by
  unfold arriveAt
  split <;> simp

/-! ### Wait -/

@[simp] theorem endMwait_mem (s n code) : (endMwait s n code).mem = s.mem := by
  unfold endMwait
  split <;> simp

/-! ### Points -/

@[simp] theorem sampleEnergy_mem (s cl) : (sampleEnergy s cl).mem = s.mem := by
  unfold sampleEnergy
  dsimp only
  split <;> simp
@[simp] theorem sampleCtx_mem (s c) : (sampleCtx s c).mem = s.mem := by simp [sampleCtx, foldl_mem]
@[simp] theorem settleDies_mem (s l) : (settleDies s l).mem = s.mem := by simp [settleDies, foldl_mem, setPoint_mem]
@[simp] theorem settlePoints_mem (s) : (settlePoints s).mem = s.mem := by simp [settlePoints]
@[simp] theorem settleCtx_mem (s c) : (settleCtx s c).mem = s.mem := by simp [settleCtx]
@[simp] theorem endOn_mem (s c d) : (endOn s c d).mem = s.mem := by unfold endOn; dsimp only; split <;> simp
@[simp] theorem endIntervals_mem (s c) : (endIntervals s c).mem = s.mem := by simp [endIntervals, foldl_mem]
@[simp] theorem beginOn_mem (s c d ph) : (beginOn s c d ph).mem = s.mem := (rfl)
@[simp] theorem startPoints_mem (s c) : (startPoints s c).mem = s.mem := by simp [startPoints, foldl_mem]

/-! ### Context -/

@[simp] theorem rereadPorts_mem (s n) : (rereadPorts s n).mem = s.mem := by simp [rereadPorts, foldl_mem]
@[simp] theorem ringFault_mem (s f r code va) : (ringFault s f r code va).mem = s.mem := by simp [ringFault]
@[simp] theorem ringXFault_mem (s f r x) : (ringXFault s f r x).mem = s.mem := by simp [ringXFault]
@[simp] theorem retryAccess_mem (s n a) : (retryAccess s n a).mem = s.mem := by
  unfold retryAccess
  dsimp only
  split <;> simp
@[simp] theorem retryCmd_mem (s n) : (retryCmd s n).mem = s.mem := by
  unfold retryCmd
  (repeat' split) <;> simp
@[simp] theorem dropEngines_mem (s l g) : (dropEngines s l g).mem = s.mem := by simp [dropEngines]
@[simp] theorem freeClusters_mem (s c) : (freeClusters s c).mem = s.mem := (rfl)
@[simp] theorem vacate_mem (s c out) : (vacate s c out).mem = s.mem := by simp [vacate, foldl_mem]
@[simp] theorem dropVictim_mem (s c) : (dropVictim s c).mem = s.mem := (rfl)
@[simp] theorem closeSaved_mem (s c n q) : (closeSaved s c n q).mem = s.mem := by
  refine foldl_mem (fun s e => ?_) q.chans s
  dsimp only
  (repeat' split) <;> simp [foldl_mem]
@[simp] theorem poisonBack_mem (s c v) : (poisonBack s c v).mem = s.mem := (rfl)
@[simp] theorem resumeFence_mem (s n) : (resumeFence s n).mem = s.mem := (rfl)
@[simp] theorem resumeSeqs_mem (s c) : (resumeSeqs s c).mem = s.mem := by simp [resumeSeqs, foldl_mem]
@[simp] theorem ctxCommand_mem {s : State} {f c : Nat} {dump : Bool} {go : State → State} (h : (go s).mem = s.mem) :
    (ctxCommand s f c dump go).mem = s.mem := by simp [ctxCommand, h]
@[simp] theorem strike_mem (s g) : (strike s g).mem = s.mem := (rfl)
@[simp] theorem dropEffect_mem (s e) : (dropEffect s e).mem = s.mem := by simp [dropEffect]

/-! ### Image -/

@[simp] theorem imageSeen_mem (s g asid va) : (imageSeen s g asid va).mem = s.mem := by simp [imageSeen, foldl_mem]

/-! ### Front -/

@[simp] theorem refusePacket_mem (s f r code) : (refusePacket s f r code).mem = s.mem := (rfl)
@[simp] theorem lookLaunch_mem (s f r p x) : (lookLaunch s f r p x).mem = s.mem := by
  unfold lookLaunch
  dsimp only
  (repeat' split) <;> simp
@[simp] theorem launchSeen_mem (s f p) : (launchSeen s f p).mem = s.mem := by
  unfold launchSeen
  dsimp only
  (repeat' split) <;> simp
@[simp] theorem lookOne_mem (s f r tail) : (lookOne s f r tail).mem = s.mem := by
  unfold lookOne
  dsimp only
  (repeat' split) <;> simp
@[simp] theorem packetDone_mem (s f r p) : (packetDone s f r p).mem = s.mem := by simp [packetDone]
@[simp] theorem atHead_mem {s : State} {type : Nat} {go : Nat → Nat → Nat → State} (h : ∀ f r v, (go f r v).mem = s.mem) :
    (atHead s type go).mem = s.mem := by unfold atHead; split <;> simp [h]
@[simp] theorem writeTail_mem (s f r v) : (writeTail s f r v).mem = s.mem := (rfl)
@[simp] theorem dropAhead_mem (s f r) : (dropAhead s f r).mem = s.mem := (rfl)
@[simp] theorem headToTail_mem (s f r) : (headToTail s f r).mem = s.mem := (rfl)
@[simp] theorem writeRbase_mem (s f r v) : (writeRbase s f r v).mem = s.mem := by simp [writeRbase]
@[simp] theorem writeRctl_mem (s f r v) : (writeRctl s f r v).mem = s.mem := by simp [writeRctl]
@[simp] theorem clearRstat_mem (s f r v) : (clearRstat s f r v).mem = s.mem := (rfl)

/-! ### Launch -/

@[simp] theorem requestStop_mem (s v) : (requestStop s v).mem = s.mem := by
  unfold requestStop; split
  · rfl
  · refine foldl_mem (fun s n => ?_) (s.ctx v).seqs s
    (repeat' split) <;> simp
@[simp] theorem loadCore_mem (s c g) : (loadCore s c g).mem = s.mem := by simp [loadCore]
@[simp] theorem startGang_mem (s c s1) : (startGang s c s1).mem = s.mem := by simp [startGang, foldl_mem]
@[simp] theorem enrol_mem (s c) : (enrol s c).mem = s.mem := foldl_mem (fun s g => by split <;> simp) (s.ctx c).cores s
@[simp] theorem released_mem (s c) : (released s c).mem = s.mem := by simp [released]
@[simp] theorem passTime_mem (s t) : (passTime s t).mem = s.mem := (rfl)
@[simp] theorem resumeRings_mem (s) : (resumeRings s).mem = s.mem := by simp [resumeRings, foldl_mem]
@[simp] theorem newLeader_mem (s d) : (newLeader s d).mem = s.mem := by simp [newLeader]

/-! ### Tables -/

@[simp] theorem purge_mem (s c) : (purge s c).mem = s.mem := (rfl)
@[simp] theorem writeTable_mem (s table i v) : (writeTable s table i v).mem = s.mem := (rfl)
@[simp] theorem writeReplica_mem (s i v) : (writeReplica s i v).mem = s.mem := by
  unfold writeReplica
  dsimp only
  split <;> simp

/-! ### Links -/

@[simp] theorem resend_mem (s p l) : (resend s p l).mem = s.mem := by simp [resend, foldl_mem]
@[simp] theorem askReplay_mem (s p) : (askReplay s p).mem = s.mem := by simp [askReplay]
@[simp] theorem causeIn_mem (s c n t) : (causeIn s c n t).mem = s.mem := by simp [causeIn]
@[simp] theorem loseLink_mem (s p) : (loseLink s p).mem = s.mem := by simp [loseLink]
@[simp] theorem sendLoose_mem (s m kind num) : (sendLoose s m kind num).mem = s.mem := by simp [sendLoose]
@[simp] theorem answer_mem (s x kind len data op) : (answer s x kind len data op).mem = s.mem := by simp [answer]
@[simp] theorem sendAgain_mem (s r f) : (sendAgain s r f).mem = s.mem := by simp [sendAgain]
@[simp] theorem setRemote_mem (s r f) : (setRemote s r f).mem = s.mem := (rfl)
@[simp] theorem remoteAnswered_mem (s r data) : (remoteAnswered s r data).mem = s.mem := by
  unfold remoteAnswered
  (repeat' split) <;> simp

/-! ### Power -/

@[simp] theorem putUnder_mem (s n dest) : (putUnder s n dest).mem = s.mem := by
  unfold putUnder
  dsimp only
  split <;> simp
@[simp] theorem liftSeq_mem (s n) : (liftSeq s n).mem = s.mem := by simp [liftSeq]
@[simp] theorem setPower_mem (s p) : (setPower s p).mem = s.mem := by simp [setPower, foldl_mem]
@[simp] theorem calveDie_mem (s d) : (calveDie s d).mem = s.mem := by simp [calveDie]
@[simp] theorem enterCalved_mem (s) : (enterCalved s).mem = s.mem := by
  unfold enterCalved
  dsimp only
  split <;> simp
@[simp] theorem retainDie_mem (s d) : (retainDie s d).mem = s.mem := by simp [retainDie]
@[simp] theorem freezeAll_mem (s) : (freezeAll s).mem = s.mem := by simp [freezeAll, foldl_mem]
@[simp] theorem enterFreeze_mem (s) : (enterFreeze s).mem = s.mem := by simp [enterFreeze, foldl_mem]
@[simp] theorem supply_mem (s) : (supply s).mem = s.mem := by simp [supply]
@[simp] theorem writeCalvord_mem (s v) : (writeCalvord s v).mem = s.mem := by simp [writeCalvord]
@[simp] theorem bootUp_mem (s) : (bootUp s).mem = s.mem := by
  unfold bootUp
  dsimp only
  (repeat' split) <;> simp

/-! ### Freeze -/

@[simp] theorem tellPeers_mem (s kind data) : (tellPeers s kind data).mem = s.mem := by simp [tellPeers, foldl_mem]
@[simp] theorem setThaw_mem (s t) : (setThaw s t).mem = s.mem := (rfl)
@[simp] theorem decided_mem (s t c o) : (decided s t c o).mem = s.mem := (rfl)
@[simp] theorem loseCtx_mem (s t c x) : (loseCtx s t c x).mem = s.mem := (rfl)

/-! ### Host -/

@[simp] theorem unmask_mem (s f v) : (unmask s f v).mem = s.mem := by simp [unmask]
@[simp] theorem writeMsix_mem (s f off v) : (writeMsix s f off v).mem = s.mem := by simp [writeMsix]
@[simp] theorem writeDrain_mem (s f i o v pf) : (writeDrain s f i o v pf).mem = s.mem := by simp [writeDrain]
@[simp] theorem mboxCommand_mem (s cmd) : (mboxCommand s cmd).mem = s.mem := by simp [mboxCommand]
@[simp] theorem writeLcfg_mem (s f v pf) : (writeLcfg s f v pf).mem = s.mem := (rfl)
@[simp] theorem writeControl_mem (s off v) : (writeControl s off v).mem = s.mem := by
  unfold writeControl
  refine ite_mem (writeCalvord_mem ..) <| ite_mem (State.modDie_mem ..) <| ite_mem (mboxCommand_mem ..) <| ite_mem (State.modSys_mem ..) <|
    ite_mem (writeTable_mem ..) <| ite_mem (writeTable_mem ..) <| ite_mem (writeDrain_mem ..) <| ite_mem (ite_mem rfl (State.modSys_mem ..)) <|
    ite_mem (writeReplica_mem ..) <| ite_mem ?_ rfl
  dsimp only
  split <;> rfl
@[simp] theorem loadKey_mem (s k) : (loadKey s k).mem = s.mem := by simp [loadKey]
@[simp] theorem writeFirmware_mem (s kind i v) : (writeFirmware s kind i v).mem = s.mem := by
  unfold writeFirmware
  split <;> simp
@[simp] theorem putRegs_mem {write : State → Nat → Nat → State} (h : ∀ s a x, (write s a x).mem = s.mem) (read acts s off n v) :
    (putRegs read write acts s off n v).mem = s.mem := foldl_mem (fun s p => by simp [h]) (partsAt off n) s
@[simp] theorem putControl_mem (s off n v) : (putControl s off n v).mem = s.mem := putRegs_mem (fun s a x => writeControl_mem s a x) _ _ s off n v
@[simp] theorem hostDone_mem (s v) : (hostDone s v).mem = s.mem := (rfl)
@[simp] theorem hostAbort_mem (s) : (hostAbort s).mem = s.mem := (rfl)
@[simp] theorem hostCalved_mem (s) : (hostCalved s).mem = s.mem := (rfl)
@[simp] theorem withPec_mem {s : State} {go : State → State} (h : (go s).mem = s.mem) : (withPec s go).mem = s.mem := by simp [withPec, h]

/-! ### Scalar -/

@[simp] theorem scalarRRR_mem (s d a b f old) : (scalarRRR s d a b f old).mem = s.mem := by simp [scalarRRR]
@[simp] theorem scalarRR_mem (s d a f) : (scalarRR s d a f).mem = s.mem := by simp [scalarRR]
@[simp] theorem scalarRRI_mem (s d a imm f) : (scalarRRI s d a imm f).mem = s.mem := by simp [scalarRRI]

/-! ### ScalarFloat -/

@[simp] theorem floatRRR_mem (s d a b dbl g old) : (floatRRR s d a b dbl g old).mem = s.mem := by simp [floatRRR]

/-! ### Bundle -/

@[simp] theorem stateOf_next (s t : State) : stateOf s (.next t) = t := (rfl)
@[simp] theorem settleT_mem (s n) : (settleT s n).mem = s.mem := by unfold settleT; split <;> simp
@[simp] theorem beginIssue_mem (s n words) : (beginIssue s n words).mem = s.mem := (rfl)
@[simp] theorem trapHere_mem (s n t) : (trapHere s n t).mem = s.mem := by simp [trapHere]
@[simp] theorem nowWaits_mem (s n w) : (nowWaits s n w).mem = s.mem := (rfl)
@[simp] theorem advance_mem (s b) : (advance s b).mem = s.mem := (rfl)
@[simp] theorem thenDo_mem (s b) : (thenDo s b).mem = s.mem := by unfold thenDo; split <;> simp
@[simp] theorem classOrder_mem (s b) : (classOrder s b).mem = s.mem := (rfl)
@[simp] theorem closeIssued_mem (s b items) : (closeIssued s b items).mem = s.mem := by simp [closeIssued, foldl_mem]
@[simp] theorem stopAgain_mem (s n x) : (stopAgain s n x).mem = s.mem := by simp [stopAgain]
@[simp] theorem remember_mem (before s g) : (remember before s g).mem = s.mem := (rfl)

/-! ### Turns -/

@[simp] theorem tick_mem (s ns) : (tick s ns).mem = s.mem := by simp [tick]

end Sys2Proof.Machine
end

section
/-! SUPPORT. What writes memory keeps it canonical. -/
namespace Sys2Proof.Machine
open Sys2Proof

/-! ### Past folds and choices -/

@[simp] theorem wf_ite (p : Prop) [Decidable p] (m n : Mem) : (if p then m else n).wf = if p then m.wf else n.wf := apply_ite Mem.wf p m n
theorem wf_of_ite {p : Prop} [Decidable p] {t u : State} (ht : t.mem.wf = true) (hu : u.mem.wf = true) : (if p then t else u).mem.wf = true := by
  split <;> assumption
theorem foldl_wf {α : Type} {f : State → α → State} (hf : ∀ s x, s.mem.wf = true → (f s x).mem.wf = true) (l : List α) {s : State}
    (h : s.mem.wf = true) : (l.foldl f s).mem.wf = true := List.foldlRecOn (motive := fun t : State => t.mem.wf = true) l f h fun t ht x _ => hf t x ht
@[simp] theorem movedFrom_mem (s src dst n) : (movedFrom s src dst n).mem = s.mem := (rfl)

/-! ### Access -/

@[simp] theorem rekey_wf {s} (h : s.mem.wf = true) (sector key) : (rekey s sector key).mem.wf = true := by
  unfold rekey
  split
  · exact h
  · exact mem_wf_write _ _ _ _ h
@[simp] theorem physWrite_wf {s} (h : s.mem.wf = true) (pa len key v) : (physWrite s pa len key v).mem.wf = true := by
  unfold physWrite
  split
  · simp [h]
  · exact mem_wf_write _ _ _ _ (by simp [h])
@[simp] theorem physFill_wf {s} (h : s.mem.wf = true) (pa len key m) : (physFill s pa len key m).mem.wf = true := mem_wf_fill _ _ _ _ h
@[simp] theorem homeWrite_wf {s} (h : s.mem.wf = true) (f pa len key v who) : (homeWrite s f pa len key v who).mem.wf = true := by simp [homeWrite, h]

/-! ### Complete -/

@[simp] theorem storeSeg_wf {s} (h : s.mem.wf = true) (id f path m x v) : (storeSeg s id f path m x v).mem.wf = true := by simp [storeSeg, h]
@[simp] theorem storeAll_wf {s} (h : s.mem.wf = true) (id f path m l v) : (storeAll s id f path m l v).mem.wf = true :=
  foldl_wf (fun _ _ h => storeSeg_wf h ..) l h
@[simp] theorem applyUpdate_wf {s} (h : s.mem.wf = true) (u) : (applyUpdate s u).mem.wf = true := by simp [applyUpdate, h]
@[simp] theorem updateWhere_wf {s} (h : s.mem.wf = true) (p) : (updateWhere s p).mem.wf = true := foldl_wf (fun _ u h => applyUpdate_wf h u) _ h
@[simp] theorem writeMarked_wf {s} (h : s.mem.wf = true) (f m l v) : (writeMarked s f m l v).mem.wf = true := by simp [writeMarked, h]
@[simp] theorem writeAll_wf {s} (h : s.mem.wf = true) (f l v who) : (writeAll s f l v who).mem.wf = true := by simp [writeAll, h]
@[simp] theorem performAt_wf {s} (h : s.mem.wf = true) (n a l v) : (performAt s n a l v).mem.wf = true := by simp [performAt, leaves_mem, h]
@[simp] theorem performBank_wf {s} (h : s.mem.wf = true) (n a k old v) : (performBank s n a k old v).mem.wf = true := by
  simp [performBank, leaves_mem, h]
@[simp] theorem barrierUpdate_wf {s} (h : s.mem.wf = true) (f pa key u who) : (barrierUpdate s f pa key u who).mem.wf = true := by
  simp [barrierUpdate, h]

/-! ### Transfer -/

@[simp] theorem writeReport_wf {s} (h : s.mem.wf = true) (c ch cause addr done) : (writeReport s c ch cause addr done).mem.wf = true := by
  simp [writeReport, h]
@[simp] theorem errorArrival_wf {s} (h : s.mem.wf = true) (g ch c t) : (errorArrival s g ch c t).mem.wf = true := by simp [errorArrival, h]
@[simp] theorem settleCopy_wf {s} (h : s.mem.wf = true) (g ch) : (settleCopy s g ch).mem.wf = true := by
  unfold settleCopy
  (repeat' split) <;> simp [h]
@[simp] theorem stopCopy_wf {s} (h : s.mem.wf = true) (g ch f) : (stopCopy s g ch f).mem.wf = true := by simp [stopCopy, h]
@[simp] theorem pieceEnd_wf {s} (h : s.mem.wf = true) (g ch c p bad) : (pieceEnd s g ch c p bad).mem.wf = true := by
  unfold pieceEnd
  (repeat' split) <;> simp [h]
@[simp] theorem retryPiece_wf {s} (h : s.mem.wf = true) (g ch c p) : (retryPiece s g ch c p).mem.wf = true := by
  unfold retryPiece
  dsimp only
  split <;> simp [h]

/-! ### Task -/

theorem feWrite_wf {s t d f asid va len v} (h : s.mem.wf = true) (he : feWrite s d f asid va len v = .ok t) : t.mem.wf = true := by
  unfold feWrite at he
  split at he
  · cases he
  · split at he
    · cases he
    · cases he; simp [h]
theorem pushRec_wf {s t cl r} (h : s.mem.wf = true) (he : pushRec s cl r = .done t) : t.mem.wf = true := by
  unfold pushRec at he
  dsimp only at he
  split at he
  · cases he; exact h
  · split at he
    · cases he
    · split at he
      · cases he
      · split at he
        · cases he
        · next u hu => cases he; exact (feWrite_wf h hu : u.mem.wf = true)
@[simp] theorem afterPushes_wf {s} (h : s.mem.wf = true) (cl) : (afterPushes s cl).mem.wf = true :=
  foldl_wf (fun s r h => by
    split
    · next t ht => exact pushRec_wf h ht
    · exact h) _ h
@[simp] theorem newCycle_wf {s} (h : s.mem.wf = true) (cl) : (newCycle s cl).mem.wf = true := by simp [newCycle, h]
@[simp] theorem ageLevel_wf (cl l now fuel) {s} (h : s.mem.wf = true) : (ageLevel cl l now fuel s).mem.wf = true := by
  induction fuel generalizing s with
  | zero => exact h
  | succ fuel ih =>
    unfold ageLevel
    split
    · exact h
    · split
      · exact h
      · dsimp only
        split
        · next t ht => exact ih (pushRec_wf h ht : t.mem.wf = true)
        · exact h
        · exact h
        · simp [h]

/-! ### Amplitude -/

@[simp] theorem farChunk_wf {s} (h : s.mem.wf = true) (n c r partner total q1 q2 l v) : (farChunk s n c r partner total q1 q2 l v).mem.wf = true := by
  simp [farChunk, h]
@[simp] theorem finishSum_wf {s} (h : s.mem.wf = true) (n c x y flags) : (finishSum s n c x y flags).mem.wf = true := by
  unfold finishSum
  split <;> simp [h]
@[simp] theorem writeResult_wf {s} (h : s.mem.wf = true) (n) : (writeResult s n).mem.wf = true := by
  unfold writeResult
  split <;> simp [h]

/-! ### Channel -/

@[simp] theorem toRing_wf {s} (h : s.mem.wf = true) (c f) : (toRing s c f).mem.wf = true := by
  rw [toRing, State.modCtx_mem, renewed_mem]; exact physWrite_wf h ..
theorem place_wf {s t n f} (h : s.mem.wf = true) (he : place s n f = some t) : t.mem.wf = true := by
  unfold place at he
  extract_lets key u at he
  have hu : u.mem.wf = true := by unfold u; split <;> simp [h]
  split at he
  · split at he
    · split at he
      · cases he
      · cases he; exact toRing_wf hu ..
    · cases he; simp [hu]
  · cases he; simp [hu]
@[simp] theorem arrive_wf {s} (h : s.mem.wf = true) (k kind) : (arrive s k kind).mem.wf = true := by
  unfold arrive
  split
  · exact h
  · next f _ =>
    extract_lets m out
    have hout : ∀ {s : State}, s.mem.wf = true → (out s).mem.wf = true := by intro s h; unfold out; split <;> exact h
    split
    · exact h
    · split
      · split
        · exact h
        · exact hout (by simpa using h)
      · split
        · next t ht => exact place_wf (hout (show ({ s with msgs := s.msgs.eraseIdx k } : State).mem.wf = true from h)) ht
        · exact h

/-! ### Context -/

@[simp] theorem completionRecord_wf {s} (h : s.mem.wf = true) (f r packet status late) : (completionRecord s f r packet status late).mem.wf = true := by
  unfold completionRecord
  dsimp only
  split
  · exact h
  · split
    · simp [h]
    · next t ht => split <;> simp [feWrite_wf h ht]
@[simp] theorem retryRecords_wf {s} (h : s.mem.wf = true) : (retryRecords s).mem.wf = true := foldl_wf (fun _ _ h => completionRecord_wf h ..) _ h
@[simp] theorem completeCtx_wf {s} (h : s.mem.wf = true) (c status) : (completeCtx s c status).mem.wf = true := by
  unfold completeCtx
  dsimp only
  split <;> simp [h]
theorem renewed_zero_wf {m : Mem} (h : m.wf = true) (s : State) (a n b k : Nat) : (renewed { s with mem := m.zero a n } b k).mem.wf = true := by
  rw [renewed_mem]; exact mem_wf_zero _ _ _ h
theorem renewed_fill_wf {m : Mem} (h : m.wf = true) (s : State) (a n : Nat) (x : Mem) (b k : Nat) : (renewed { s with mem := m.fill a n x } b k).mem.wf = true := by
  rw [renewed_mem]; exact mem_wf_fill _ _ _ _ h
@[simp] theorem zeroScratch_wf {s} (h : s.mem.wf = true) (f g) : (zeroScratch s f g).mem.wf = true := by
  unfold zeroScratch
  split
  · exact h
  · exact renewed_zero_wf h ..
@[simp] theorem leaveCores_wf {s} (h : s.mem.wf = true) (c) : (leaveCores s c).mem.wf = true :=
  foldl_wf (fun s g h => zeroScratch_wf (by simpa using h) ..) _ (by simpa using h)
@[simp] theorem killCtx_wf {s} (h : s.mem.wf = true) (c) : (killCtx s c).mem.wf = true := by
  unfold killCtx
  split
  · exact h
  · extract_lets x mine u v w y
    have hu : u.mem.wf = true := by
      unfold u; split
      · simp [foldl_mem, h]
      · simp [foldl_mem, h]
    have hy : y.mem.wf = true := by unfold y; split <;> simp [w, v, hu]
    simp [hy]
@[simp] theorem spillHead_wf {s} (h : s.mem.wf = true) (cl f c l) : (spillHead s cl f c l).mem.wf = true :=
  foldl_wf (fun s r h => by
    dsimp only
    split
    · exact h
    · split
      · split
        · split <;> simp [h]
        · exact h
      · next t ht => exact (feWrite_wf h ht : t.mem.wf = true)) _ h
@[simp] theorem areaPut_wf {s} (h : s.mem.wf = true) (x va len m) : (areaPut s x va len m).mem.wf = true := by
  unfold areaPut
  split
  · exact h
  · exact foldl_wf (fun s g h => by split <;> simp [h]) _ h
@[simp] theorem putArranged_wf {s} (h : s.mem.wf = true) (c) : (putArranged s c).mem.wf = true := by
  have hput : ∀ {s : State} (x : Ctx) (k va len : Nat), s.mem.wf = true → (match feWrite s s.sys.leader x.func x.asid va len (Config.saveBody k c s.free % 2 ^ (8 * len)) with
      | .error _ => s
      | .ok s => s).mem.wf = true := by
    intro s x k va len h
    split
    · exact h
    · next t ht => exact feWrite_wf h ht
  exact foldl_wf (fun s g h => hput _ _ _ _ h) _ (hput _ _ _ _ h)
@[simp] theorem storeSave_wf {s} (h : s.mem.wf = true) (c v) : (storeSave s c v).mem.wf = true :=
  foldl_wf (fun _ _ h => areaPut_wf h ..) _ (putArranged_wf h c)
@[simp] theorem restoreCtx_wf {s} (h : s.mem.wf = true) (c v) : (restoreCtx s c v).mem.wf = true := by
  unfold restoreCtx
  extract_lets x ids u w
  have hu : u.mem.wf = true := foldl_wf (fun s e h => by simpa using h) _ h
  clear_value u
  have hw : w.mem.wf = true := foldl_wf (fun s g h => by rw [State.modCore_mem]; exact renewed_fill_wf h ..) _ hu
  clear_value w
  exact foldl_wf (fun s e h => by simpa using h) _ hw
/- The guards are generalised before the splits: checking a split over them, the kernel would evaluate them. -/
theorem resumeCtx_wf {s t c} (h : s.mem.wf = true) (he : resumeCtx s c = some t) : t.mem.wf = true := by
  rw [resumeCtx] at he
  generalize (s.ctx c).saved = saved, placeFree s c = free, feSegs s = segs, killAdmitted s c = admitted at he
  split at he
  · split at he
    · obtain rfl := Option.some.inj he
      simp [foldl_mem, h]
    · cases he
  · split at he
    · cases he
    · split at he
      · split at he
        · obtain rfl := Option.some.inj he
          exact killCtx_wf h c
        · cases he
      · obtain rfl := Option.some.inj he
        simp [foldl_mem, h]
theorem ctxCommand_wf {s : State} {go : State → State} (h : s.mem.wf = true) (hgo : (go s).mem.wf = true) (f c dump) :
    (ctxCommand s f c dump go).mem.wf = true := by simp [ctxCommand, h, hgo]
@[simp] theorem ctxResumeOp_wf {s} (h : s.mem.wf = true) (f c) : (ctxResumeOp s f c).mem.wf = true := by
  refine ctxCommand_wf h ?_ ..
  dsimp only
  split
  · exact h
  · split
    · exact h
    · split
      · next t ht =>
        split at ht
        · exact (resumeCtx_wf h ht : t.mem.wf = true)
        · cases ht
      · exact h
@[simp] theorem ctxKillOp_wf {s} (h : s.mem.wf = true) (f c) : (ctxKillOp s f c).mem.wf = true := by
  unfold ctxKillOp
  split
  · exact h
  · exact ctxCommand_wf h (by split <;> simp [h]) ..
@[simp] theorem ctxDumpOp_wf {s} (h : s.mem.wf = true) (f c) : (ctxDumpOp s f c).mem.wf = true := by
  refine ctxCommand_wf h ?_ ..
  dsimp only
  split
  · exact h
  · split
    · exact h
    · split
      · exact h
      · next t ht => exact (feWrite_wf h ht : t.mem.wf = true)

/-! ### Front -/

@[simp] theorem passHead_wf {s} (h : s.mem.wf = true) (f r k) : (passHead s f r k).mem.wf = true := by
  unfold passHead
  dsimp only
  split
  · exact h
  · simp [foldl_mem, h]
@[simp] theorem issueLaunch_wf {s} (h : s.mem.wf = true) (type) : (issueLaunch s type).mem.wf = true := by
  unfold issueLaunch
  dsimp only
  split <;> simp [h]
@[simp] theorem fenceRead_wf {s} (h : s.mem.wf = true) (f r addr v) : (fenceRead s f r addr v).mem.wf = true := by
  unfold fenceRead
  dsimp only
  (repeat' split) <;> simp [h]

/-! ### Launch -/

@[simp] theorem writeSections_wf {s} (h : s.mem.wf = true) (d f asid data l) : (writeSections s d f asid data l).1.mem.wf = true := by
  induction l generalizing s with
  | nil => exact h
  | cons x l ih =>
    unfold writeSections
    split
    · exact h
    · next t ht =>
      refine ih ?_
      split at ht
      · cases ht; exact h
      · exact feWrite_wf h ht
@[simp] theorem writeSync_wf {s} (h : s.mem.wf = true) (d f asid l n) : (writeSync s d f asid l n).1.mem.wf = true := by
  induction n with
  | zero => exact h
  | succ n ih =>
    unfold writeSync
    dsimp only
    split
    · exact ih
    · split
      · exact ih
      · split
        · exact ih
        · next t ht => exact feWrite_wf (by simpa using ih) ht
theorem foldl_fst_wf {α β : Type} {f : State × β → α → State × β} (hf : ∀ r x, r.1.mem.wf = true → (f r x).1.mem.wf = true) (l : List α) {r : State × β}
    (h : r.1.mem.wf = true) : (l.foldl f r).1.mem.wf = true := List.foldlRecOn (motive := fun t : State × β => t.1.mem.wf = true) l f h fun t ht x _ => hf t x ht
@[simp] theorem prepare_wf {s} (h : s.mem.wf = true) (c thaw) : (prepare s c thaw).1.mem.wf = true := by
  refine foldl_fst_wf (fun r e h => ?_) _ ?_
  · split <;> simp [h]
  · split
    · exact h
    · exact foldl_fst_wf (fun r e h => by split <;> simp [h]) _ h
theorem startTasks_wf {s t c} (h : s.mem.wf = true) (he : startTasks s c = .ok t) : t.mem.wf = true := by
  unfold startTasks at he
  extract_lets x j d root at he
  have hroot : ∀ {u}, root = .ok u → u.mem.wf = true := by
    intro u hu
    unfold root at hu
    split at hu
    · cases hu; exact h
    · split at hu
      · cases hu
      · exact feWrite_wf h hu
  clear_value root
  split at he
  · cases he
  · next u =>
    have hu := hroot rfl
    dsimp only at he
    split at he <;> cases he <;> simp [hu]
@[simp] theorem releaseLaunch_wf {s} (h : s.mem.wf = true) (c s1) : (releaseLaunch s c s1).mem.wf = true := by
  unfold releaseLaunch
  extract_lets x u refuse
  have hu : u.mem.wf = true := by unfold u; split <;> simp [foldl_mem, h]
  have hrefuse : ∀ {s : State}, s.mem.wf = true → (refuse s).mem.wf = true := by intro s h; simp [refuse, h]
  have hp := prepare_wf hu c s1.isSome
  split
  · next v hv => exact hrefuse (by simpa [hv] using hp)
  · next v hv =>
    extract_lets w
    have hw : w.mem.wf = true := by unfold w; split <;> simpa [hv] using hp
    split
    · split
      · exact hrefuse hw
      · next t ht => simp [startTasks_wf hw ht]
    · simp [hw]

/-! ### Tables -/

@[simp] theorem copyFrame_wf {s} (h : s.mem.wf = true) (src dst n) : (copyFrame s src dst n).mem.wf = true :=
  mem_wf_unslice _ _ _ _ h (mem_wf_slice _ _ _ h) (mem_slice_lt _ _ _)

/-! ### Links -/

@[simp] theorem abortRemote_wf {s} (h : s.mem.wf = true) (r) : (abortRemote s r).mem.wf = true := by
  unfold abortRemote
  dsimp only
  (repeat' split) <;> simp [h]
@[simp] theorem writeFar_wf {s} (h : s.mem.wf = true) (x seg v) : (writeFar s x seg v).mem.wf = true := by simp [writeFar, h]
@[simp] theorem putPart_wf {s} (h : s.mem.wf = true) (x seg) : (putPart s x seg).mem.wf = true := by simp [putPart, h]
@[simp] theorem serveMemory_wf {s} (h : s.mem.wf = true) (x) : (serveMemory s x).mem.wf = true := by simp [serveMemory, h]
@[simp] theorem serveChannel_wf {s} (h : s.mem.wf = true) (x) : (serveChannel s x).mem.wf = true := by
  unfold serveChannel
  dsimp only
  split
  · next t ht => simp [place_wf h ht]
  · simp [h]
@[simp] theorem serve_wf {s} (h : s.mem.wf = true) (x) : (serve s x).mem.wf = true := by
  unfold serve
  dsimp only
  (repeat' split) <;> simp [h]
@[simp] theorem slicesDiffer_wf {s} (h : s.mem.wf = true) (n id part) : (slicesDiffer s n id part).mem.wf = true := by simp [slicesDiffer, h]

/-! ### Power -/

@[simp] theorem loseCluster_wf {s} (h : s.mem.wf = true) (cl) : (loseCluster s cl).mem.wf = true := by
  unfold loseCluster
  extract_lets on u cores v
  have hu : u.mem.wf = true := foldl_wf (fun s e h => by split <;> simp [h]) _ h
  have hv : v.mem.wf = true := foldl_wf (fun s g h => by rw [renewed_mem]; exact renewed_zero_wf h ..) _ hu
  rw [State.modCluster_mem]
  exact hv
@[simp] theorem powerOff_wf {s} (h : s.mem.wf = true) : (powerOff s).mem.wf = true := mem_wf_filter _ _ h
@[simp] theorem scrub_wf {s} (h : s.mem.wf = true) (r) : (scrub s r).mem.wf = true := mem_wf_filter _ _ h
@[simp] theorem resetFunction_wf {s} (h : s.mem.wf = true) (f) : (resetFunction s f).mem.wf = true := by
  unfold resetFunction
  extract_lets s1 own s2 gone ran s3 asids windows firn s4 s5 s6 s7 s8 s9
  have h2 : s2.mem.wf = true := foldl_wf (fun s c h => by split <;> [skip; split] <;> simp [h]) _ (h : s1.mem.wf = true)
  have h4 : s4.mem.wf = true := by unfold s4; split <;> exact foldl_wf (fun s r h => scrub_wf h r) _ h2
  have h6 : s6.mem.wf = true := foldl_wf (fun s a h => by simp [h]) _ (h4 : s5.mem.wf = true)
  have h9 : s9.mem.wf = true := foldl_wf (fun s r h => homeWrite_wf h ..) _ (show s8.mem.wf = true from h6)
  clear_value s9
  exact h9

/-! ### Freeze -/

@[simp] theorem drainOne_wf {s} (h : s.mem.wf = true) (z i e) : (drainOne s z i e).mem.wf = true := by
  unfold drainOne
  dsimp only
  (repeat' split) <;> simp [h]
@[simp] theorem restoreRegion_wf {s} (h : s.mem.wf = true) (t i) : (restoreRegion s t i).1.mem.wf = true := by
  unfold restoreRegion
  dsimp only
  split
  · exact h
  · split
    · exact h
    · split
      · exact h
      · next u hu => exact feWrite_wf h hu
@[simp] theorem resumeExact_wf {s} (h : s.mem.wf = true) (t c x v) : (resumeExact s t c x v).mem.wf = true := by simp [resumeExact, foldl_mem, h]
@[simp] theorem restart_wf {s} (h : s.mem.wf = true) (t c s1 x) : (restart s t c s1 x).mem.wf = true := by
  unfold restart
  split <;> simp [h]
@[simp] theorem settleThaw_wf {s} (h : s.mem.wf = true) (t i c x v) : (settleThaw s t i c x v).mem.wf = true := by
  unfold settleThaw
  split <;> simp [h]
@[simp] theorem finishThaw_wf {s} (h : s.mem.wf = true) : (finishThaw s).mem.wf = true := by
  unfold finishThaw
  split <;> simp [h]
@[simp] theorem restoreCkpt_wf {s} (h : s.mem.wf = true) (x l) : (restoreCkpt s x l).mem.wf = true := by
  induction l generalizing s with
  | nil => exact h
  | cons r l ih =>
    unfold restoreCkpt
    split
    · exact ih h
    · next t ht => exact ih (feWrite_wf h ht)
theorem copyRegion_wf {s t c r} (h : s.mem.wf = true) (he : copyRegion s c r = .ok t) : t.mem.wf = true := by
  unfold copyRegion at he
  dsimp only at he
  split at he
  · cases he
  · cases he
  · split at he
    · cases he
    · cases he; simp [h]
theorem copyRegions_wf {s t c l} (h : s.mem.wf = true) (he : copyRegions s c l = .ok t) : t.mem.wf = true := by
  induction l generalizing s with
  | nil => cases he; exact h
  | cons r l ih =>
    unfold copyRegions at he
    split at he
    · cases he
    · next u hu => exact ih (copyRegion_wf h hu) he
@[simp] theorem endCkpt_wf {s} (h : s.mem.wf = true) (c) : (endCkpt s c).mem.wf = true := by simp [endCkpt, h]

/-! ### Host -/

@[simp] theorem ctxCmd_wf {s} (h : s.mem.wf = true) (f v) : (ctxCmd s f v).mem.wf = true := by
  unfold ctxCmd
  (repeat' split) <;> simp [h]
@[simp] theorem writeBlock_wf {s} (h : s.mem.wf = true) (f off v) : (writeBlock s f off v).mem.wf = true := by
  unfold writeBlock
  (repeat' split) <;> simp [h]
theorem putRegs_wf {write : State → Nat → Nat → State} (hw : ∀ s a x, s.mem.wf = true → (write s a x).mem.wf = true) {s} (h : s.mem.wf = true)
    (read acts off n v) : (putRegs read write acts s off n v).mem.wf = true :=
  foldl_wf (fun s p h => by
    dsimp only
    split
    · split
      · exact hw _ _ _ h
      · exact h
    · exact hw _ _ _ h) _ h
@[simp] theorem putBlock_wf {s} (h : s.mem.wf = true) (f off n v) : (putBlock s f off n v).mem.wf = true :=
  putRegs_wf (fun _ _ _ h => writeBlock_wf h ..) h ..

end Sys2Proof.Machine
end

section
/-! SUPPORT. Each instruction and event keeps memory canonical. -/
namespace Sys2Proof.Machine
open Sys2Proof

/-! ### Instructions and events that leave memory alone -/

@[simp] theorem execWaitt_mem (d a s) : (stateOf s (execWaitt d a s)).mem = s.mem := by
  rw [execWaitt, stateOf_next]
  exact slot_mem fun _ => by dsimp only; split <;> simp
@[simp] theorem execFmt_mem (a s) : (stateOf s (execFmt a s)).mem = s.mem := by
  rw [execFmt, stateOf_next]
  exact slot_mem fun _ => (rfl)
@[simp] theorem execFmti_mem (imm s) : (stateOf s (execFmti imm s)).mem = s.mem := by
  rw [execFmti, stateOf_next]
  exact slot_mem fun _ => (rfl)
@[simp] theorem execVset_mem (w a s) : (stateOf s (execVset w a s)).mem = s.mem := by
  rw [execVset, stateOf_next]
  exact slot_mem fun _ => (rfl)
@[simp] theorem execPhase_mem (imm s) : (stateOf s (execPhase imm s)).mem = s.mem := by
  rw [execPhase, stateOf_next]
  exact slot_mem fun _ => (rfl)
@[simp] theorem execUlimask_mem (op bits s) : (stateOf s (execUlimask op bits s)).mem = s.mem := by
  rw [execUlimask, stateOf_next]
  exact slot_mem fun _ => (rfl)
@[simp] theorem execXfence_mem (pa qa s) : (stateOf s (execXfence pa qa s)).mem = s.mem := by
  rw [execXfence, stateOf_next]
  exact slot_mem fun _ => (rfl)
@[simp] theorem execScope_mem (l s) : (stateOf s (execScope l s)).mem = s.mem := by
  rw [execScope, stateOf_next]
  exact slot_mem fun _ => (rfl)
@[simp] theorem execImx_mem (cls ext s) : (stateOf s (execImx cls ext s)).mem = s.mem := by
  rw [execImx, stateOf_next]
  exact slot_mem fun _ => (rfl)
@[simp] theorem execChdecl_mem (c a s) : (stateOf s (execChdecl c a s)).mem = s.mem := by
  rw [execChdecl, stateOf_next]
  refine slot_mem fun _ => ?_
  dsimp only
  rw [post_mem, State.modSeq_mem, State.modCtx_mem]
  exact foldl_mem (fun s m => by split <;> simp) ..
@[simp] theorem execMmaComplete_mem (s) : (stateOf s (execMmaComplete s)).mem = s.mem := by
  unfold execMmaComplete
  (repeat' split) <;> simp [popMtx_mem]
@[simp] theorem execMcommitDrain_mem (s) : (stateOf s (execMcommitDrain s)).mem = s.mem := by
  unfold execMcommitDrain
  dsimp only
  (repeat' split) <;> simp [popMtx_mem, putTile_mem]
@[simp] theorem execMzeroExecute_mem (s) : (stateOf s (execMzeroExecute s)).mem = s.mem := by
  unfold execMzeroExecute
  (repeat' split) <;> simp [popMtx_mem, putTile_mem]
@[simp] theorem execMstabApply_mem (s) : (stateOf s (execMstabApply s)).mem = s.mem := by
  unfold execMstabApply
  dsimp only
  (repeat' split) <;> simp [popMtx_mem]
@[simp] theorem execAeDigestExchange_mem (s) : (stateOf s (execAeDigestExchange s)).mem = s.mem := by
  unfold execAeDigestExchange
  dsimp only
  (repeat' split) <;> simp [foldl_mem]
  rw [foldl_mem fun s n => by split <;> simp [leaves_mem], foldl_mem (by simp)]
@[simp] theorem execAmapRegister_mem (s) : (stateOf s (execAmapRegister s)).mem = s.mem := by
  unfold execAmapRegister
  exact foldl_mem (fun s m => by dsimp only; (repeat' split) <;> simp) ..
@[simp] theorem execDsyncPhaseComplete_mem (s) : (stateOf s (execDsyncPhaseComplete s)).mem = s.mem := by
  unfold execDsyncPhaseComplete
  dsimp only
  split
  · rfl
  · split
    · rfl
    · exact foldl_mem (fun s n => by rw [State.modSeq_mem, leaves_mem]) ..
@[simp] theorem rollTo_keeps_mem (s g k) : (rollTo s g k).mem = s.mem := by
  cases hp : (s.hist.getD g [])[k]? with
  | none => simp [rollTo, hp]
  | some p => exact rollTo_mem hp
@[simp] theorem execStrikeRollback_mem (s) : (stateOf s (execStrikeRollback s)).mem = s.mem := by
  unfold execStrikeRollback
  split
  · rfl
  · rw [stateOf_next, strike_mem, rollTo_keeps_mem]
@[simp] theorem execTwinCompare_mem (s) : (stateOf s (execTwinCompare s)).mem = s.mem := by
  unfold execTwinCompare
  dsimp only
  (repeat' split) <;> simp
@[simp] theorem execFreezeEnginesStopped_mem (s) : (stateOf s (execFreezeEnginesStopped s)).mem = s.mem := by
  unfold execFreezeEnginesStopped
  split
  · split
    · rfl
    · simp only [stateOf_next, State.modSys_mem, tellPeers_mem, dropRemotes_mem]
      rw [foldl_mem fun _ _ => State.modCtx_mem .., foldl_mem fun _ _ => State.modSeq_mem ..]
  · rfl
@[simp] theorem execCkpt_mem (s) : (stateOf s (execCkpt s)).mem = s.mem := by
  rw [execCkpt, stateOf_next]
  exact atHead_mem fun f r p => by (repeat' split) <;> simp
@[simp] theorem execPowerTokenMarket_mem (s) : (stateOf s (execPowerTokenMarket s)).mem = s.mem := by
  unfold execPowerTokenMarket
  split
  · rfl
  · rw [stateOf_next]
    dsimp only
    rw [foldl_mem fun s d => setPoint_mem .., foldl_mem fun _ _ => State.modCluster_mem ..]
@[simp] theorem execMctpSetEndpointId_mem (s) : (stateOf s (execMctpSetEndpointId s)).mem = s.mem := by
  rw [execMctpSetEndpointId, stateOf_next]
  exact withPec_mem (by simp)
@[simp] theorem execMctpGetEndpointId_mem (s) : (stateOf s (execMctpGetEndpointId s)).mem = s.mem := by
  rw [execMctpGetEndpointId, stateOf_next]
  exact withPec_mem (by simp)
@[simp] theorem execMctpGetVersionSupport_mem (s) : (stateOf s (execMctpGetVersionSupport s)).mem = s.mem := by
  rw [execMctpGetVersionSupport, stateOf_next]
  exact withPec_mem (by simp)
@[simp] theorem execMctpGetMessageTypeSupport_mem (s) : (stateOf s (execMctpGetMessageTypeSupport s)).mem = s.mem := by
  rw [execMctpGetMessageTypeSupport, stateOf_next]
  exact withPec_mem (by simp)
@[simp] theorem execMctpUnsupportedCommand_mem (s) : (stateOf s (execMctpUnsupportedCommand s)).mem = s.mem := by
  rw [execMctpUnsupportedCommand, stateOf_next]
  exact withPec_mem (by simp)
@[simp] theorem execMgmtAttestationRequest_mem (s) : (stateOf s (execMgmtAttestationRequest s)).mem = s.mem := by
  rw [execMgmtAttestationRequest, stateOf_next]
  exact withPec_mem (by simp)
@[simp] theorem execSpawn_mem (a s) : (stateOf s (execSpawn a s)).mem = s.mem := by
  rw [execSpawn, stateOf_next]
  exact slot_mem fun _ => by simp
@[simp] theorem execVmov_mem (d a kind m s) : (stateOf s (execVmov d a kind m s)).mem = s.mem := by simp [execVmov]
@[simp] theorem execSt64_mem (o d a imm s) : (stateOf s (execSt64 o d a imm s)).mem = s.mem := by
  unfold execSt64
  split <;> simp
@[simp] theorem execVst_mem (o d a imm s) : (stateOf s (execVst o d a imm s)).mem = s.mem := by simp [execVst]
@[simp] theorem execVgat_mem (f o d a b m s) : (stateOf s (execVgat f o d a b m s)).mem = s.mem := by simp [execVgat]
@[simp] theorem execVsct_mem (o d a b m s) : (stateOf s (execVsct o d a b m s)).mem = s.mem := by simp [execVsct]
@[simp] theorem execVbred_mem (a b op s) : (stateOf s (execVbred a b op s)).mem = s.mem := by simp [execVbred]
@[simp] theorem execFill_mem (a b p s) : (stateOf s (execFill a b p s)).mem = s.mem := by simp [execFill]
@[simp] theorem execPcfg_mem (p a m s) : (stateOf s (execPcfg p a m s)).mem = s.mem := by simp [execPcfg]
@[simp] theorem execAgate_mem (a b m s) : (stateOf s (execAgate a b m s)).mem = s.mem := by simp [execAgate]
@[simp] theorem execAcoll_mem (a b s) : (stateOf s (execAcoll a b s)).mem = s.mem := by
  unfold execAcoll
  split <;> simp
@[simp] theorem execSend_mem (c a m s) : (stateOf s (execSend c a m s)).mem = s.mem := by simp [execSend]
@[simp] theorem execIllegalBundle_mem (s) : (stateOf s (execIllegalBundle s)).mem = s.mem := (rfl)
@[simp] theorem execIllegalInstruction_mem (s) : (stateOf s (execIllegalInstruction s)).mem = s.mem := (rfl)
@[simp] theorem execTrapAtBoundary_mem (s) : (stateOf s (execTrapAtBoundary s)).mem = s.mem := by
  unfold execTrapAtBoundary
  dsimp only
  split <;> simp
@[simp] theorem execUliEntry_mem (s) : (stateOf s (execUliEntry s)).mem = s.mem := by
  unfold execUliEntry
  dsimp only
  split <;> simp
@[simp] theorem execCurrentLimitFreezeCycle_mem (s) : (stateOf s (execCurrentLimitFreezeCycle s)).mem = s.mem := by simp [execCurrentLimitFreezeCycle]
@[simp] theorem execDroopCrossing_mem (s) : (stateOf s (execDroopCrossing s)).mem = s.mem := by simp [execDroopCrossing]
@[simp] theorem execWaitingWake_mem (s) : (stateOf s (execWaitingWake s)).mem = s.mem := by simp [execWaitingWake]
@[simp] theorem execWaittWake_mem (s) : (stateOf s (execWaittWake s)).mem = s.mem := by
  unfold execWaittWake
  dsimp only
  split <;> simp
@[simp] theorem execMwaitTimeout_mem (s) : (stateOf s (execMwaitTimeout s)).mem = s.mem := by
  unfold execMwaitTimeout
  dsimp only
  split <;> simp
@[simp] theorem execMonitorTrigger_mem (s) : (stateOf s (execMonitorTrigger s)).mem = s.mem := by simp [execMonitorTrigger]
@[simp] theorem execTbwaitReread_mem (s) : (stateOf s (execTbwaitReread s)).mem = s.mem := by
  unfold execTbwaitReread
  dsimp only
  split <;> simp
@[simp] theorem execLoadComplete_mem (s) : (stateOf s (execLoadComplete s)).mem = s.mem := by
  unfold execLoadComplete
  dsimp only
  (repeat' split) <;> simp
@[simp] theorem execUncorrectableError_mem (s) : (stateOf s (execUncorrectableError s)).mem = s.mem := by simp [execUncorrectableError]
@[simp] theorem execPatrolScrub_mem (s) : (stateOf s (execPatrolScrub s)).mem = s.mem := (rfl)
@[simp] theorem execPageWalk_mem (s) : (stateOf s (execPageWalk s)).mem = s.mem := by
  unfold execPageWalk
  (repeat' split) <;> simp
@[simp] theorem execMmaExecute_mem (s) : (stateOf s (execMmaExecute s)).mem = s.mem := by
  unfold execMmaExecute
  dsimp only
  (repeat' split) <;> simp
@[simp] theorem execPortGeneratorCycle_mem (s) : (stateOf s (execPortGeneratorCycle s)).mem = s.mem := by
  unfold execPortGeneratorCycle
  dsimp only
  (repeat' split) <;> simp
@[simp] theorem execPortInputArrival_mem (s) : (stateOf s (execPortInputArrival s)).mem = s.mem := by
  unfold execPortInputArrival
  dsimp only
  (repeat' split) <;> simp
@[simp] theorem execPflushComplete_mem (s) : (stateOf s (execPflushComplete s)).mem = s.mem := by
  unfold execPflushComplete
  (repeat' split) <;> simp
@[simp] theorem execCqSpillRefill_mem (s) : (stateOf s (execCqSpillRefill s)).mem = s.mem := by
  unfold execCqSpillRefill
  dsimp only
  (repeat' split) <;> simp
@[simp] theorem execHaltRetire_mem (s) : (stateOf s (execHaltRetire s)).mem = s.mem := by simp [execHaltRetire]
@[simp] theorem execDriftRingReplay_mem (s) : (stateOf s (execDriftRingReplay s)).mem = s.mem := by
  unfold execDriftRingReplay
  dsimp only
  (repeat' split) <;> simp
@[simp] theorem execFlitReceive_mem (s) : (stateOf s (execFlitReceive s)).mem = s.mem := by simp [execFlitReceive]
@[simp] theorem execReplayRequest_mem (s) : (stateOf s (execReplayRequest s)).mem = s.mem := by
  unfold execReplayRequest
  split <;> simp
@[simp] theorem execAckTimeout_mem (s) : (stateOf s (execAckTimeout s)).mem = s.mem := by simp [execAckTimeout]
@[simp] theorem execLaneFailure_mem (s) : (stateOf s (execLaneFailure s)).mem = s.mem := by simp [execLaneFailure]
@[simp] theorem execLinkRetrainComplete_mem (s) : (stateOf s (execLinkRetrainComplete s)).mem = s.mem := by simp [execLinkRetrainComplete]
@[simp] theorem execPtpSync_mem (s) : (stateOf s (execPtpSync s)).mem = s.mem := by simp [execPtpSync]
@[simp] theorem execTailDoorbell_mem (s) : (stateOf s (execTailDoorbell s)).mem = s.mem := by simp [execTailDoorbell]
@[simp] theorem execRbaseWrite_mem (s) : (stateOf s (execRbaseWrite s)).mem = s.mem := by simp [execRbaseWrite]
@[simp] theorem execRctlWrite_mem (s) : (stateOf s (execRctlWrite s)).mem = s.mem := by simp [execRctlWrite]
@[simp] theorem execRstatClear_mem (s) : (stateOf s (execRstatClear s)).mem = s.mem := by simp [execRstatClear]
@[simp] theorem execRingFetch_mem (s) : (stateOf s (execRingFetch s)).mem = s.mem := by simp [execRingFetch, foldl_mem]
@[simp] theorem execInval_mem (s) : (stateOf s (execInval s)).mem = s.mem := by simp [execInval]
@[simp] theorem execLaunchGrant_mem (s) : (stateOf s (execLaunchGrant s)).mem = s.mem := by
  unfold execLaunchGrant
  split <;> simp [foldl_mem]
@[simp] theorem execPrebudExpiry_mem (s) : (stateOf s (execPrebudExpiry s)).mem = s.mem := by simp [execPrebudExpiry]
@[simp] theorem execPreemptStopped_mem (s) : (stateOf s (execPreemptStopped s)).mem = s.mem := by simp [execPreemptStopped]
@[simp] theorem execLeaseRenewal_mem (s) : (stateOf s (execLeaseRenewal s)).mem = s.mem := by simp [execLeaseRenewal]
@[simp] theorem execLeaseExpiry_mem (s) : (stateOf s (execLeaseExpiry s)).mem = s.mem := by
  unfold execLeaseExpiry
  (repeat' split) <;> simp
@[simp] theorem execMailboxAttest_mem (s) : (stateOf s (execMailboxAttest s)).mem = s.mem := by simp [execMailboxAttest]
@[simp] theorem execAttestReportDone_mem (s) : (stateOf s (execAttestReportDone s)).mem = s.mem := by simp [execAttestReportDone]
@[simp] theorem execCalvordWrite_mem (s) : (stateOf s (execCalvordWrite s)).mem = s.mem := by simp [execCalvordWrite]
@[simp] theorem execReplicaEntryWrite_mem (s) : (stateOf s (execReplicaEntryWrite s)).mem = s.mem := by simp [execReplicaEntryWrite]
@[simp] theorem execAsidTableWrite_mem (s) : (stateOf s (execAsidTableWrite s)).mem = s.mem := by simp [execAsidTableWrite]
@[simp] theorem execMsixUnmask_mem (s) : (stateOf s (execMsixUnmask s)).mem = s.mem := by simp [execMsixUnmask]
@[simp] theorem execMgmtReportRefresh_mem (s) : (stateOf s (execMgmtReportRefresh s)).mem = s.mem := (rfl)
@[simp] theorem execVinSample_mem (s) : (stateOf s (execVinSample s)).mem = s.mem := by simp [execVinSample]
@[simp] theorem execPfAssert_mem (s) : (stateOf s (execPfAssert s)).mem = s.mem := by simp [execPfAssert]
@[simp] theorem execPfDeassert_mem (s) : (stateOf s (execPfDeassert s)).mem = s.mem := by simp [execPfDeassert]
@[simp] theorem execCalveNextDie_mem (s) : (stateOf s (execCalveNextDie s)).mem = s.mem := by
  unfold execCalveNextDie
  (repeat' split) <;> simp
@[simp] theorem execCalvedSeqStop_mem (s) : (stateOf s (execCalvedSeqStop s)).mem = s.mem := by simp [execCalvedSeqStop]
@[simp] theorem execDieRetention_mem (s) : (stateOf s (execDieRetention s)).mem = s.mem := by simp [execDieRetention]
@[simp] theorem execUncalve_mem (s) : (stateOf s (execUncalve s)).mem = s.mem := by
  unfold execUncalve
  split <;> simp
@[simp] theorem execPeerFreezeNotice_mem (s) : (stateOf s (execPeerFreezeNotice s)).mem = s.mem := (rfl)
@[simp] theorem execPeerRejoin_mem (s) : (stateOf s (execPeerRejoin s)).mem = s.mem := by simp [execPeerRejoin]
@[simp] theorem execThawCommand_mem (s) : (stateOf s (execThawCommand s)).mem = s.mem := by
  unfold execThawCommand
  split <;> simp
@[simp] theorem execChargeMeasure_mem (s) : (stateOf s (execChargeMeasure s)).mem = s.mem := by simp [execChargeMeasure]
@[simp] theorem execHibRecheck_mem (s) : (stateOf s (execHibRecheck s)).mem = s.mem := by simp [execHibRecheck]
@[simp] theorem execThermalSample_mem (s) : (stateOf s (execThermalSample s)).mem = s.mem := by simp [execThermalSample]
@[simp] theorem execOpPointApply_mem (s) : (stateOf s (execOpPointApply s)).mem = s.mem := by
  unfold execOpPointApply
  dsimp only
  split <;> simp
@[simp] theorem execAkvinLinkFirmwareReset_mem (s) : (stateOf s (execAkvinLinkFirmwareReset s)).mem = s.mem := by simp [execAkvinLinkFirmwareReset]
@[simp] theorem execDtimeHoldover_mem (s) : (stateOf s (execDtimeHoldover s)).mem = s.mem := (rfl)

/-! ### Events that write memory -/

theorem atHead_wf {s : State} {type : Nat} {go : Nat → Nat → Nat → State} (h : s.mem.wf = true) (hgo : ∀ f r v, (go f r v).mem.wf = true) :
    (atHead s type go).mem.wf = true := by
  unfold atHead
  split
  · split
    · exact hgo ..
    · exact h
  · exact h
@[simp] theorem execCallPacket_wf {s} (h : s.mem.wf = true) : (stateOf s (execCallPacket s)).mem.wf = true := by
  rw [execCallPacket, stateOf_next]
  exact atHead_wf h fun _ _ _ => passHead_wf h ..
@[simp] theorem execRetPacket_wf {s} (h : s.mem.wf = true) : (stateOf s (execRetPacket s)).mem.wf = true := by
  rw [execRetPacket, stateOf_next]
  exact atHead_wf h fun _ _ _ => passHead_wf h ..
@[simp] theorem execJoinPacket_wf {s} (h : s.mem.wf = true) : (stateOf s (execJoinPacket s)).mem.wf = true := by
  rw [execJoinPacket, stateOf_next]
  exact atHead_wf h fun _ _ _ => by split <;> simp [h]
@[simp] theorem execFencePacket_wf {s} (h : s.mem.wf = true) : (stateOf s (execFencePacket s)).mem.wf = true := by
  rw [execFencePacket, stateOf_next]
  exact atHead_wf h fun _ _ _ => fenceRead_wf h ..
@[simp] theorem execWakeAt_wf {s} (h : s.mem.wf = true) : (stateOf s (execWakeAt s)).mem.wf = true := by
  rw [execWakeAt, stateOf_next]
  exact atHead_wf h fun _ _ _ => by split <;> simp [h]
@[simp] theorem execRerouteTimeout_wf {s} (h : s.mem.wf = true) : (stateOf s (execRerouteTimeout s)).mem.wf = true :=
  foldl_wf (fun _ r h => abortRemote_wf h r) _ h
@[simp] theorem execCqAgeing_wf {s} (h : s.mem.wf = true) : (stateOf s (execCqAgeing s)).mem.wf = true := by
  rw [execCqAgeing, stateOf_next]
  dsimp only
  split
  · exact newCycle_wf h _
  · exact foldl_wf (fun _ l h => ageLevel_wf _ _ _ _ h) _ (newCycle_wf h _)
@[simp] theorem execContextStopped_wf {s} (h : s.mem.wf = true) : (stateOf s (execContextStopped s)).mem.wf = true := by
  rw [execContextStopped, stateOf_next]
  dsimp only
  split
  · exact h
  · have hq : ∀ l : List Nat, (l.foldl (fun t n => if (t.seq n).ctx = some (s.arg 0) then t.modSeq n settlePorts else t) s).mem.wf = true :=
      fun l => foldl_wf (fun t n ht => by split <;> exact ht) l h
    split
    · split
      · exact killCtx_wf (hq _) _
      · exact hq _
    · next t ht =>
      rw [State.msix_mem, State.modCtx_mem]
      exact (feWrite_wf (hq _) ht : t.mem.wf = true)
@[simp] theorem execCqPushAccept_wf {s} (h : s.mem.wf = true) : (stateOf s (execCqPushAccept s)).mem.wf = true := by
  rw [execCqPushAccept, stateOf_next]
  dsimp only
  split
  · exact h
  · split
    · split
      · next t ht =>
        have htw : t.mem.wf = true := pushRec_wf h ht
        exact newCycle_wf (by rwa [State.modCluster_mem]) _
      · exact h
    · split
      · exact h
      · split
        · next t ht =>
          have htw : t.mem.wf = true := pushRec_wf h ht
          exact newCycle_wf (by rwa [leaves_mem, State.modCluster_mem]) _
        · exact h
        · split <;> simp [h]
        · split <;> simp [h]
@[simp] theorem execContextSaveComplete_wf {s} (h : s.mem.wf = true) : (stateOf s (execContextSaveComplete s)).mem.wf = true := by
  rw [execContextSaveComplete, stateOf_next]
  refine wf_of_ite h ?_
  split
  · exact wf_of_ite (killCtx_wf h _) h
  · rw [dropVictim_mem]
    refine leaveCores_wf ?_ _
    rw [State.modCtx_mem, vacate_mem]
    refine storeSave_wf ?_ ..
    refine wf_of_ite (foldl_wf (fun _ _ h => foldl_wf (fun _ _ h => spillHead_wf h ..) _ h) _ ?_) ?_ <;> rwa [feSeen_mem]
@[simp] theorem execPreemptedResume_wf {s} (h : s.mem.wf = true) : (stateOf s (execPreemptedResume s)).mem.wf = true := by
  rw [execPreemptedResume, stateOf_next]
  dsimp only
  split
  · cases ht : resumeCtx s (s.arg 0) with
    | none => exact h
    | some t => exact resumeCtx_wf h ht
  · exact h
@[simp] theorem execUncalveComplete_wf {s} (h : s.mem.wf = true) : (stateOf s (execUncalveComplete s)).mem.wf = true := by
  rw [execUncalveComplete, stateOf_next]
  split
  · refine wf_of_ite h (wf_of_ite ?_ ?_)
    · rw [setPower_mem]
      refine retryRecords_wf ?_
      rw [State.modSys_mem]
      rw [foldl_mem fun _ _ => by split <;> simp, foldl_mem fun _ _ => by simp]
      refine foldl_wf (fun _ i h => loseCluster_wf h _) _ ?_
      rwa [foldl_mem fun _ _ => State.modCore_mem ..]
    · refine retryRecords_wf ?_
      rw [State.modSys_mem]
      rw [foldl_mem fun _ _ => by split <;> simp, foldl_mem fun _ _ => by simp]
      refine foldl_wf (fun _ i h => loseCluster_wf h _) _ ?_
      rwa [foldl_mem fun _ _ => State.modCore_mem ..]
  · exact h
@[simp] theorem execRetireJoinUpdate_wf {s} (h : s.mem.wf = true) : (stateOf s (execRetireJoinUpdate s)).mem.wf = true := by
  rw [execRetireJoinUpdate, stateOf_next]
  refine wf_of_ite h ?_
  split
  · simp [h]
  · refine wf_of_ite (by simp [h]) ?_
    split
    · simp [h]
    · refine wf_of_ite (by simp [h]) (wf_of_ite (by simp [h]) (wf_of_ite (by simp [h]) ?_))
      rw [toIdle_mem]
      refine wf_of_ite ?_ (wf_of_ite ?_ (wf_of_ite ?_ ?_)) <;> simp [leaves_mem, h]
theorem mem_of_fillBuffer {s n c r idx t o} (ht : fillBuffer s n c r idx = (t, o)) : t.mem = s.mem := by
  rw [← fillBuffer_mem s n c r idx, ht]
@[simp] theorem execAeExchangeChunk_wf {s} (h : s.mem.wf = true) : (stateOf s (execAeExchangeChunk s)).mem.wf = true := by
  rw [execAeExchangeChunk, stateOf_next]
  dsimp only
  split
  · split
    · exact h
    · split
      · exact wf_of_ite (by simp [h]) (by simp [h])
      · split
        · next t ht =>
          rw [mem_of_fillBuffer ht, modCmd_mem]
          exact h
        · next t mine v ht =>
          have htw : t.mem.wf = true := by
            rw [mem_of_fillBuffer ht, modCmd_mem]
            exact h
          refine wf_of_ite (farChunk_wf htw ..) ?_
          split
          · exact htw
          · split
            · refine wf_of_ite htw ?_
              split
              · next u hu =>
                rw [mem_of_fillBuffer hu, modCmd_mem]
                exact htw
              · next u theirs w hu =>
                have huw : u.mem.wf = true := by
                  rw [mem_of_fillBuffer hu, modCmd_mem]
                  exact htw
                refine wf_of_ite huw ?_
                rw [afterExchange_mem, afterExchange_mem]
                exact writeAll_wf (writeAll_wf huw ..) ..
            · exact htw
  · exact h
@[simp] theorem execAeGateChunk_wf {s} (h : s.mem.wf = true) : (stateOf s (execAeGateChunk s)).mem.wf = true := by
  rw [execAeGateChunk, stateOf_next]
  dsimp only
  split
  · refine wf_of_ite h (wf_of_ite (by simp [h]) ?_)
    split
    · simp [h]
    · refine wf_of_ite h ?_
      split
      · simp [h]
      · rw [State.modSeq_mem, countChunk_mem, installSegs_mem]
        exact wf_of_ite (writeAll_wf h ..) h
  · exact h
@[simp] theorem execAeCommandComplete_wf {s} (h : s.mem.wf = true) : (stateOf s (execAeCommandComplete s)).mem.wf = true := by
  rw [execAeCommandComplete, stateOf_next]
  dsimp only
  split
  · exact h
  · refine foldl_wf (fun _ _ h => writeResult_wf h _) _ ?_
    rwa [foldl_mem fun _ _ => by (repeat' split) <;> simp]
@[simp] theorem execHostWindowAccess_wf {s} (h : s.mem.wf = true) : (stateOf s (execHostWindowAccess s)).mem.wf = true := by
  rw [execHostWindowAccess, stateOf_next]
  refine wf_of_ite (by simp [h]) ?_
  split
  · simp [h]
  · refine wf_of_ite (by simp [h]) ?_
    split
    · refine wf_of_ite (by simp [h]) (wf_of_ite (wf_of_ite ?_ ?_) (wf_of_ite ?_ ?_))
      · simp [h]
      · simp [h]
      · split
        · simp [h]
        · next t ht =>
          rw [hostDone_mem]
          exact (feWrite_wf h ht : t.mem.wf = true)
      · split <;> simp [h]
    · simp [h]
@[simp] theorem execCopyHead_wf {s} (h : s.mem.wf = true) : (stateOf s (execCopyHead s)).mem.wf = true := by
  rw [execCopyHead, stateOf_next]
  dsimp only
  split
  · exact h
  · refine wf_of_ite h (wf_of_ite (by simp [leaves_mem, h]) ?_)
    have hl : ∀ n, (leaves s (s.arg 0) n).mem.wf = true := by simp [leaves_mem, h]
    split
    · simp [hl]
    · simp [hl]
    · simp [hl]
    · simp [hl]
    · refine wf_of_ite (by simp [hl]) ?_
      split
      · simp [hl]
      · simp [hl]
      · simp [hl]
      · simp [hl]
      · refine wf_of_ite (by simp [hl]) ?_
        split
        · simp [hl]
        · refine wf_of_ite (by simp [hl]) (wf_of_ite (by simp [hl]) (settleCopy_wf ?_ ..))
          exact wf_of_ite (barrierUpdate_wf (by simp [hl]) ..) (by simp [hl])
@[simp] theorem execMoraineWrite_wf {s} (h : s.mem.wf = true) : (stateOf s (execMoraineWrite s)).mem.wf = true := by
  rw [execMoraineWrite, stateOf_next]
  split
  · split
    · exact h
    · exact homeWrite_wf (homeWrite_wf (homeWrite_wf h ..) ..) ..
  · exact h
@[simp] theorem execThawDtimeLock_wf {s} (h : s.mem.wf = true) : (stateOf s (execThawDtimeLock s)).mem.wf = true := by
  rw [execThawDtimeLock, stateOf_next]
  split
  · split
    · exact h
    · dsimp only
      rw [setThaw_mem]
      exact foldl_fst_wf (fun r i hr => by split <;> simp [hr]) _ h
  · exact h
@[simp] theorem execFabricRejoin_wf {s} (h : s.mem.wf = true) : (stateOf s (execFabricRejoin s)).mem.wf = true := by
  rw [execFabricRejoin, stateOf_next]
  split
  · dsimp only
    split
    · split
      · exact h
      · split
        · exact finishThaw_wf (settleThaw_wf h ..)
        · (repeat' split) <;> simp [h, restoreCkpt_wf h]
    · exact h
  · exact h
@[simp] theorem execCkptCopy_wf {s} (h : s.mem.wf = true) : (stateOf s (execCkptCopy s)).mem.wf = true := by
  rw [execCkptCopy, stateOf_next]
  dsimp only
  split
  · split
    · exact h
    · split
      · simp [h]
      · next t ht => exact (copyRegions_wf h ht : t.mem.wf = true)
  · exact h
@[simp] theorem execStoreApplied_wf {s} (h : s.mem.wf = true) : (stateOf s (execStoreApplied s)).mem.wf = true := by
  unfold execStoreApplied
  dsimp only
  (repeat' split) <;> simp [h]
@[simp] theorem execFillComplete_wf {s} (h : s.mem.wf = true) : (stateOf s (execFillComplete s)).mem.wf = true := by
  unfold execFillComplete
  dsimp only
  (repeat' split) <;> simp [leaves_mem, h]
@[simp] theorem execBauOperation_wf {s} (h : s.mem.wf = true) : (stateOf s (execBauOperation s)).mem.wf = true := by
  unfold execBauOperation
  dsimp only
  (repeat' split) <;> simp [h]
@[simp] theorem execDescriptorUnitComplete_wf {s} (h : s.mem.wf = true) : (stateOf s (execDescriptorUnitComplete s)).mem.wf = true := by
  unfold execDescriptorUnitComplete
  dsimp only
  (repeat' split) <;> simp [leaves_mem, h]
@[simp] theorem execCopyPieceStart_wf {s} (h : s.mem.wf = true) : (stateOf s (execCopyPieceStart s)).mem.wf = true := by
  unfold execCopyPieceStart
  dsimp only
  (repeat' split) <;> simp [h]
@[simp] theorem execCopyPieceComplete_wf {s} (h : s.mem.wf = true) : (stateOf s (execCopyPieceComplete s)).mem.wf = true := by
  unfold execCopyPieceComplete
  dsimp only
  (repeat' split) <;> simp [h]
@[simp] theorem execCqPop_wf {s} (h : s.mem.wf = true) : (stateOf s (execCqPop s)).mem.wf = true := by
  unfold execCqPop
  dsimp only
  (repeat' split) <;> simp [h]
@[simp] theorem execCqWorkTake_wf {s} (h : s.mem.wf = true) : (stateOf s (execCqWorkTake s)).mem.wf = true := by
  unfold execCqWorkTake
  dsimp only
  (repeat' split) <;> simp [h]
@[simp] theorem execChannelVectorArrival_wf {s} (h : s.mem.wf = true) : (stateOf s (execChannelVectorArrival s)).mem.wf = true := by
  simp [execChannelVectorArrival, h]
@[simp] theorem execChannelCloseNotice_wf {s} (h : s.mem.wf = true) : (stateOf s (execChannelCloseNotice s)).mem.wf = true := by
  simp [execChannelCloseNotice, h]
@[simp] theorem execChannelDeclarationNotice_wf {s} (h : s.mem.wf = true) : (stateOf s (execChannelDeclarationNotice s)).mem.wf = true := by
  simp [execChannelDeclarationNotice, h]
@[simp] theorem execChannelCreditReturn_wf {s} (h : s.mem.wf = true) : (stateOf s (execChannelCreditReturn s)).mem.wf = true := by
  simp [execChannelCreditReturn, h]
@[simp] theorem execCalvedRetry_wf {s} (h : s.mem.wf = true) : (stateOf s (execCalvedRetry s)).mem.wf = true := by
  unfold execCalvedRetry
  dsimp only
  (repeat' split) <;> simp [h]
@[simp] theorem execCtxResume_wf {s} (h : s.mem.wf = true) : (stateOf s (execCtxResume s)).mem.wf = true := by simp [execCtxResume, h]
@[simp] theorem execCtxKill_wf {s} (h : s.mem.wf = true) : (stateOf s (execCtxKill s)).mem.wf = true := by simp [execCtxKill, h]
@[simp] theorem execCtxDump_wf {s} (h : s.mem.wf = true) : (stateOf s (execCtxDump s)).mem.wf = true := by simp [execCtxDump, h]
@[simp] theorem execGang_wf {s} (h : s.mem.wf = true) : (stateOf s (execGang s)).mem.wf = true := by simp [execGang, h]
@[simp] theorem execTask_wf {s} (h : s.mem.wf = true) : (stateOf s (execTask s)).mem.wf = true := by simp [execTask, h]
@[simp] theorem execFenceReread_wf {s} (h : s.mem.wf = true) : (stateOf s (execFenceReread s)).mem.wf = true := by
  unfold execFenceReread
  dsimp only
  split <;> simp [h]
@[simp] theorem execWakeAtRelease_wf {s} (h : s.mem.wf = true) : (stateOf s (execWakeAtRelease s)).mem.wf = true := by
  unfold execWakeAtRelease
  dsimp only
  split <;> simp [h]
@[simp] theorem execLaunchRelease_wf {s} (h : s.mem.wf = true) : (stateOf s (execLaunchRelease s)).mem.wf = true := by simp [execLaunchRelease, h]
@[simp] theorem execLaunchCompletion_wf {s} (h : s.mem.wf = true) : (stateOf s (execLaunchCompletion s)).mem.wf = true := by
  simp [execLaunchCompletion, h]
@[simp] theorem execInvalComplete_wf {s} (h : s.mem.wf = true) : (stateOf s (execInvalComplete s)).mem.wf = true := by
  unfold execInvalComplete
  dsimp only
  (repeat' split) <;> simp [h]
@[simp] theorem execReplicaSeedingDone_wf {s} (h : s.mem.wf = true) : (stateOf s (execReplicaSeedingDone s)).mem.wf = true := by
  unfold execReplicaSeedingDone
  dsimp only
  (repeat' split) <;> simp_all [foldl_wf]
@[simp] theorem execTransactionArrival_wf {s} (h : s.mem.wf = true) : (stateOf s (execTransactionArrival s)).mem.wf = true := by
  unfold execTransactionArrival
  dsimp only
  (repeat' split) <;> simp [h]
@[simp] theorem execColdReset_wf {s} (h : s.mem.wf = true) : (stateOf s (execColdReset s)).mem.wf = true := by simp [execColdReset, h]
@[simp] theorem execPowerUp_wf {s} (h : s.mem.wf = true) : (stateOf s (execPowerUp s)).mem.wf = true := by simp [execPowerUp, h]
@[simp] theorem execPowerLost_wf {s} (h : s.mem.wf = true) : (stateOf s (execPowerLost s)).mem.wf = true := by simp [execPowerLost, h]
@[simp] theorem execFunctionLevelReset_wf {s} (h : s.mem.wf = true) : (stateOf s (execFunctionLevelReset s)).mem.wf = true := by
  simp [execFunctionLevelReset, h]
@[simp] theorem execFreezeDrain_wf {s} (h : s.mem.wf = true) : (stateOf s (execFreezeDrain s)).mem.wf = true := by
  unfold execFreezeDrain
  dsimp only
  (repeat' split) <;> simp [h]
@[simp] theorem execMoraineSeal_wf {s} (h : s.mem.wf = true) : (stateOf s (execMoraineSeal s)).mem.wf = true := by
  unfold execMoraineSeal
  split <;> simp [h]
@[simp] theorem execThawContextDecide_wf {s} (h : s.mem.wf = true) : (stateOf s (execThawContextDecide s)).mem.wf = true := by
  unfold execThawContextDecide
  dsimp only
  (repeat' split) <;> simp [h]
@[simp] theorem execCkptComplete_wf {s} (h : s.mem.wf = true) : (stateOf s (execCkptComplete s)).mem.wf = true := by
  unfold execCkptComplete
  dsimp only
  (repeat' split) <;> simp [foldl_mem, h]
@[simp] theorem execRegisterWrite_wf {s} (h : s.mem.wf = true) : (stateOf s (execRegisterWrite s)).mem.wf = true := by simp [execRegisterWrite, h]
@[simp] theorem execHostRegspaceAccess_wf {s} (h : s.mem.wf = true) : (stateOf s (execHostRegspaceAccess s)).mem.wf = true := by
  unfold execHostRegspaceAccess
  dsimp only
  split <;> simp [h]
@[simp] theorem execClusterGate_wf {s} (h : s.mem.wf = true) : (stateOf s (execClusterGate s)).mem.wf = true := by
  unfold execClusterGate
  dsimp only
  (repeat' split) <;> simp_all [foldl_wf]
@[simp] theorem execClusterUngate_wf {s} (h : s.mem.wf = true) : (stateOf s (execClusterUngate s)).mem.wf = true := by
  simp [execClusterUngate, foldl_mem, h]

/-! ### All of them -/

theorem wf_of_mem_eq {s t : State} (h : s.mem.wf = true) (he : t.mem = s.mem) : t.mem.wf = true := by rwa [he]
theorem wf_of_next {s t : State} {r : Host.Outcome State Fault Refusal} (h : s.mem.wf = true) (hr : r = .next t) (he : t.mem = s.mem) :
    (stateOf s r).mem.wf = true := by
  rw [hr, stateOf_next, he]
  exact h
theorem exec_wf (i : Instr) {s : State} (h : s.mem.wf = true) : (stateOf s (exec i s)).mem.wf = true := by
  cases i
  case scope => exact wf_of_mem_eq h (execScope_mem ..)
  case imx => exact wf_of_mem_eq h (execImx_mem ..)
  case nop | br | bc | jmp | call | callr | ret | lbrk | lidx | wait | mwait | dsync | unhold | step | ctrap | trap | uret | retire |
    halt | crd | cwr | tbwait | li | lih | fsqrt | fcvt | tnow | cyc | mstab | fence | mon | pflush | chpoll | chclose =>
    exact wf_of_next h rfl (slot_mem fun _ => by simp)
  case loop | loopi => exact wf_of_next h rfl (loopPush_mem ..)
  case waitt => exact wf_of_mem_eq h (execWaitt_mem ..)
  case fmt => exact wf_of_mem_eq h (execFmt_mem ..)
  case fmti => exact wf_of_mem_eq h (execFmti_mem ..)
  case vset => exact wf_of_mem_eq h (execVset_mem ..)
  case phase => exact wf_of_mem_eq h (execPhase_mem ..)
  case ulimask => exact wf_of_mem_eq h (execUlimask_mem ..)
  case spawn => exact wf_of_mem_eq h (execSpawn_mem ..)
  case jinit | tbarv | tbexp | tbinit => exact wf_of_next h rfl (updateSlot_mem ..)
  case add | sub | mul | mulh | mulhz | div | divz | rem | remz | and | or | xor | andn | shl | shr | sra | slt | sltz | seq | min | max
    | minz | maxz | sel | bfx | bfi | lea =>
    exact wf_of_next h rfl (scalarRRR_mem ..)
  case clz | ctz | popc => exact wf_of_next h rfl (scalarRR_mem ..)
  case addi | andi | ori | xori | shli | shri | srai | slti => exact wf_of_next h rfl (scalarRRI_mem ..)
  case fadd | fsub | fmul | fma | fdiv | fmin | fmax | fcmp => exact wf_of_next h rfl (floatRRR_mem ..)
  case vadd | vsub | vmul | vfma | vfms | vmin | vmax | vdiv | vshl | vshr | vsra => exact wf_of_next h rfl (vec3_mem ..)
  case vabs | vneg | vsqrt | vrcp | vrsq | vexp2 | vlog2 => exact wf_of_next h rfl (vec2_mem ..)
  case vand | vor | vxor => exact wf_of_next h rfl (vecBits_mem ..)
  case vceq | vclt | vcle => exact wf_of_next h rfl (vecCmp_mem ..)
  case vsel | vcvt | vpack | vunpk | vdot4 | vred | vscan | vperm | vbcst | vslide | vctrap | vcmul | vidx | vext | vins | mshape =>
    exact wf_of_next h rfl (vecSlot_mem fun _ _ _ _ => by simp)
  case vmov => exact wf_of_mem_eq h (execVmov_mem ..)
  case mma | mmaD => exact wf_of_next h rfl (mmaSlot_mem ..)
  case mzero | mcommit => exact wf_of_next h rfl (freeingSlot_mem ..)
  case ld8 | ld16 | ld32 | ld64 | ldz8 | ldz16 | ldz32 => exact wf_of_next h rfl (loadSlot_mem ..)
  case st8 | st16 | st32 => exact wf_of_next h rfl (storeSlot_mem ..)
  case st64 => exact wf_of_mem_eq h (execSt64_mem ..)
  case vld => exact wf_of_next h rfl (vectorLoad_mem ..)
  case vst => exact wf_of_mem_eq h (execVst_mem ..)
  case vgat => exact wf_of_mem_eq h (execVgat_mem ..)
  case vsct => exact wf_of_mem_eq h (execVsct_mem ..)
  case badd | bmin | bmax | band | bor | bxor | bswp | bcas => exact wf_of_next h rfl (bankSlot_mem ..)
  case vbred => exact wf_of_mem_eq h (execVbred_mem ..)
  case xfence => exact wf_of_mem_eq h (execXfence_mem ..)
  case fill => exact wf_of_mem_eq h (execFill_mem ..)
  case pcfg => exact wf_of_mem_eq h (execPcfg_mem ..)
  case pseal | lset => exact wf_of_next h rfl (descSlot_mem ..)
  case agate => exact wf_of_mem_eq h (execAgate_mem ..)
  case amap | ameas | anorm | aswap => exact wf_of_next h rfl (aeSlot_mem ..)
  case acoll => exact wf_of_mem_eq h (execAcoll_mem ..)
  case send => exact wf_of_mem_eq h (execSend_mem ..)
  case recv | recvadd | recvmax => exact wf_of_next h rfl (recvSlot_mem ..)
  case chdecl => exact wf_of_mem_eq h (execChdecl_mem ..)
  case coldReset => exact execColdReset_wf h
  case functionLevelReset => exact execFunctionLevelReset_wf h
  case powerUp => exact execPowerUp_wf h
  case illegalBundle => exact wf_of_mem_eq h (execIllegalBundle_mem ..)
  case illegalInstruction => exact wf_of_mem_eq h (execIllegalInstruction_mem ..)
  case trapAtBoundary => exact wf_of_mem_eq h (execTrapAtBoundary_mem ..)
  case contextStopped => exact execContextStopped_wf h
  case uliEntry => exact wf_of_mem_eq h (execUliEntry_mem ..)
  case strikeRollback => exact wf_of_mem_eq h (execStrikeRollback_mem ..)
  case twinCompare => exact wf_of_mem_eq h (execTwinCompare_mem ..)
  case currentLimitFreezeCycle => exact wf_of_mem_eq h (execCurrentLimitFreezeCycle_mem ..)
  case droopCrossing => exact wf_of_mem_eq h (execDroopCrossing_mem ..)
  case waitingWake => exact wf_of_mem_eq h (execWaitingWake_mem ..)
  case waittWake => exact wf_of_mem_eq h (execWaittWake_mem ..)
  case mwaitTimeout => exact wf_of_mem_eq h (execMwaitTimeout_mem ..)
  case monitorTrigger => exact wf_of_mem_eq h (execMonitorTrigger_mem ..)
  case tbwaitReread => exact wf_of_mem_eq h (execTbwaitReread_mem ..)
  case dsyncPhaseComplete => exact wf_of_mem_eq h (execDsyncPhaseComplete_mem ..)
  case loadComplete => exact wf_of_mem_eq h (execLoadComplete_mem ..)
  case storeApplied => exact execStoreApplied_wf h
  case bauOperation => exact execBauOperation_wf h
  case uncorrectableError => exact wf_of_mem_eq h (execUncorrectableError_mem ..)
  case patrolScrub => exact wf_of_mem_eq h (execPatrolScrub_mem ..)
  case calvedRetry => exact execCalvedRetry_wf h
  case pageWalk => exact wf_of_mem_eq h (execPageWalk_mem ..)
  case invalComplete => exact execInvalComplete_wf h
  case copyHead => exact execCopyHead_wf h
  case copyPieceStart => exact execCopyPieceStart_wf h
  case copyPieceComplete => exact execCopyPieceComplete_wf h
  case fillComplete => exact execFillComplete_wf h
  case mmaExecute => exact wf_of_mem_eq h (execMmaExecute_mem ..)
  case mmaComplete => exact wf_of_mem_eq h (execMmaComplete_mem ..)
  case mcommitDrain => exact wf_of_mem_eq h (execMcommitDrain_mem ..)
  case mzeroExecute => exact wf_of_mem_eq h (execMzeroExecute_mem ..)
  case mstabApply => exact wf_of_mem_eq h (execMstabApply_mem ..)
  case aeDigestExchange => exact wf_of_mem_eq h (execAeDigestExchange_mem ..)
  case amapRegister => exact wf_of_mem_eq h (execAmapRegister_mem ..)
  case aeExchangeChunk => exact execAeExchangeChunk_wf h
  case aeGateChunk => exact execAeGateChunk_wf h
  case aeCommandComplete => exact execAeCommandComplete_wf h
  case portGeneratorCycle => exact wf_of_mem_eq h (execPortGeneratorCycle_mem ..)
  case portInputArrival => exact wf_of_mem_eq h (execPortInputArrival_mem ..)
  case pflushComplete => exact wf_of_mem_eq h (execPflushComplete_mem ..)
  case cqAgeing => exact execCqAgeing_wf h
  case cqPop => exact execCqPop_wf h
  case cqWorkTake => exact execCqWorkTake_wf h
  case cqPushAccept => exact execCqPushAccept_wf h
  case cqSpillRefill => exact wf_of_mem_eq h (execCqSpillRefill_mem ..)
  case retireJoinUpdate => exact execRetireJoinUpdate_wf h
  case haltRetire => exact wf_of_mem_eq h (execHaltRetire_mem ..)
  case channelVectorArrival => exact execChannelVectorArrival_wf h
  case channelCreditReturn => exact execChannelCreditReturn_wf h
  case channelDeclarationNotice => exact execChannelDeclarationNotice_wf h
  case channelCloseNotice => exact execChannelCloseNotice_wf h
  case driftRingReplay => exact wf_of_mem_eq h (execDriftRingReplay_mem ..)
  case flitReceive => exact wf_of_mem_eq h (execFlitReceive_mem ..)
  case replayRequest => exact wf_of_mem_eq h (execReplayRequest_mem ..)
  case ackTimeout => exact wf_of_mem_eq h (execAckTimeout_mem ..)
  case transactionArrival => exact execTransactionArrival_wf h
  case laneFailure => exact wf_of_mem_eq h (execLaneFailure_mem ..)
  case linkRetrainComplete => exact wf_of_mem_eq h (execLinkRetrainComplete_mem ..)
  case rerouteTimeout => exact execRerouteTimeout_wf h
  case ptpSync => exact wf_of_mem_eq h (execPtpSync_mem ..)
  case tailDoorbell => exact wf_of_mem_eq h (execTailDoorbell_mem ..)
  case rbaseWrite => exact wf_of_mem_eq h (execRbaseWrite_mem ..)
  case rctlWrite => exact wf_of_mem_eq h (execRctlWrite_mem ..)
  case rstatClear => exact wf_of_mem_eq h (execRstatClear_mem ..)
  case ringFetch => exact wf_of_mem_eq h (execRingFetch_mem ..)
  case gang => exact execGang_wf h
  case task => exact execTask_wf h
  case callPacket => exact execCallPacket_wf h
  case retPacket => exact execRetPacket_wf h
  case joinPacket => exact execJoinPacket_wf h
  case fencePacket => exact execFencePacket_wf h
  case fenceReread => exact execFenceReread_wf h
  case wakeAt => exact execWakeAt_wf h
  case wakeAtRelease => exact execWakeAtRelease_wf h
  case inval => exact wf_of_mem_eq h (execInval_mem ..)
  case ckpt => exact wf_of_mem_eq h (execCkpt_mem ..)
  case ckptCopy => exact execCkptCopy_wf h
  case ckptComplete => exact execCkptComplete_wf h
  case launchGrant => exact wf_of_mem_eq h (execLaunchGrant_mem ..)
  case prebudExpiry => exact wf_of_mem_eq h (execPrebudExpiry_mem ..)
  case preemptStopped => exact wf_of_mem_eq h (execPreemptStopped_mem ..)
  case contextSaveComplete => exact execContextSaveComplete_wf h
  case preemptedResume => exact execPreemptedResume_wf h
  case launchRelease => exact execLaunchRelease_wf h
  case launchCompletion => exact execLaunchCompletion_wf h
  case leaseRenewal => exact wf_of_mem_eq h (execLeaseRenewal_mem ..)
  case leaseExpiry => exact wf_of_mem_eq h (execLeaseExpiry_mem ..)
  case ctxResume => exact execCtxResume_wf h
  case ctxKill => exact execCtxKill_wf h
  case ctxDump => exact execCtxDump_wf h
  case mailboxAttest => exact wf_of_mem_eq h (execMailboxAttest_mem ..)
  case attestReportDone => exact wf_of_mem_eq h (execAttestReportDone_mem ..)
  case calvordWrite => exact wf_of_mem_eq h (execCalvordWrite_mem ..)
  case replicaEntryWrite => exact wf_of_mem_eq h (execReplicaEntryWrite_mem ..)
  case replicaSeedingDone => exact execReplicaSeedingDone_wf h
  case asidTableWrite => exact wf_of_mem_eq h (execAsidTableWrite_mem ..)
  case msixUnmask => exact wf_of_mem_eq h (execMsixUnmask_mem ..)
  case registerWrite => exact execRegisterWrite_wf h
  case hostWindowAccess => exact execHostWindowAccess_wf h
  case hostRegspaceAccess => exact execHostRegspaceAccess_wf h
  case mctpSetEndpointId => exact wf_of_mem_eq h (execMctpSetEndpointId_mem ..)
  case mctpGetEndpointId => exact wf_of_mem_eq h (execMctpGetEndpointId_mem ..)
  case mctpGetVersionSupport => exact wf_of_mem_eq h (execMctpGetVersionSupport_mem ..)
  case mctpGetMessageTypeSupport => exact wf_of_mem_eq h (execMctpGetMessageTypeSupport_mem ..)
  case mctpUnsupportedCommand => exact wf_of_mem_eq h (execMctpUnsupportedCommand_mem ..)
  case mgmtAttestationRequest => exact wf_of_mem_eq h (execMgmtAttestationRequest_mem ..)
  case mgmtReportRefresh => exact wf_of_mem_eq h (execMgmtReportRefresh_mem ..)
  case vinSample => exact wf_of_mem_eq h (execVinSample_mem ..)
  case pfAssert => exact wf_of_mem_eq h (execPfAssert_mem ..)
  case pfDeassert => exact wf_of_mem_eq h (execPfDeassert_mem ..)
  case calveNextDie => exact wf_of_mem_eq h (execCalveNextDie_mem ..)
  case calvedSeqStop => exact wf_of_mem_eq h (execCalvedSeqStop_mem ..)
  case dieRetention => exact wf_of_mem_eq h (execDieRetention_mem ..)
  case uncalve => exact wf_of_mem_eq h (execUncalve_mem ..)
  case uncalveComplete => exact execUncalveComplete_wf h
  case freezeEnginesStopped => exact wf_of_mem_eq h (execFreezeEnginesStopped_mem ..)
  case freezeDrain => exact execFreezeDrain_wf h
  case moraineWrite => exact execMoraineWrite_wf h
  case moraineSeal => exact execMoraineSeal_wf h
  case peerFreezeNotice => exact wf_of_mem_eq h (execPeerFreezeNotice_mem ..)
  case peerRejoin => exact wf_of_mem_eq h (execPeerRejoin_mem ..)
  case thawCommand => exact wf_of_mem_eq h (execThawCommand_mem ..)
  case thawDtimeLock => exact execThawDtimeLock_wf h
  case thawContextDecide => exact execThawContextDecide_wf h
  case fabricRejoin => exact execFabricRejoin_wf h
  case chargeMeasure => exact wf_of_mem_eq h (execChargeMeasure_mem ..)
  case hibRecheck => exact wf_of_mem_eq h (execHibRecheck_mem ..)
  case thermalSample => exact wf_of_mem_eq h (execThermalSample_mem ..)
  case powerTokenMarket => exact wf_of_mem_eq h (execPowerTokenMarket_mem ..)
  case opPointApply => exact wf_of_mem_eq h (execOpPointApply_mem ..)
  case clusterGate => exact execClusterGate_wf h
  case clusterUngate => exact execClusterUngate_wf h
  case descriptorUnitComplete => exact execDescriptorUnitComplete_wf h
  case akvinLinkFirmwareReset => exact wf_of_mem_eq h (execAkvinLinkFirmwareReset_mem ..)
  case dtimeHoldover => exact wf_of_mem_eq h (execDtimeHoldover_mem ..)
  case powerLost => exact execPowerLost_wf h

end Sys2Proof.Machine
end

section
/-! PROOF. Every step keeps memory canonical. -/
namespace Sys2Proof.Machine
open Sys2Proof

theorem exec_next_wf {s t : State} {i} (h : s.mem.wf = true) (he : exec i s = .next t) : t.mem.wf = true := by simpa [he] using exec_wf i h

theorem run_wf {s : State} (h : s.mem.wf = true) (i a) : (run i a s).mem.wf = true := by
  obtain ⟨t, ht⟩ : ∃ t, exec i { s with args := a } = .next t := execAnswers i _
  rw [run, ht]
  exact exec_next_wf (s := { s with args := a }) h ht

theorem runSlot_wf {s : State} (h : s.mem.wf = true) (x) : (runSlot s x).mem.wf = true := by
  unfold runSlot
  split
  · next i _ => exact exec_wf i (s := s.modIssue (atSlot x)) h
  · exact h

/-- The memory of a turn's state is canonical, where the turn carries a state. -/
def Turn.MemWf : Turn → Prop
  | .idle => True
  | .waits t | .taken t | .trapped t => t.mem.wf = true
  | .issued t _ _ => t.mem.wf = true

theorem closeTurn_memWf {s t : State} (hs : s.mem.wf = true) (ht : t.mem.wf = true) (n items) : (closeTurn s t n items).MemWf := by
  unfold closeTurn
  (repeat' split) <;> simp [Turn.MemWf, hs, ht]

theorem tryBundle_memWf {s : State} (h : s.mem.wf = true) (n) : (tryBundle s n).MemWf := by
  have hb : ∀ words, (beginIssue s n words).mem.wf = true := by simp [h]
  unfold tryBundle
  dsimp only
  split
  · refine closeTurn_memWf h ?_ ..
    split
    · exact run_wf (hb _) ..
    · exact run_wf (hb _) ..
    · simp [h]
    · simp [h]
  · exact closeTurn_memWf h (foldl_wf (fun t x ht => runSlot_wf ht x) _ (by simp [h])) ..

theorem turnOf_memWf {s : State} (h : s.mem.wf = true) (n) : (turnOf s n).MemWf := by
  have hb := tryBundle_memWf h n
  unfold turnOf
  dsimp only
  generalize tryBundle s n = turn at hb ⊢
  (repeat' split) <;> simp_all [Turn.MemWf, run_wf]

theorem pick_wf {s : State} (h : s.mem.wf = true) (l) : (pick s l).1.mem.wf = true := by
  induction l generalizing s with
  | nil => exact h
  | cons n l ih =>
    have hn := turnOf_memWf h n
    unfold pick
    split <;> simp_all [Turn.MemWf]
    split <;> simp_all

theorem coreCycle_wf {s : State} (h : s.mem.wf = true) (g) : (coreCycle s g).mem.wf = true := by
  have hp := pick_wf h (issueOrder s g)
  unfold coreCycle
  dsimp only
  generalize pick s (issueOrder s g) = p at hp ⊢
  split
  · exact h
  · obtain ⟨t, _ | ⟨n, w, v⟩⟩ := p
    · exact wf_of_ite (run_wf h ..) hp
    · exact wf_of_ite (run_wf h ..) hp

theorem firstMove_wf {s t : State} (h : s.mem.wf = true) {l} (ht : firstMove s l = some t) : t.mem.wf = true := by
  induction l with
  | nil => cases ht
  | cons e l ih =>
    unfold firstMove at ht
    dsimp only at ht
    split at ht
    · exact ih ht
    · obtain rfl := Option.some.inj ht
      exact run_wf h ..

theorem selfMove_wf {s : State} (h : s.mem.wf = true) : (selfMove s).mem.wf = true := by
  unfold selfMove
  split
  · next g _ => exact coreCycle_wf (s := { s with turn := g + 1 }) h g
  · dsimp only
    split
    · next t ht => exact firstMove_wf (s := { s with turn := 0 }) h ht
    · rwa [tick_mem]

theorem moveOnce_wf {s t : State} (h : s.mem.wf = true) {m} (ht : moveOnce m s = .next t) : t.mem.wf = true := by
  cases m with
  | event i a => exact exec_next_wf (s := { s with args := a }) h ht
  | issue g =>
    obtain rfl := Host.Outcome.next.inj ht
    exact coreCycle_wf h g
  | tick ns =>
    obtain rfl := Host.Outcome.next.inj ht
    rwa [tick_mem]

/-- Settles O7: a step is one move, of the schedule or of the machine itself, and each of its functions either leaves memory alone or changes it by
the writes, fills and filters of the memory laws, which keep the form. -/
theorem stepKeepsMemory : Obligations.StepKeepsMemory := by
  unfold Obligations.StepKeepsMemory
  intro s t h ht
  unfold step at ht
  split at ht
  · next m rest _ =>
    split at ht
    · cases ht
    · exact moveOnce_wf (s := { s with schedule := rest }) h ht
  · split at ht
    · cases ht
    · obtain rfl := Host.Outcome.next.inj ht
      exact selfMove_wf h

end Sys2Proof.Machine
end

section
/-! SUPPORT. Accesses in flight: the end of one, what an acquire changes of those behind it, and its list on the way. -/
namespace Sys2Proof.Machine
open Sys2Proof

/-! ### Accesses in flight (spec/19 R358) -/

section
variable {s : State} {n id : Nat} {a : Access} (h : accOf s n id = some a)
include h

theorem accOf_id : a.id = id := by simpa using List.find?_some h
theorem accOf_any : (s.seq n).acc.any (fun x => x.id = id) = true := List.any_eq_true.2 ⟨a, List.mem_of_find?_eq_some h, by simp [accOf_id h]⟩

end

theorem accOf_map {s t : State} {n id : Nat} {a : Access} {g : Access → Access} (h : accOf s n id = some a) (hid : ∀ y, (g y).id = y.id)
    (ht : (t.seq n).acc = (s.seq n).acc.map g) : accOf t n id = some (g a) := by
  rw [accOf] at h
  rw [accOf, ht, List.find?_map]
  simp [hid, h]

/-- Whether a load's turn has come is a matter of the accesses before it. -/
theorem loadTurn_map {q r : Seq} {id : Nat} {g : Access → Access} (hid : ∀ y, (g y).id = y.id)
    (hg : ∀ y, y.id ≠ id → g y = { y with home := (g y).home }) (hr : r.acc = q.acc.map g) : loadTurn r id = loadTurn q id := by
  rw [loadTurn, loadTurn, hr]
  congr 1
  induction q.acc with
  | nil => rfl
  | cons y l ih =>
    by_cases hy : y.id = id
    · simp [hid, hy]
    · have hk : (g y).kind = y.kind := by rw [hg y hy]
      have ha : (g y).acq = y.acq := by rw [hg y hy]
      have hgy : (g y).id ≠ id := by rwa [hid]
      rw [List.map_cons, List.takeWhile_cons_of_pos (by simpa using hgy), List.takeWhile_cons_of_pos (by simpa using hy), List.any_cons, List.any_cons,
        hk, ha, ih]

theorem modAcc_seq (s : State) (n id : Nat) (f : Access → Access) :
    (modAcc s n id f).seq n = { s.seq n with acc := (s.seq n).acc.map fun a => if a.id = id then f a else a } := modBoth_seq s n _
theorem modAcc_seq_other (s : State) {n m : Nat} (id : Nat) (f : Access → Access) (h : m ≠ n) : (modAcc s n id f).seq m = s.seq m :=
  modBoth_seq_other s _ h

theorem ctr_lower (q : Seq) (c : Ctr) : (q.lower c).ctr c = q.ctr c - 1 := by cases c <;> rfl

theorem finish_eq {s : State} {n id : Nat} {a : Access} (h : accOf s n id = some a) :
    finish s n id = pruneOrders (modBoth s n (withoutAcc a id)) n := by
  rw [accOf] at h
  rw [finish, h]
  rfl
theorem pruneOrders_seq (s : State) (n : Nat) : (pruneOrders s n).seq n = { s.seq n with order := ((pruneOrders s n).seq n).order } := by
  rw [pruneOrders, State.seq_modSeq_same]
theorem finish_seq {s : State} {n id : Nat} {a : Access} (h : accOf s n id = some a) :
    (finish s n id).seq n = { withoutAcc a id (s.seq n) with order := ((finish s n id).seq n).order } := by
  rw [finish_eq h, pruneOrders_seq, modBoth_seq]
theorem withoutAcc_acc (a : Access) (id : Nat) (q : Seq) : (withoutAcc a id q).acc = q.acc.filter fun x => x.id ≠ id := by
  unfold withoutAcc
  split
  · rfl
  · next hany =>
    rw [Bool.not_eq_true, List.any_eq_false] at hany
    exact (List.filter_eq_self.2 fun x hx => by simpa using hany x hx).symm
theorem finish_acc {s : State} {n id : Nat} {a : Access} (h : accOf s n id = some a) :
    ((finish s n id).seq n).acc = (s.seq n).acc.filter fun x => x.id ≠ id := by
  rw [finish_seq h, ← withoutAcc_acc a]
theorem finish_ctr {s : State} {n id : Nat} {a : Access} (h : accOf s n id = some a) :
    ((finish s n id).seq n).ctr a.kind.ctr = (s.seq n).ctr a.kind.ctr - 1 := by
  rw [finish_seq h, withoutAcc, if_pos (accOf_any h), ← ctr_lower]
  cases a.kind.ctr <;> rfl
theorem finish_seq_other (s : State) {n m : Nat} (id : Nat) (h : m ≠ n) : (finish s n id).seq m = s.seq m := by
  unfold finish
  split
  · rfl
  · exact (State.seq_modSeq_other _ _ _ _ h).trans (modBoth_seq_other s _ h)
theorem finish_sameBytes (s : State) (n id : Nat) : SameBytes s (finish s n id) := by
  unfold finish
  split
  · exact .refl s
  · exact ⟨rfl, rfl, fun _ => rfl⟩

/-- Where the list and the counter are still those of `s`, the end of an access is that of one of `s`. -/
theorem over_finish {s u : State} {n id : Nat} {a : Access} {c : Ctr} (h : accOf u n id = some a) (hc : a.kind.ctr = c)
    (hacc : (u.seq n).acc = (s.seq n).acc) (hctr : (u.seq n).ctr c = (s.seq n).ctr c) : Over s (finish u n id) n id c := by
  have hfin := hacc ▸ finish_acc h
  refine ⟨fun x hx => ?_, fun x hx hid => ?_, by rw [← hctr, ← hc, finish_ctr h]⟩
  · rw [hfin, List.mem_filter] at hx
    exact ⟨by simpa using hx.2, hx.1⟩
  · rw [hfin, List.mem_filter]
    exact ⟨hx, by simpa using hid⟩

/-- The same where later loads of the list may be read again. -/
theorem overAcq_finish {s u : State} {n id : Nat} {a : Access} {c : Ctr} {g : Access → Access} (h : accOf u n id = some a) (hc : a.kind.ctr = c)
    (hid : ∀ y, (g y).id = y.id) (hg : ∀ y, y.id ≠ id → g y = { y with home := (g y).home })
    (hacc : (u.seq n).acc = (s.seq n).acc.map g) (hctr : (u.seq n).ctr c = (s.seq n).ctr c) : OverAcq s (finish u n id) n id c := by
  have hfin := hacc ▸ finish_acc h
  refine ⟨fun x hx => ?_, fun y hy hne => ?_, by rw [← hctr, ← hc, finish_ctr h]⟩
  · rw [hfin, List.mem_filter, List.mem_map] at hx
    obtain ⟨⟨y, hy, rfl⟩, hne⟩ := hx
    have hne : (g y).id ≠ id := by simpa using hne
    exact ⟨hne, y, hy, (hg y (hid y ▸ hne)).symm⟩
  · refine ⟨g y, ?_, (hg y hne).symm⟩
    rw [hfin, List.mem_filter]
    exact ⟨List.mem_map_of_mem hy, by simpa [hid] using hne⟩

/-! ### Acquires (spec/10 R195, R198) -/

/-- From `s` to `t` later loads of the list of sequencer `n` than `id` may be read again, and clocks, requests to other modules and
snapshots differ. -/
structure Rereads (s t : State) (n id : Nat) : Prop where
  mem : t.mem = s.mem
  keyOf : t.keyOf = s.keyOf
  poison : t.poison = s.poison
  updates : t.updates = s.updates
  cores : t.cores = s.cores
  replicas : t.sys.replicas = s.sys.replicas
  other : ∀ m, m ≠ n → t.seq m = s.seq m
  own : ∃ g : Access → Access, (∀ y, g y = { y with home := (g y).home }) ∧ (∀ y, y.id = id → g y = y) ∧
    t.seq n = { s.seq n with acc := (s.seq n).acc.map g }

/-- Where the sequencer has its list yet, nothing is read again. -/
theorem Rereads.of_seqs {s t : State} (n id : Nat) (hm : t.mem = s.mem) (hk : t.keyOf = s.keyOf) (hp : t.poison = s.poison) (hu : t.updates = s.updates)
    (hc : t.cores = s.cores) (hr : t.sys.replicas = s.sys.replicas) (hs : t.seqs = s.seqs) : Rereads s t n id := by
  have hseq : ∀ m, t.seq m = s.seq m := fun m => by rw [State.seq, State.seq, hs]
  exact ⟨hm, hk, hp, hu, hc, hr, fun m _ => hseq m, fun y => y, fun _ => rfl, fun _ _ => rfl, by rw [hseq, List.map_id']⟩

theorem Rereads.trans {s t u : State} {n id : Nat} (h : Rereads s t n id) (k : Rereads t u n id) : Rereads s u n id := by
  obtain ⟨g, hg, hgid, hown⟩ := h.own
  obtain ⟨j, hj, hjid, kown⟩ := k.own
  refine ⟨k.mem.trans h.mem, k.keyOf.trans h.keyOf, k.poison.trans h.poison, k.updates.trans h.updates, k.cores.trans h.cores,
    k.replicas.trans h.replicas, fun m hm => (k.other m hm).trans (h.other m hm), j ∘ g, fun y => ?home, fun y hy => ?same, ?own⟩
  case home =>
    rw [Function.comp_apply, hj (g y)]
    exact congrArg (fun x : Access => { x with home := (j (g y)).home }) (hg y)
  case same => rw [Function.comp_apply, hgid y hy, hjid y hy]
  case own => rw [kown, hown, List.map_map]

theorem rereads_foldl {β : Type} {f : State → β → State} {n id : Nat} (l : List β) (h : ∀ s, ∀ x ∈ l, Rereads s (f s x) n id) (s : State) :
    Rereads s (l.foldl f s) n id :=
  List.foldlRecOn (motive := fun t => Rereads s t n id) l f (.of_seqs n id rfl rfl rfl rfl rfl rfl rfl) fun t ht x hx => ht.trans (h t x hx)

/-- An access that is not over leaves its list, but for itself. -/
theorem modAcc_rereads (s : State) {n id k : Nat} (hk : k ≠ id) :
    Rereads s (modAcc (dropRemote s k) n k fun y => { y with home := false }) n id := by
  refine ⟨rfl, rfl, rfl, rfl, rfl, rfl, fun m hm => modAcc_seq_other _ _ _ hm, fun y => if y.id = k then { y with home := false } else y,
    fun y => ?_, fun y hy => if_neg (by omega), modAcc_seq _ _ _ _⟩
  dsimp only
  split <;> rfl

theorem acquired_rereads (s : State) (n : Nat) (a : Access) : Rereads s (acquired s n a) n a.id := by
  have hmerged := fun l : List (Nat × Nat) => rereads_foldl (n := n) (id := a.id) l
    (fun s p _ => (.of_seqs n a.id rfl rfl rfl rfl rfl rfl rfl : Rereads s (mergeClock s n p.1 p.2) n a.id)) s
  unfold acquired
  split
  · exact .of_seqs n _ rfl rfl rfl rfl rfl rfl rfl
  · dsimp only
    split
    · exact hmerged _
    · refine (hmerged _).trans (rereads_foldl _ (fun s x hx => modAcc_rereads s ?_) _)
      have := (List.mem_filter.1 hx).2
      simp only [Bool.and_eq_true, decide_eq_true_eq] at this
      omega

/-! ### An access and its list on the way to its end -/

/-- From `s` to `t` the list of sequencer `n` goes through `g`, which changes access `id` and what may be read again; of the rest of the
sequencer at most the watch triggers. -/
structure Alters (s t : State) (n id : Nat) (g : Access → Access) : Prop where
  ids : ∀ y, (g y).id = y.id
  home : ∀ y, y.id ≠ id → g y = { y with home := (g y).home }
  own : t.seq n = { s.seq n with acc := (s.seq n).acc.map g, watch := (t.seq n).watch }

theorem Alters.of_watch {s t : State} {n : Nat} (id : Nat) (h : t.seq n = { s.seq n with watch := (t.seq n).watch }) : Alters s t n id fun y => y :=
  ⟨fun _ => rfl, fun _ _ => rfl, by rw [List.map_id']; exact h⟩
theorem Alters.of_seqs {s t : State} {n : Nat} (id : Nat) (h : t.seqs = s.seqs) : Alters s t n id fun y => y :=
  .of_watch id (by simp only [State.seq, h])

/-- The change of one access of a list. -/
def onlyAt (id : Nat) (f : Access → Access) (y : Access) : Access := if y.id = id then f y else y
theorem onlyAt_same {id : Nat} {a : Access} (h : a.id = id) (f : Access → Access) : onlyAt id f a = f a := if_pos h

theorem alters_modAcc (s : State) (n id : Nat) {f : Access → Access} (hf : ∀ y, (f y).id = y.id) :
    Alters s (modAcc s n id f) n id (onlyAt id f) := by
  refine ⟨fun y => ?_, fun y hy => by rw [onlyAt, if_neg hy], by rw [modAcc_seq]; rfl⟩
  unfold onlyAt
  split
  · exact hf y
  · rfl

theorem Rereads.alters {s t : State} {n id : Nat} (h : Rereads s t n id) : ∃ g, Alters s t n id g ∧ ∀ y, y.id = id → g y = y := by
  obtain ⟨g, hg, hid, hown⟩ := h.own
  refine ⟨g, ⟨fun y => by rw [hg y], fun y _ => hg y, by rw [hown]⟩, hid⟩

section
variable {s t : State} {n id : Nat} {g : Access → Access} (h : Alters s t n id g)
include h

theorem Alters.trans {u : State} {j : Access → Access} (k : Alters t u n id j) : Alters s u n id (j ∘ g) := by
  refine ⟨fun y => (k.ids _).trans (h.ids y), fun y hy => ?_, ?_⟩
  · have hj := k.home (g y) (by rwa [h.ids])
    rw [Function.comp_apply, hj]
    exact congrArg (fun x : Access => { x with home := (j (g y)).home }) (h.home y hy)
  · rw [k.own, h.own, List.map_map]

theorem Alters.then_seqs {u : State} (hu : u.seqs = t.seqs) : Alters s u n id g := h.trans (.of_seqs id hu)

theorem Alters.acc : (t.seq n).acc = (s.seq n).acc.map g := by rw [h.own]
theorem Alters.ctr (c : Ctr) : (t.seq n).ctr c = (s.seq n).ctr c := by rw [h.own]; cases c <;> rfl
theorem Alters.winBase : (t.seq n).winBase = (s.seq n).winBase := by rw [h.own]
theorem Alters.loadTurn : loadTurn (t.seq n) id = loadTurn (s.seq n) id := loadTurn_map h.ids h.home h.acc
theorem Alters.accOf {a : Access} (ha : accOf s n id = some a) : accOf t n id = some (g a) := accOf_map ha h.ids h.acc
theorem Alters.overAcq {a : Access} {c : Ctr} (ha : Machine.accOf s n id = some a) (hc : (g a).kind.ctr = c) : OverAcq s (finish t n id) n id c :=
  overAcq_finish (h.accOf ha) hc h.ids h.home h.acc (h.ctr c)

end

/-! ### Loads that are written (spec/11 R211) -/

section
variable {s : State} {n id : Nat} {b : Access} {d : Dest} {w : Nat} {sg : Bool} (hb : accOf s n id = some b) (hk : b.kind = .load d w sg)
  (hh : b.home = true)
include hb hk hh

theorem writeLoad_turn (ht : loadTurn (s.seq n) id = true) : writeLoad s n id = finish (deliverBoth s n id d b.data) n id := by
  simp [writeLoad, hb, hk, hh, ht, accOf_id hb]
omit hh in
theorem writeLoad_early (ht : loadTurn (s.seq n) id = false) : writeLoad s n id = s := by
  simp [writeLoad, hb, hk, ht]

end

theorem deliverBoth_bytes (s : State) (n id o l v : Nat) : (deliverBoth s n id (.bytes o l) v).seqs = s.seqs ∧
    ((deliverBoth s n id (.bytes o l) v).core (coreOf n)).regs = (s.core (coreOf n)).regs.write ((s.seq n).winBase + o) l v ∧
    ∀ g, g ≠ coreOf n → (deliverBoth s n id (.bytes o l) v).core g = s.core g :=
  ⟨State.writeWin_seqs s n o l v, State.writeWin_regs s n o l v, fun _ hg => State.writeWin_core_other s n o l v hg⟩

/-- A load whose value is fixed and whose turn has come ends with its bytes in its register. -/
theorem Alters.delivers {s t : State} {n id o l w : Nat} {sg : Bool} {g : Access → Access} {a : Access} (h : Alters s t n id g)
    (ha : Machine.accOf s n id = some a) (hregs : ∀ j, (t.core j).regs = (s.core j).regs) (hk : (g a).kind = .load (.bytes o l) w sg)
    (hh : (g a).home = true) (ht : Machine.loadTurn (s.seq n) id = true) :
    OverAcq s (writeLoad t n id) n id .ld ∧
      ((writeLoad t n id).core (coreOf n)).regs = (s.core (coreOf n)).regs.write ((s.seq n).winBase + o) l (g a).data ∧
      (∀ j, j ≠ coreOf n → ((writeLoad t n id).core j).regs = (s.core j).regs) ∧ ∀ m, m ≠ n → (writeLoad t n id).seq m = t.seq m := by
  obtain ⟨hseqs, hown, hother⟩ := deliverBoth_bytes t n id o l (g a).data
  obtain ⟨-, -, hfin⟩ := finish_sameBytes (deliverBoth t n id (.bytes o l) (g a).data) n id
  rw [writeLoad_turn (h.accOf ha) hk hh (h.loadTurn.trans ht)]
  refine ⟨(h.then_seqs hseqs).overAcq ha (by rw [hk]; rfl), ?_, fun j hj => ?_, fun m hm => ?_⟩
  · rw [hfin, hown, hregs, h.winBase]
  · rw [hfin, hother j hj, hregs]
  · rw [finish_seq_other _ _ hm, State.seq, hseqs, State.seq]

end Sys2Proof.Machine
end

section
/-! SUPPORT. Plain bytes: what loads of them read, and what writes of them change at their home. -/
namespace Sys2Proof.Machine
open Sys2Proof

/-! ### Plain bytes read (spec/09 R181, spec/17 R327) -/

theorem bytesUnder_congr {s t : State} (hm : t.mem = s.mem) (hk : t.keyOf = s.keyOf) (key n pa : Nat) :
    bytesUnder t key n pa = bytesUnder s key n pa := by
  induction n generalizing pa with
  | zero => rfl
  | succ n ih => rw [bytesUnder, bytesUnder, ih, byteUnder, byteUnder, hm, hk]

theorem inRegs_below {pa : Nat} (h : pa < 0x030000000000) : inRegs pa = false := by simp [inRegs]; omega

theorem physRead_congr {s t : State} (hm : t.mem = s.mem) (hk : t.keyOf = s.keyOf) {pa : Nat} (hr : pa < 0x030000000000) (len key : Nat) :
    physRead t pa len key = physRead s pa len key := by
  rw [physRead, physRead, inRegs_below hr, plainRead, plainRead, bytesUnder_congr hm hk, sameKey, sameKey, hm, hk]
  rfl

theorem copyAddr_plain {s : State} {pa : Nat} (h : replicaEntry s pa = none) (d frame : Nat) (atomic : Bool) : copyAddr s d pa frame atomic = pa := by
  simp [copyAddr, h]

theorem lines_within {pa len : Nat} (h0 : 0 < len) (h : pa % 128 + len ≤ 128) (k : Nat) : lines (k + 2) pa len = [(pa, len)] := by
  have hmin : Nat.min len (128 - pa % 128) = len := Nat.min_eq_left (by omega)
  rw [lines, if_neg (by omega), hmin]
  dsimp only
  rw [Nat.sub_self, lines, if_pos rfl]

section
variable {s : State} {x : Seg} (hx : PlainSeg s x)
include hx

theorem PlainSeg.noReplica : replicaEntry s (localPa x.pa) = none := by
  obtain ⟨-, -, hlen, -, hrep, -⟩ := hx
  exact hrep 0 hlen
theorem PlainSeg.below : localPa x.pa < 0x030000000000 := by
  obtain ⟨-, -, hlen, haddr, -⟩ := hx
  omega

/-- Nothing that a load reads of plain bytes is poisoned. -/
theorem loadPoisoned_plain (g : Nat) {path : Path} (fresh : Bool) (hl : path = .s → (localPa x.pa) % 128 + x.len ≤ 128) :
    loadPoisoned s g path [x] fresh = none := by
  have hrep := hx.noReplica
  obtain ⟨-, -, hlen, -, -, -, hpoison, -⟩ := hx
  have hparts : ∀ r ∈ memParts s g path x fresh, r = (localPa x.pa, x.len) := by
    intro r hr
    unfold memParts at hr
    dsimp only at hr
    split at hr
    · next hs =>
      rw [lines_within hlen (hl (by simp at hs; exact hs.1))] at hr
      exact List.mem_singleton.1 (List.mem_filter.1 hr).1
    · exact List.mem_singleton.1 hr
  have hclean : s.poison.filter (fun p => meet (localPa x.pa) x.len p (granule p)) = [] := by
    rw [poisoned, List.any_eq_false] at hpoison
    exact List.filter_eq_nil_iff.2 hpoison
  have hnone : (((memParts s g path x fresh).map fun r =>
      (s.poison.filter fun p => meet (localPa x.pa + (r.1 - localPa x.pa)) r.2 p (granule p)).map fun p => x.va + (p - localPa x.pa)).flatten) = [] := by
    rw [List.flatten_eq_nil_iff]
    intro l hmem
    obtain ⟨r, hr, rfl⟩ := List.mem_map.1 hmem
    rw [hparts r hr, Nat.sub_self, Nat.add_zero, hclean, List.map_nil]
  rw [loadPoisoned, List.findSome?_cons, List.findSome?_nil]
  simp only [loadAddr, copyAddr_plain hrep, hnone]
  rfl

theorem loadSegs_plain (g : Nat) {path : Path} (hp : path ≠ .s) (fresh : Bool) : (loadSegs s g path [x] fresh).2 = physRead s (localPa x.pa) x.len x.key := by
  have hrep := hx.noReplica
  obtain ⟨-, hat, -⟩ := hx
  simp [loadSegs, loadSeg, hp, copyAddr_plain hrep, hat]

/-- A load of one line reads the L1's copy where it hits, and memory where it does not. -/
theorem lineValue_eq (g : Nat) (fresh : Bool) : lineValue s g x fresh =
    (lineHit s g x fresh (localPa x.pa)).elim (physRead s (localPa x.pa) x.len x.key) fun l => lineBytes l (localPa x.pa) x.len := by
  obtain ⟨hfab, -⟩ := hx
  have htag : lineTag x (localPa x.pa) = localPa x.pa / 128 * 128 := by simp [lineTag, hfab]
  rw [lineHit, l1Find, htag]
  unfold lineValue
  dsimp only
  change (match (if cacheable x && !fresh then _ else none) with | some l => lineBytes l _ _ | none => _) = _
  split <;> next hl => rw [hl]; rfl

theorem loadLine_plain (g : Nat) (fresh : Bool) : (loadLine s g x fresh (localPa x.pa) x.len).2 = lineValue s g x fresh := by
  rw [lineValue_eq hx]
  unfold loadLine
  simp only [copyAddr_plain hx.noReplica]
  split
  · split
    · next hl => rw [hl]; rfl
    · next hl => rw [hl]; rfl
  · next hc => rw [lineHit, if_neg hc]; rfl

end

theorem SameBytes.withFree {s t : State} (h : SameBytes s t) (k : Nat) : SameBytes s { t with free := k } := h
theorem loadLine_frame (s : State) (g : Nat) (x : Seg) (fresh : Bool) (pa len : Nat) :
    SameBytes s (loadLine s g x fresh pa len).1 ∧ (loadLine s g x fresh pa len).1.seqs = s.seqs := by
  unfold loadLine
  dsimp only
  split
  · split
    · exact ⟨sameBytes_modCore s g fun _ => rfl, rfl⟩
    · refine ⟨(sameBytes_modCore s g fun c => ?_).withFree _, rfl⟩
      split <;> rfl
  · split
    · refine ⟨sameBytes_modCore s g fun c => ?_, rfl⟩
      split <;> rfl
    · exact ⟨.refl s, rfl⟩

theorem farDone_local {s : State} {n : Nat} {a : Access} (h : ∀ x ∈ a.segs, x.fab = false) : farDone s n a = true := by
  have hfar : farSegs s n a = [] := List.filter_eq_nil_iff.2 fun x hx => by simp [h x hx]
  rw [farDone, hfar, List.all_nil]

theorem loadAll_plain {s : State} {g : Nat} {a : Access} {x : Seg} (hx : PlainSeg s x) (hp : a.path = .s) (hsegs : a.segs = [x])
    (hl : (localPa x.pa) % 128 + x.len ≤ 128) : (loadAll s g a).2 = lineValue s g x a.fresh ∧
      SameBytes s (loadAll s g a).1 ∧ (loadAll s g a).1.seqs = s.seqs := by
  have hvalue := loadLine_plain hx g a.fresh
  obtain ⟨hfab, hat, hlen, -⟩ := hx
  have hall : loadAll s g a = loadSegs s g .s [x] a.fresh := by simp [loadAll, hsegs, hfab, hp]
  have hone : loadSegs s g .s [x] a.fresh = loadLine s g x a.fresh (localPa x.pa) x.len := by
    simp [loadSegs, loadSeg, lines_within hlen hl, hat]
  rw [hall, hone]
  exact ⟨hvalue, loadLine_frame ..⟩

/-! ### Writes at home (spec/09 R192, spec/11 R211) -/

theorem rekey_cores (s : State) (sector key : Nat) : (rekey s sector key).cores = s.cores := by
  unfold rekey
  split <;> rfl

/-- Of the cores a write outside register space changes nothing. -/
theorem physWrite_cores {s : State} {pa : Nat} (h : inRegs pa = false) (len key v : Nat) : (physWrite s pa len key v).cores = s.cores := by
  unfold physWrite
  rw [if_neg (by simp [h])]
  dsimp only
  split
  · rfl
  · rw [rekey_cores, rekey_cores]

theorem errorInterrupt_cores (s : State) (f pa who : Nat) : (errorInterrupt s f pa who).cores = s.cores := by
  unfold errorInterrupt State.msix
  split <;> rfl

theorem homeWrite_cores {s : State} {pa : Nat} (h : inRegs pa = false) (f len key v who : Nat) : (homeWrite s f pa len key v who).cores = s.cores := by
  unfold homeWrite
  split
  · exact errorInterrupt_cores ..
  · exact physWrite_cores h ..

theorem storeSeg_cores (s : State) (id f : Nat) (path : Option Path) (m : Mark) {x : Seg} (v : Nat) (h : inRegs (localPa x.pa) = false) :
    (storeSeg s id f path m x v).cores = s.cores := by
  unfold storeSeg
  dsimp only
  split
  · rfl
  · split
    · exact errorInterrupt_cores ..
    · change (mark _ _ _ _).cores = _
      unfold mark
      split <;> exact homeWrite_cores h ..

/-- A write of plain bytes triggers the watches on their lines. -/
theorem storeSeg_watch {s : State} {x : Seg} (h : PlainSeg s x) (id f : Nat) (path : Option Path) (m : Mark) (v k : Nat) :
    (storeSeg s id f path m x v).seq k = notified (localPa x.pa) x.len (s.seq k) := by
  obtain ⟨hfab, -, hlen, haddr, -, -, hpoison, hkey⟩ := h
  have hmark : ∀ t pa len m, (mark t pa len m).seq k = t.seq k := fun t pa len m => by unfold mark; split <;> rfl
  obtain ⟨y, hw⟩ := physWrite_plain (s := s) (v := v) (by omega) hlen hkey
  unfold storeSeg
  simp only [hfab, poisonPart_of_clean hpoison]
  change (mark _ _ _ _).seq k = _
  rw [hmark, homeWrite, if_neg (by simp [poisonPart_of_clean hpoison]), notify_seq, hw]
  rfl

/-- Writing the datum of a segment that begins with it stores the datum. -/
theorem stored_of_write {s t : State} {x : Seg} {v : Nat} (hat : x.at_ = 0) (h : t.mem = s.mem.write (localPa x.pa) x.len (segData v x)) :
    Stored s t (localPa x.pa) x.len v := by
  refine ⟨?_, fun b hb => by rw [h, mem_get_write_other _ _ _ _ _ hb]⟩
  rw [h, mem_readNat_write_same, segData, hat]
  simp

theorem PlainSeg.rereads {s t : State} {n id : Nat} {x : Seg} (h : PlainSeg s x) (k : Rereads s t n id) : PlainSeg t x := by
  simp only [PlainSeg, replicaEntry, poisoned] at h ⊢
  rw [k.replicas, k.updates, k.poison, k.keyOf]
  exact h

/-- The first bytes of a plain segment are plain. -/
theorem PlainSeg.first {s : State} {x : Seg} (h : PlainSeg s x) {k : Nat} (h0 : 0 < k) (hk : k ≤ x.len) : PlainSeg s { x with len := k } := by
  obtain ⟨hfab, hat, -, haddr, hrep, hupd, hpoison, hkey⟩ := h
  have hless : ∀ p q, meet (localPa x.pa) x.len p q = false → meet (localPa x.pa) k p q = false := by
    simp only [meet, Bool.and_eq_false_iff, decide_eq_false_iff_not]
    omega
  have hmeet : ∀ p q, meet p q (localPa x.pa) x.len = false → meet p q (localPa x.pa) k = false := by
    simp only [meet, Bool.and_eq_false_iff, decide_eq_false_iff_not]
    omega
  have hin : ∀ i, i < k → i < x.len := fun i hi => Nat.lt_of_lt_of_le hi hk
  refine ⟨hfab, hat, h0, le_trans (Nat.add_le_add_left hk _) haddr, fun i hi => hrep i (hin i hi), fun u hu => hmeet _ _ (hupd u hu), ?_,
    fun i hi => hkey i (hin i hi)⟩
  rw [poisoned, List.any_eq_false] at hpoison ⊢
  intro p hp
  simpa using hless _ _ (by simpa using hpoison p hp)

/-- The state in which the bytes of an access have been written. -/
def applied (s : State) (n : Nat) (a : Access) (l : List Seg) (v : Nat) : State :=
  dropRemote (leaves (storeAll s a.id (funcOf s n) (some a.path) (markOf s n a) l v) (coreOf n) a.id) a.id
theorem performAt_eq (s : State) (n : Nat) (a : Access) (l : List Seg) (v : Nat) : performAt s n a l v = finish (applied s n a l v) n a.id := rfl

section
variable (s : State) (n : Nat) (a : Access)

theorem applied_alters (id : Nat) (x : Seg) (v : Nat) : Alters s (applied s n a [x] v) n id fun y => y :=
  .of_watch id ((storeSeg_undisturbed s a.id (funcOf s n) (some a.path) (markOf s n a) x (segData v x)).2 n)
theorem applied_cores {x : Seg} (v : Nat) (h : inRegs (localPa x.pa) = false) : (applied s n a [x] v).cores = s.cores := storeSeg_cores _ _ _ _ _ _ h

variable {s} {x : Seg} (h : PlainSeg s x)
include h

theorem applied_stored (v : Nat) : Stored s (applied s n a [x] v) (localPa x.pa) x.len v := by
  obtain ⟨hmem, -⟩ := storeSeg_plain h a.id (funcOf s n) (some a.path) (markOf s n a) (segData v x)
  obtain ⟨-, hat, -⟩ := h
  exact stored_of_write hat hmem
theorem applied_watch (v k : Nat) : (applied s n a [x] v).seq k = notified (localPa x.pa) x.len (s.seq k) := storeSeg_watch h _ _ _ _ _ _

end

theorem withoutAcc_watch (a : Access) (id : Nat) (q : Seq) : (withoutAcc a id q).watch = q.watch := by
  unfold withoutAcc
  split
  · cases a.kind.ctr <;> rfl
  · rfl
theorem finish_watch {s : State} {n id : Nat} {a : Access} (h : accOf s n id = some a) (m : Nat) : ((finish s n id).seq m).watch = (s.seq m).watch := by
  by_cases hm : m = n
  · subst hm
    rw [finish_seq h]
    exact withoutAcc_watch a id _
  · rw [finish_seq_other s id hm]

theorem notified_watch {pa len line v : Nat} {tr : Bool} {q : Seq} (h : q.watch = some (line, v, tr)) (hm : meet pa len line 128 = true) :
    (notified pa len q).watch = some (line, v, true) := by
  simp [notified, h, hm]

theorem Stored.finish {s t : State} {pa len v : Nat} (h : Stored s t pa len v) (n id : Nat) : Stored s (finish t n id) pa len v := by
  obtain ⟨hmem, -⟩ := finish_sameBytes t n id
  rw [Stored, hmem]
  exact h

end Sys2Proof.Machine
end

section
/-! PROOF. How accesses in flight end. -/
namespace Sys2Proof.Machine
open Sys2Proof

/-! ### Loads (spec/11 R211, spec/09 R187) -/

/-- A load whose value is fixed. -/
def withValue (v : Nat) (y : Access) : Access := { y with home := true, data := v }
theorem withValue_eq (v : Nat) : withValue v = fun y => { y with home := true, data := v } := rfl

section
variable {s : State} {n id : Nat} {a : Access} (ha : accOf s n id = some a)
include ha

theorem load_ends {o l w : Nat} {sg : Bool} {x : Seg} (hk : a.kind = .load (.bytes o l) w sg) (hw : w ≠ 512) (hturn : loadTurn (s.seq n) id = true)
    (hdeps : depsMet s n a.after = true) (hcalved : a.calved = false) (hhome : a.home = false) (hp : a.path = .s) (hsegs : a.segs = [x])
    (hx : PlainSeg s x) (hl : (localPa x.pa) % 128 + x.len ≤ 128) (hlive : segsLive s [x] = true) : EventGives .loadComplete [n, id, 0] s fun t =>
      (t.core (coreOf n)).regs.readNat ((s.seq n).winBase + o) l = (extend w sg (lineValue s (coreOf n) x a.fresh)) % 2 ^ (8 * l) ∧
      (∀ b, b < (s.seq n).winBase + o ∨ (s.seq n).winBase + o + l ≤ b → (t.core (coreOf n)).regs.get b = (s.core (coreOf n)).regs.get b) ∧
      (∀ g, g ≠ coreOf n → (t.core g).regs = (s.core g).regs) ∧ t.mem = s.mem ∧ OverAcq s t n id .ld ∧ (∀ m, m ≠ n → t.seq m = s.seq m) := by
  intro harg
  have hid := accOf_id ha
  have hfab : x.fab = false := hx.1
  obtain ⟨hvalue, hsame, hseqs⟩ := loadAll_plain (g := coreOf n) hx hp hsegs hl
  obtain ⟨-, -, hregs⟩ := hsame
  have hpoison := loadPoisoned_plain hx (coreOf n) a.fresh (path := a.path) fun _ => hl
  have hfar : farDone s n a = true := farDone_local (by simp [hsegs, hfab])
  generalize hv : extend w sg (lineValue s (coreOf n) x a.fresh) = v
  -- the state whose load has its value, and the one that has acquired
  generalize hfixed : modAcc (dropRemote (loadAll s (coreOf n) a).1 id) n id (withValue v) = u
  have hexec : exec .loadComplete s = .next (writeLoad (acquired u n a) n id) := by
    change execLoadComplete s = _
    rw [← hfixed, ← hv, withValue_eq]
    simp [execLoadComplete, State.arg_eq harg, ha, hk, hhome, hdeps, hcalved, hfar, hsegs, hlive, hid, hvalue, hfab, hpoison, hw]
  refine ⟨_, hexec, ?_⟩
  have hmem := execLoadComplete_mem s
  rw [show execLoadComplete s = _ from hexec, stateOf_next] at hmem
  have halters : Alters s u n id (onlyAt id (withValue v)) := by
    rw [← hfixed]
    exact (Alters.of_seqs id (t := dropRemote (loadAll s (coreOf n) a).1 id) hseqs).trans (alters_modAcc _ n id (f := withValue v) fun _ => rfl)
  have hreads := hid ▸ acquired_rereads u n a
  obtain ⟨g, hg, hsame⟩ := hreads.alters
  have hga : (g ∘ onlyAt id (withValue v)) a = withValue v a := by rw [Function.comp_apply, onlyAt_same hid, hsame (withValue v a) hid]
  have hother : ∀ m, m ≠ n → u.seq m = s.seq m := fun m hm => by
    rw [← hfixed, modAcc_seq_other _ _ _ hm]
    exact congrArg (Tab.getD · m {}) hseqs
  have hcores : ∀ j, ((acquired u n a).core j).regs = (s.core j).regs := fun j => by
    rw [State.core, hreads.cores, ← hfixed]
    exact hregs j
  obtain ⟨hover, hbytes, helse, hseq⟩ := (halters.trans hg).delivers ha hcores (by rw [hga]; exact hk) (by rw [hga]; rfl) hturn
  rw [hga] at hbytes
  refine ⟨?value, fun b hb => ?bytes, helse, hmem, hover, fun m hm => ?seqs⟩
  case value => rw [hbytes, mem_readNat_write_same]; rfl
  case bytes => rw [hbytes, mem_get_write_other _ _ _ _ _ hb]
  case seqs => rw [hseq m hm, hreads.other m hm, hother m hm]

theorem load_aborts {w va : Nat} {sg : Bool} (hk : a.kind = .load .discard w sg) (hdeps : depsMet s n a.after = true) (hcalved : a.calved = false)
    (hhome : a.home = false) (hfar : farDone s n a = true) (hlive : segsLive s a.segs = true)
    (hpoison : loadPoisoned s (coreOf n) a.path (a.segs.filter (!·.fab)) a.fresh = some va) : EventGives .loadComplete [n, id, 0] s fun t =>
      Over s t n id .ld ∧ SameBytes s t ∧
      (t.seq n).causes = (s.seq n).causes ++ [{ cause := .dataAbort, addr := va, pc := some a.pc, slot := a.slot, held := a.held }] := by
  intro harg
  obtain rfl := accOf_id ha
  have hexec : exec .loadComplete s = .next (abortAccess s n a va) := by
    change execLoadComplete s = _
    simp [execLoadComplete, State.arg_eq harg, ha, hk, hhome, hdeps, hcalved, hfar, hlive, hpoison]
  have hcauses : ((finish (dropRemote s a.id) n a.id).seq n).causes = (s.seq n).causes := by
    rw [finish_seq (s := dropRemote s a.id) ha]
    exact withoutAcc_causes a a.id (s.seq n)
  have hseq : (abortAccess s n a va).seq n = { (finish (dropRemote s a.id) n a.id).seq n with
      causes := (s.seq n).causes ++ [{ cause := .dataAbort, addr := va, pc := some a.pc, slot := a.slot, held := a.held }] } := by
    rw [abortAccess, addCause, State.seq_modSeq_same, modBoth_seq, hk, ← hcauses]
    rfl
  obtain ⟨hleft, hkept, hctr⟩ := over_finish (s := s) (u := dropRemote s a.id) (c := .ld) ha (by rw [hk]; rfl) rfl rfl
  refine ⟨_, hexec, ⟨?left, ?kept, ?ctr⟩, ?bytes, by rw [hseq]⟩
  case left => rw [hseq]; exact hleft
  case kept => rw [hseq]; exact hkept
  case ctr => rw [hseq]; exact hctr
  case bytes =>
    have hdropped : SameBytes s (dropRemote s a.id) := ⟨rfl, rfl, fun _ => rfl⟩
    exact ((hdropped.trans (finish_sameBytes _ _ _)).trans (modBoth_sameBytes _ _ _)).trans (addCause_sameBytes _ _ _)
end

/-! ### Stores and fills (spec/11 R211) -/

section
variable {s : State} {n id : Nat} {a : Access} {x : Seg} (ha : accOf s n id = some a)
include ha

theorem applied_over (v : Nat) : Over s (performAt s n a [x] v) n id a.kind.ctr := by
  obtain rfl := accOf_id ha
  have halters := applied_alters s n a a.id x v
  exact over_finish (u := applied s n a [x] v) (halters.accOf ha) rfl (by rw [halters.acc, List.map_id']) (halters.ctr _)

theorem store_ends (hk : a.kind = .store) (hsegs : a.segs = [x]) (hx : PlainSeg s x) (hmay : mayApply s n a = true) :
    EventGives .storeApplied [n, id, 0] s fun t => Stored s t (localPa x.pa) x.len a.data ∧ Over s t n id .st ∧
      (∀ g, (t.core g).regs = (s.core g).regs) ∧
      (∀ m line v tr, (s.seq m).watch = some (line, v, tr) → meet (localPa x.pa) x.len line 128 = true → (t.seq m).watch = some (line, v, true)) := by
  intro harg
  have hfar : farDone s n a = true := farDone_local (by simp [hsegs, hx.1])
  have hexec : exec .storeApplied s = .next (performAt s n a [x] a.data) := by
    change execStoreApplied s = _
    simp [execStoreApplied, State.arg_eq harg, ha, hk, hmay, hfar, hsegs]
  have hkind : a.kind.ctr = .st := by rw [hk]; rfl
  refine ⟨_, hexec, (applied_stored n a hx a.data).finish .., hkind ▸ applied_over ha a.data, fun g => ?regs, fun m line v tr hw hm => ?watch⟩
  case regs =>
    obtain ⟨-, -, hregs⟩ := finish_sameBytes (applied s n a [x] a.data) n a.id
    rw [performAt_eq, hregs, State.core, applied_cores s n a a.data (inRegs_below hx.below), State.core]
  case watch =>
    obtain rfl := accOf_id ha
    rw [performAt_eq, finish_watch ((applied_alters s n a a.id x a.data).accOf ha), applied_watch n a hx]
    exact notified_watch hw hm

end

/-! ### Bank operations (spec/11 R214-R220, spec/19 R362) -/

section
variable {s : State} {n : Nat} {a : Access} (ha : accOf s n a.id = some a)
include ha

/-- An operation of a bank that ends with its write, behind what it acquires. -/
theorem bank_performs {y : Seg} (v : Nat) (hin : localPa y.pa < 0x030000000000) :
    OverAcq s (performAt (acquired s n a) n a [y] v) n a.id a.kind.ctr ∧
      (∀ g, ((performAt (acquired s n a) n a [y] v).core g).regs = (s.core g).regs) ∧
      (PlainSeg s y → Stored s (performAt (acquired s n a) n a [y] v) (localPa y.pa) y.len v) := by
  have hreads := acquired_rereads s n a
  obtain ⟨g, hg, hsame⟩ := hreads.alters
  obtain ⟨-, -, hregs⟩ := finish_sameBytes (applied (acquired s n a) n a [y] v) n a.id
  refine ⟨(hg.trans (applied_alters (acquired s n a) n a a.id y v)).overAcq ha (by rw [Function.comp_apply, hsame a rfl]), fun j => ?_, fun hy => ?_⟩
  · rw [performAt_eq, hregs, State.core, applied_cores _ n a v (inRegs_below hin), hreads.cores, State.core]
  · have hstored := (applied_stored n a (hy.rereads hreads) v).finish n a.id
    rw [Stored, hreads.mem] at hstored
    exact hstored
end

theorem dropRemote_rereads (s : State) (n id k : Nat) : Rereads s (dropRemote s k) n id := .of_seqs n id rfl rfl rfl rfl rfl rfl rfl

/-- A write of an engine to plain bytes is one of its home alone. -/
theorem writeAll_one {s : State} {x : Seg} (h : PlainSeg s x) (f v who : Nat) :
    writeAll s f [x] v who = storeSeg s 0 f none { writer := if who = noSeq then outside else who } x (segData v x) := by
  obtain ⟨-, hupd⟩ := storeSeg_plain h 0 f none { writer := if who = noSeq then outside else who } (segData v x)
  obtain ⟨-, -, -, -, -, hmeet, -⟩ := h
  refine updateWhere_none fun u hu => ?_
  simp [hmeet u (hupd ▸ hu)]

section
variable {s : State} {n id : Nat} {a : Access} {x : Seg} (ha : accOf s n id = some a)
include ha

theorem fill_ends (hk : a.kind = .fill) (hsegs : a.segs = [x]) (hx : PlainSeg s x) (hmay : mayApply s n a = true) (hclear : xClear s n id [] [x] = true) :
    EventGives .fillComplete [n, id] s fun t => Stored s t (localPa x.pa) x.len a.data ∧ Over s t n id .xf ∧ ∀ g, (t.core g).regs = (s.core g).regs := by
  intro harg
  obtain rfl := accOf_id ha
  have hfar : farDone s n a = true := farDone_local (by simp [hsegs, hx.1])
  have hplain : PlainSeg (dropRemote s a.id) x := hx.rereads (dropRemote_rereads s n a.id a.id)
  have hexec : exec .fillComplete s = .next (finish (leaves (writeAll (dropRemote s a.id) (funcOf s n) [x] a.data n) (coreOf n) a.id) n a.id) := by
    change execFillComplete s = _
    simp [execFillComplete, State.arg_eq harg, ha, hk, hmay, hfar, hsegs, hclear]
  generalize hu : writeAll (dropRemote s a.id) (funcOf s n) [x] a.data n = u at hexec
  have hstored : Stored s u (localPa x.pa) x.len a.data := hu ▸ writeAll_plain hplain (funcOf s n) a.data n
  have hseq : u.seq n = { s.seq n with watch := (u.seq n).watch } := by
    rw [← hu]
    exact (writeAll_undisturbed (dropRemote s a.id) (funcOf s n) [x] a.data n).2 n
  have halters : Alters s u n a.id fun y => y := .of_watch a.id hseq
  have hkind : a.kind.ctr = .xf := by rw [hk]; rfl
  refine ⟨_, hexec, Stored.finish (t := leaves u (coreOf n) a.id) hstored .., ?counter, fun g => ?regs⟩
  case counter => exact over_finish (u := leaves u (coreOf n) a.id) (halters.accOf ha) hkind (by rw [← halters.acc.trans (List.map_id' _)]; rfl) (halters.ctr _)
  case regs =>
    obtain ⟨-, -, hregs⟩ := finish_sameBytes (leaves u (coreOf n) a.id) n a.id
    rw [hregs]
    change (Tab.getD u.cores g {}).regs = _
    rw [← hu, writeAll_one hplain, storeSeg_cores _ _ _ _ _ _ (inRegs_below hx.below)]
    rfl

end

/-! ### What a bank answers -/

/-- The state in which a bank operation on plain bytes has been applied. -/
def bauResult (s : State) (n : Nat) (a : Access) (x : Seg) : State :=
  let old := physRead s (localPa x.pa) x.len x.key
  let t := acquired s n a
  match a.kind with
  | .bank op ty y cmp dst => writeLoad (performBank t n a (.load dst 8 false) (bankOld ty old) (bankNew op ty old y.toNat cmp.toNat)) n a.id
  | .vbred op f => performAt t n a [x] (vbredNew op f old a.data)
  | .tb u => performAt t n a [{ x with len := (barrierNew u (physRead t (localPa x.pa) 16 x.key)).1 }] (barrierNew u (physRead t (localPa x.pa) 16 x.key)).2
  | .jinit c => performAt t n a [{ x with len := 16 }]
      (c.toNat + (if bit (physRead t (localPa x.pa + 8) 8 x.key) 1 then physRead t (localPa x.pa + 8) 8 x.key - 2
        else physRead t (localPa x.pa + 8) 8 x.key) * 2 ^ 64)
  | _ => t

/-- An order word without bit 1, as its bytes take it. -/
theorem clear_bit_one (v : Nat) : (if bit v 1 then v - 2 else v) % 2 ^ 64 = v &&& (2 ^ 64 - 1 - 2) := by
  have hlow : (v &&& (2 ^ 64 - 1 - 2)) % 2 ^ 2 = v % 2 := by
    rw [Nat.and_mod_two_pow]
    have : v % 2 ^ 2 = 0 ∨ v % 2 ^ 2 = 1 ∨ v % 2 ^ 2 = 2 ∨ v % 2 ^ 2 = 3 := by omega
    rcases this with h | h | h | h <;> rw [h] <;> simp <;> omega
  have hhigh : (v &&& (2 ^ 64 - 1 - 2)) / 2 ^ 2 = v / 2 ^ 2 % 2 ^ 62 := by
    rw [Nat.and_div_two_pow, ← Nat.and_two_pow_sub_one_eq_mod]
    rfl
  generalize v &&& (2 ^ 64 - 1 - 2) = w at hlow hhigh
  have hbit : bit v 1 = decide (v / 2 % 2 = 1) := rfl
  rw [hbit]
  split
  · next h => simp at h; omega
  · next h => simp at h; omega

section
variable {s : State} {n : Nat} {a : Access} {x : Seg} (ha : accOf s n a.id = some a) (hp : a.path = .b) (hsegs : a.segs = [x]) (hx : PlainSeg s x)
  (hmay : mayApply s n a = true)
include ha hp hsegs hx hmay

theorem bauOperation_eq (harg : s.args = [n, a.id]) : exec .bauOperation s = .next (bauResult s n a x) := by
  have hfab : x.fab = false := hx.1
  have hfar : farDone s n a = true := farDone_local (by simp [hsegs, hfab])
  have hhome : a.home = false := by
    simp only [mayApply, Bool.and_eq_true] at hmay
    simpa using hmay.1.1.1.1
  have hpoison := loadPoisoned_plain hx (coreOf n) true (path := .b) nofun
  have hold : (loadWith s (coreOf n) .b [x] false a.id 0).2 = physRead s (localPa x.pa) x.len x.key := by
    simp [loadWith, hfab, loadSegs_plain hx (coreOf n) (by decide : Path.b ≠ .s)]
  change execBauOperation s = _
  have hlocal : [x].filter (fun y => !y.fab) = [x] := by simp [hfab]
  simp only [execBauOperation, State.arg_eq harg, List.getD_cons_zero, List.getD_cons_succ, ha, hp, hmay, hfar, hsegs, hhome, hlocal, hpoison, hold,
    List.headD_cons, ne_eq, not_true_eq_false, decide_false, Bool.or_self, Bool.not_true, Bool.false_eq_true, if_false]
  unfold bauResult
  cases a.kind <;> rfl

end

/-- An access of a bank whose old value is fixed. -/
def withOld (dst : Dest) (old : Nat) (y : Access) : Access := { y with kind := .load dst 8 false, data := old, home := true }

section
variable {s : State} {n : Nat} {a : Access} {x : Seg} (ha : accOf s n a.id = some a) (hsegs : a.segs = [x]) (hx : PlainSeg s x)
include ha hsegs hx

theorem bank_ends {op : BankOp} {ty : BankTy} {y cmp : Word} {dst : Dest} (hk : a.kind = .bank op ty y cmp dst) :
    let old := physRead s (localPa x.pa) x.len x.key
    Stored s (bauResult s n a x) (localPa x.pa) x.len (bankNew op ty old y.toNat cmp.toNat) ∧
    (loadTurn (s.seq n) a.id = false → (∀ g, ((bauResult s n a x).core g).regs = (s.core g).regs) ∧
      ∃ b, accOf (bauResult s n a x) n a.id = some b ∧ b.kind = .load dst 8 false ∧ b.data = bankOld ty old ∧ b.home = true) ∧
    (∀ o, loadTurn (s.seq n) a.id = true → dst = .bytes o 8 → OverAcq s (bauResult s n a x) n a.id .ld ∧
      ((bauResult s n a x).core (coreOf n)).regs.readNat ((s.seq n).winBase + o) 8 = bankOld ty old % 2 ^ 64) := by
  intro old
  have hreads := acquired_rereads s n a
  obtain ⟨g, hg, hsame⟩ := hreads.alters
  generalize hnew : bankNew op ty old y.toNat cmp.toNat = new
  have hres : bauResult s n a x = writeLoad (modAcc (applied (acquired s n a) n a [x] new) n a.id (withOld dst (bankOld ty old))) n a.id := by
    rw [bauResult, hk, ← hnew, ← hsegs]
    rfl
  generalize hu : modAcc (applied (acquired s n a) n a [x] new) n a.id (withOld dst (bankOld ty old)) = u at hres
  have halters : Alters s u n a.id (onlyAt a.id (withOld dst (bankOld ty old)) ∘ g) := by
    rw [← hu]
    exact (hg.trans (applied_alters _ n a a.id x new)).trans (alters_modAcc _ n a.id (f := withOld dst (bankOld ty old)) fun _ => rfl)
  have hga : (onlyAt a.id (withOld dst (bankOld ty old)) ∘ g) a = withOld dst (bankOld ty old) a := by
    rw [Function.comp_apply, hsame a rfl, onlyAt_same rfl]
  have hregs : ∀ j, (u.core j).regs = (s.core j).regs := fun j => by
    rw [← hu]
    change (Tab.getD (applied (acquired s n a) n a [x] new).cores j {}).regs = _
    rw [applied_cores _ n a new (inRegs_below hx.below), hreads.cores]
    rfl
  have hacc : accOf u n a.id = some (withOld dst (bankOld ty old) a) := hga ▸ halters.accOf ha
  rw [hres]
  refine ⟨?stored, fun hturn => ?early, fun o hturn hd => ?turn⟩
  case stored =>
    have hstored : Stored (acquired s n a) (applied (acquired s n a) n a [x] new) (localPa x.pa) x.len new := applied_stored n a (hx.rereads hreads) new
    rw [Stored, hreads.mem] at hstored
    rw [Stored, writeLoad_mem, ← hu]
    exact hstored
  case early =>
    rw [writeLoad_early hacc rfl (halters.loadTurn.trans hturn)]
    exact ⟨hregs, _, hacc, rfl, rfl, rfl⟩
  case turn =>
    subst hd
    obtain ⟨hend, hbytes, -⟩ := halters.delivers (o := o) (l := 8) (w := 8) (sg := false) ha hregs (by rw [hga]; rfl) (by rw [hga]; rfl) hturn
    refine ⟨hend, ?_⟩
    rw [hbytes, hga, mem_readNat_write_same]
    rfl

omit hsegs in
theorem vbred_ends {op : RedOp} {f : Fmt} (hk : a.kind = .vbred op f) :
    Stored s (bauResult s n a x) (localPa x.pa) x.len (vbredNew op f (physRead s (localPa x.pa) x.len x.key) a.data) ∧
      OverAcq s (bauResult s n a x) n a.id .st ∧ ∀ g, ((bauResult s n a x).core g).regs = (s.core g).regs := by
  have hkind : a.kind.ctr = .st := by rw [hk]; rfl
  obtain ⟨hend, hregs, hstored⟩ := bank_performs ha (vbredNew op f (physRead s (localPa x.pa) x.len x.key) a.data) hx.below
  rw [bauResult, hk]
  exact ⟨hstored hx, hkind ▸ hend, hregs⟩

omit hsegs in
theorem barrier_ends {u : TbUpdate} (hk : a.kind = .tb u) :
    OverAcq s (bauResult s n a x) n a.id .st ∧ (∀ g, ((bauResult s n a x).core g).regs = (s.core g).regs) ∧
      (x.len = 32 → let r := barrierNew u (physRead s (localPa x.pa) 16 x.key); Stored s (bauResult s n a x) (localPa x.pa) r.1 r.2) := by
  have hkind : a.kind.ctr = .st := by rw [hk]; rfl
  have hreads := acquired_rereads s n a
  have hword : physRead (acquired s n a) (localPa x.pa) 16 x.key = physRead s (localPa x.pa) 16 x.key :=
    physRead_congr hreads.mem hreads.keyOf hx.below 16 x.key
  generalize hr : barrierNew u (physRead s (localPa x.pa) 16 x.key) = r
  have hlen : r.1 = 32 ∨ r.1 = 16 := by
    rw [← hr]
    cases u
    · exact .inl rfl
    all_goals exact .inr rfl
  obtain ⟨hend, hregs, hstored⟩ := bank_performs ha (y := { x with len := r.1 }) r.2 hx.below
  have hres : bauResult s n a x = performAt (acquired s n a) n a [{ x with len := r.1 }] r.2 := by
    rw [bauResult, hk, ← hr, ← hword]
  rw [hres]
  exact ⟨hkind ▸ hend, hregs, fun h32 => hstored (hx.first (by omega) (by omega))⟩

omit hsegs in
theorem jinit_ends {c : Word} (hk : a.kind = .jinit c) (hlen : 16 ≤ x.len) :
    OverAcq s (bauResult s n a x) n a.id .st ∧ (∀ g, ((bauResult s n a x).core g).regs = (s.core g).regs) ∧
      Stored s (bauResult s n a x) (localPa x.pa) 16 (c.toNat + (physRead s (localPa x.pa + 8) 8 x.key &&& (2 ^ 64 - 1 - 2)) * 2 ^ 64) := by
  have hkind : a.kind.ctr = .st := by rw [hk]; rfl
  have hreads := acquired_rereads s n a
  have habove : localPa x.pa + 8 < 0x030000000000 := by
    obtain ⟨-, -, -, haddr, -⟩ := hx
    omega
  have hword : physRead (acquired s n a) (localPa x.pa + 8) 8 x.key = physRead s (localPa x.pa + 8) 8 x.key :=
    physRead_congr hreads.mem hreads.keyOf habove 8 x.key
  have hclear := clear_bit_one (physRead s (localPa x.pa + 8) 8 x.key)
  generalize hv : (if bit (physRead s (localPa x.pa + 8) 8 x.key) 1 then physRead s (localPa x.pa + 8) 8 x.key - 2
    else physRead s (localPa x.pa + 8) 8 x.key) = v at hclear
  obtain ⟨hend, hregs, hstored⟩ := bank_performs ha (y := { x with len := 16 }) (c.toNat + v * 2 ^ 64) hx.below
  have hres : bauResult s n a x = performAt (acquired s n a) n a [{ x with len := 16 }] (c.toNat + v * 2 ^ 64) := by
    rw [bauResult, hk, ← hv, ← hword]
  obtain ⟨hbytes, helse⟩ := hstored (hx.first (by omega) hlen)
  rw [hres]
  refine ⟨hkind ▸ hend, hregs, ?_, helse⟩
  rw [hbytes, ← hclear]
  change (c.toNat + v * 2 ^ 64) % 2 ^ 128 = (c.toNat + v % 2 ^ 64 * 2 ^ 64) % 2 ^ 128
  omega

end

/-! ### Retries (spec/11 R212, spec/17 R336) -/

/-- Only what stands in the system and what leaves the module differ. -/
def LinksOnly (s t : State) : Prop := t = { s with sys := t.sys, outbox := t.outbox }

theorem LinksOnly.refl (s : State) : LinksOnly s s := rfl
theorem LinksOnly.trans {s t u : State} (h : LinksOnly s t) (k : LinksOnly t u) : LinksOnly s u := by
  rw [LinksOnly] at *; rw [k, h]
theorem linksOnly_foldl {α β : Type} {f : State × β → α → State × β} (h : ∀ r x, LinksOnly r.1 (f r x).1) (l : List α) (r : State × β) :
    LinksOnly r.1 (l.foldl f r).1 :=
  List.foldlRecOn (motive := fun q : State × β => LinksOnly r.1 q.1) l f (.refl r.1) fun q hq x _ => hq.trans (h q x)

theorem emitAll_linksOnly (p : Nat) (l : List Nat) (s : State) : LinksOnly s (l.foldl (fun s x => emitData s p x) s) :=
  List.foldlRecOn (motive := LinksOnly s) l _ (.refl s) fun _ ht _ _ => ht.trans rfl

theorem pumpLoose_linksOnly (s : State) : LinksOnly s (pumpLoose s) := by
  refine LinksOnly.trans (linksOnly_foldl (fun r x => ?_) s.sys.loose (s, [])) rfl
  dsimp only
  split
  · exact emitAll_linksOnly ..
  · exact .refl _

theorem pumpRemotes_linksOnly (s : State) : LinksOnly s (pumpRemotes s) := by
  refine (pumpLoose_linksOnly s).trans ?_
  refine LinksOnly.trans (linksOnly_foldl (fun r x => ?_) (pumpLoose s).sys.remote (pumpLoose s, [])) rfl
  split
  · exact .refl _
  · exact emitAll_linksOnly ..

section
variable {s t : State} (h : LinksOnly s t)
include h

theorem LinksOnly.seqs : t.seqs = s.seqs := by rw [h]
theorem LinksOnly.accOf (n id : Nat) : accOf t n id = accOf s n id := by rw [Machine.accOf, Machine.accOf, State.seq, State.seq, h.seqs]
theorem LinksOnly.arg (k : Nat) : t.arg k = s.arg k := by rw [h]; rfl
theorem LinksOnly.segsLive (l : List Seg) : segsLive t l = segsLive s l := by rw [h]; rfl
theorem LinksOnly.sameBytes : SameBytes s t := by rw [h]; exact ⟨rfl, rfl, fun _ => rfl⟩

end

/-- The change that a retry of a calved access makes. -/
def notCalved (y : Access) : Access := { y with calved := false }

/-- The change that the new translation of a stale access makes. -/
def translatedAgain (l : List Seg) (b : Bool) (y : Access) : Access := { y with segs := l, stale := false, calved := b }

section
variable {s : State} {n id : Nat} {a : Access} (hn : n ≠ 2049) (ha : accOf s n id = some a)
include hn ha

theorem retry_lives (hcalved : a.calved = true) (hstale : a.stale = false) (hlive : segsLive s a.segs = true) :
    EventGives .calvedRetry [n, id] s fun t => accOf t n id = some { a with calved := false } ∧ SameBytes s t := by
  intro harg
  obtain ⟨u, hlinks, hexec⟩ : ∃ u, LinksOnly s u ∧ exec .calvedRetry s = .next (modAcc u n id notCalved) := by
    change ∃ u, LinksOnly s u ∧ execCalvedRetry s = _
    have hout : s.arg 0 ≠ outside := by rw [State.arg_eq harg]; exact hn
    rw [execCalvedRetry, if_neg hout]
    extract_lets m stale u
    have hlinks : LinksOnly s u := by
      unfold u
      split
      · exact .trans (show LinksOnly s (s.modSys _) from rfl) (pumpRemotes_linksOnly _)
      · exact .refl s
    refine ⟨u, hlinks, ?_⟩
    have hm : m = n := State.arg_eq harg 0
    have hid : s.arg 1 = id := State.arg_eq harg 1
    simp only [hlinks.arg, hm, hid, hlinks.accOf, ha, hstale, hcalved, hlinks.segsLive, hlive, Bool.false_eq_true, if_false, Bool.and_self, if_true]
    rfl
  have halters := (Alters.of_seqs (n := n) id hlinks.seqs).trans (alters_modAcc u n id (f := notCalved) fun _ => rfl)
  refine ⟨_, hexec, ?_, hlinks.sameBytes.trans (modBoth_sameBytes _ _ _)⟩
  rw [halters.accOf ha]
  exact congrArg some (onlyAt_same (accOf_id ha) notCalved)

end

/-- The TLB that a retry of an access fills. -/
def retryTlb (a : Access) : Which := if a.path = .s ∨ a.path = .b then .dtlb else .etlb

section
variable {s : State} {n : Nat} {a : Access} {l : List Seg} (hremote : ∀ r ∈ s.sys.remote, r.id ≠ a.id)
  (hl : retranslate s (coreOf n) (retryTlb a) (asidOf s n) a.path (needsOf a.kind) a.segs = .ok l)
include hremote hl

/-- Where no other module has answered for a part, the whole access is translated again. -/
theorem retryAccess_whole : retryAccess s n a =
    modAcc (dropRemotes (installSegs s (coreOf n) (retryTlb a) (asidOf s n) l) fun r => r.id = a.id && r.answer.isNone) n a.id
      (translatedAgain l (!segsLive s l)) := by
  have hgot : ∀ x : Seg, (s.sys.remote.any fun r => r.id = a.id && r.part = 0 && r.at_ = x.at_ && r.answer.isSome) = false :=
    fun x => List.any_eq_false.2 fun r hr => by simp [hremote r hr]
  have htlb : (if a.path = .s || a.path = .b then Which.dtlb else .etlb) = retryTlb a := by
    simp only [retryTlb, Bool.or_eq_true, decide_eq_true_eq]
  rw [retryAccess, htlb]
  simp only [hgot, Bool.not_false, List.filter_true, List.filter_false, hl, List.nil_append]
  rfl

theorem retry_translates (hn : n ≠ 2049) (ha : accOf s n a.id = some a) (hstale : a.stale = true) :
    EventGives .calvedRetry [n, a.id] s fun t => SameBytes s t ∧
      ∃ b, accOf t n a.id = some { a with segs := l, stale := false, calved := b } ∧ (segsLive s l = true → b = false) := by
  intro harg
  have htlb := tlbOnly_installSegs s (coreOf n) (retryTlb a) (asidOf s n) l
  obtain ⟨u, hu⟩ : ∃ u, u = dropRemotes (installSegs s (coreOf n) (retryTlb a) (asidOf s n) l) fun r => r.id = a.id && r.answer.isNone := ⟨_, rfl⟩
  have hbytes : SameBytes s u := htlb.sameBytes.trans (hu ▸ ⟨rfl, rfl, fun _ => rfl⟩)
  have hseqs : u.seqs = s.seqs := by rw [hu, dropRemotes, State.modSys, htlb.1]
  have hexec : exec .calvedRetry s = .next (modAcc u n a.id (translatedAgain l (!segsLive s l))) := by
    have hout : s.arg 0 ≠ outside := by rw [State.arg_eq harg]; exact hn
    change execCalvedRetry s = _
    rw [execCalvedRetry, if_neg hout]
    simp only [State.arg_eq harg, List.getD_cons_zero, List.getD_cons_succ, ha, hstale, Bool.not_true, Bool.false_and, Bool.false_eq_true, if_false,
      if_true, retryAccess_whole hremote hl, hu]
  have halters := (Alters.of_seqs (n := n) a.id hseqs).trans (alters_modAcc u n a.id (f := translatedAgain l (!segsLive s l)) fun _ => rfl)
  refine ⟨_, hexec, hbytes.trans (modBoth_sameBytes _ _ _), !segsLive s l, ?_, fun h => by rw [h]; rfl⟩
  rw [halters.accOf ha]
  exact congrArg some (onlyAt_same rfl _)

end

/-! ### Error interrupts and page walks (spec/09 R192, spec/17 R331) -/

theorem granule_hbm {pa d : Nat} (h : regionOf pa = .hbm d) : granule pa = 32 := by rw [granule, h]

theorem msix_open {s : State} {f v : Nat} (h : (s.func f).msixMask.contains v = false) : s.msix f v = s.out (.msix f v) := by
  rw [State.msix, h]
  rfl

theorem error_reports {s : State} {pa f who d : Nat} (hpa : regionOf pa = .hbm d) (hnew : s.poison.contains (pa / 32 * 32) = false)
    (hmask : (s.func f).msixMask.contains 2 = false) :
    EventGives .uncorrectableError [pa, f, who] s fun t => t.poison = s.poison ++ [pa / 32 * 32] ∧
      t.outbox = s.outbox ++ [.msix f 2, .memError (pa / 32 * 32) who] ∧ SameBytes s t ∧ t.seqs = s.seqs := by
  intro harg
  have hopen : { s with poison := s.poison ++ [pa / 32 * 32] }.msix f 2 = { s with poison := s.poison ++ [pa / 32 * 32] }.out (.msix f 2) := msix_open hmask
  have hexec : exec .uncorrectableError s = .next (errorInterrupt { s with poison := s.poison ++ [pa / 32 * 32] } f (pa / 32 * 32) who) := by
    change execUncorrectableError s = _
    simp only [execUncorrectableError, State.arg_eq harg, List.getD_cons_zero, List.getD_cons_succ, granule_hbm hpa, hpa, hnew, Bool.not_true, Bool.or_self,
      Bool.false_eq_true, if_false]
  refine ⟨_, hexec, ?_⟩
  rw [errorInterrupt, hopen]
  exact ⟨rfl, List.append_assoc .., ⟨rfl, rfl, fun _ => rfl⟩, rfl⟩

/-- How many translations each TLB of a core holds. -/
def tlbSize : Which → Nat
  | .itlb => 64 | .dtlb => 128 | .etlb => 256 | .shared => 0

theorem install_tlb (s : State) (g : Nat) {wh : Which} (e : Tlb) (h : wh ≠ .shared) :
    coreTlb ((install s g wh e).core g) wh = lruPut (tlbSize wh) e (coreTlb (s.core g) wh) := by
  unfold install
  extract_lets hit u
  have hu : coreTlb (u.core g) wh = lruPut (tlbSize wh) e (coreTlb (s.core g) wh) := by
    rw [State.core_modCore_same]
    cases wh with
    | shared => exact absurd rfl h
    | itlb | dtlb | etlb => dsimp only; split <;> rfl
  split
  · exact hu
  · exact hu

/-- The TLB of a core that a translation is put into has it first. -/
theorem install_head (s : State) (g : Nat) {wh : Which} (e : Tlb) (h : wh ≠ .shared) : (coreTlb ((install s g wh e).core g) wh).head? = some e := by
  rw [install_tlb s g e h]
  cases wh with
  | shared => exact absurd rfl h
  | itlb | dtlb | etlb => rfl

/-- The TLB that the second operand of a page walk names. -/
def walkTlb : Nat → Which
  | 0 => .itlb | 1 => .dtlb | 2 => .etlb | _ => .shared

theorem walk_installs {s : State} {g k asid va : Nat} {e : Tlb} (hk : walkTlb k ≠ .shared) (he : translate s asid va = .ok e) :
    EventGives .pageWalk [g, k, asid, va] s fun t =>
      (coreTlb (t.core (g % 512)) (walkTlb k)).head? = some e ∧ SameBytes s t ∧ t.seqs = s.seqs := by
  intro harg
  have hexec : exec .pageWalk s = .next (install s (g % 512) (walkTlb k) e) := by
    change execPageWalk s = _
    simp only [execPageWalk, State.arg_eq harg, List.getD_cons_zero, List.getD_cons_succ, he]
    rfl
  have htlb := tlbOnly_install s (g % 512) (walkTlb k) e
  exact ⟨_, hexec, install_head s _ e hk, htlb.sameBytes, by rw [htlb.1]⟩

theorem walk_fails {s : State} {g asid va : Nat} {f : XFault} (he : translate s asid va = .error f) :
    EventGives .pageWalk [g, 1, asid, va] s fun t => t = s := by
  intro harg
  refine ⟨s, ?_, rfl⟩
  change execPageWalk s = _
  simp only [execPageWalk, State.arg_eq harg, List.getD_cons_zero, List.getD_cons_succ, he]

/-! ### The obligation -/

/-- Settles O46: each clause is the end of one kind of access, proved above. -/
theorem accessesComplete : Obligations.AccessesComplete := by
  unfold Obligations.AccessesComplete
  refine ⟨?load, ?abort, ?store, ?fill, ?bank, ?calved, ?stale, ?error, fun _ => rfl, ?walk⟩
  case load =>
    intro s n id a o l w sg x ha hk hw hturn hdeps hcalved hhome hp hsegs hx hl hlive
    exact load_ends ha hk hw hturn hdeps hcalved hhome hp hsegs hx hl hlive
  case abort =>
    intro s n id a w sg va ha hk hdeps hcalved hhome hfar hlive hpoison
    exact load_aborts ha hk hdeps hcalved hhome hfar hlive hpoison
  case store =>
    intro s n id a x ha hk hsegs hx hmay
    exact store_ends ha hk hsegs hx hmay
  case fill =>
    intro s n id a x ha hk hsegs hx hmay hclear
    exact fill_ends ha hk hsegs hx hmay hclear
  case bank =>
    intro s n id a x ha hp hsegs hx hmay old harg
    obtain rfl := accOf_id ha
    exact ⟨_, bauOperation_eq ha hp hsegs hx hmay harg, fun _ _ _ _ _ hk => bank_ends ha hsegs hx hk, fun _ _ hk => vbred_ends ha hx hk,
      fun _ hk => barrier_ends ha hx hk, fun _ hk hlen => jinit_ends ha hx hk hlen⟩
  case calved =>
    intro s n id a hn ha hcalved hstale hlive
    exact retry_lives hn ha hcalved hstale hlive
  case stale =>
    intro s n id a l hn ha hstale _ hremote hl
    obtain rfl := accOf_id ha
    exact retry_translates hremote hl hn ha hstale
  case error =>
    intro s pa f who d hpa hnew hmask
    exact error_reports hpa hnew hmask
  case walk =>
    intro s g asid va
    refine ⟨fun e he => ⟨?fetch, ?data, ?engine⟩, fun e he => walk_fails he⟩
    case fetch => exact walk_installs (k := 0) nofun he
    case data => exact walk_installs (k := 1) nofun he
    case engine => exact walk_installs (k := 2) nofun he

end Sys2Proof.Machine
end

section
/-! SUPPORT. What the pops of a slot and the start of its access change. -/
namespace Sys2Proof.Machine
open Sys2Proof

/-! ### Pops change ports alone (spec/13 R253) -/

/-- From `s` to `t` only the ports of sequencer `n` differ, with its forwarding buffers and the record of its pops. -/
def PortsOnly (s t : State) (n : Nat) : Prop :=
  t = { s with seqs := t.seqs, nextId := t.nextId } ∧ s.nextId ≤ t.nextId ∧
  t.seq n = { s.seq n with ports := (t.seq n).ports, portst := (t.seq n).portst, fwd := (t.seq n).fwd, again := (t.seq n).again, seen := (t.seq n).seen } ∧
  ∀ m, m ≠ n → t.seq m = s.seq m

theorem PortsOnly.refl (s : State) (n : Nat) : PortsOnly s s n := ⟨rfl, le_rfl, rfl, fun _ _ => rfl⟩
theorem PortsOnly.trans {s t u : State} {n : Nat} (h : PortsOnly s t n) (k : PortsOnly t u n) : PortsOnly s u n := by
  obtain ⟨hst, hid, hseq, hother⟩ := h
  obtain ⟨ktu, kid, kseq, kother⟩ := k
  refine ⟨by rw [ktu, hst], hid.trans kid, ?_, fun m hm => (kother m hm).trans (hother m hm)⟩
  rw [kseq, hseq]

theorem portsOnly_modSeq (s : State) (n : Nat) (f : Seq → Seq)
    (hf : ∀ q, f q = { q with ports := (f q).ports, portst := (f q).portst, fwd := (f q).fwd, again := (f q).again, seen := (f q).seen }) :
    PortsOnly s (s.modSeq n f) n :=
  ⟨rfl, le_rfl, by rw [State.seq_modSeq_same]; exact hf _, fun m hm => State.seq_modSeq_other _ _ _ _ hm⟩
theorem portsOnly_bump (s : State) (n : Nat) : PortsOnly s s.bump n := ⟨rfl, Nat.le_succ _, rfl, fun _ _ => rfl⟩

theorem giveBack_again (q : Seq) (p : Nat) (d : BitVec 512) (i : Nat) : giveBack q p d i = { q with again := (giveBack q p d i).again } := by
  unfold giveBack
  split <;> rfl

theorem popPort_portsOnly (s : State) (n p : Nat) : PortsOnly s (popPort s n p).1 n := by
  unfold popPort setPortst
  dsimp only
  split
  · dsimp only
    exact portsOnly_modSeq s n _ fun _ => rfl
  · split <;> dsimp only
    · exact portsOnly_modSeq s n _ fun _ => rfl
    · refine (portsOnly_modSeq s n _ fun q => ?_).trans (portsOnly_bump _ n)
      split
      · rw [giveBack_again]
      · rfl
theorem popAll_portsOnly (s : State) (n : Nat) (l : List Nat) : PortsOnly s (popAll s n l).1 n := by
  induction l generalizing s with
  | nil => exact .refl s n
  | cons p l ih => exact (popPort_portsOnly s n p).trans (ih _)

/-! ### The start of a slot's access (spec/11 R211) -/

/-- A sequencer with one access more: at the end of its list, its counter raised. -/
def startedSeq (q : Seq) (x : Access) (ordered : Bool) (order : List Order) : Seq :=
  ({ q with acc := q.acc ++ [x], ordered := ordered, order := order } : Seq).raise x.kind.ctr

section
variable (q : Seq) (x : Access) (ordered : Bool) (order : List Order)

theorem startedSeq_frame : (startedSeq q x ordered order).acc = q.acc ++ [x] ∧ (startedSeq q x ordered order).masks = q.masks ∧
    (startedSeq q x ordered order).pc = q.pc ∧ (startedSeq q x ordered order).st = q.st := by
  unfold startedSeq
  cases x.kind.ctr <;> exact ⟨rfl, rfl, rfl, rfl⟩

end

section
variable (s : State) (k : Issue) (wh : Which) (a : Access)

/-- The access of the slot being issued as it is put in flight. -/
def issuedAs : Access := startedAs (installSegs s (coreOf k.n) wh (asidOf s k.n) a.segs) k.n k.pc k.pos k.held { a with scope := k.scope }

/-- All that the start of an access changes: cached translations, the sequencer, the clocks of the dies, and the next identity. -/
theorem issueAccess_eq : ∃ dies ordered order, issueAccess s k wh a =
    { (installSegs s (coreOf k.n) wh (asidOf s k.n) a.segs).setSeq k.n (startedSeq (s.seq k.n) (issuedAs s k wh a) ordered order) with
      dies := dies, nextId := s.nextId + 1 } := by
  have htlb := tlbOnly_installSegs s (coreOf k.n) wh (asidOf s k.n) a.segs
  obtain ⟨dies, order, hstart⟩ :=
    startAccess_eq (installSegs s (coreOf k.n) wh (asidOf s k.n) a.segs) k.n k.pc k.pos k.held { a with scope := k.scope }
  have hid : (installSegs s (coreOf k.n) wh (asidOf s k.n) a.segs).nextId = s.nextId := by rw [htlb.1]
  rw [htlb.seq, hid] at hstart
  exact ⟨dies, _, order, hstart⟩

theorem issueAccess_seq : ∃ ordered order, (issueAccess s k wh a).seq k.n = startedSeq (s.seq k.n) (issuedAs s k wh a) ordered order := by
  obtain ⟨_, ordered, order, heq⟩ := issueAccess_eq s k wh a
  exact ⟨ordered, order, by rw [heq]; exact tab_getD_put_same _ _ _ _⟩

theorem issueAccess_starts : Starts s k a (issueAccess s k wh a) := by
  have htlb := tlbOnly_installSegs s (coreOf k.n) wh (asidOf s k.n) a.segs
  obtain ⟨dies, _, _, heq⟩ := issueAccess_eq s k wh a
  obtain ⟨ordered, order, hseq⟩ := issueAccess_seq s k wh a
  obtain ⟨hmem, hkeys, hregs⟩ := htlb.sameBytes
  obtain ⟨hacc, hmasks, hpc, hst⟩ := startedSeq_frame (s.seq k.n) (issuedAs s k wh a) ordered order
  have hid : (issuedAs s k wh a).id = s.nextId := by rw [issuedAs, startedAs, htlb.1]
  refine ⟨⟨(issuedAs s k wh a).id, (issuedAs s k wh a).after, (issuedAs s k wh a).wide, hid.ge, ?acc⟩, ?mem, ?keys, ?issue, ?ctxs, ?regs, ?masks, ?place, ?state,
    ?other⟩
  case acc => rw [hseq, hacc]; rfl
  case mem => rw [heq]; exact hmem
  case keys => rw [heq]; exact hkeys
  case issue => rw [heq, htlb.1]; rfl
  case ctxs => rw [heq, htlb.1]; rfl
  case regs => rw [heq]; exact hregs
  case masks => rw [hseq, hmasks]
  case place => rw [hseq, hpc]
  case state => rw [hseq, hst]
  case other =>
    intro m hm
    rw [heq]
    exact (tab_getD_put_other _ _ _ _ _ hm).trans (htlb.seq m)

end

end Sys2Proof.Machine
end

section
/-! PROOF. Fences, the monitor, the fill and the start of a copy. -/
namespace Sys2Proof.Machine
open Sys2Proof

/-! ### Fences (spec/10 R202, spec/11 R221, R222) -/

/-- A slot that names nothing and waits for nothing has its effect. -/
theorem slot_bare {s : State} {k : Issue} {effect : Issue → State → State} (h : s.issue = some k) : slot s (fun _ => {}) effect = effect k s :=
  slot_runs (operable_nil h)

/-- The state after a fence: orders join those of its bundle, its sequencer has ordered something, and clocks may have advanced. -/
def ordersJoined (s : State) (k : Issue) (dies : Tab Die) (l : List Order) : State :=
  ({ s.modSeq k.n fun q => { q with ordered := true } with dies := dies } : State).modIssue fun x => { x with orders := x.orders ++ l }

theorem ordersJoined_seq (s : State) (k : Issue) (dies : Tab Die) (l : List Order) :
    (ordersJoined s k dies l).seq k.n = { s.seq k.n with ordered := true } :=
  tab_getD_put_same _ _ _ _

theorem execFence_eq {s : State} {k : Issue} (c : FenceKind) (h : s.issue = some k) :
    ∃ dies u, exec (.fence c) s = .next (ordersJoined s k dies (fenceOrders u k.n c k.scope)) := by
  obtain ⟨dies, hclock⟩ := advanceClock_frame (decide (c ≠ .acq)) (s.modSeq k.n fun q => { q with ordered := true }) (dieOf (coreOf k.n)) k.scope
  refine ⟨dies, { s.modSeq k.n fun q => { q with ordered := true } with dies := dies }, congrArg Host.Outcome.next ((slot_bare h).trans ?_)⟩
  simp only [decide_eq_true_eq, ite_not] at hclock
  simp only [hclock, ordersJoined]

/-- Each kind of fence by its orders. -/
theorem fenceOrders_kinds (u : State) (n : Nat) (c : FenceKind) (sc : Scope) :
    (c = .rel → ∃ o w, fenceOrders u n c sc = [o, w] ∧ o.paths = [.s, .b] ∧ o.reads = false ∧ o.hold = true ∧ w.paths = allPaths ∧ w.reads = false ∧
      w.after = o.after) ∧
    (c = .acq → ∃ o, fenceOrders u n c sc = [o] ∧ o.paths = allPaths ∧ o.reads = true ∧ o.hold = true) ∧
    (c = .full → ∃ o w r, fenceOrders u n c sc = [o, w, r] ∧ o.paths = [.s, .b] ∧ o.reads = true ∧ o.hold = true ∧ w.paths = allPaths ∧ w.reads = false ∧
      w.after = o.after ∧ r.paths = allPaths ∧ r.reads = true ∧ r.hold = true) := by
  refine ⟨?rel, ?acq, ?full⟩ <;> rintro rfl
  case rel => exact ⟨_, _, rfl, rfl, rfl, rfl, rfl, rfl, rfl⟩
  case acq => exact ⟨_, rfl, rfl, rfl, rfl⟩
  case full => exact ⟨_, _, _, rfl, rfl, rfl, rfl, rfl, rfl, rfl, rfl, rfl, rfl⟩

/-- What an xfence awaits: what earlier bundles have open on its path. -/
def openBefore (s : State) (k : Issue) (first : Path) : List Dep := (pathDeps s k.n first k.scope).filter fun d => d.id < k.firstId

theorem mem_openBefore {s : State} {k : Issue} {first : Path} {d : Dep} :
    d ∈ openBefore s k first ↔ d.scope = k.scope ∧ d.id ∈ openOn s k.n first ∧ d.id < k.firstId := by
  obtain ⟨i, sc⟩ := d
  simp only [openBefore, pathDeps, List.mem_filter, List.mem_map, Dep.mk.injEq, decide_eq_true_eq]
  constructor
  · rintro ⟨⟨j, hj, rfl, rfl⟩, hi⟩
    exact ⟨rfl, hj, hi⟩
  · rintro ⟨rfl, hj, hi⟩
    exact ⟨⟨i, hj, rfl, rfl⟩, hi⟩

theorem execXfence_eq {s : State} {k : Issue} (first later : Path) (h : s.issue = some k) :
    exec (.xfence first later) s = .next (s.modIssue fun x =>
      { x with orders := x.orders ++ [{ paths := [later], after := openBefore s k first, hold := true }] }) :=
  congrArg Host.Outcome.next (slot_bare h)

theorem State.modIssue_issue {s : State} {k : Issue} (f : Issue → Issue) (h : s.issue = some k) : (s.modIssue f).issue = some (f k) :=
  congrArg (Option.map f) h

/-! ### The monitor (spec/10 R205, spec/11 R223) -/

/-- The byte whose line the watch is on: that of the copy which a load of the core reads. -/
def watchedByte (s : State) (k : Issue) (x : Seg) : Nat := if x.fab then x.pa else copyAddr s (dieOf (coreOf k.n)) (localPa x.pa) x.frame x.atomic

/-- A byte of this module that no replica holds is watched at its home. -/
theorem watchedByte_home {s : State} {k : Issue} {x : Seg} (hfab : x.fab = false) (hrep : replicaEntry s (localPa x.pa) = none) :
    watchedByte s k x = localPa x.pa := by
  simp [watchedByte, hfab, copyAddr, hrep]

theorem execMon_eq {s : State} {k : Issue} {a : Reg} {x : Seg} (hop : Operable s k (snames [a]) (snames [a]))
    (hx : dataSegs s k.n .s { r := true } (k.rs a) 1 = .ok [x]) :
    exec (.mon a) s = .next ((installSegs s (coreOf k.n) .dtlb (asidOf s k.n) [x]).modSeq k.n fun q =>
      { q with watch := some (watchedByte s k x / 128 * 128, (k.rs a).toNat / 128 * 128, false) }) := by
  refine congrArg Host.Outcome.next ((slot_effect hop rfl rfl rfl rfl (allPass_cons ?translated allPass_nil) rfl).trans ?effect)
  case translated => rw [hx]; rfl
  case effect => rw [hx]; rfl

/-! ### The fill (spec/11 R225) -/

/-- The access of a fill. -/
def fillAccess (s : State) (k : Issue) (b : Reg) (l : List Seg) : Access :=
  { id := 0, path := .x, kind := .fill, data := (operand s k 1 [b] b).toNat, segs := l }
/-- An access with the earlier fills before it, if it is the one of this identity. -/
def afterFills (u : State) (n : Nat) (x : Access) : Access :=
  if x.id = u.nextId then { x with after := x.after ++ ((u.seq n).acc.filter fun y => y.kind = .fill).map fun y => ⟨y.id, .core⟩ } else x
/-- The state after a fill whose address register stays as it is. -/
def filled (s : State) (k : Issue) (b : Reg) (l : List Seg) : State :=
  (issueAccess (popped s k [b]) k .etlb (fillAccess s k b l)).modSeq k.n fun q => { q with acc := q.acc.map (afterFills (popped s k [b]) k.n) }

theorem afterFills_eq (u : State) (n : Nat) (x : Access) : afterFills u n x = { x with after := (afterFills u n x).after } := by
  unfold afterFills
  split <;> rfl

theorem execFill_eq {s : State} {k : Issue} {a b : Reg} {l : List Seg} (hop : Operable s k (snames [a] ++ vnames 1 [b]) (snames [a] ++ vnames 1 [b]))
    (hroom : (s.seq k.n).xf < 63) (hheld : heldBack s k.n .x true = false) (hpath : portPath s k.n [b] [] = true)
    (hports : AllPass (portChecks s k.n [b] [])) (halign : (k.rs a).toNat % 64 = 0)
    (hl : segs s (coreOf k.n) .etlb (asidOf s k.n) .x { w := true } (k.rs a).toNat 512 = .ok l) (p : Bool) :
    exec (.fill a b p) s = .next (if p then (filled s k b l).ws k a (k.rs a + 512) else filled s k b l) := by
  refine congrArg Host.Outcome.next ((slot_effect hop ?ready rfl rfl rfl
    (allPass_cons (misaligned_pass halign) (allPass_cons ?translated hports)) rfl).trans ?effect)
  case ready => simp [Seq.room, Seq.ctr, hroom, hheld, hpath]
  case translated => exact congrArg (xtrap 6) hl
  case effect => simp only [hl]; rfl

section
variable (s : State) (k : Issue) (b : Reg) (l : List Seg)

theorem filled_xf : ((filled s k b l).seq k.n).xf = (s.seq k.n).xf + 1 := by
  obtain ⟨-, -, hpop, -⟩ := popAll_portsOnly s k.n (portsOf [b])
  obtain ⟨ordered, order, hseq⟩ := issueAccess_seq (popped s k [b]) k .etlb (fillAccess s k b l)
  rw [filled, State.seq_modSeq_same, hseq, popped, hpop]
  rfl

/-- One write of the vector stands last in the list; of those before it only what they follow may differ. -/
theorem filled_acc : ∃ x : Access, ((filled s k b l).seq k.n).acc = (s.seq k.n).acc.map (afterFills (popped s k [b]) k.n) ++ [x] ∧
    x.path = .x ∧ x.kind = .fill ∧ x.data = (operand s k 1 [b] b).toNat ∧ x.segs = l ∧ x.pc = k.pc ∧ x.slot = k.pos ∧ x.scope = k.scope := by
  obtain ⟨-, -, hpop, -⟩ := popAll_portsOnly s k.n (portsOf [b])
  obtain ⟨ordered, order, hseq⟩ := issueAccess_seq (popped s k [b]) k .etlb (fillAccess s k b l)
  obtain ⟨hacc, -⟩ := startedSeq_frame ((popped s k [b]).seq k.n) (issuedAs (popped s k [b]) k .etlb (fillAccess s k b l)) ordered order
  have hkept : ((popped s k [b]).seq k.n).acc = (s.seq k.n).acc := by rw [popped, hpop]
  refine ⟨afterFills (popped s k [b]) k.n (issuedAs (popped s k [b]) k .etlb (fillAccess s k b l)), ?_, ?_⟩
  · rw [filled, State.seq_modSeq_same, hseq, hacc, hkept, List.map_append, List.map_singleton]
  · rw [afterFills_eq]
    exact ⟨rfl, rfl, rfl, rfl, rfl, rfl, rfl⟩

theorem filled_frame : (filled s k b l).mem = s.mem ∧ (filled s k b l).issue = s.issue ∧ (filled s k b l).ctxs = s.ctxs ∧
    (∀ g, ((filled s k b l).core g).regs = (s.core g).regs) ∧ ∀ m, m ≠ k.n → (filled s k b l).seq m = s.seq m := by
  obtain ⟨hpop, -, -, hother⟩ := popAll_portsOnly s k.n (portsOf [b])
  obtain ⟨-, hmem, -, hissue, hctxs, hregs, -, -, -, hseqs⟩ := issueAccess_starts (popped s k [b]) k .etlb (fillAccess s k b l)
  refine ⟨hmem.trans ?_, hissue.trans ?_, hctxs.trans ?_, fun g => (hregs g).trans ?regs, fun m hm => ?other⟩
  case regs => rw [popped, hpop]; rfl
  case other => exact (State.seq_modSeq_other _ _ _ _ hm).trans ((hseqs m hm).trans (hother m hm))
  all_goals rw [popped, hpop]

end

/-! ### The start of a copy (spec/11 R226) -/

theorem effAddr_eq (k : Issue) (a : Reg) (imm : BitVec 8) : effAddr k a imm = rriAddr k a imm := congrArg (k.rs a + ·) (immS_eq k imm)

theorem pruneOrders_modSeq (s : State) (n : Nat) (f : Seq → Seq) : (pruneOrders s n).modSeq n f =
    s.setSeq n (f { s.seq n with order := (s.seq n).order.filter fun o => !depsMet s n o.after }) := by
  unfold pruneOrders State.modSeq State.setSeq State.seq
  simp only [tab_getD_put_same, tab_put_put]

/-- What is done to a sequencer does not look at the cores and dies. -/
theorem modSeq_bump_modCore (u : State) (g n : Nat) (f : Core → Core) (h : Seq → Seq) (dies : Tab Die) :
    (({ u.modCore g f with dies := dies } : State).modSeq n h).bump = { (u.modSeq n h).modCore g f with dies := dies, nextId := u.nextId + 1 } := rfl

/-- The state after a copy has joined the FIFO of its channel, its sequencer's counter raised. -/
def copyJoined (s : State) (k : Issue) (ch : Nat) (c : Copy) (dies : Tab Die) (ordered : Bool) (order : List Order) : State :=
  { (s.setSeq k.n ({ (s.seq k.n).raise .xf with ordered := ordered, order := order } : Seq)).modCore (coreOf k.n)
      (fun x => { x with bte := upd x.bte ch fun l => l ++ [c] }) with dies := dies, nextId := s.nextId + 1 }

theorem startCopy_eq (s : State) (k : Issue) (ch : Nat) (w : Word) (rel : Bool) : ∃ (c : Copy) (dies : Tab Die) (ordered : Bool) (order : List Order),
    startCopy s k ch w rel = copyJoined s k ch c dies ordered order ∧
    c.seq = k.n ∧ c.word = w ∧ c.pc = k.pc ∧ c.slot = k.pos ∧ c.read = false := by
  have hclock := fun (c : Copy) => advanceClock_frame rel
    ((pruneOrders s k.n).modCore (coreOf k.n) fun x => { x with bte := upd x.bte ch fun l => l ++ [c] }) (dieOf (coreOf k.n)) k.scope
  unfold startCopy
  dsimp only
  obtain ⟨dies, hdies⟩ := hclock _
  rw [hdies, modSeq_bump_modCore, pruneOrders_modSeq]
  exact ⟨_, dies, _, _, rfl, rfl, rfl, rfl, rfl, rfl⟩

section
variable (s : State) (k : Issue) (ch : Nat) (c : Copy) (dies : Tab Die) (ordered : Bool) (order : List Order)

theorem copyJoined_seq : (copyJoined s k ch c dies ordered order).seq k.n = { (s.seq k.n).raise .xf with ordered := ordered, order := order } :=
  tab_getD_put_same _ _ _ _
theorem copyJoined_core_same : (copyJoined s k ch c dies ordered order).core (coreOf k.n) =
    { s.core (coreOf k.n) with bte := upd (s.core (coreOf k.n)).bte ch fun l => l ++ [c] } :=
  tab_getD_put_same _ _ _ _
theorem copyJoined_regs (g : Nat) : ((copyJoined s k ch c dies ordered order).core g).regs = (s.core g).regs := by
  by_cases hg : g = coreOf k.n
  · rw [hg, copyJoined_core_same]
  · exact congrArg Core.regs (tab_getD_put_other _ _ _ _ _ hg)

end

theorem execSt64_copies {s : State} {k : Issue} {d a : Reg} {imm : BitVec 8} {ch : Nat} (o : Bool) (hop : Operable s k (snames [d, a]) (snames [d, a]))
    (halign : (rriAddr k a imm).toNat % 8 = 0) (hap : apertureOf s k.n (rriAddr k a imm) = some ch) (hroom : (s.seq k.n).xf < 63)
    (hfifo : ((s.core (coreOf k.n)).bte.getD ch []).length < 4) (hx : heldBack s k.n .x true = false) (hs : heldBack s k.n .s true = false) :
    exec (.st64 o d a imm) s = .next (startCopy s k ch (k.rs d) o) := by
  obtain ⟨hissue, hnames, -⟩ := id hop
  have hok : (snames [d, a]).all (Name.ok k.before) = true := List.all_eq_true.2 fun x hx => (hnames x hx).1
  have hchannel : (s.issue.bind fun k => if (snames [d, a]).all (Name.ok k.before) && (effAddr k a imm).toNat % 8 = 0 then
      apertureOf s k.n (effAddr k a imm) else none) = some ch := by
    simp only [hissue, Option.bind_some, effAddr_eq, hok, halign, hap, Bool.true_and, decide_true, if_true]
  change execSt64 o d a imm s = _
  unfold execSt64
  rw [hchannel]
  refine congrArg Host.Outcome.next (slot_runs hop (hr := ?_))
  simp only [Seq.room, Seq.ctr, hroom, hfifo, hx, hs, decide_true, Bool.not_false, Bool.and_true]

/-! ### The obligation -/

/-- Settles O40: fences by the orders they add, the monitor by the line it watches, the fill and the copy by what they put in flight. -/
theorem fencesFillsAndCopies : Obligations.FencesFillsAndCopies := by
  unfold Obligations.FencesFillsAndCopies
  refine ⟨?fence, ?xfence, ?mon, ?fill, ?copy⟩
  case fence =>
    intro s k c h
    obtain ⟨dies, u, hexec⟩ := execFence_eq c h
    refine ⟨_, hexec, ?_, ?_, ?_, rfl, rfl, _, State.modIssue_issue _ h, fenceOrders_kinds u k.n c k.scope⟩
    all_goals rw [ordersJoined_seq]
  case xfence =>
    intro s k first later h
    exact ⟨_, _, execXfence_eq first later h, State.modIssue_issue _ h, rfl, rfl, fun d => mem_openBefore, rfl, rfl, rfl⟩
  case mon =>
    intro s k a x hop hx
    have htlb := tlbOnly_installSegs s (coreOf k.n) .dtlb (asidOf s k.n) [x]
    obtain ⟨hmem, -, hregs⟩ := htlb.sameBytes
    refine ⟨_, watchedByte s k x / 128 * 128, execMon_eq hop hx, ?watch, Nat.mul_mod_left _ _,
      fun hfab hrep => by rw [watchedByte_home hfab hrep], hmem, ?acc, hregs⟩
    case watch => rw [State.seq_modSeq_same]
    case acc => rw [State.seq_modSeq_same, htlb.seq]
  case fill =>
    intro s k a b l hop hroom hheld hpath hports halign hl
    have hexec := execFill_eq hop hroom hheld hpath hports halign hl
    obtain ⟨x, hacc, honX, hkind, hdata, hsegs, hpc, hslot, hscope⟩ := filled_acc s k b l
    refine ⟨filled s k b l, x, hexec false, hexec true, filled_xf s k b l, ?length, ?last, honX, hkind, hdata, hsegs, hpc, hslot, hscope, ?kept,
      filled_frame s k b l⟩
    case length => rw [hacc, List.length_append, List.length_map, List.length_singleton]
    case last => rw [hacc, List.getLast?_concat]
    case kept =>
      intro y hy
      refine ⟨(afterFills (popped s k [b]) k.n y).after, ?_⟩
      rw [← afterFills_eq, hacc]
      exact List.mem_append_left _ (List.mem_map_of_mem hy)
  case copy =>
    intro s k o d a imm ch hop halign hap hroom hfifo hx hs
    obtain ⟨c, dies, ordered, order, hcopy, hseq, hword, hpc, hslot, hread⟩ := startCopy_eq s k ch (k.rs d) o
    have hown := copyJoined_seq s k ch c dies ordered order
    refine ⟨_, c, (execSt64_copies o hop halign hap hroom hfifo hx hs).trans (congrArg _ hcopy), ?xf, ?st,
      congrArg Core.bte (copyJoined_core_same ..), hseq, hword, hpc, hslot, hread, rfl, copyJoined_regs s k ch c dies ordered order⟩
    case xf => rw [hown]; rfl
    case st => rw [hown]; rfl

end Sys2Proof.Machine
end

section
/-! SUPPORT. The slots that start an access: when they run, what they raise, and what they put in flight. -/
namespace Sys2Proof.Machine
open Sys2Proof

/-! ### What a slot does before its access starts (spec/11 R211, spec/13 R253) -/

/-- What a slot may do before its access starts: translations are cached, and of its sequencer the ports change, with their
forwarding buffers and records. -/
structure Prepares (s t : State) (n : Nat) : Prop where
  mem : t.mem = s.mem
  keyOf : t.keyOf = s.keyOf
  issue : t.issue = s.issue
  ctxs : t.ctxs = s.ctxs
  nextId : s.nextId ≤ t.nextId
  regs : ∀ g, (t.core g).regs = (s.core g).regs
  own : t.seq n = { s.seq n with ports := (t.seq n).ports, portst := (t.seq n).portst, fwd := (t.seq n).fwd, again := (t.seq n).again, seen := (t.seq n).seen }
  other : ∀ m, m ≠ n → t.seq m = s.seq m

theorem Prepares.refl (s : State) (n : Nat) : Prepares s s n := ⟨rfl, rfl, rfl, rfl, le_rfl, fun _ => rfl, rfl, fun _ _ => rfl⟩
theorem Prepares.trans {s t u : State} {n : Nat} (h : Prepares s t n) (k : Prepares t u n) : Prepares s u n where
  mem := k.mem.trans h.mem
  keyOf := k.keyOf.trans h.keyOf
  issue := k.issue.trans h.issue
  ctxs := k.ctxs.trans h.ctxs
  nextId := h.nextId.trans k.nextId
  regs g := (k.regs g).trans (h.regs g)
  own := by rw [k.own, h.own]
  other m hm := (k.other m hm).trans (h.other m hm)

theorem PortsOnly.prepares {s t : State} {n : Nat} (h : PortsOnly s t n) : Prepares s t n := by
  obtain ⟨hstate, hid, hown, hother⟩ := h
  constructor
  case nextId => exact hid
  case own => exact hown
  case other => exact hother
  case regs => rw [hstate]; exact fun _ => rfl
  all_goals rw [hstate]

theorem TlbOnly.prepares {s t : State} (h : TlbOnly s t) (n : Nat) : Prepares s t n := by
  obtain ⟨hmem, hkeys, hregs⟩ := h.sameBytes
  constructor
  case mem => exact hmem
  case keyOf => exact hkeys
  case regs => exact hregs
  case own => rw [h.seq]
  case other => exact fun m _ => h.seq m
  case nextId => rw [h.1]
  all_goals rw [h.1]

theorem popped_prepares (s : State) (k : Issue) (src : List Reg) : Prepares s (popped s k src) k.n := (popAll_portsOnly s k.n (portsOf src)).prepares

/-- What starts after such a preparation starts from the state before it. -/
theorem Prepares.starts {s u t : State} {k : Issue} {a : Access} (h : Prepares s u k.n) (hs : Starts u k a t) : Starts s k a t := by
  obtain ⟨⟨id, after, wide, hid, hacc⟩, hmem, hkeys, hissue, hctxs, hregs, hmasks, hpc, hst, hother⟩ := hs
  rw [h.own] at hacc hmasks hpc hst
  exact ⟨⟨id, after, wide, h.nextId.trans hid, hacc⟩, hmem.trans h.mem, hkeys.trans h.keyOf, hissue.trans h.issue, hctxs.trans h.ctxs,
    fun g => (hregs g).trans (h.regs g), hmasks, hpc, hst, fun m hm => (hother m hm).trans (h.other m hm)⟩
theorem Prepares.ctr {s u : State} {n : Nat} (h : Prepares s u n) (c : Ctr) : (u.seq n).ctr c = (s.seq n).ctr c := by
  rw [h.own]
  cases c <;> rfl

/-! ### The counter and the ports of a sequencer that starts an access (spec/19 R358) -/

section
variable (s : State) (k : Issue) (wh : Which) (a : Access)

theorem issueAccess_ctr (h : a.kind.ctr ≠ .none) : ((issueAccess s k wh a).seq k.n).ctr a.kind.ctr = (s.seq k.n).ctr a.kind.ctr + 1 := by
  obtain ⟨ordered, order, hseq⟩ := issueAccess_seq s k wh a
  have hkind : (issuedAs s k wh a).kind = a.kind := rfl
  rw [hseq, startedSeq, hkind]
  cases hc : a.kind.ctr
  case none => exact absurd hc h
  all_goals rfl
theorem issueAccess_ports : ((issueAccess s k wh a).seq k.n).ports = (s.seq k.n).ports ∧ ((issueAccess s k wh a).seq k.n).portst = (s.seq k.n).portst := by
  obtain ⟨ordered, order, hseq⟩ := issueAccess_seq s k wh a
  rw [hseq, startedSeq]
  cases (issuedAs s k wh a).kind.ctr <;> exact ⟨rfl, rfl⟩

end

/-- An access started after a preparation: it is in flight, and its counter has risen. -/
theorem Prepares.starts_access {s u : State} {k : Issue} (h : Prepares s u k.n) (wh : Which) {a : Access} (hc : a.kind.ctr ≠ .none) :
    ((issueAccess u k wh a).seq k.n).ctr a.kind.ctr = (s.seq k.n).ctr a.kind.ctr + 1 ∧ Starts s k a (issueAccess u k wh a) :=
  ⟨by rw [issueAccess_ctr u k wh a hc, h.ctr], h.starts (issueAccess_starts u k wh a)⟩

/-! ### A slot of one access (spec/11 R209-R211) -/

theorem xtrap_pass {α : Type} {r : Except XFault α} {x : α} (h : r = .ok x) (access : Nat) : xtrap access r = none := by rw [h]; rfl

section
variable {s : State} {k : Issue} {names reads : List Name} {path : Path} {c : Ctr} {writes : Bool} {checks : Issue → List (Option Trap)}
  {access : Issue → Access} {ready fmtOk : Issue → Bool} {before : Issue → State → State} {wh : Which}
  (hop : Operable s k names reads) (hroom : (s.seq k.n).ctr c < 63) (hheld : heldBack s k.n path writes = false)
include hop hroom hheld

theorem memSlot_issues (hchecks : AllPass (checks k)) (hready : ready k = true := by rfl) (hfmt : fmtOk k = true := by rfl) :
    memSlot s names reads path c writes checks access ready fmtOk before wh = issueAccess (before k s) k wh (access k) :=
  slot_effect hop (by simp [Seq.room, hroom, hheld, hready]) rfl rfl hfmt hchecks rfl

theorem memSlot_traps {t : Trap} (hchecks : firstSome (checks k) = some t) (hready : ready k = true := by rfl) (hfmt : fmtOk k = true := by rfl) :
    memSlot s names reads path c writes checks access ready fmtOk before wh = s.raise 4 t :=
  slot_checks hop (by simp [Seq.room, hroom, hheld, hready]) rfl rfl hfmt hchecks

end

end Sys2Proof.Machine
end

section
/-! PROOF. Scalar and vector loads and stores: the access they start, and what a bad address raises. -/
namespace Sys2Proof.Machine
open Sys2Proof

/-! ### The checks of an address (spec/11 R209, R210) -/

section
variable {s : State} {a : Word} {n access : Nat} {r : Except XFault (List Seg)} {rest : List (Option Trap)}

theorem addressChecks_pass {l : List Seg} (halign : a.toNat % n = 0) (hr : r = .ok l) (hrest : AllPass rest) :
    AllPass ([misaligned a n, xtrap access r] ++ rest) :=
  allPass_cons (misaligned_pass halign) (allPass_cons (xtrap_pass hr access) hrest)
theorem addressChecks_misaligned (h : a.toNat % n ≠ 0) :
    firstSome [misaligned a n, xtrap access r] = some { cause := .misaligned, addr := a.toNat } := by
  rw [misaligned, if_neg h]
  rfl
theorem addressChecks_untranslated {e : XFault} (halign : a.toNat % n = 0) (hr : r = .error e) :
    firstSome [misaligned a n, xtrap access r] = some (e.trap access) := by
  rw [misaligned_pass halign, hr]
  rfl

end

/-! ### Scalar loads (spec/11 R214) -/

section
variable {s : State} {k : Issue} {n : Nat} {signed f o : Bool} {d a : Reg} {imm : BitVec 8}
  (hop : Operable s k (snames [d, a]) (snames [a])) (hroom : (s.seq k.n).ld < 63) (hheld : heldBack s k.n .s false = false)
include hop hroom hheld

theorem loadSlot_issues {l : List Seg} (halign : (rriAddr k a imm).toNat % n = 0) (hl : dataSegs s k.n .s { r := true } (rriAddr k a imm) n = .ok l) :
    loadSlot s n signed f o d a imm =
      issueAccess s k .dtlb { id := 0, path := .s, kind := .load (scalarDest k d) n signed, fresh := f, acq := o, segs := l } := by
  rw [← effAddr_eq] at halign hl
  refine (memSlot_issues (c := .ld) hop hroom hheld (addressChecks_pass halign hl allPass_nil)).trans ?_
  rw [hl]; rfl
theorem loadSlot_misaligned (h : (rriAddr k a imm).toNat % n ≠ 0) :
    loadSlot s n signed f o d a imm = s.raise 4 { cause := .misaligned, addr := (rriAddr k a imm).toNat } := by
  rw [← effAddr_eq] at h ⊢
  exact memSlot_traps (c := .ld) hop hroom hheld (addressChecks_misaligned h)
theorem loadSlot_untranslated {e : XFault} (halign : (rriAddr k a imm).toNat % n = 0)
    (he : dataSegs s k.n .s { r := true } (rriAddr k a imm) n = .error e) : loadSlot s n signed f o d a imm = s.raise 4 (e.trap 0) := by
  rw [← effAddr_eq] at halign he
  exact memSlot_traps (c := .ld) hop hroom hheld (addressChecks_untranslated halign he)

end

/-- An instruction that is a load of `n` bytes starts one, or traps at its address. -/
theorem loadStarts_of {i : Bool → Bool → Reg → Reg → BitVec 8 → Instr} {n : Nat} {signed : Bool}
    (hi : ∀ f o d a imm s, exec (i f o d a imm) s = .next (loadSlot s n signed f o d a imm)) : LoadStarts i n signed := by
  intro s k f o d a imm l hop hroom hheld halign hl
  obtain ⟨hld, hstarts⟩ := (Prepares.refl s k.n).starts_access .dtlb
    (a := { id := 0, path := .s, kind := .load (scalarDest k d) n signed, fresh := f, acq := o, segs := l }) nofun
  exact ⟨_, (hi ..).trans (congrArg _ (loadSlot_issues hop hroom hheld halign hl)), hld, hstarts⟩
theorem loadTraps_of {i : Bool → Bool → Reg → Reg → BitVec 8 → Instr} {n : Nat} {signed : Bool}
    (hi : ∀ f o d a imm s, exec (i f o d a imm) s = .next (loadSlot s n signed f o d a imm)) : LoadTraps i n := by
  intro s k f o d a imm hop hroom hheld
  exact ⟨fun h => (hi ..).trans (congrArg _ (loadSlot_misaligned hop hroom hheld h)),
    fun e halign he => (hi ..).trans (congrArg _ (loadSlot_untranslated hop hroom hheld halign he))⟩

/-! ### Scalar stores (spec/11 R214, R226) -/

section
variable {s : State} {k : Issue} {n : Nat} {o : Bool} {d a : Reg} {imm : BitVec 8}
  (hop : Operable s k (snames [d, a]) (snames [d, a])) (hroom : (s.seq k.n).st_ < 63) (hheld : heldBack s k.n .s true = false)
include hop hroom hheld

theorem storeSlot_issues {l : List Seg} (halign : (rriAddr k a imm).toNat % n = 0) (hl : dataSegs s k.n .s { w := true } (rriAddr k a imm) n = .ok l) :
    storeSlot s n o d a imm =
      issueAccess s k .dtlb { id := 0, path := .s, kind := .store, rel := o, data := (k.rs d).toNat % 2 ^ (8 * n), segs := l } := by
  rw [← effAddr_eq] at halign hl
  refine (memSlot_issues (c := .st) hop hroom hheld (addressChecks_pass halign hl allPass_nil)).trans ?_
  rw [hl]; rfl
theorem storeSlot_misaligned (h : (rriAddr k a imm).toNat % n ≠ 0) :
    storeSlot s n o d a imm = s.raise 4 { cause := .misaligned, addr := (rriAddr k a imm).toNat } := by
  rw [← effAddr_eq] at h ⊢
  exact memSlot_traps (c := .st) hop hroom hheld (addressChecks_misaligned h)
theorem storeSlot_untranslated {e : XFault} (halign : (rriAddr k a imm).toNat % n = 0)
    (he : dataSegs s k.n .s { w := true } (rriAddr k a imm) n = .error e) : storeSlot s n o d a imm = s.raise 4 (e.trap 1) := by
  rw [← effAddr_eq] at halign he
  exact memSlot_traps (c := .st) hop hroom hheld (addressChecks_untranslated halign he)

end

/-- An instruction that is a store of `n` bytes, one of 8 bytes only outside the core's own aperture. -/
def IsStore (i : Bool → Reg → Reg → BitVec 8 → Instr) (n : Nat) : Prop :=
  ∀ s k o d a imm, s.issue = some k → (n = 8 → (rriAddr k a imm).toNat % n = 0 → apertureOf s k.n (rriAddr k a imm) = none) →
    exec (i o d a imm) s = .next (storeSlot s n o d a imm)

theorem isStore_st8 : IsStore .st8 1 := fun _ _ _ _ _ _ _ _ => rfl
theorem isStore_st16 : IsStore .st16 2 := fun _ _ _ _ _ _ _ _ => rfl
theorem isStore_st32 : IsStore .st32 4 := fun _ _ _ _ _ _ _ _ => rfl
theorem isStore_st64 : IsStore .st64 8 := by
  intro s k o d a imm hissue hap
  have hchannel : (s.issue.bind fun k => if (snames [d, a]).all (Name.ok k.before) && (effAddr k a imm).toNat % 8 = 0 then
      apertureOf s k.n (effAddr k a imm) else none) = none := by
    simp only [hissue, Option.bind_some, effAddr_eq]
    split
    next h => exact hap rfl (by simpa using (Bool.and_eq_true_iff.mp h).2)
    next => rfl
  change execSt64 o d a imm s = _
  rw [execSt64, hchannel]

theorem IsStore.starts {i : Bool → Reg → Reg → BitVec 8 → Instr} {n : Nat} (hi : IsStore i n) : StoreStarts i n := by
  intro s k o d a imm l hop hroom hheld halign hl hap
  obtain ⟨hst, hstarts⟩ := (Prepares.refl s k.n).starts_access .dtlb
    (a := { id := 0, path := .s, kind := .store, rel := o, data := (k.rs d).toNat % 2 ^ (8 * n), segs := l }) nofun
  exact ⟨_, (hi s k o d a imm hop.1 fun h8 _ => hap h8).trans (congrArg _ (storeSlot_issues hop hroom hheld halign hl)), hst, hstarts⟩
theorem IsStore.traps {i : Bool → Reg → Reg → BitVec 8 → Instr} {n : Nat} (hi : IsStore i n) : StoreTraps i n := by
  intro s k o d a imm hop hroom hheld hap
  have hexec := hi s k o d a imm hop.1 fun h8 _ => hap h8
  exact ⟨fun h => hexec.trans (congrArg _ (storeSlot_misaligned hop hroom hheld h)),
    fun e halign he => hexec.trans (congrArg _ (storeSlot_untranslated hop hroom hheld halign he))⟩

/-! ### Where a vector load delivers (spec/11 R215, spec/13 R253, R254, spec/15 R295) -/

section
variable {s : State} {k : Issue} {p : Nat}

theorem pushPort_prepares (s : State) (k : Issue) (p : Nat) (v : Vec) : Prepares s (pushPort s k p v) k.n := by
  have hpush : ∀ u id w l, Prepares u ((u.modSeq k.n fun q => pushSeq q p id v w l (fencedOn q .p true) k.pc k.pos k.held).bump) k.n := fun u id w l =>
    ((portsOnly_modSeq u k.n _ fun q => by unfold pushSeq; dsimp only; split <;> rfl).trans (portsOnly_bump _ k.n)).prepares
  unfold pushPort
  dsimp only
  split
  · exact ((tlbOnly_installSegs s _ _ _ _).prepares k.n).trans (hpush ..)
  · exact hpush ..

theorem setPortst_portsOnly (s : State) (n b : Nat) : PortsOnly s (setPortst s n b) n := portsOnly_modSeq s n _ fun _ => rfl
theorem loadIntoPort_dead (h : portLive ((s.seq k.n).ports.getD p {}) true = false) : loadIntoPort s k p = (setPortst s k.n (8 + p), .discard) := by
  rw [loadIntoPort]
  exact if_pos (congrArg Bool.not h)

/-- An entry without its vector, if it is the one of this identity. -/
def sansVector (id : Nat) (e : PortEntry) : PortEntry := if e.id = id then { e with vec := none } else e

/-- The state after a load into a live port has issued: the entry that it took waits for its vector. -/
def entryTaken (s : State) (k : Issue) (p : Nat) : State := (pushPort s k p 0).modSeq k.n fun q =>
  { q with fwd := (s.seq k.n).fwd, ports := upd q.ports p fun x => { x with buf := x.buf.map (sansVector s.nextId) } }

theorem loadIntoPort_live (h : portLive ((s.seq k.n).ports.getD p {}) true = true) :
    loadIntoPort s k p = (entryTaken s k p, .port p s.nextId) := by
  rw [loadIntoPort]
  exact if_neg (by rw [h]; decide)

theorem entryTaken_prepares (s : State) (k : Issue) (p : Nat) : Prepares s (entryTaken s k p) k.n :=
  (pushPort_prepares s k p 0).trans (portsOnly_modSeq _ k.n _ fun _ => rfl).prepares
theorem loadIntoPort_prepares (s : State) (k : Issue) (p : Nat) : Prepares s (loadIntoPort s k p).1 k.n := by
  cases h : portLive ((s.seq k.n).ports.getD p {}) true
  case false =>
    rw [loadIntoPort_dead h]
    exact (setPortst_portsOnly s k.n (8 + p)).prepares
  case true =>
    rw [loadIntoPort_live h]
    exact entryTaken_prepares s k p

theorem vectorDest_prepares (s : State) (k : Issue) (w : Nat) (d : Reg) : Prepares s (vectorDest s k w d).1 k.n := by
  unfold vectorDest
  split
  · exact loadIntoPort_prepares s k _
  · exact .refl s k.n

/-- A live port is one that its sequencer has. -/
theorem port_of_live {q : Seq} {out : Bool} (h : portLive (q.ports.getD p {}) out = true) : p < q.ports.length := by
  by_contra hp
  rw [List.getD_eq_default _ _ (Nat.le_of_not_lt hp)] at h
  exact absurd h (by simp [portLive])

theorem upd_getD {α : Type} {l : List α} {p : Nat} (h : p < l.length) (g : α → α) (z : α) : (upd l p g).getD p z = g (l.getD p z) := by
  rw [List.getD_eq_getElem?_getD, upd_getElem? h g z]
  rfl

theorem pushPort_seq (s : State) (k : Issue) (p : Nat) (v : Vec) : ∃ after, (pushPort s k p v).seq k.n =
    pushSeq (s.seq k.n) p s.nextId v (pushWrites s k.n p) (segsOk (pushSegs s k.n p)) after k.pc k.pos k.held := by
  have htlb : TlbOnly s (if pushWrites s k.n p then installSegs s (coreOf k.n) .etlb (asidOf s k.n) (segsOk (pushSegs s k.n p)) else s) := by
    split
    · exact tlbOnly_installSegs ..
    · exact .refl s
  have hid := congrArg State.nextId htlb.1
  refine ⟨fencedOn (s.seq k.n) .p true, ?_⟩
  rw [pushPort, State.seq_bump, State.seq_modSeq_same, htlb.seq, hid]

/-- The buffer of a live port after a load into it has issued: where the push writes memory, one entry more, without its vector. -/
theorem loadIntoPort_buf (h : portLive ((s.seq k.n).ports.getD p {}) true = true) : ∃ e : PortEntry, e.id = s.nextId ∧ e.vec = none ∧
    (((loadIntoPort s k p).1.seq k.n).ports.getD p {}).buf =
      ((s.seq k.n).ports.getD p {}).buf.map (sansVector s.nextId) ++ if pushWrites s k.n p then [e] else [] := by
  obtain ⟨after, hseq⟩ := pushPort_seq s k p 0
  have hp := port_of_live h
  refine ⟨{ id := s.nextId, segs := segsOk (pushSegs s k.n p), after := after, pc := k.pc, slot := k.pos, held := k.held }, rfl, rfl, ?_⟩
  rw [loadIntoPort_live h, entryTaken, State.seq_modSeq_same, hseq]
  rw [pushSeq]
  dsimp only
  rw [if_neg (by rw [h]; decide), upd_getD (by rw [upd, List.length_modify]; exact hp), upd_getD hp]
  cases pushWrites s k.n p
  case false => exact (List.append_nil _).symm
  case true => simp only [if_true, List.map_append, List.map_cons, List.map_nil, sansVector]

theorem vectorDest_goes {t : State} {w : Nat} {d : Reg} (hports : (t.seq k.n).ports = ((vectorDest s k w d).1.seq k.n).ports)
    (hportst : (t.seq k.n).portst = ((vectorDest s k w d).1.seq k.n).portst) : VectorGoes s t k w d (vectorDest s k w d).2 := by
  unfold VectorGoes
  unfold vectorDest at hports hportst ⊢
  cases hd : portOf d
  case none => exact ⟨fun _ => by rw [elemOff, Nat.mul_comm], nofun⟩
  case some p =>
    simp only [hd] at hports hportst ⊢
    refine ⟨nofun, ?_⟩
    rintro _ ⟨⟩
    refine ⟨fun hdead => ?dead, fun hlive => ?live⟩
    case dead =>
      rw [loadIntoPort_dead hdead] at hportst ⊢
      exact ⟨rfl, hportst.trans (by rw [setPortst, State.seq_modSeq_same])⟩
    case live =>
      obtain ⟨e, hid, hvec, hbuf⟩ := loadIntoPort_buf hlive
      rw [← hports] at hbuf
      refine ⟨s.nextId, by rw [loadIntoPort_live hlive], le_rfl, fun hwrites => ⟨e, ?_, ?_, hid, hvec⟩, fun hkeeps => ?_⟩
      · rw [hbuf, if_pos hwrites, List.getLast?_concat]
      · rw [hbuf, if_pos hwrites, List.length_append, List.length_map, List.length_singleton]
      · rw [hbuf, hkeeps]
        simp

end

/-! ### A slot that loads one vector (spec/11 R215, R216) -/

/-- The access of a vector load, its destination taken after the pops of the slot. -/
def vectorAccess (s : State) (k : Issue) (w : Nat) (d : Reg) (src : List Reg) (f o : Bool) (l : List Seg) : Access :=
  { id := 0, path := .s, kind := .load (vectorDest (popped s k src) k w d).2 512 false, fresh := f, acq := o, segs := l }

theorem vectorLoad_issues {s : State} {k : Issue} {names reads : List Name} {w : Nat} {d : Reg} {src : List Reg}
    {checks : Issue → List (Option Trap)} {l : Issue → List Seg} {f o : Bool} {fmtOk : Issue → Bool} (hop : Operable s k names reads)
    (hroom : (s.seq k.n).ld < 63) (hheld : heldBack s k.n .s false = false) (hpath : portPath s k.n src [d] = true) (hchecks : AllPass (checks k))
    (hfmt : fmtOk k = true := by rfl) : vectorLoad s names reads w d src checks l f o fmtOk =
      issueAccess (vectorDest (popped s k src) k w d).1 k .dtlb (vectorAccess s k w d src f o (l k)) :=
  slot_effect hop (by simp [Seq.room, Seq.ctr, hroom, hheld, hpath]) rfl rfl hfmt hchecks rfl

theorem vectorLoad_starts (s : State) (k : Issue) (w : Nat) (d : Reg) (src : List Reg) (f o : Bool) (l : List Seg) :
    let t := issueAccess (vectorDest (popped s k src) k w d).1 k .dtlb (vectorAccess s k w d src f o l)
    (t.seq k.n).ld = (s.seq k.n).ld + 1 ∧ VectorGoes (popped s k src) t k w d (vectorDest (popped s k src) k w d).2 ∧
      Starts s k (vectorAccess s k w d src f o l) t := by
  obtain ⟨hld, hstarts⟩ := ((popped_prepares s k src).trans (vectorDest_prepares (popped s k src) k w d)).starts_access .dtlb
    (a := vectorAccess s k w d src f o l) nofun
  obtain ⟨hports, hportst⟩ := issueAccess_ports (vectorDest (popped s k src) k w d).1 k .dtlb (vectorAccess s k w d src f o l)
  exact ⟨hld, vectorDest_goes hports hportst, hstarts⟩

/-! ### The obligations -/

/-- Settles O36: a load or a store whose checks pass puts its access in flight; a vector load has its destination first. -/
theorem loadsAndStoresStart : Obligations.LoadsAndStoresStart := by
  unfold Obligations.LoadsAndStoresStart
  refine ⟨loadStarts_of fun _ _ _ _ _ _ => rfl, loadStarts_of fun _ _ _ _ _ _ => rfl, loadStarts_of fun _ _ _ _ _ _ => rfl,
    loadStarts_of fun _ _ _ _ _ _ => rfl, loadStarts_of fun _ _ _ _ _ _ => rfl, loadStarts_of fun _ _ _ _ _ _ => rfl,
    loadStarts_of fun _ _ _ _ _ _ => rfl, isStore_st8.starts, isStore_st16.starts, isStore_st32.starts, isStore_st64.starts, ?vld, ?vst⟩
  case vld =>
    intro s k f o d a imm l hop hroom hheld hpath hports halign hl
    obtain ⟨hld, hgoes, hstarts⟩ := vectorLoad_starts s k 1 d [] f o l
    rw [← effAddr_eq] at halign hl
    refine ⟨_, _, (congrArg Host.Outcome.next (vectorLoad_issues hop hroom hheld hpath (addressChecks_pass halign hl hports))).trans ?_, hld, hgoes, hstarts⟩
    rw [hl]; rfl
  case vst =>
    intro s k o d a imm l hop hroom hheld hpath hports halign hl
    obtain ⟨hst, hstarts⟩ := (popped_prepares s k [d]).starts_access .dtlb
      (a := { id := 0, path := .s, kind := .store, rel := o, data := (operand s k 1 [d] d).toNat, segs := l }) nofun
    rw [← effAddr_eq] at halign hl
    refine ⟨_, (congrArg Host.Outcome.next (memSlot_issues (c := .st) hop hroom hheld (addressChecks_pass halign hl hports) hpath)).trans ?_, hst, hstarts⟩
    rw [hl]; rfl

/-- Settles O37: the first check of the address that fails raises its trap. -/
theorem loadsAndStoresTrap : Obligations.LoadsAndStoresTrap := by
  unfold Obligations.LoadsAndStoresTrap
  refine ⟨loadTraps_of fun _ _ _ _ _ _ => rfl, loadTraps_of fun _ _ _ _ _ _ => rfl, loadTraps_of fun _ _ _ _ _ _ => rfl,
    loadTraps_of fun _ _ _ _ _ _ => rfl, loadTraps_of fun _ _ _ _ _ _ => rfl, loadTraps_of fun _ _ _ _ _ _ => rfl,
    loadTraps_of fun _ _ _ _ _ _ => rfl, isStore_st8.traps, isStore_st16.traps, isStore_st32.traps, ?st64⟩
  case st64 =>
    intro s k o d a imm hop hroom hheld h
    exact (isStore_st64 s k o d a imm hop.1 fun _ halign => absurd halign h).trans (congrArg _ (storeSlot_misaligned hop hroom hheld h))

end Sys2Proof.Machine
end

section
/-! PROOF. Gathers, scatters, and the operations of the banks. -/
namespace Sys2Proof.Machine
open Sys2Proof

/-! ### Gathers and scatters (spec/11 R216) -/

theorem lane_signExtend (v : Vec) (e : Nat) : BitVec.ofInt 64 (toInt 32 (v.toNat / 2 ^ (32 * e) % 2 ^ 32)) = (v.extractLsb' (32 * e) 32).signExtend 64 := by
  have hlane : v.toNat / 2 ^ (32 * e) % 2 ^ 32 = (v.extractLsb' (32 * e) 32).toNat := by
    rw [BitVec.extractLsb'_toNat, Nat.shiftRight_eq_div_pow]
  rw [hlane, toInt_toNat]
  rfl

/-- The address and the place of each element. -/
theorem gatherAddrs_eq (f : Fmt) (base : Word) (v : Vec) : gatherAddrs f base v =
    (List.range (count f)).map fun e => (base + (v.extractLsb' (32 * e) 32).signExtend 64, e * (Fp.width f / 8)) := by
  refine List.ext_getElem (by simp [gatherAddrs, elems_eq]) fun e _ _ => ?_
  simp only [gatherAddrs, elems_eq, List.getElem_map, List.getElem_zipIdx, List.getElem_range, lane_signExtend, Nat.zero_add]

theorem accGather_of_mem {f : Fmt} (h : f ∈ [Fmt.f32, .f64, .i32, .i64, .z32, .z64]) : accGather f = true :=
  (show ∀ f ∈ [Fmt.f32, .f64, .i32, .i64, .z32, .z64], accGather f = true by decide) f h

/-- Settles O38: the plan of the elements is that of the index vector, and the access takes its segments. -/
theorem gathersAndScattersStart : Obligations.GathersAndScattersStart := by
  unfold Obligations.GathersAndScattersStart
  refine ⟨?gather, ?scatter⟩
  case gather =>
    intro s k f o d a b m l hop hroom hheld hpath hports hfmt hl
    obtain ⟨hld, hgoes, hstarts⟩ := vectorLoad_starts s k (viewOfM m) d [b] f o l
    rw [← gatherAddrs_eq] at hl
    refine ⟨_, _, (congrArg Host.Outcome.next (vectorLoad_issues hop hroom hheld hpath (hports.append (allPass_singleton ?plan))
      (accGather_of_mem hfmt))).trans ?_, hld, hgoes, hstarts⟩
    case plan => exact congrArg gatherTrap hl
    exact congrArg (fun r => Host.Outcome.next (issueAccess _ k .dtlb (vectorAccess s k (viewOfM m) d [b] f o (gatherList r)))) hl
  case scatter =>
    intro s k o d a b m l hop hroom hheld hpath hports hfmt hl
    obtain ⟨hst, hstarts⟩ := (popped_prepares s k [d, b]).starts_access .dtlb
      (a := { id := 0, path := .s, kind := .store, rel := o, segs := l, data := (operand s k (viewOfM m) [d, b] d).toNat }) nofun
    rw [← gatherAddrs_eq] at hl
    refine ⟨_, (congrArg Host.Outcome.next (memSlot_issues (c := .st) hop hroom hheld (hports.append (allPass_singleton ?plan)) hpath (accGather_of_mem hfmt))).trans ?_,
      hst, hstarts⟩
    case plan => exact congrArg gatherTrap hl
    exact congrArg (fun r => Host.Outcome.next (issueAccess (popped s k [d, b]) k .dtlb
      { id := 0, path := .s, kind := .store, rel := o, segs := gatherList r, data := (operand s k (viewOfM m) [d, b] d).toNat })) hl

/-! ### Checks of a bank's object (spec/11 R218, spec/19 R363) -/

section
variable {r : Except XFault (List Seg)} {l : List Seg} (hr : r = .ok l) (t : Trap)
include hr

theorem homedCheck_pass (h : ∀ x ∈ l, bauHomed (localPa x.pa) = true) : (if bauAny (segsOk r) then none else some t) = none :=
  if_pos (by rw [hr]; exact List.all_eq_true.2 h)
theorem hereCheck_pass (h : ∀ x ∈ l, x.fab = false ∧ bauHomed (localPa x.pa) = true) : (if bauHere (segsOk r) then none else some t) = none :=
  if_pos (by rw [hr]; exact List.all_eq_true.2 fun x hx => by simp [h x hx])

end

/-! ### Bank atomics and `vbred` (spec/11 R217-R219) -/

theorem bankStarts_of {i : Reg → Reg → Reg → BankTy → Instr} {op : BankOp}
    (hi : ∀ d a b ty s, exec (i d a b ty) s = .next (bankSlot s op d a b ty)) : BankStarts i op := by
  intro s k d a b ty l hop hroom hheld halign hl hhomed
  obtain ⟨hld, hstarts⟩ := (Prepares.refl s k.n).starts_access .dtlb
    (a := { id := 0, path := .b, kind := .bank op ty (k.rs b) (k.rs d) (scalarDest k d), acq := true, rel := true, segs := l }) nofun
  refine ⟨_, (hi ..).trans (congrArg _ ((memSlot_issues (c := .ld) hop hroom hheld
    (addressChecks_pass halign hl (allPass_singleton (homedCheck_pass hl _ hhomed)))).trans ?_)), hld, hstarts⟩
  simp only [bankTyBytes, hl]
  rfl

theorem accVbred_of_mem {f : Fmt} (h : f ∈ [Fmt.f32, .f16, .bf16, .i32, .z32, .i16, .z16]) : accVbred f = true :=
  (show ∀ f ∈ [Fmt.f32, .f16, .bf16, .i32, .z32, .i16, .z16], accVbred f = true by decide) f h

/-! ### Updates of barriers and join objects (spec/13 R267, spec/19 R362, R363) -/

theorem updateSlot_issues {s : State} {k : Issue} {a b : Reg} {own : Issue → List (Option Trap)} {al : Nat} {kind : Issue → AccKind}
    {sc : Issue → Scope} {l : List Seg} (hop : Operable s k (snames [a, b]) (snames [a, b])) (hroom : (s.seq k.n).st_ < 63)
    (hheld : heldBack s k.n .b true = false) (hown : AllPass (own k)) (halign : (k.rs a).toNat % al = 0)
    (hl : barrierSegs s k.n { r := true, w := true } (k.rs a) al = .ok l) (hhomed : ∀ x ∈ l, x.fab = false ∧ bauHomed (localPa x.pa) = true) :
    updateSlot s a b own al al kind sc =
      issueAccess s { k with scope := sc k } .dtlb { id := 0, path := .b, kind := kind k, acq := true, rel := true, segs := l } := by
  unfold updateSlot
  refine (slot_effect hop ?ready rfl rfl rfl ?checks rfl).trans ?effect
  case ready => simp [Seq.room, Seq.ctr, hroom, hheld]
  case checks => exact hown.append (addressChecks_pass halign hl (allPass_singleton (hereCheck_pass hl _ hhomed)))
  case effect => simp only [hl]; rfl

theorem updateStarts_of {i : Reg → Reg → Instr} {al : Nat} {ok : Issue → Reg → Reg → Prop} {kind : Issue → Reg → Reg → AccKind} {sc : Issue → Scope}
    {own : Issue → Reg → Reg → List (Option Trap)}
    (hi : ∀ a b s, exec (i a b) s = .next (updateSlot s a b (fun k => own k a b) al al (fun k => kind k a b) sc))
    (hown : ∀ k a b, ok k a b → AllPass (own k a b)) (hst : ∀ k a b, (kind k a b).ctr = .st) : UpdateStarts i al ok kind sc := by
  intro s k a b l hop hroom hheld hok halign hl hhomed
  obtain ⟨hctr, hstarts⟩ := (Prepares.refl s k.n).starts_access .dtlb (k := { k with scope := sc k })
    (a := { id := 0, path := .b, kind := kind k a b, acq := true, rel := true, segs := l }) (by rw [hst]; decide)
  rw [hst] at hctr
  exact ⟨_, (hi ..).trans (congrArg _ (updateSlot_issues hop hroom hheld (hown k a b hok) halign hl hhomed)), hctr, hstarts⟩

/-- Settles O39: aligned, translated and homed at a BAU, each operation puts its access of path B in flight. -/
theorem bankOperationsStart : Obligations.BankOperationsStart := by
  unfold Obligations.BankOperationsStart
  refine ⟨bankStarts_of fun _ _ _ _ _ => rfl, bankStarts_of fun _ _ _ _ _ => rfl, bankStarts_of fun _ _ _ _ _ => rfl, bankStarts_of fun _ _ _ _ _ => rfl,
    bankStarts_of fun _ _ _ _ _ => rfl, bankStarts_of fun _ _ _ _ _ => rfl, bankStarts_of fun _ _ _ _ _ => rfl, bankStarts_of fun _ _ _ _ _ => rfl,
    ?vbred, ?tbinit, ?tbexp, ?tbarv, ?jinit⟩
  case vbred =>
    intro s k a b q l hop hroom hheld hpath hports hfmt halign hl hhomed
    obtain ⟨hst, hstarts⟩ := (popped_prepares s k [b]).starts_access .dtlb
      (a := { id := 0, path := .b, kind := .vbred q (fmtVF k.fmt), rel := true, data := (operand s k 1 [b] b).toNat, segs := l }) nofun
    refine ⟨_, (congrArg Host.Outcome.next (memSlot_issues (c := .st) hop hroom hheld
      (addressChecks_pass halign hl (allPass_cons (homedCheck_pass hl _ hhomed) hports)) hpath (accVbred_of_mem hfmt))).trans ?_, hst, hstarts⟩
    simp only [hl]
    rfl
  case tbinit => exact updateStarts_of (fun _ _ _ => rfl) (fun k a b h => allPass_need (decide_eq_true h)) fun _ _ _ => rfl
  case tbexp | tbarv | jinit => exact updateStarts_of (own := fun _ _ _ => []) (fun _ _ _ => rfl) (fun _ _ _ _ => allPass_nil) fun _ _ _ => rfl

end Sys2Proof.Machine
end

section
/-! PROOF. The new values of bank atomics, and the fields of a barrier after an update. -/
namespace Sys2Proof.Machine
open Sys2Proof

/-! ### Bank arithmetic (spec/11 R217) -/

theorem intVal_i32 (x : BitVec 32) : Fp.intVal .i32 x.toNat = x.toInt := toInt_toNat x
theorem intVal_z32 (x : BitVec 32) : Fp.intVal .z32 x.toNat = x.toNat := congrArg Int.ofNat (Nat.mod_eq_of_lt x.isLt)

/-- The integer types of 32 bits: a sum modulo 2^32, the operations of bits, and the swaps. -/
theorem bankNew_word {ty : BankTy} (h : ty ∈ [BankTy.i32, .z32]) (old y c : BitVec 32) :
    bankNew .add ty old.toNat y.toNat c.toNat = (old + y).toNat ∧
    bankNew .and ty old.toNat y.toNat c.toNat = (old &&& y).toNat ∧ bankNew .or ty old.toNat y.toNat c.toNat = (old ||| y).toNat ∧
    bankNew .xor ty old.toNat y.toNat c.toNat = (old ^^^ y).toNat ∧ bankNew .swap ty old.toNat y.toNat c.toNat = y.toNat ∧
    bankNew .cas ty old.toNat y.toNat c.toNat = if old = c then y.toNat else old.toNat := by
  have hwidth : Fp.width (bankFmt ty) = 32 := (show ∀ ty ∈ [BankTy.i32, .z32], Fp.width (bankFmt ty) = 32 by decide) ty h
  have hfloat : ty ≠ .f32 := by rintro rfl; simp at h
  simp [bankNew, hwidth, hfloat, Nat.mod_eq_of_lt y.isLt, Nat.mod_eq_of_lt c.isLt, BitVec.toNat_inj]

/-- The type of 64 bits. -/
theorem bankNew_long (old y c : BitVec 64) : bankNew .add .i64 old.toNat y.toNat c.toNat = (old + y).toNat ∧
    bankNew .cas .i64 old.toNat y.toNat c.toNat = if old = c then y.toNat else old.toNat := by
  have hwidth : Fp.width (bankFmt .i64) = 64 := rfl
  simp [bankNew, hwidth, Nat.mod_eq_of_lt y.isLt, Nat.mod_eq_of_lt c.isLt, BitVec.toNat_inj]

/-- The lesser and the greater of two words in the order of their type. -/
theorem bankNew_order {ty : BankTy} (h : ty ∈ [BankTy.i32, .z32]) (old y : BitVec 32) (c : Nat) :
    bankNew .min ty old.toNat y.toNat c = (if Fp.intVal (bankFmt ty) old.toNat ≤ Fp.intVal (bankFmt ty) y.toNat then old else y).toNat ∧
    bankNew .max ty old.toNat y.toNat c = (if Fp.intVal (bankFmt ty) old.toNat ≤ Fp.intVal (bankFmt ty) y.toNat then y else old).toNat := by
  obtain ⟨hwidth, hint⟩ := (show ∀ ty ∈ [BankTy.i32, .z32], Fp.width (bankFmt ty) = 32 ∧ Fp.isF (bankFmt ty) = false by decide) ty h
  have hmax := eMinMax_max (f := bankFmt ty) (x := old.toNat) (y := y.toNat) (by rw [hwidth]; exact old.isLt) (by rw [hwidth]; exact y.isLt)
  constructor
  · simp only [bankNew, eMinMax, hwidth, hint, Nat.mod_eq_of_lt y.isLt, Bool.false_eq_true, if_false, ← not_le, ite_not, apply_ite BitVec.toNat]
  · simp only [bankNew, eMinMax, hwidth, hint, Nat.mod_eq_of_lt y.isLt, Bool.false_eq_true, if_false, if_true, hmax, apply_ite BitVec.toNat]

/-! ### Barriers (spec/19 R361, R362) -/

/-- A barrier by its fields: phase, arrivals, reload and sectors. -/
def barrierWord (p a r n : Nat) : Nat := p + a * 2 ^ 4 + r * 2 ^ 24 + n * 2 ^ 44

section
variable (x : Nat)

theorem barrierNew_init (c : Nat) : barrierNew (.init c) x = (32, barrierWord (x % 16) (c % 2 ^ 20) (c % 2 ^ 20) 0) := by
  simp only [barrierNew, barrierWord, fld, bits]
  norm_num

/-- The other updates: what they leave of the arrivals and the sectors decides whether the phase ends. -/
def settled (x a n : Nat) : Nat :=
  if a = 0 ∧ n = 0 then barrierWord ((x % 16 + 1) % 16) (x / 2 ^ 24 % 2 ^ 20) (x / 2 ^ 24 % 2 ^ 20) 0
  else barrierWord (x % 16) a (x / 2 ^ 24 % 2 ^ 20) n

theorem barrierNew_arrive (c : Nat) :
    barrierNew (.arrive c) x = (16, settled x ((x / 2 ^ 4 % 2 ^ 20 + 2 ^ 20 - c % 2 ^ 20) % 2 ^ 20) (x / 2 ^ 44 % 2 ^ 32)) := by
  simp only [barrierNew, settled, barrierWord, fld, bits]
  norm_num
theorem barrierNew_expect (c : Nat) : barrierNew (.expect c) x = (16, settled x (x / 2 ^ 4 % 2 ^ 20) ((x / 2 ^ 44 % 2 ^ 32 + c) % 2 ^ 32)) := by
  simp only [barrierNew, settled, barrierWord, fld, bits]
  norm_num
theorem barrierNew_countdown (c : Nat) :
    barrierNew (.countdown c) x = (16, settled x (x / 2 ^ 4 % 2 ^ 20) ((x / 2 ^ 44 % 2 ^ 32 + 2 ^ 32 - c % 2 ^ 32) % 2 ^ 32)) := by
  simp only [barrierNew, settled, barrierWord, fld, bits]
  norm_num

end

/-- A field falls to zero where it was what is taken from it. -/
theorem sub_mod_eq_zero_iff {a c m : Nat} (ha : a < m) (hc : c < m) : (a + m - c) % m = 0 ↔ a = c := by
  constructor
  · intro h
    obtain ⟨q, hq⟩ := Nat.dvd_of_mod_eq_zero h
    have hlow : q ≠ 0 := by rintro rfl; omega
    have hhigh : q < 2 := by
      by_contra hq2
      have := Nat.mul_le_mul_left m (Nat.le_of_not_lt hq2)
      omega
    obtain rfl : q = 1 := by omega
    omega
  · rintro rfl
    rw [Nat.add_sub_cancel_left, Nat.mod_self]

/-- Settles O47: the words of each atomic, and a barrier's fields after each update. -/
theorem bankAndBarrierRules : Obligations.BankAndBarrierRules := by
  unfold Obligations.BankAndBarrierRules
  refine ⟨fun old y c ty hty => bankNew_word hty old y c, bankNew_long, fun old y c => ?order, fun u x => ⟨?init, ?arrive, ?expect, ?countdown⟩⟩
  case order =>
    obtain ⟨hmin, hmax⟩ := bankNew_order (ty := .i32) (by decide) old y c.toNat
    obtain ⟨hminU, hmaxU⟩ := bankNew_order (ty := .z32) (by decide) old y c.toNat
    simp only [bankFmt, intVal_i32, intVal_z32, Int.ofNat_le] at hmin hmax hminU hmaxU
    exact ⟨hmin, hmax, hminU, hmaxU⟩
  case init => rintro c rfl; exact barrierNew_init x c
  case arrive =>
    rintro c rfl hc
    rw [barrierNew_arrive, Nat.mod_eq_of_lt hc, settled]
    simp only [sub_mod_eq_zero_iff (Nat.mod_lt _ (Nat.two_pow_pos 20)) hc]
    rfl
  case expect => rintro c rfl; exact barrierNew_expect x c
  case countdown =>
    rintro c rfl hc
    rw [barrierNew_countdown, Nat.mod_eq_of_lt hc, settled]
    simp only [sub_mod_eq_zero_iff (Nat.mod_lt _ (Nat.two_pow_pos 32)) hc]
    rfl

end Sys2Proof.Machine
end
